-- ==== Sys2Proof/Word.lean ====
section
/-! DEFINITION. The word types of the part and their plainest arithmetic: a byte, a 64-bit scalar register,
a 32-bit instruction word. -/

namespace Sys2Proof

/-- A byte of memory. -/
abbrev Byte := BitVec 8

/-- A scalar register's 64 bits. -/
abbrev Word := BitVec 64

/-- An instruction word's 32 bits. -/
abbrev IWord := BitVec 32

end Sys2Proof
end

