-- ==== Sys2Proof/Syntax.lean ====
section
/-! DEFINITION. The rows of the spec's table of operations and events as one inductive (R280-R296 and
the event rows): an instruction word's constructor holds its fields at the widths of R281, an event's
constructor holds what names the agent and what the outside world supplies. -/

namespace Sys2Proof

/-- One operation or event of the part: one constructor per row of the opcode table. -/
inductive Instr where
  /-- ADD (R324). Adds two registers modulo 2^64. -/
  | add (d : BitVec 5) (a : BitVec 5) (b : BitVec 5)
  /-- SUB (R324). Subtracts two registers modulo 2^64. -/
  | sub (d : BitVec 5) (a : BitVec 5) (b : BitVec 5)
  /-- AND (R324). Bitwise AND. -/
  | and (d : BitVec 5) (a : BitVec 5) (b : BitVec 5)
  /-- OR (R324). Bitwise OR. -/
  | or (d : BitVec 5) (a : BitVec 5) (b : BitVec 5)
  /-- XOR (R324). Bitwise XOR. -/
  | xor (d : BitVec 5) (a : BitVec 5) (b : BitVec 5)
  /-- ANDN (R324). AND with the complement of the second source. -/
  | andn (d : BitVec 5) (a : BitVec 5) (b : BitVec 5)
  /-- ORN (R324). OR with the complement of the second source. -/
  | orn (d : BitVec 5) (a : BitVec 5) (b : BitVec 5)
  /-- SLL (R324). Shifts left by the low six bits of the second source. -/
  | sll (d : BitVec 5) (a : BitVec 5) (b : BitVec 5)
  /-- SRL (R324). Logical right shift. -/
  | srl (d : BitVec 5) (a : BitVec 5) (b : BitVec 5)
  /-- SRA (R324). Arithmetic right shift. -/
  | sra (d : BitVec 5) (a : BitVec 5) (b : BitVec 5)
  /-- ROT (R324). Rotates right. -/
  | rot (d : BitVec 5) (a : BitVec 5) (b : BitVec 5)
  /-- SLT (R324). Sets 1 if less, signed. -/
  | slt (d : BitVec 5) (a : BitVec 5) (b : BitVec 5)
  /-- SLTU (R324). Sets 1 if less, unsigned. -/
  | sltu (d : BitVec 5) (a : BitVec 5) (b : BitVec 5)
  /-- SEQ (R324). Sets 1 if equal. -/
  | seq (d : BitVec 5) (a : BitVec 5) (b : BitVec 5)
  /-- MIN (R324). Signed minimum. -/
  | min (d : BitVec 5) (a : BitVec 5) (b : BitVec 5)
  /-- MAX (R324). Signed maximum. -/
  | max (d : BitVec 5) (a : BitVec 5) (b : BitVec 5)
  /-- MINU (R324). Unsigned minimum. -/
  | minu (d : BitVec 5) (a : BitVec 5) (b : BitVec 5)
  /-- MAXU (R324). Unsigned maximum. -/
  | maxu (d : BitVec 5) (a : BitVec 5) (b : BitVec 5)
  /-- CSEL (R325). Selects x[a] or x[b] by whether condition register c is non-zero. -/
  | csel (d : BitVec 5) (a : BitVec 5) (b : BitVec 5) (c : BitVec 5)
  /-- MUL (R326). Low 64 bits of the product. -/
  | mul (d : BitVec 5) (a : BitVec 5) (b : BitVec 5)
  /-- MULH (R326). High 64 bits of the signed product. -/
  | mulh (d : BitVec 5) (a : BitVec 5) (b : BitVec 5)
  /-- MULHU (R326). High 64 bits of the unsigned product. -/
  | mulhu (d : BitVec 5) (a : BitVec 5) (b : BitVec 5)
  /-- DIV (R326). Signed quotient truncated towards zero, with fixed results for zero and overflow. -/
  | div (d : BitVec 5) (a : BitVec 5) (b : BitVec 5)
  /-- DIVU (R326). Unsigned quotient. -/
  | divu (d : BitVec 5) (a : BitVec 5) (b : BitVec 5)
  /-- REM (R326). Signed remainder. -/
  | rem (d : BitVec 5) (a : BitVec 5) (b : BitVec 5)
  /-- REMU (R326). Unsigned remainder. -/
  | remu (d : BitVec 5) (a : BitVec 5) (b : BitVec 5)
  /-- CLZ (R327). Counts leading zero bits. -/
  | clz (d : BitVec 5) (a : BitVec 5)
  /-- CTZ (R327). Counts trailing zero bits. -/
  | ctz (d : BitVec 5) (a : BitVec 5)
  /-- POPC (R327). Counts one bits. -/
  | popc (d : BitVec 5) (a : BitVec 5)
  /-- BSWAP (R327). Reverses byte order. -/
  | bswap (d : BitVec 5) (a : BitVec 5)
  /-- SEXT (R327). Sign-extends from bit n. -/
  | sext (d : BitVec 5) (a : BitVec 5) (n : BitVec 6)
  /-- ZEXT (R327). Zero-extends from bit n. -/
  | zext (d : BitVec 5) (a : BitVec 5) (n : BitVec 6)
  /-- BFX (R327). Extracts a bit field. -/
  | bfx (d : BitVec 5) (a : BitVec 5) (p : BitVec 6) (l : BitVec 6)
  /-- BFI (R327). Inserts a bit field into x[d]. -/
  | bfi (d : BitVec 5) (a : BitVec 5) (p : BitVec 6) (l : BitVec 6)
  /-- FADD (R332). Floating-point add, rounded once. -/
  | fadd (d : BitVec 5) (a : BitVec 5) (b : BitVec 5) (r : BitVec 3) (p : BitVec 1)
  /-- FSUB (R332). Floating-point subtract. -/
  | fsub (d : BitVec 5) (a : BitVec 5) (b : BitVec 5) (r : BitVec 3) (p : BitVec 1)
  /-- FMUL (R332). Floating-point multiply. -/
  | fmul (d : BitVec 5) (a : BitVec 5) (b : BitVec 5) (r : BitVec 3) (p : BitVec 1)
  /-- FDIV (R332). Floating-point divide. -/
  | fdiv (d : BitVec 5) (a : BitVec 5) (b : BitVec 5) (r : BitVec 3) (p : BitVec 1)
  /-- FSQRT (R332). Floating-point square root. -/
  | fsqrt (d : BitVec 5) (a : BitVec 5) (r : BitVec 3) (p : BitVec 1)
  /-- FMA (R332). Fused multiply-add into x[d], rounded once. -/
  | fma (d : BitVec 5) (a : BitVec 5) (b : BitVec 5) (r : BitVec 3) (p : BitVec 1)
  /-- FMIN (R332). Floating-point minimum under R313. -/
  | fmin (d : BitVec 5) (a : BitVec 5) (b : BitVec 5) (p : BitVec 1)
  /-- FMAX (R332). Floating-point maximum under R313. -/
  | fmax (d : BitVec 5) (a : BitVec 5) (b : BitVec 5) (p : BitVec 1)
  /-- FCMP (R333). Floating-point compare writing 1 or 0. -/
  | fcmp (d : BitVec 5) (a : BitVec 5) (b : BitVec 5) (c : BitVec 2) (p : BitVec 1)
  /-- FCVT (R334). Converts between floating-point and integer types. -/
  | fcvt (d : BitVec 5) (a : BitVec 5) (s : BitVec 3) (r : BitVec 3) (t : BitVec 3)
  /-- ADDI (R328). Adds a sign-extended immediate. -/
  | addi (d : BitVec 5) (a : BitVec 5) (i : BitVec 15)
  /-- ANDI (R328). AND with an immediate. -/
  | andi (d : BitVec 5) (a : BitVec 5) (i : BitVec 15)
  /-- ORI (R328). OR with an immediate. -/
  | ori (d : BitVec 5) (a : BitVec 5) (i : BitVec 15)
  /-- XORI (R328). XOR with an immediate. -/
  | xori (d : BitVec 5) (a : BitVec 5) (i : BitVec 15)
  /-- SLLI (R329). Shift left by a constant. -/
  | slli (d : BitVec 5) (a : BitVec 5) (n : BitVec 6)
  /-- SRLI (R329). Logical right shift by a constant. -/
  | srli (d : BitVec 5) (a : BitVec 5) (n : BitVec 6)
  /-- SRAI (R329). Arithmetic right shift by a constant. -/
  | srai (d : BitVec 5) (a : BitVec 5) (n : BitVec 6)
  /-- ROTI (R329). Rotate right by a constant. -/
  | roti (d : BitVec 5) (a : BitVec 5) (n : BitVec 6)
  /-- SLTI (R328). Sets 1 if less than the immediate, signed. -/
  | slti (d : BitVec 5) (a : BitVec 5) (i : BitVec 15)
  /-- SLTUI (R328). Sets 1 if less than the immediate, unsigned. -/
  | sltui (d : BitVec 5) (a : BitVec 5) (i : BitVec 15)
  /-- SEQI (R328). Sets 1 if equal to the immediate. -/
  | seqi (d : BitVec 5) (a : BitVec 5) (i : BitVec 15)
  /-- LHI (R330). Loads a sign-extended immediate times 2^15. -/
  | lhi (d : BitVec 5) (i : BitVec 20)
  /-- PCADD (R330). Adds an immediate times 2^15 to the PC. -/
  | pcadd (d : BitVec 5) (i : BitVec 20)
  /-- LB (R335). Loads a sign-extended byte. -/
  | lb (d : BitVec 5) (a : BitVec 5) (i : BitVec 15)
  /-- LBU (R335). Loads a zero-extended byte. -/
  | lbu (d : BitVec 5) (a : BitVec 5) (i : BitVec 15)
  /-- LH (R335). Loads a sign-extended half-word. -/
  | lh (d : BitVec 5) (a : BitVec 5) (i : BitVec 15)
  /-- LHU (R335). Loads a zero-extended half-word. -/
  | lhu (d : BitVec 5) (a : BitVec 5) (i : BitVec 15)
  /-- LW (R335). Loads a sign-extended word. -/
  | lw (d : BitVec 5) (a : BitVec 5) (i : BitVec 15)
  /-- LWU (R335). Loads a zero-extended word. -/
  | lwu (d : BitVec 5) (a : BitVec 5) (i : BitVec 15)
  /-- LD (R335). Loads 8 bytes. -/
  | ld (d : BitVec 5) (a : BitVec 5) (i : BitVec 15)
  /-- PREF (R338). Prefetches a line into L1 or the slice, with no architectural effect. -/
  | pref (k : BitVec 5) (a : BitVec 5) (i : BitVec 15)
  /-- SB (R335). Stores a byte. -/
  | sb (d : BitVec 5) (a : BitVec 5) (i : BitVec 15)
  /-- SH (R335). Stores a half-word. -/
  | sh (d : BitVec 5) (a : BitVec 5) (i : BitVec 15)
  /-- SW (R335). Stores a word. -/
  | sw (d : BitVec 5) (a : BitVec 5) (i : BitVec 15)
  /-- SD (R335). Stores 8 bytes. -/
  | sd (d : BitVec 5) (a : BitVec 5) (i : BitVec 15)
  /-- LDAQ (R339). Acquire load of 8 bytes at a scope. -/
  | ldaq (d : BitVec 5) (a : BitVec 5) (s : BitVec 3) (i : BitVec 12)
  /-- SDRL (R340). Release store of 8 bytes at a scope. -/
  | sdrl (d : BitVec 5) (a : BitVec 5) (s : BitVec 3) (i : BitVec 12)
  /-- JMP (R341). Jumps PC-relative. -/
  | jmp (o : BitVec 25)
  /-- JAL (R341). Jumps PC-relative and links in x1. -/
  | jal (o : BitVec 25)
  /-- JALR (R341). Jumps to a register plus offset and links in x[d]. -/
  | jalr (d : BitVec 5) (a : BitVec 5) (i : BitVec 15)
  /-- BC (R342). Branches when the compare condition holds. -/
  | bc (a : BitVec 5) (b : BitVec 5) (c : BitVec 3) (o : BitVec 12)
  /-- DBNZ (R343). Decrements x[d] and branches if non-zero. -/
  | dbnz (d : BitVec 5) (i : BitVec 20)
  /-- CSRR (R345). Reads a CSR. -/
  | csrr (d : BitVec 5) (c : BitVec 12)
  /-- CSRW (R345). Writes a CSR and returns its old value. -/
  | csrw (d : BitVec 5) (a : BitVec 5) (c : BitVec 12)
  /-- CSRS (R345). Sets CSR bits and returns the old value. -/
  | csrs (d : BitVec 5) (a : BitVec 5) (c : BitVec 12)
  /-- CSRC (R345). Clears CSR bits and returns the old value. -/
  | csrc (d : BitVec 5) (a : BitVec 5) (c : BitVec 12)
  /-- ECALL (R346). Traps CALL at A. -/
  | ecall
  /-- EBREAK (R346). Traps BRK at A. -/
  | ebreak
  /-- TRET (R347). Returns from a supervisor handler, replaying pending stores and the opaque block. -/
  | tret
  /-- ISYNC (R348). Invalidates the L1 instruction cache and refetches. -/
  | isync
  /-- FENCE_SV (R387). Orders earlier scalar accesses before later vector memory elements. -/
  | fenceSv
  /-- FENCE_VS (R387). Orders earlier vector memory entries before later scalar accesses. -/
  | fenceVs
  /-- FENCE_VV (R387). Places a marker ordering earlier vector memory entries before later ones. -/
  | fenceVv
  /-- FENCE (R386). Orders predecessor accesses before successor accesses at a scope. -/
  | fence (s : BitVec 3) (e : BitVec 1) (f : BitVec 1) (g : BitVec 1) (h : BitVec 1)
  /-- FMT (R296). Format prefix setting operand formats and scales for the next taker instruction. -/
  | fmt (a : BitVec 5) (b : BitVec 5) (d : BitVec 5) (k : BitVec 5) (l : BitVec 5)
  /-- AWAIT (R400). Waits until a beacon's count is below a threshold, suspending under a live mask. -/
  | await (d : BitVec 5) (a : BitVec 5) (b : BitVec 5)
  /-- AWAITQ (R400). AWAIT with the token in a staging register. -/
  | awaitq (d : BitVec 5) (a : BitVec 5) (b : BitVec 5)
  /-- YIELD (R401). Suspends and becomes ready at once. -/
  | yield (a : BitVec 5)
  /-- EXIT (R404). Returns from an inline child or ends the coroutine. -/
  | exit
  /-- SPAWN (R403). Creates a child on a reserved core, or runs it inline. -/
  | spawn (d : BitVec 5) (a : BitVec 5) (b : BitVec 5)
  /-- GBAR (R402). Gang barrier with release and acquire at cluster scope. -/
  | gbar (a : BitVec 5)
  /-- MIGRATE (R405). Moves the coroutine to a reserved core. -/
  | migrate (a : BitVec 5) (b : BitVec 5)
  /-- CRESUME (R407). Makes a faulted coroutine ready and signals its fault record. -/
  | cresume (a : BitVec 5)
  /-- CKILL (R408). Ends a ready, running, awaiting or faulted coroutine. -/
  | ckill (a : BitVec 5)
  /-- BEACON (R395). Allocates a beacon with an initial count and returns its token. -/
  | beacon (d : BitVec 5) (a : BitVec 5)
  /-- BFREE (R396). Frees a beacon and advances its generation. -/
  | bfree (a : BitVec 5)
  /-- BSET (R397). Sets a beacon's count and clears its error fields as a release. -/
  | bset (a : BitVec 5) (b : BitVec 5)
  /-- BSIG (R397). Decrements a beacon's count as a release. -/
  | bsig (a : BitVec 5) (b : BitVec 5)
  /-- BREAD (R398). Reads a beacon's count and error fields. -/
  | bread (d : BitVec 5) (a : BitVec 5)
  /-- AMOADD (R388). Atomic add. -/
  | amoadd (d : BitVec 5) (a : BitVec 5) (b : BitVec 5) (s : BitVec 3) (l : BitVec 1) (q : BitVec 1) (w : BitVec 1)
  /-- AMOAND (R388). Atomic AND. -/
  | amoand (d : BitVec 5) (a : BitVec 5) (b : BitVec 5) (s : BitVec 3) (l : BitVec 1) (q : BitVec 1) (w : BitVec 1)
  /-- AMOOR (R388). Atomic OR. -/
  | amoor (d : BitVec 5) (a : BitVec 5) (b : BitVec 5) (s : BitVec 3) (l : BitVec 1) (q : BitVec 1) (w : BitVec 1)
  /-- AMOXOR (R388). Atomic XOR. -/
  | amoxor (d : BitVec 5) (a : BitVec 5) (b : BitVec 5) (s : BitVec 3) (l : BitVec 1) (q : BitVec 1) (w : BitVec 1)
  /-- AMOMIN (R388). Atomic signed minimum. -/
  | amomin (d : BitVec 5) (a : BitVec 5) (b : BitVec 5) (s : BitVec 3) (l : BitVec 1) (q : BitVec 1) (w : BitVec 1)
  /-- AMOMAX (R388). Atomic signed maximum. -/
  | amomax (d : BitVec 5) (a : BitVec 5) (b : BitVec 5) (s : BitVec 3) (l : BitVec 1) (q : BitVec 1) (w : BitVec 1)
  /-- AMOMINU (R388). Atomic unsigned minimum. -/
  | amominu (d : BitVec 5) (a : BitVec 5) (b : BitVec 5) (s : BitVec 3) (l : BitVec 1) (q : BitVec 1) (w : BitVec 1)
  /-- AMOMAXU (R388). Atomic unsigned maximum. -/
  | amomaxu (d : BitVec 5) (a : BitVec 5) (b : BitVec 5) (s : BitVec 3) (l : BitVec 1) (q : BitVec 1) (w : BitVec 1)
  /-- AMOSWP (R388). Atomic swap. -/
  | amoswp (d : BitVec 5) (a : BitVec 5) (b : BitVec 5) (s : BitVec 3) (l : BitVec 1) (q : BitVec 1) (w : BitVec 1)
  /-- AMOCAS (R388). Atomic compare-and-swap. -/
  | amocas (d : BitVec 5) (a : BitVec 5) (b : BitVec 5) (s : BitVec 3) (l : BitVec 1) (q : BitVec 1) (w : BitVec 1)
  /-- AMOINCW (R388). Atomic increment wrapping to 0 at a bound. -/
  | amoincw (d : BitVec 5) (a : BitVec 5) (b : BitVec 5) (s : BitVec 3) (l : BitVec 1) (q : BitVec 1) (w : BitVec 1)
  /-- AMOADDB (R388). Atomic add saturating at a bound. -/
  | amoaddb (d : BitVec 5) (a : BitVec 5) (b : BitVec 5) (s : BitVec 3) (l : BitVec 1) (q : BitVec 1) (w : BitVec 1)
  /-- LR (R390). Load-reserved adding the line to the reservation set. -/
  | lr (d : BitVec 5) (a : BitVec 5) (s : BitVec 3) (q : BitVec 1) (w : BitVec 1)
  /-- SC (R390). Store-conditional succeeding under R202. -/
  | sc (d : BitVec 5) (a : BitVec 5) (b : BitVec 5) (s : BitVec 3) (l : BitVec 1) (q : BitVec 1) (w : BitVec 1)
  /-- WAITRS (R391). Suspends until another observer writes a reserved line. -/
  | waitrs (a : BitVec 5)
  /-- VADD (R360). Elementwise add. -/
  | vadd (d : BitVec 5) (a : BitVec 5) (b : BitVec 5) (c : BitVec 1) (e : BitVec 1) (m : BitVec 3)
  /-- VSUB (R360). Elementwise subtract. -/
  | vsub (d : BitVec 5) (a : BitVec 5) (b : BitVec 5) (c : BitVec 1) (e : BitVec 1) (m : BitVec 3)
  /-- VMUL (R360). Elementwise multiply low. -/
  | vmul (d : BitVec 5) (a : BitVec 5) (b : BitVec 5) (c : BitVec 1) (e : BitVec 1) (m : BitVec 3)
  /-- VMULH (R360). Elementwise signed multiply high. -/
  | vmulh (d : BitVec 5) (a : BitVec 5) (b : BitVec 5) (c : BitVec 1) (e : BitVec 1) (m : BitVec 3)
  /-- VMAC (R360). Elementwise multiply-accumulate. -/
  | vmac (d : BitVec 5) (a : BitVec 5) (b : BitVec 5) (c : BitVec 1) (e : BitVec 1) (m : BitVec 3)
  /-- VMIN (R360). Elementwise signed minimum. -/
  | vmin (d : BitVec 5) (a : BitVec 5) (b : BitVec 5) (c : BitVec 1) (e : BitVec 1) (m : BitVec 3)
  /-- VMAX (R360). Elementwise signed maximum. -/
  | vmax (d : BitVec 5) (a : BitVec 5) (b : BitVec 5) (c : BitVec 1) (e : BitVec 1) (m : BitVec 3)
  /-- VMINU (R360). Elementwise unsigned minimum. -/
  | vminu (d : BitVec 5) (a : BitVec 5) (b : BitVec 5) (c : BitVec 1) (e : BitVec 1) (m : BitVec 3)
  /-- VMAXU (R360). Elementwise unsigned maximum. -/
  | vmaxu (d : BitVec 5) (a : BitVec 5) (b : BitVec 5) (c : BitVec 1) (e : BitVec 1) (m : BitVec 3)
  /-- VSADD (R360). Elementwise saturating add. -/
  | vsadd (d : BitVec 5) (a : BitVec 5) (b : BitVec 5) (c : BitVec 1) (e : BitVec 1) (m : BitVec 3)
  /-- VSSUB (R360). Elementwise saturating subtract. -/
  | vssub (d : BitVec 5) (a : BitVec 5) (b : BitVec 5) (c : BitVec 1) (e : BitVec 1) (m : BitVec 3)
  /-- VABS (R360). Elementwise absolute value. -/
  | vabs (d : BitVec 5) (a : BitVec 5) (c : BitVec 1) (m : BitVec 3)
  /-- VAND (R360). Elementwise AND. -/
  | vand (d : BitVec 5) (a : BitVec 5) (b : BitVec 5) (c : BitVec 1) (e : BitVec 1) (m : BitVec 3)
  /-- VOR (R360). Elementwise OR. -/
  | vor (d : BitVec 5) (a : BitVec 5) (b : BitVec 5) (c : BitVec 1) (e : BitVec 1) (m : BitVec 3)
  /-- VXOR (R360). Elementwise XOR. -/
  | vxor (d : BitVec 5) (a : BitVec 5) (b : BitVec 5) (c : BitVec 1) (e : BitVec 1) (m : BitVec 3)
  /-- VSLL (R360). Elementwise shift left. -/
  | vsll (d : BitVec 5) (a : BitVec 5) (b : BitVec 5) (c : BitVec 1) (e : BitVec 1) (m : BitVec 3)
  /-- VSRL (R360). Elementwise logical right shift. -/
  | vsrl (d : BitVec 5) (a : BitVec 5) (b : BitVec 5) (c : BitVec 1) (e : BitVec 1) (m : BitVec 3)
  /-- VSRA (R360). Elementwise arithmetic right shift. -/
  | vsra (d : BitVec 5) (a : BitVec 5) (b : BitVec 5) (c : BitVec 1) (e : BitVec 1) (m : BitVec 3)
  /-- VCMP (R363). Integer compare writing mask bits. -/
  | vcmp (d : BitVec 5) (a : BitVec 5) (b : BitVec 5) (c : BitVec 1) (e : BitVec 1) (o : BitVec 3)
  /-- VMERGE (R364). Selects elements of va or vb by a mask. -/
  | vmerge (d : BitVec 5) (a : BitVec 5) (b : BitVec 5) (c : BitVec 1) (e : BitVec 1) (m : BitVec 3)
  /-- VFADD (R361). Elementwise floating-point add. -/
  | vfadd (d : BitVec 5) (a : BitVec 5) (b : BitVec 5) (c : BitVec 1) (e : BitVec 1) (m : BitVec 3)
  /-- VFSUB (R361). Elementwise floating-point subtract. -/
  | vfsub (d : BitVec 5) (a : BitVec 5) (b : BitVec 5) (c : BitVec 1) (e : BitVec 1) (m : BitVec 3)
  /-- VFMUL (R361). Elementwise floating-point multiply. -/
  | vfmul (d : BitVec 5) (a : BitVec 5) (b : BitVec 5) (c : BitVec 1) (e : BitVec 1) (m : BitVec 3)
  /-- VFMA (R361). Elementwise fused multiply-add. -/
  | vfma (d : BitVec 5) (a : BitVec 5) (b : BitVec 5) (c : BitVec 1) (e : BitVec 1) (m : BitVec 3)
  /-- VFNMA (R361). Elementwise fused negative multiply-add. -/
  | vfnma (d : BitVec 5) (a : BitVec 5) (b : BitVec 5) (c : BitVec 1) (e : BitVec 1) (m : BitVec 3)
  /-- VFMIN (R361). Elementwise floating-point minimum. -/
  | vfmin (d : BitVec 5) (a : BitVec 5) (b : BitVec 5) (c : BitVec 1) (e : BitVec 1) (m : BitVec 3)
  /-- VFMAX (R361). Elementwise floating-point maximum. -/
  | vfmax (d : BitVec 5) (a : BitVec 5) (b : BitVec 5) (c : BitVec 1) (e : BitVec 1) (m : BitVec 3)
  /-- VFDIV (R361). Elementwise floating-point divide. -/
  | vfdiv (d : BitVec 5) (a : BitVec 5) (b : BitVec 5) (c : BitVec 1) (e : BitVec 1) (m : BitVec 3)
  /-- VFSQRT (R361). Elementwise square root. -/
  | vfsqrt (d : BitVec 5) (a : BitVec 5) (c : BitVec 1) (m : BitVec 3)
  /-- VFRSQ (R361). Elementwise reciprocal square root. -/
  | vfrsq (d : BitVec 5) (a : BitVec 5) (c : BitVec 1) (m : BitVec 3)
  /-- VFEXP2 (R361). Elementwise power of two. -/
  | vfexp2 (d : BitVec 5) (a : BitVec 5) (c : BitVec 1) (m : BitVec 3)
  /-- VFSGN (R361). Elementwise sign injection. -/
  | vfsgn (d : BitVec 5) (a : BitVec 5) (b : BitVec 5) (c : BitVec 1) (e : BitVec 1) (m : BitVec 3)
  /-- VFCMP (R363). Floating-point compare writing mask bits. -/
  | vfcmp (d : BitVec 5) (a : BitVec 5) (b : BitVec 5) (c : BitVec 1) (e : BitVec 1) (o : BitVec 2)
  /-- VFCVT (R362). Elementwise format conversion of kind k. -/
  | vfcvt (d : BitVec 5) (a : BitVec 5) (c : BitVec 1) (m : BitVec 3) (k : BitVec 3)
  /-- VREDSUM (R367). Integer sum reduction. -/
  | vredsum (d : BitVec 5) (a : BitVec 5) (b : BitVec 5) (c : BitVec 1) (e : BitVec 1) (m : BitVec 3)
  /-- VREDMAX (R367). Signed maximum reduction. -/
  | vredmax (d : BitVec 5) (a : BitVec 5) (b : BitVec 5) (c : BitVec 1) (e : BitVec 1) (m : BitVec 3)
  /-- VREDMIN (R367). Signed minimum reduction. -/
  | vredmin (d : BitVec 5) (a : BitVec 5) (b : BitVec 5) (c : BitVec 1) (e : BitVec 1) (m : BitVec 3)
  /-- VFREDSUM (R322). Floating-point sum reduction by a fixed pairwise tree. -/
  | vfredsum (d : BitVec 5) (a : BitVec 5) (b : BitVec 5) (c : BitVec 1) (e : BitVec 1) (m : BitVec 3)
  /-- VFREDMAX (R367). Floating-point maximum reduction. -/
  | vfredmax (d : BitVec 5) (a : BitVec 5) (b : BitVec 5) (c : BitVec 1) (e : BitVec 1) (m : BitVec 3)
  /-- VFREDMIN (R367). Floating-point minimum reduction. -/
  | vfredmin (d : BitVec 5) (a : BitVec 5) (b : BitVec 5) (c : BitVec 1) (e : BitVec 1) (m : BitVec 3)
  /-- VSLIDEUP (R368). Slides elements up by a scalar offset. -/
  | vslideup (d : BitVec 5) (a : BitVec 5) (b : BitVec 5) (c : BitVec 1) (m : BitVec 3)
  /-- VSLIDEDN (R368). Slides elements down by a scalar offset. -/
  | vslidedn (d : BitVec 5) (a : BitVec 5) (b : BitVec 5) (c : BitVec 1) (m : BitVec 3)
  /-- VGATHER (R368). Gathers elements by index. -/
  | vgather (d : BitVec 5) (a : BitVec 5) (b : BitVec 5) (c : BitVec 1) (e : BitVec 1) (m : BitVec 3)
  /-- VCOMPRESS (R369). Packs the mask-selected elements. -/
  | vcompress (d : BitVec 5) (a : BitVec 5) (c : BitVec 1) (m : BitVec 3)
  /-- VSCAN (R369). Inclusive prefix sum. -/
  | vscan (d : BitVec 5) (a : BitVec 5) (c : BitVec 1) (m : BitVec 3)
  /-- VTOPKI (R371). Sets the top-k capacity and empties the buffer. -/
  | vtopki (a : BitVec 5)
  /-- VTOPK (R372). Streams score and index pairs into the top-k buffer. -/
  | vtopk (a : BitVec 5) (b : BitVec 5) (c : BitVec 1) (e : BitVec 1) (m : BitVec 3)
  /-- VTOPKR (R373). Reads the buffer's indices in ascending order. -/
  | vtopkr (d : BitVec 5) (a : BitVec 5)
  /-- VMAND (R365). Mask AND. -/
  | vmand (d : BitVec 5) (a : BitVec 5) (b : BitVec 5)
  /-- VMOR (R365). Mask OR. -/
  | vmor (d : BitVec 5) (a : BitVec 5) (b : BitVec 5)
  /-- VMXOR (R365). Mask XOR. -/
  | vmxor (d : BitVec 5) (a : BitVec 5) (b : BitVec 5)
  /-- VMNOT (R365). Mask NOT. -/
  | vmnot (d : BitVec 5) (a : BitVec 5)
  /-- VMPOPC (R365). Counts set mask bits below VL. -/
  | vmpopc (d : BitVec 5) (a : BitVec 5)
  /-- VMFIRST (R365). Finds the lowest set mask bit below VL. -/
  | vmfirst (d : BitVec 5) (a : BitVec 5)
  /-- VMVX (R366). Broadcasts a scalar into a vector register. -/
  | vmvx (d : BitVec 5) (a : BitVec 5) (m : BitVec 3)
  /-- VMVS (R366). Moves one element to a scalar register. -/
  | vmvs (d : BitVec 5) (a : BitVec 5) (b : BitVec 5) (c : BitVec 1)
  /-- VID (R366). Writes the element indices. -/
  | vid (d : BitVec 5) (m : BitVec 3)
  /-- VSHAPE (R366). Copies a register into a general block. -/
  | vshape (d : BitVec 5) (a : BitVec 5) (c : BitVec 1) (m : BitVec 3)
  /-- VROPE (R375). Rotates element pairs by rotary position angles. -/
  | vrope (d : BitVec 5) (a : BitVec 5) (b : BitVec 5) (c : BitVec 1) (e : BitVec 1) (m : BitVec 3)
  /-- VSCLD (R376). Loads scale registers from memory. -/
  | vscld (k : BitVec 5) (a : BitVec 5) (b : BitVec 5)
  /-- VSCST (R376). Stores scale registers to memory. -/
  | vscst (k : BitVec 5) (a : BitVec 5) (b : BitVec 5)
  /-- VSETL (R354). Sets VTYPE and the vector length. -/
  | vsetl (d : BitVec 5) (a : BitVec 5) (t : BitVec 8)
  /-- VSETLG (R355). Sets VTYPE and the vector length through the gang's length grant. -/
  | vsetlg (d : BitVec 5) (a : BitVec 5) (t : BitVec 8)
  /-- KVSETRUN (R431). Walks a KV position and returns the run of contiguous tokens. -/
  | kvsetrun (d : BitVec 5) (a : BitVec 5) (b : BitVec 5)
  /-- MOPA (R422). Adds the outer product of two vectors into a slot. -/
  | mopa (s : BitVec 4) (a : BitVec 5) (b : BitVec 5) (c : BitVec 1) (e : BitVec 1) (m : BitVec 3)
  /-- VLD (R377). Unit-stride vector load. -/
  | vld (d : BitVec 5) (a : BitVec 5) (h : BitVec 2) (o : BitVec 1) (n : BitVec 1) (m : BitVec 3) (e : BitVec 2)
  /-- VLDS (R377). Strided vector load. -/
  | vlds (d : BitVec 5) (a : BitVec 5) (s : BitVec 5) (o : BitVec 1) (n : BitVec 1) (m : BitVec 3) (e : BitVec 2)
  /-- VLDX (R377). Indexed vector load. -/
  | vldx (d : BitVec 5) (a : BitVec 5) (s : BitVec 5) (o : BitVec 1) (n : BitVec 1) (m : BitVec 3) (e : BitVec 2)
  /-- VLDFF (R381). Fault-only-first vector load that shortens VL. -/
  | vldff (d : BitVec 5) (a : BitVec 5) (h : BitVec 2) (o : BitVec 1) (n : BitVec 1) (m : BitVec 3) (e : BitVec 2)
  /-- VST (R377). Unit-stride vector store. -/
  | vst (d : BitVec 5) (a : BitVec 5) (h : BitVec 2) (o : BitVec 1) (n : BitVec 1) (m : BitVec 3) (e : BitVec 2)
  /-- VSTS (R377). Strided vector store. -/
  | vsts (d : BitVec 5) (a : BitVec 5) (s : BitVec 5) (o : BitVec 1) (n : BitVec 1) (m : BitVec 3) (e : BitVec 2)
  /-- VSTX (R377). Indexed vector store. -/
  | vstx (d : BitVec 5) (a : BitVec 5) (s : BitVec 5) (o : BitVec 1) (n : BitVec 1) (m : BitVec 3) (e : BitVec 2)
  /-- VLDT (R382). Loads a tile row into a vector register. -/
  | vldt (d : BitVec 5) (t : BitVec 5) (r : BitVec 5) (m : BitVec 3)
  /-- VSTT (R382). Stores a vector register into a tile row. -/
  | vstt (d : BitVec 5) (t : BitVec 5) (r : BitVec 5) (m : BitVec 3)
  /-- VLDTT (R382). Loads a tile column into a vector register. -/
  | vldtt (d : BitVec 5) (t : BitVec 5) (r : BitVec 5) (m : BitVec 3)
  /-- VLDKV (R432). Loads one head's K or V elements at a KV position. -/
  | vldkv (d : BitVec 5) (a : BitVec 5) (s : BitVec 5) (o : BitVec 1) (n : BitVec 1) (m : BitVec 3) (h : BitVec 1)
  /-- VSTKV (R432). Stores one head's K or V elements at a KV position. -/
  | vstkv (d : BitVec 5) (a : BitVec 5) (s : BitVec 5) (o : BitVec 1) (n : BitVec 1) (m : BitVec 3) (h : BitVec 1)
  /-- CPY (R427). Copies n bytes. -/
  | cpy (a : BitVec 5) (b : BitVec 5)
  /-- CPY2D (R427). Copies h rows of n bytes with strides. -/
  | cpy2d (a : BitVec 5) (b : BitVec 5)
  /-- CPYF (R427). Fills n bytes with a pattern. -/
  | cpyf (a : BitVec 5) (b : BitVec 5)
  /-- CPYSH (R428). Copies into the back frame of a shadow pair. -/
  | cpysh (a : BitVec 5) (b : BitVec 5)
  /-- PUBLISH (R428). Flips a shadow pair's front frame everywhere. -/
  | publish (a : BitVec 5)
  /-- CPYMM (R429). Copies and then runs a follow-on matrix command. -/
  | cpymm (a : BitVec 5) (b : BitVec 5)
  /-- ROWCOPY (R430). Copies stripes in the HBM4E array or by fallback. -/
  | rowcopy (a : BitVec 5) (b : BitVec 5)
  /-- ROWFILL (R430). Fills stripes with a pattern. -/
  | rowfill (a : BitVec 5) (b : BitVec 5)
  /-- TCFG (R414). Configures a tile's format, rows and columns. -/
  | tcfg (a : BitVec 5) (b : BitVec 5)
  /-- TSTATE (R415). Reads a tile's configuration and state. -/
  | tstate (a : BitVec 5) (t : BitVec 5)
  /-- MSHAPE (R416). Sets the MMAG group row counts and returns their sum. -/
  | mshape (a : BitVec 5) (b : BitVec 5)
  /-- MMA (R420). Accumulates a tile product into a slot. -/
  | mma (a : BitVec 5) (b : BitVec 5) (s : BitVec 4)
  /-- MMAG (R421). Grouped products with ragged row counts. -/
  | mmag (a : BitVec 5) (b : BitVec 5) (s : BitVec 4)
  /-- MMROT (R423). Product followed by rotation of its tiles west and north. -/
  | mmrot (a : BitVec 5) (b : BitVec 5) (s : BitVec 4)
  /-- MSWAP (R424). Exchanges a tile with the mirror cluster. -/
  | mswap (a : BitVec 5)
  /-- MACQ (R418). Acquires and zeroes an accumulator slot in a format. -/
  | macq (a : BitVec 5) (s : BitVec 4)
  /-- MREL (R419). Releases a slot. -/
  | mrel (s : BitVec 4)
  /-- MDRAIN (R425). Converts a slot into a tile. -/
  | mdrain (a : BitVec 5) (s : BitVec 4)
  /-- MFILL (R425). Converts a tile into a slot. -/
  | mfill (a : BitVec 5) (s : BitVec 4)
  /-- MZERO (R419). Zeroes a slot keeping its flags. -/
  | mzero (s : BitVec 4)
  /-- MRECLAIM (R419). Reclaims an orphaned slot. -/
  | mreclaim (s : BitVec 4)
  /-- MSTAT (R419). Reads a slot's flags, state and format. -/
  | mstat (a : BitVec 5) (s : BitVec 4)
  /-- KVMAP (R433). Maps a KV block to a frame. -/
  | kvmap (a : BitVec 5) (b : BitVec 5)
  /-- KVUNMAP (R433). Unmaps a KV block. -/
  | kvunmap (a : BitVec 5) (b : BitVec 5)
  /-- KVLOOK (R433). Returns the frame of a KV block. -/
  | kvlook (a : BitVec 5) (b : BitVec 5)
  /-- KVVER (R433). Creates a chart version for a step. -/
  | kvver (a : BitVec 5) (b : BitVec 5)
  /-- KVRET (R127). Retires superseded versions and returns their frames. -/
  | kvret (a : BitVec 5) (b : BitVec 5)
  /-- KVHASH (R433). Returns the home index of a pooled key. -/
  | kvhash (a : BitVec 5) (b : BitVec 5)
  /-- KVALLOC (R433). Takes a frame from the free ring. -/
  | kvalloc (a : BitVec 5) (b : BitVec 5)
  /-- KVFREE (R433). Returns a frame to the free ring. -/
  | kvfree (a : BitVec 5) (b : BitVec 5)
  /-- KVPIN (R433). Increments a pooled entry's pin count. -/
  | kvpin (a : BitVec 5) (b : BitVec 5)
  /-- KVUNPIN (R433). Decrements a pooled entry's pin count. -/
  | kvunpin (a : BitVec 5) (b : BitVec 5)
  /-- KVAPPEND (R434). Ensures a block is mapped for each list entry. -/
  | kvappend (a : BitVec 5) (b : BitVec 5)
  /-- NPUT (R435). Writes local bytes to a remote window. -/
  | nput (a : BitVec 5) (b : BitVec 5)
  /-- NGET (R435). Reads remote bytes into local memory. -/
  | nget (a : BitVec 5) (b : BitVec 5)
  /-- NAMO (R436). Performs an atomic at a remote home slice. -/
  | namo (a : BitVec 5) (b : BitVec 5)
  /-- NSIG (R435). Signals a remote beacon after earlier puts are acknowledged. -/
  | nsig (a : BitVec 5) (b : BitVec 5)
  /-- NSEND (R63). Issues an Ultra Ethernet work request. -/
  | nsend (a : BitVec 5)
  /-- ESET (R409). Copies a scalar into a staging register. -/
  | eset (a : BitVec 5) (c : BitVec 4)
  /-- EGET (R409). Copies a staging register into a scalar. -/
  | eget (a : BitVec 5) (c : BitVec 4)
  /-- DISPATCH (R165). A core chooses the ready coroutine of highest level and earliest ready time and runs it. -/
  | dispatch (core : BitVec 9)
  /-- VECTOR_ENTRY_COMPLETE (R235). A vector command queue entry completes its last element group or element access. -/
  | vectorEntryComplete (core : BitVec 9)
  /-- STORE_ACCEPT (R197). A buffered store is translated at its slice and accepted, leaving the store buffer. -/
  | storeAccept (core : BitVec 9) (idx : BitVec 5)
  /-- LAUNCH_RECORD (R81). The device takes a launch record from a queue, runs the taking checks and gives it a launch id, or rejects it. -/
  | launchRecord (q : BitVec 6)
  /-- LAUNCH_START (R81). Once every wait token has count at most 0, the launch's code object and kernel are checked at the start phase. -/
  | launchStart (lid : BitVec 32)
  /-- LAUNCH_ADMIT (R160). A launch that passed its start phase is admitted to its running partition and takes the lowest free launch slot. -/
  | launchAdmit (p : BitVec 7)
  /-- GANG_PLACE (R161). The next gang of an admitted launch is placed on the fitting cluster with the fewest live coroutines. -/
  | gangPlace (lid : BitVec 32)
  /-- KV_COMMAND_RUN (R133). The astrolabe performs an asynchronous KV command's serial table step, invalidates KV-TLBs and signals its beacon. -/
  | kvCommandRun (cluster : BitVec 7)
  /-- COPY_PIECE (R250). The copy engine translates and performs one piece of a copy command, stalling on a fault record or completing the command. -/
  | copyPiece (cluster : BitVec 7) (idx : BitVec 4) (off : BitVec 80)
  /-- DOME_COMMAND_START (R244). When the dome is free it takes the next matrix command round-robin from the queue heads whose waits are met. -/
  | domeCommandStart (cluster : BitVec 7)
  /-- POWER_GOOD (R17). At power-good the keep trains the host link and the lantern runs boot stages 0x01 to 0x08, ending with READY and the device-ready event. -/
  | powerGood
  /-- FUNCTION_LEVEL_RESET (R97). A function-level reset kills every launch and coroutine, disables every partition, clears beacon tables and spill regions, and resets the host-interface registers. -/
  | functionLevelReset
  /-- POWER_WINDOW (R11). At the end of each 1 ms window the lantern updates the power level, the die and HBM thermal levels and PKG_THROTTLE.LEVEL. -/
  | powerWindow (mw : BitVec 32)
  /-- THERMAL_WARN (R24). A sensor reaches its warning temperature, sets WARN and becomes warm. -/
  | thermalWarn (n : BitVec 4) (temp : BitVec 16)
  /-- THERMAL_TRIP (R24). A sensor reaches its trip temperature, sets TRIP and forces throttle level 15. -/
  | thermalTrip (n : BitVec 4) (temp : BitVec 16)
  /-- THERMAL_SHUTDOWN (R24). A sensor still at or above trip 100 ms after tripping stops every clock outside the keep and posts a thermal-shutdown event. -/
  | thermalShutdown (n : BitVec 4)
  /-- POWER_STATE_ENTER (R13). An idle unit enters the highest-coded power state whose exit latency fits its governing tolerance. -/
  | powerStateEnter (unit : BitVec 8)
  /-- UNIT_WAKE (R14). A wake event returns a unit to state 0 within its exit latency, and held accesses then complete. -/
  | unitWake (unit : BitVec 8)
  /-- PART_PWRTOL_WRITE (R13). A host write of a partition's latency tolerance changes which power states its units may hold, and wakes units whose latency now exceeds it. -/
  | partPwrtolWrite (p : BitVec 7) (v : BitVec 32)
  /-- CONTROL_REGISTER_WRITE (R6). A host write to a control-BAR register without behaviour of its own stores its writable fields according to the access codes. -/
  | controlRegisterWrite (off : BitVec 22) (wide : Bool) (v : BitVec 64)
  /-- HQ_CFG_WRITE (R78). A write to HQ_CFG enables or stops a host launch queue; enabling resets HEAD and TAIL. -/
  | hqCfgWrite (q : BitVec 6) (v : BitVec 32)
  /-- HQ_TAIL_WRITE (R79). A doorbell write to HQ_TAIL adds records to the queue, or is ignored and sets ERR. -/
  | hqTailWrite (q : BitVec 6) (v : BitVec 32)
  /-- SIGNAL_RECORD (R83). The device takes a signal record and decrements its token's count as a package-scope release, or posts a signal-error event. -/
  | signalRecord (q : BitVec 6)
  /-- TERMINATION_SWEEP (R173). A sweep samples the counter sets of the partition's cores and ends every launch whose flag and sums qualify over two sweeps. -/
  | terminationSweep (p : BitVec 7)
  /-- EVQ_CTL_WRITE (R89). A write to EVQ_CTL enables or disables the event ring, resetting HEAD, TAIL and phase on enable. -/
  | evqCtlWrite (v : BitVec 32)
  /-- EVQ_HEAD_WRITE (R91). A host write to EVQ_HEAD frees ring entries, so the pilot accepts held events. -/
  | evqHeadWrite (v : BitVec 32)
  /-- EVQ_IRQ_TIMER (R89). The USEC timer expires with entries unsignalled, and the event vector is sent. -/
  | evqIrqTimer
  /-- FW_STAGE_IMAGE (R95). FW_CMD operation 1 reads an image by DMA, checks signature, SVN and version, and writes it to the inactive slot. -/
  | fwStageImage
  /-- FW_ATTEST (R96). FW_CMD operation 3 reads a nonce and writes a signed 320-byte attestation report. -/
  | fwAttest
  /-- FW_READ_CERT (R96). FW_CMD operation 4 writes the identity certificate to the buffer and its length to FW_LEN. -/
  | fwReadCert
  /-- FW_COMMAND_DONE (R94). A running firmware or attestation command finishes, writes RESULT and clears BUSY. -/
  | fwCommandDone
  /-- FAQ_POP (R44). A write of 1 to FAQ_POP discards the head entry of a spire's fault-address queue. -/
  | faqPop (d : BitVec 2) (v : BitVec 32)
  /-- MEM_RETIRE (R47). A write to MEM_RETIRE starts retirement of a 2 MiB frame: recall, invalidation and bitmap set as its outcome requires. -/
  | memRetire (v : BitVec 32)
  /-- MEM_RETIRE_DONE (R47). The last retirement step finishes, BUSY clears and the pilot posts a retirement event. -/
  | memRetireDone
  /-- PATROL_SCRUB (R32). The patrol scrubber reads a line, rewrites a corrected error in place or handles an uncorrectable one. -/
  | patrolScrub (line : BitVec 48) (found : BitVec 3) (sect : BitVec 1)
  /-- CXL_TIMEOUT (R40). A CXL.mem request without completion for 1 ms completes with poisoned data and a kind-5 queue entry. -/
  | cxlTimeout (pa : BitVec 48)
  /-- CXL_PORT_DOWN (R40). A CXL port goes down while running; its outstanding requests complete poisoned and later translations fault unmapped. -/
  | cxlPortDown (port : BitVec 2)
  /-- PART_ENABLE (R158). Writing EN from 0 to 1 enables a partition, allocates its spire fault beacons and starts its supervisor coroutines. -/
  | partEnable (p : BitVec 7)
  /-- PART_DISABLE (R158). Writing EN from 1 to 0 ends every coroutine and launch of the partition with KILLED, or abandons a saved image. -/
  | partDisable (p : BitVec 7)
  /-- PART_RESUME (R178). PART_CTL operation 1 re-injects drop-off messages and returns parked coroutines to their prior states. -/
  | partResume (p : BitVec 7)
  /-- PART_SAVE (R179). PART_CTL operation 2 writes the partition's save image at PART_SAVE and frees its clusters. -/
  | partSave (p : BitVec 7)
  /-- PART_RESTORE (R179). PART_CTL operation 3 restores a saved image onto the new cluster mask, rewriting cluster numbers. -/
  | partRestore (p : BitVec 7)
  /-- PART_SEAL (R277). PART_CTL operation 4 checks every tag of a saved image, then sets SEALED and writes DIGEST and SIG. -/
  | partSeal (p : BitVec 7)
  /-- PART_ADOPT (R277). PART_CTL operation 5 verifies a sealed image, retags its sections and takes the partition to state 5. -/
  | partAdopt (p : BitVec 7)
  /-- PART_OP_COMPLETE (R179). A save or restore finishes its state transition and signals PART_STOPTOK. -/
  | partOpComplete (p : BitVec 7)
  /-- PART_BELL_WRITE (R174). A write to PART_BELL or the BELL CSR stores, clamps or cancels the partition's bell time. -/
  | partBellWrite (p : BitVec 7) (v : BitVec 64)
  /-- BELL_TIME (R175). TIME reaches the bell time: every core of the partition stops dispatch and the partition enters stopping. -/
  | bellTime (p : BitVec 7)
  /-- PART_STOP_COMPLETE (R175). Every part of a stopping partition has finished, so STATE becomes 3, PART_SAVELEN is valid and PART_STOPTOK is signalled. -/
  | partStopComplete (p : BitVec 7)
  /-- UAL_NODE_WRITE (R54). A write to UAL_NODE sets the node number, and is ignored while any launch is live. -/
  | ualNodeWrite (v : BitVec 32)
  /-- UAL_MAP_WRITE (R56). A write to a node map entry redirects commands issued 10 us or more after it. -/
  | ualMapWrite (n : BitVec 10) (v : BitVec 32)
  /-- WINDOW_ACCESS (R53). A host access through the on-chip window reads or writes a tile, slot or beacon table, or fails with Unsupported Request. -/
  | windowAccess (write : Bool) (off : BitVec 33) (size : BitVec 13) (v : List (BitVec 8))
  /-- LINK_FAULT (R69). A UALink link fault triggers replay and retraining, and on failure clears UP and posts a port-down event. -/
  | linkFault (port : BitVec 3) (recovered : Bool)
  /-- NETWORK_PIECE_SEND (R58). The network engine sends one piece of a queued network command towards its node. -/
  | networkPieceSend (cluster : BitVec 7) (idx : BitVec 6)
  /-- REMOTE_PIECE_RECEIVE (R58). A target serves one remote piece through its export window checks and translation, and acknowledges with a status. -/
  | remotePieceReceive (kind : BitVec 2) (addr : BitVec 64) (op : BitVec 5) (u : BitVec 64) (data : List (BitVec 8))
  /-- REMOTE_ACK (R60). An acknowledgement of a piece arrives; when every piece is done the command's local beacon is signalled with its status. -/
  | remoteAck (cluster : BitVec 7) (idx : BitVec 6) (piece : BitVec 48) (status : BitVec 8) (data : List (BitVec 8))
  /-- REMOTE_TIMEOUT (R60). A piece unacknowledged after UAL_TMO takes status TIMEOUT. -/
  | remoteTimeout (cluster : BitVec 7) (idx : BitVec 6) (piece : BitVec 48)
  /-- NSEND_REQUEST_READ (R67). The network engine reads an NSEND work request when its entry reaches the engine, and starts or completes it. -/
  | nsendRequestRead (cluster : BitVec 7) (idx : BitVec 6)
  /-- UE_PACKET_RECEIVE (R65). A receiver checks an Ultra Ethernet packet and places its payload at its offset, signalling TOKEN_R once every byte is placed. -/
  | uePacketReceive (src : BitVec 32) (op : BitVec 2) (flags : BitVec 1) (len : BitVec 32) (off : BitVec 32) (roff : BitVec 64) (rkey : BitVec 32) (token : BitVec 64) (data : List (BitVec 8))
  /-- UE_SELECTIVE_ACK (R66). A selective acknowledgement arrives, completing packets and triggering resends of packets shown missing. -/
  | ueSelectiveAck (cluster : BitVec 7) (idx : BitVec 6) (acked : List Nat) (data : List (BitVec 8))
  /-- UE_RETRANSMIT_TIMER (R66). A packet's retransmission timer expires and the packet is resent, or the request fails with TIMEOUT after eight sendings. -/
  | ueRetransmitTimer (cluster : BitVec 7) (idx : BitVec 6) (pkt : BitVec 20)
  /-- UE_REQUEST_ABANDON (R67). A receiver drops the state of a request that has received no packet for 1 s. -/
  | ueRequestAbandon (src : BitVec 32)
  /-- TSYNC_MESSAGE (R68). A UALink timing message arrives and the package slews TIME towards the master, setting LOCKED when close. -/
  | tsyncMessage (err : BitVec 16)
  /-- TSYNC_LOCK_LOST (R68). No timing message for 100 ms clears LOCKED and posts a time-lock event. -/
  | tsyncLockLost
  /-- QUANTUM_EXPIRY (R166). A running coroutine's quantum expires with an equal or higher level ready, and it yields at the next boundary. -/
  | quantumExpiry (core : BitVec 9)
  /-- TRAVEL_HOP_PLACE (R170). A hopping coroutine's context arrives at the home spire and is placed on the nearest cluster with a free identifier. -/
  | travelHopPlace (msg : BitVec 16)
  /-- SPAWN_PLACE (R169). A spawned child arrives at its reserved core and becomes ready. -/
  | spawnPlace (msg : BitVec 16)
  /-- MIGRATE_PLACE (R405). A migrating coroutine's context arrives at its reserved core and becomes ready. -/
  | migratePlace (msg : BitVec 16)
  /-- BEACON_SIGNAL_APPLY (R225). A signal is applied at the beacon's slice, changing the count and making every satisfied waiter ready. -/
  | beaconSignalApply (msg : BitVec 16)
  /-- STORE_FAULT (R199). A buffered store faults at translation, cancels held releases and forms the pending-store list for a trap. -/
  | storeFault (core : BitVec 9) (idx : BitVec 5)
  /-- COROUTINE_FREE (R213). An exited coroutine's identifier becomes free once its stores, vector queue and AMO line are done. -/
  | coroutineFree (core : BitVec 9) (slot : BitVec 8)
  /-- RESERVATION_GRANT (R201). The home slice forwards a line to the core at the head of its reservation queue, which performs its read-modify-write and returns it. -/
  | reservationGrant (line : BitVec 48)
  /-- HOME_SLICE_TRANSACTION (R186). The home slice serves one access, remote request, write-back or recall of a line under the compass transition table. -/
  | homeSliceTransaction (kind : BitVec 3) (spire : BitVec 2) (line : BitVec 48)
  /-- REMOTE_DROP (R185). A remote slice drops its copy of a line, writing dirty sectors back to the home slice. -/
  | remoteDrop (spire : BitVec 2) (line : BitVec 48)
  /-- ROW_PAIR_COPY (R34). A channel controller locks and copies or fills one row pair, in the array or by fallback, completing the command after the last. -/
  | rowPairCopy (cluster : BitVec 7) (idx : BitVec 4) (stripe : BitVec 16) (chan : BitVec 6)
  /-- DOME_COMMAND_COMPLETE (R245). A matrix command finishes in the dome, updating its slot and freeing slots of ended holders. -/
  | domeCommandComplete (cluster : BitVec 7)
  /-- TILE_CONFIGURE (R414). A TCFG in the matrix queue sets the tile's configuration once the tile is empty or ready and earlier accesses are done. -/
  | tileConfigure (core : BitVec 9)
  /-- ROTATION_LANDING (R423). A tile moved over a rotation link lands in the neighbour and lowers its fill count. -/
  | rotationLanding (cluster : BitVec 7) (north : Bool)
  /-- SWAP_EXCHANGE (R424). Two mirror clusters' MSWAP commands exchange their tiles. -/
  | swapExchange (cluster : BitVec 7)
  /-- FOLLOW_ON_START (R429). After a CPYMM's copy completes, its follow-on matrix command is rechecked and runs in its reserved queue place. -/
  | followOnStart (core : BitVec 9)
  /-- FAULT_QUEUE_POST (R267). A fault-queue entry waiting for room is posted and the spire fault beacon's count is updated. -/
  | faultQueuePost (p : BitVec 7) (d : BitVec 2)
  /-- PTBASE_WRITE (R100). A CSR write of PTBASE replaces an ASID's root in every slice and invalidates that ASID. -/
  | ptbaseWrite (v : BitVec 64)
  /-- XLINV_PAGE (R113). XLINV operation 0 removes one 2 MiB page's translations of ASID.SEL everywhere. -/
  | xlinvPage (v : BitVec 64)
  /-- XLINV_REGION (R113). XLINV operation 1 removes the translations of a 2 GiB region of ASID.SEL. -/
  | xlinvRegion (v : BitVec 64)
  /-- XLINV_ASID (R113). XLINV operation 2 removes every translation of ASID.SEL. -/
  | xlinvAsid (v : BitVec 64)
  /-- XLINV_ALL (R113). XLINV operation 3 removes the translations of every ASID. -/
  | xlinvAll (v : BitVec 64)
  /-- KVBASE_RELOAD_ONE (R121). A KVBASE write with ONE = 1 makes every astrolabe reload space SEL's descriptor and drop its KV-TLB entries. -/
  | kvbaseReloadOne (v : BitVec 64)
  /-- KVBASE_RELOAD_ALL (R121). A KVBASE write with ONE = 0 makes every astrolabe reload all 256 descriptors. -/
  | kvbaseReloadAll (v : BitVec 64)
  /-- SVCWAYS_WRITE (R150). A write of SVCWAYS sets a service class's way mask in every slice. -/
  | svcwaysWrite (v : BitVec 64)
  /-- SVCBW_WRITE (R150). A write of SVCBW sets a service class's bandwidth weight in every slice and channel controller. -/
  | svcbwWrite (v : BitVec 64)
  /-- SVCMAP_WRITE (R150). A write of SVCMAP assigns ASID.SEL to a service class package-wide. -/
  | svcmapWrite (v : BitVec 64)
  /-- FQHEAD_WRITE (R268). A write of FQHEAD consumes fault-queue entries if it moves forward over posted ones, updating the spire fault beacon. -/
  | fqheadWrite (v : BitVec 64)
  /-- STATUS_WRITE (R218). Writing 1 to an in-use bit of STATUS clears it and zeroes that register kind or empties the top-k buffer. -/
  | statusWrite (v : BitVec 64)
  /-- PRIO_WRITE (R167). A write of PRIO stores LEVEL, capped at CEIL in user mode. -/
  | prioWrite (v : BitVec 64)
  /-- THERMAL_COOL (R24). A sensor falls 5 °C below its warning temperature and stops being warm, or falls below its warning temperature and stops being tripped. -/
  | thermalCool (n : BitVec 4) (temp : BitVec 16)
  /-- UE_PORT_DOWN (R90). An Ultra Ethernet port loses its link, clears UP and makes the pilot post a port-down event with bit 4 set. -/
  | uePortDown (port : BitVec 2)
  deriving DecidableEq, Repr

end Sys2Proof
end

