-- ==== Sys2Proof/WellFormed.lean ====
section
/-! DEFINITION. Which instructions are well formed: the checks on field values that the front end makes at
decode (R282, R283 and the encoding rules of each group), each failing check with the fate R283 gives it. -/

namespace Sys2Proof

/-- The two fates of a word that is no instruction (R283). -/
inductive Bad where
  /-- an encoding reserved at the running minor version: it traps `RSV` -/
  | rsv
  /-- a permanently illegal encoding: it traps `ILL` -/
  | ill
  deriving DecidableEq, Repr

/-- A failing check and its fate. -/
def badIf (p : Prop) [Decidable p] (b : Bad) : Option Bad := if p then some b else none

/-- The fate of an instruction whose field values the spec refuses: rounding codes 5 and 6 (R286), `FCVT`
types (R286), `BFX`/`BFI` ranges (R283), `PREF` kinds (R287), scopes (R191), branch conditions and `DBNZ` of
`x0` (R287), format codes (R295), `AWAITQ` and `SPAWN` destinations (R404), the mask-0 forms and conditions of
R291, and `VTYPE` images (R292), mask registers above 7 and the unused field of `KVRET` and `KVALLOC` (R282, R433). `none`: well formed. -/
def Instr.refusal : Instr → Option Bad
  | .add _ _ _ => none
  | .sub _ _ _ => none
  | .and _ _ _ => none
  | .or _ _ _ => none
  | .xor _ _ _ => none
  | .andn _ _ _ => none
  | .orn _ _ _ => none
  | .sll _ _ _ => none
  | .srl _ _ _ => none
  | .sra _ _ _ => none
  | .rot _ _ _ => none
  | .slt _ _ _ => none
  | .sltu _ _ _ => none
  | .seq _ _ _ => none
  | .min _ _ _ => none
  | .max _ _ _ => none
  | .minu _ _ _ => none
  | .maxu _ _ _ => none
  | .csel _ _ _ _ => none
  | .mul _ _ _ => none
  | .mulh _ _ _ => none
  | .mulhu _ _ _ => none
  | .div _ _ _ => none
  | .divu _ _ _ => none
  | .rem _ _ _ => none
  | .remu _ _ _ => none
  | .clz _ _ => none
  | .ctz _ _ => none
  | .popc _ _ => none
  | .bswap _ _ => none
  | .sext _ _ _ => none
  | .zext _ _ _ => none
  | .bfx _ _ p l => badIf (64 < p.toNat + l.toNat + 1) .ill
  | .bfi _ _ p l => badIf (64 < p.toNat + l.toNat + 1) .ill
  | .fadd _ _ _ r _ => badIf (5 ≤ r.toNat ∧ r.toNat ≤ 6) .rsv
  | .fsub _ _ _ r _ => badIf (5 ≤ r.toNat ∧ r.toNat ≤ 6) .rsv
  | .fmul _ _ _ r _ => badIf (5 ≤ r.toNat ∧ r.toNat ≤ 6) .rsv
  | .fdiv _ _ _ r _ => badIf (5 ≤ r.toNat ∧ r.toNat ≤ 6) .rsv
  | .fsqrt _ _ r _ => badIf (5 ≤ r.toNat ∧ r.toNat ≤ 6) .rsv
  | .fma _ _ _ r _ => badIf (5 ≤ r.toNat ∧ r.toNat ≤ 6) .rsv
  | .fmin _ _ _ _ => none
  | .fmax _ _ _ _ => none
  | .fcmp _ _ _ _ _ => none
  | .fcvt _ _ s r t => badIf ((5 ≤ r.toNat ∧ r.toNat ≤ 6) ∨ 7 ≤ s.toNat ∨ 7 ≤ t.toNat ∨ s = t ∨ (3 ≤ s.toNat ∧ 3 ≤ t.toNat)) .rsv
  | .addi _ _ _ => none
  | .andi _ _ _ => none
  | .ori _ _ _ => none
  | .xori _ _ _ => none
  | .slli _ _ _ => none
  | .srli _ _ _ => none
  | .srai _ _ _ => none
  | .roti _ _ _ => none
  | .slti _ _ _ => none
  | .sltui _ _ _ => none
  | .seqi _ _ _ => none
  | .lhi _ _ => none
  | .pcadd _ _ => none
  | .lb _ _ _ => none
  | .lbu _ _ _ => none
  | .lh _ _ _ => none
  | .lhu _ _ _ => none
  | .lw _ _ _ => none
  | .lwu _ _ _ => none
  | .ld _ _ _ => none
  | .pref k _ _ => badIf (2 < k.toNat) .rsv
  | .sb _ _ _ => none
  | .sh _ _ _ => none
  | .sw _ _ _ => none
  | .sd _ _ _ => none
  | .ldaq _ _ s _ => badIf (5 < s.toNat) .rsv
  | .sdrl _ _ s _ => badIf (5 < s.toNat) .rsv
  | .jmp _ => none
  | .jal _ => none
  | .jalr _ _ _ => none
  | .bc _ _ c _ => badIf (5 < c.toNat) .rsv
  | .dbnz d _ => badIf (d = 0) .rsv
  | .csrr _ _ => none
  | .csrw _ _ _ => none
  | .csrs _ _ _ => none
  | .csrc _ _ _ => none
  | .ecall => none
  | .ebreak => none
  | .tret => none
  | .isync => none
  | .fenceSv => none
  | .fenceVs => none
  | .fenceVv => none
  | .fence s _ _ _ _ => badIf (5 < s.toNat) .rsv
  | .fmt a b d _ _ => badIf (21 < a.toNat ∨ 21 < b.toNat ∨ 21 < d.toNat) .rsv
  | .await _ _ _ => none
  | .awaitq d _ _ => badIf (15 < d.toNat) .rsv
  | .yield _ => none
  | .exit => none
  | .spawn d _ _ => badIf (d = 1) .rsv
  | .gbar _ => none
  | .migrate _ _ => none
  | .cresume _ => none
  | .ckill _ => none
  | .beacon _ _ => none
  | .bfree _ => none
  | .bset _ _ => none
  | .bsig _ _ => none
  | .bread _ _ => none
  | .amoadd _ _ _ s _ _ _ => badIf (5 < s.toNat) .rsv
  | .amoand _ _ _ s _ _ _ => badIf (5 < s.toNat) .rsv
  | .amoor _ _ _ s _ _ _ => badIf (5 < s.toNat) .rsv
  | .amoxor _ _ _ s _ _ _ => badIf (5 < s.toNat) .rsv
  | .amomin _ _ _ s _ _ _ => badIf (5 < s.toNat) .rsv
  | .amomax _ _ _ s _ _ _ => badIf (5 < s.toNat) .rsv
  | .amominu _ _ _ s _ _ _ => badIf (5 < s.toNat) .rsv
  | .amomaxu _ _ _ s _ _ _ => badIf (5 < s.toNat) .rsv
  | .amoswp _ _ _ s _ _ _ => badIf (5 < s.toNat) .rsv
  | .amocas _ _ _ s _ _ _ => badIf (5 < s.toNat) .rsv
  | .amoincw _ _ _ s _ _ _ => badIf (5 < s.toNat) .rsv
  | .amoaddb _ _ _ s _ _ _ => badIf (5 < s.toNat) .rsv
  | .lr _ _ s _ _ => badIf (5 < s.toNat) .rsv
  | .sc _ _ _ s _ _ _ => badIf (5 < s.toNat) .rsv
  | .waitrs _ => none
  | .vadd _ _ _ _ _ _ => none
  | .vsub _ _ _ _ _ _ => none
  | .vmul _ _ _ _ _ _ => none
  | .vmulh _ _ _ _ _ _ => none
  | .vmac _ _ _ _ _ _ => none
  | .vmin _ _ _ _ _ _ => none
  | .vmax _ _ _ _ _ _ => none
  | .vminu _ _ _ _ _ _ => none
  | .vmaxu _ _ _ _ _ _ => none
  | .vsadd _ _ _ _ _ _ => none
  | .vssub _ _ _ _ _ _ => none
  | .vabs _ _ _ _ => none
  | .vand _ _ _ _ _ _ => none
  | .vor _ _ _ _ _ _ => none
  | .vxor _ _ _ _ _ _ => none
  | .vsll _ _ _ _ _ _ => none
  | .vsrl _ _ _ _ _ _ => none
  | .vsra _ _ _ _ _ _ => none
  | .vcmp d _ _ _ _ o => badIf (8 ≤ d.toNat ∨ 5 < o.toNat) .rsv
  | .vmerge _ _ _ _ _ m => badIf (m = 0) .rsv
  | .vfadd _ _ _ _ _ _ => none
  | .vfsub _ _ _ _ _ _ => none
  | .vfmul _ _ _ _ _ _ => none
  | .vfma _ _ _ _ _ _ => none
  | .vfnma _ _ _ _ _ _ => none
  | .vfmin _ _ _ _ _ _ => none
  | .vfmax _ _ _ _ _ _ => none
  | .vfdiv _ _ _ _ _ _ => none
  | .vfsqrt _ _ _ _ => none
  | .vfrsq _ _ _ _ => none
  | .vfexp2 _ _ _ _ => none
  | .vfsgn _ _ _ _ _ _ => none
  | .vfcmp d _ _ _ _ _ => badIf (8 ≤ d.toNat) .rsv
  | .vfcvt _ _ _ _ _ => none
  | .vredsum _ _ _ _ _ _ => none
  | .vredmax _ _ _ _ _ _ => none
  | .vredmin _ _ _ _ _ _ => none
  | .vfredsum _ _ _ _ _ _ => none
  | .vfredmax _ _ _ _ _ _ => none
  | .vfredmin _ _ _ _ _ _ => none
  | .vslideup _ _ _ _ _ => none
  | .vslidedn _ _ _ _ _ => none
  | .vgather _ _ _ _ _ _ => none
  | .vcompress _ _ _ m => badIf (m = 0) .rsv
  | .vscan _ _ _ _ => none
  | .vtopki _ => none
  | .vtopk _ _ _ _ _ => none
  | .vtopkr _ _ => none
  | .vmand d a b => badIf (8 ≤ d.toNat ∨ 8 ≤ a.toNat ∨ 8 ≤ b.toNat) .rsv
  | .vmor d a b => badIf (8 ≤ d.toNat ∨ 8 ≤ a.toNat ∨ 8 ≤ b.toNat) .rsv
  | .vmxor d a b => badIf (8 ≤ d.toNat ∨ 8 ≤ a.toNat ∨ 8 ≤ b.toNat) .rsv
  | .vmnot d a => badIf (8 ≤ d.toNat ∨ 8 ≤ a.toNat) .rsv
  | .vmpopc _ a => badIf (8 ≤ a.toNat) .rsv
  | .vmfirst _ a => badIf (8 ≤ a.toNat) .rsv
  | .vmvx _ _ _ => none
  | .vmvs _ _ _ _ => none
  | .vid _ _ => none
  | .vshape _ _ _ _ => none
  | .vrope _ _ _ _ _ _ => none
  | .vscld _ _ _ => none
  | .vscst _ _ _ => none
  | .vsetl _ _ t => badIf (64 ≤ t.toNat ∨ t.toNat / 4 % 8 = 1 ∨ t.toNat / 4 % 8 = 2) .rsv
  | .vsetlg _ _ t => badIf (64 ≤ t.toNat ∨ t.toNat / 4 % 8 = 1 ∨ t.toNat / 4 % 8 = 2) .rsv
  | .kvsetrun _ _ _ => none
  | .mopa _ _ _ _ _ _ => none
  | .vld _ _ _ _ _ _ _ => none
  | .vlds _ _ _ _ _ _ _ => none
  | .vldx _ _ _ _ _ _ _ => none
  | .vldff _ _ _ _ _ _ _ => none
  | .vst _ _ _ _ _ _ _ => none
  | .vsts _ _ _ _ _ _ _ => none
  | .vstx _ _ _ _ _ _ _ => none
  | .vldt _ _ _ _ => none
  | .vstt _ _ _ _ => none
  | .vldtt _ _ _ _ => none
  | .vldkv _ _ _ _ _ _ _ => none
  | .vstkv _ _ _ _ _ _ _ => none
  | .cpy _ _ => none
  | .cpy2d _ _ => none
  | .cpyf _ _ => none
  | .cpysh _ _ => none
  | .publish _ => none
  | .cpymm _ _ => none
  | .rowcopy _ _ => none
  | .rowfill _ _ => none
  | .tcfg _ _ => none
  | .tstate _ _ => none
  | .mshape _ _ => none
  | .mma _ _ _ => none
  | .mmag _ _ _ => none
  | .mmrot _ _ _ => none
  | .mswap _ => none
  | .macq _ _ => none
  | .mrel _ => none
  | .mdrain _ _ => none
  | .mfill _ _ => none
  | .mzero _ => none
  | .mreclaim _ => none
  | .mstat _ _ => none
  | .kvmap _ _ => none
  | .kvunmap _ _ => none
  | .kvlook _ _ => none
  | .kvver _ _ => none
  | .kvret _ b => badIf (b ≠ 0) .rsv
  | .kvhash _ _ => none
  | .kvalloc _ b => badIf (b ≠ 0) .rsv
  | .kvfree _ _ => none
  | .kvpin _ _ => none
  | .kvunpin _ _ => none
  | .kvappend _ _ => none
  | .nput _ _ => none
  | .nget _ _ => none
  | .namo _ _ => none
  | .nsig _ _ => none
  | .nsend _ => none
  | .eset _ _ => none
  | .eget _ _ => none
  | .dispatch _ => none
  | .vectorEntryComplete _ => none
  | .storeAccept _ _ => none
  | .launchRecord _ => none
  | .launchStart _ => none
  | .launchAdmit _ => none
  | .gangPlace _ => none
  | .kvCommandRun _ => none
  | .copyPiece _ _ _ => none
  | .domeCommandStart _ => none
  | .powerGood => none
  | .functionLevelReset => none
  | .powerWindow _ => none
  | .thermalWarn _ _ => none
  | .thermalTrip _ _ => none
  | .thermalShutdown _ => none
  | .powerStateEnter _ => none
  | .unitWake _ => none
  | .partPwrtolWrite _ _ => none
  | .controlRegisterWrite _ _ _ => none
  | .hqCfgWrite _ _ => none
  | .hqTailWrite _ _ => none
  | .signalRecord _ => none
  | .terminationSweep _ => none
  | .evqCtlWrite _ => none
  | .evqHeadWrite _ => none
  | .evqIrqTimer => none
  | .fwStageImage => none
  | .fwAttest => none
  | .fwReadCert => none
  | .fwCommandDone => none
  | .faqPop _ _ => none
  | .memRetire _ => none
  | .memRetireDone => none
  | .patrolScrub _ _ _ => none
  | .cxlTimeout _ => none
  | .cxlPortDown _ => none
  | .partEnable _ => none
  | .partDisable _ => none
  | .partResume _ => none
  | .partSave _ => none
  | .partRestore _ => none
  | .partSeal _ => none
  | .partAdopt _ => none
  | .partOpComplete _ => none
  | .partBellWrite _ _ => none
  | .bellTime _ => none
  | .partStopComplete _ => none
  | .ualNodeWrite _ => none
  | .ualMapWrite _ _ => none
  | .windowAccess _ _ _ _ => none
  | .linkFault _ _ => none
  | .networkPieceSend _ _ => none
  | .remotePieceReceive _ _ _ _ _ => none
  | .remoteAck _ _ _ _ _ => none
  | .remoteTimeout _ _ _ => none
  | .nsendRequestRead _ _ => none
  | .uePacketReceive _ _ _ _ _ _ _ _ _ => none
  | .ueSelectiveAck _ _ _ _ => none
  | .ueRetransmitTimer _ _ _ => none
  | .ueRequestAbandon _ => none
  | .tsyncMessage _ => none
  | .tsyncLockLost => none
  | .quantumExpiry _ => none
  | .travelHopPlace _ => none
  | .spawnPlace _ => none
  | .migratePlace _ => none
  | .beaconSignalApply _ => none
  | .storeFault _ _ => none
  | .coroutineFree _ _ => none
  | .reservationGrant _ => none
  | .homeSliceTransaction _ _ _ => none
  | .remoteDrop _ _ => none
  | .rowPairCopy _ _ _ _ => none
  | .domeCommandComplete _ => none
  | .tileConfigure _ => none
  | .rotationLanding _ _ => none
  | .swapExchange _ => none
  | .followOnStart _ => none
  | .faultQueuePost _ _ => none
  | .ptbaseWrite _ => none
  | .xlinvPage _ => none
  | .xlinvRegion _ => none
  | .xlinvAsid _ => none
  | .xlinvAll _ => none
  | .kvbaseReloadOne _ => none
  | .kvbaseReloadAll _ => none
  | .svcwaysWrite _ => none
  | .svcbwWrite _ => none
  | .svcmapWrite _ => none
  | .fqheadWrite _ => none
  | .statusWrite _ => none
  | .prioWrite _ => none
  | .thermalCool _ _ => none
  | .uePortDown _ => none

/-- An instruction whose every field holds a value the spec admits. -/
def Instr.wellFormed (i : Instr) : Bool := i.refusal = none

end Sys2Proof
end

