-- ==== Sys2Proof/Decode.lean ====
section
/-! DEFINITION. The decoder of an instruction word (R281-R296): total on any 32-bit word, every word that
is no instruction rejected with the fate R283 gives it; and the encoder, from the same encoding tables. -/

namespace Sys2Proof

/-- Bits of a word from `lo` up, `n` of them. -/
def fld (w : BitVec 32) (lo n : Nat) : BitVec n := BitVec.ofNat n (w.toNat / 2 ^ lo)

/-- Bits of a word from `lo` up, `n` of them, as a number. -/
def bitsAt (w : BitVec 32) (lo n : Nat) : Nat := w.toNat / 2 ^ lo % 2 ^ n

/-- Major opcode 0x01: the assigned functions; none of them answers `none`. -/
def decodeMajor01 (w : BitVec 32) : Option Instr :=
  if bitsAt w 0 10 = 0 then some (.add (fld w 20 5) (fld w 15 5) (fld w 10 5))
  else if bitsAt w 0 10 = 1 then some (.sub (fld w 20 5) (fld w 15 5) (fld w 10 5))
  else if bitsAt w 0 10 = 2 then some (.and (fld w 20 5) (fld w 15 5) (fld w 10 5))
  else if bitsAt w 0 10 = 3 then some (.or (fld w 20 5) (fld w 15 5) (fld w 10 5))
  else if bitsAt w 0 10 = 4 then some (.xor (fld w 20 5) (fld w 15 5) (fld w 10 5))
  else if bitsAt w 0 10 = 5 then some (.andn (fld w 20 5) (fld w 15 5) (fld w 10 5))
  else if bitsAt w 0 10 = 6 then some (.orn (fld w 20 5) (fld w 15 5) (fld w 10 5))
  else if bitsAt w 0 10 = 7 then some (.sll (fld w 20 5) (fld w 15 5) (fld w 10 5))
  else if bitsAt w 0 10 = 8 then some (.srl (fld w 20 5) (fld w 15 5) (fld w 10 5))
  else if bitsAt w 0 10 = 9 then some (.sra (fld w 20 5) (fld w 15 5) (fld w 10 5))
  else if bitsAt w 0 10 = 10 then some (.rot (fld w 20 5) (fld w 15 5) (fld w 10 5))
  else if bitsAt w 0 10 = 11 then some (.slt (fld w 20 5) (fld w 15 5) (fld w 10 5))
  else if bitsAt w 0 10 = 12 then some (.sltu (fld w 20 5) (fld w 15 5) (fld w 10 5))
  else if bitsAt w 0 10 = 13 then some (.seq (fld w 20 5) (fld w 15 5) (fld w 10 5))
  else if bitsAt w 0 10 = 14 then some (.min (fld w 20 5) (fld w 15 5) (fld w 10 5))
  else if bitsAt w 0 10 = 15 then some (.max (fld w 20 5) (fld w 15 5) (fld w 10 5))
  else if bitsAt w 0 10 = 16 then some (.minu (fld w 20 5) (fld w 15 5) (fld w 10 5))
  else if bitsAt w 0 10 = 17 then some (.maxu (fld w 20 5) (fld w 15 5) (fld w 10 5))
  else if bitsAt w 5 5 = 1 then some (.csel (fld w 20 5) (fld w 15 5) (fld w 10 5) (fld w 0 5))
  else none

/-- Major opcode 0x02: the assigned functions; none of them answers `none`. -/
def decodeMajor02 (w : BitVec 32) : Option Instr :=
  if bitsAt w 0 10 = 0 then some (.mul (fld w 20 5) (fld w 15 5) (fld w 10 5))
  else if bitsAt w 0 10 = 1 then some (.mulh (fld w 20 5) (fld w 15 5) (fld w 10 5))
  else if bitsAt w 0 10 = 2 then some (.mulhu (fld w 20 5) (fld w 15 5) (fld w 10 5))
  else if bitsAt w 0 10 = 3 then some (.div (fld w 20 5) (fld w 15 5) (fld w 10 5))
  else if bitsAt w 0 10 = 4 then some (.divu (fld w 20 5) (fld w 15 5) (fld w 10 5))
  else if bitsAt w 0 10 = 5 then some (.rem (fld w 20 5) (fld w 15 5) (fld w 10 5))
  else if bitsAt w 0 10 = 6 then some (.remu (fld w 20 5) (fld w 15 5) (fld w 10 5))
  else none

/-- Major opcode 0x03: the assigned functions; none of them answers `none`. -/
def decodeMajor03 (w : BitVec 32) : Option Instr :=
  if bitsAt w 0 15 = 0 then some (.clz (fld w 20 5) (fld w 15 5))
  else if bitsAt w 0 15 = 4096 then some (.ctz (fld w 20 5) (fld w 15 5))
  else if bitsAt w 0 15 = 8192 then some (.popc (fld w 20 5) (fld w 15 5))
  else if bitsAt w 0 15 = 12288 then some (.bswap (fld w 20 5) (fld w 15 5))
  else if bitsAt w 6 9 = 256 then some (.sext (fld w 20 5) (fld w 15 5) (fld w 0 6))
  else if bitsAt w 6 9 = 320 then some (.zext (fld w 20 5) (fld w 15 5) (fld w 0 6))
  else if bitsAt w 12 3 = 6 then some (.bfx (fld w 20 5) (fld w 15 5) (fld w 6 6) (fld w 0 6))
  else if bitsAt w 12 3 = 7 then some (.bfi (fld w 20 5) (fld w 15 5) (fld w 6 6) (fld w 0 6))
  else none

/-- Major opcode 0x04: the assigned functions; none of them answers `none`. -/
def decodeMajor04 (w : BitVec 32) : Option Instr :=
  if bitsAt w 0 4 = 0 ∧ bitsAt w 5 2 = 0 then some (.fadd (fld w 20 5) (fld w 15 5) (fld w 10 5) (fld w 7 3) (fld w 4 1))
  else if bitsAt w 0 4 = 1 ∧ bitsAt w 5 2 = 0 then some (.fsub (fld w 20 5) (fld w 15 5) (fld w 10 5) (fld w 7 3) (fld w 4 1))
  else if bitsAt w 0 4 = 2 ∧ bitsAt w 5 2 = 0 then some (.fmul (fld w 20 5) (fld w 15 5) (fld w 10 5) (fld w 7 3) (fld w 4 1))
  else if bitsAt w 0 4 = 3 ∧ bitsAt w 5 2 = 0 then some (.fdiv (fld w 20 5) (fld w 15 5) (fld w 10 5) (fld w 7 3) (fld w 4 1))
  else if bitsAt w 0 4 = 4 ∧ bitsAt w 5 2 = 0 ∧ bitsAt w 10 5 = 0 then some (.fsqrt (fld w 20 5) (fld w 15 5) (fld w 7 3) (fld w 4 1))
  else if bitsAt w 0 4 = 5 ∧ bitsAt w 5 2 = 0 then some (.fma (fld w 20 5) (fld w 15 5) (fld w 10 5) (fld w 7 3) (fld w 4 1))
  else if bitsAt w 0 4 = 6 ∧ bitsAt w 5 5 = 0 then some (.fmin (fld w 20 5) (fld w 15 5) (fld w 10 5) (fld w 4 1))
  else if bitsAt w 0 4 = 7 ∧ bitsAt w 5 5 = 0 then some (.fmax (fld w 20 5) (fld w 15 5) (fld w 10 5) (fld w 4 1))
  else if bitsAt w 0 4 = 8 ∧ bitsAt w 7 3 = 0 then some (.fcmp (fld w 20 5) (fld w 15 5) (fld w 10 5) (fld w 5 2) (fld w 4 1))
  else if bitsAt w 0 4 = 9 ∧ bitsAt w 13 2 = 0 then some (.fcvt (fld w 20 5) (fld w 15 5) (fld w 10 3) (fld w 7 3) (fld w 4 3))
  else none

/-- Major opcode 0x10: the assigned functions; none of them answers `none`. -/
def decodeMajor10 (w : BitVec 32) : Option Instr :=
  some (.addi (fld w 20 5) (fld w 15 5) (fld w 0 15))

/-- Major opcode 0x11: the assigned functions; none of them answers `none`. -/
def decodeMajor11 (w : BitVec 32) : Option Instr :=
  some (.andi (fld w 20 5) (fld w 15 5) (fld w 0 15))

/-- Major opcode 0x12: the assigned functions; none of them answers `none`. -/
def decodeMajor12 (w : BitVec 32) : Option Instr :=
  some (.ori (fld w 20 5) (fld w 15 5) (fld w 0 15))

/-- Major opcode 0x13: the assigned functions; none of them answers `none`. -/
def decodeMajor13 (w : BitVec 32) : Option Instr :=
  some (.xori (fld w 20 5) (fld w 15 5) (fld w 0 15))

/-- Major opcode 0x14: the assigned functions; none of them answers `none`. -/
def decodeMajor14 (w : BitVec 32) : Option Instr :=
  if bitsAt w 6 9 = 0 then some (.slli (fld w 20 5) (fld w 15 5) (fld w 0 6))
  else if bitsAt w 6 9 = 128 then some (.srli (fld w 20 5) (fld w 15 5) (fld w 0 6))
  else if bitsAt w 6 9 = 256 then some (.srai (fld w 20 5) (fld w 15 5) (fld w 0 6))
  else if bitsAt w 6 9 = 384 then some (.roti (fld w 20 5) (fld w 15 5) (fld w 0 6))
  else none

/-- Major opcode 0x15: the assigned functions; none of them answers `none`. -/
def decodeMajor15 (w : BitVec 32) : Option Instr :=
  some (.slti (fld w 20 5) (fld w 15 5) (fld w 0 15))

/-- Major opcode 0x16: the assigned functions; none of them answers `none`. -/
def decodeMajor16 (w : BitVec 32) : Option Instr :=
  some (.sltui (fld w 20 5) (fld w 15 5) (fld w 0 15))

/-- Major opcode 0x17: the assigned functions; none of them answers `none`. -/
def decodeMajor17 (w : BitVec 32) : Option Instr :=
  some (.seqi (fld w 20 5) (fld w 15 5) (fld w 0 15))

/-- Major opcode 0x18: the assigned functions; none of them answers `none`. -/
def decodeMajor18 (w : BitVec 32) : Option Instr :=
  some (.lhi (fld w 20 5) (fld w 0 20))

/-- Major opcode 0x19: the assigned functions; none of them answers `none`. -/
def decodeMajor19 (w : BitVec 32) : Option Instr :=
  some (.pcadd (fld w 20 5) (fld w 0 20))

/-- Major opcode 0x20: the assigned functions; none of them answers `none`. -/
def decodeMajor20 (w : BitVec 32) : Option Instr :=
  some (.lb (fld w 20 5) (fld w 15 5) (fld w 0 15))

/-- Major opcode 0x21: the assigned functions; none of them answers `none`. -/
def decodeMajor21 (w : BitVec 32) : Option Instr :=
  some (.lbu (fld w 20 5) (fld w 15 5) (fld w 0 15))

/-- Major opcode 0x22: the assigned functions; none of them answers `none`. -/
def decodeMajor22 (w : BitVec 32) : Option Instr :=
  some (.lh (fld w 20 5) (fld w 15 5) (fld w 0 15))

/-- Major opcode 0x23: the assigned functions; none of them answers `none`. -/
def decodeMajor23 (w : BitVec 32) : Option Instr :=
  some (.lhu (fld w 20 5) (fld w 15 5) (fld w 0 15))

/-- Major opcode 0x24: the assigned functions; none of them answers `none`. -/
def decodeMajor24 (w : BitVec 32) : Option Instr :=
  some (.lw (fld w 20 5) (fld w 15 5) (fld w 0 15))

/-- Major opcode 0x25: the assigned functions; none of them answers `none`. -/
def decodeMajor25 (w : BitVec 32) : Option Instr :=
  some (.lwu (fld w 20 5) (fld w 15 5) (fld w 0 15))

/-- Major opcode 0x26: the assigned functions; none of them answers `none`. -/
def decodeMajor26 (w : BitVec 32) : Option Instr :=
  some (.ld (fld w 20 5) (fld w 15 5) (fld w 0 15))

/-- Major opcode 0x27: the assigned functions; none of them answers `none`. -/
def decodeMajor27 (w : BitVec 32) : Option Instr :=
  some (.pref (fld w 20 5) (fld w 15 5) (fld w 0 15))

/-- Major opcode 0x28: the assigned functions; none of them answers `none`. -/
def decodeMajor28 (w : BitVec 32) : Option Instr :=
  some (.sb (fld w 20 5) (fld w 15 5) (fld w 0 15))

/-- Major opcode 0x29: the assigned functions; none of them answers `none`. -/
def decodeMajor29 (w : BitVec 32) : Option Instr :=
  some (.sh (fld w 20 5) (fld w 15 5) (fld w 0 15))

/-- Major opcode 0x2A: the assigned functions; none of them answers `none`. -/
def decodeMajor2A (w : BitVec 32) : Option Instr :=
  some (.sw (fld w 20 5) (fld w 15 5) (fld w 0 15))

/-- Major opcode 0x2B: the assigned functions; none of them answers `none`. -/
def decodeMajor2B (w : BitVec 32) : Option Instr :=
  some (.sd (fld w 20 5) (fld w 15 5) (fld w 0 15))

/-- Major opcode 0x2C: the assigned functions; none of them answers `none`. -/
def decodeMajor2C (w : BitVec 32) : Option Instr :=
  some (.ldaq (fld w 20 5) (fld w 15 5) (fld w 12 3) (fld w 0 12))

/-- Major opcode 0x2D: the assigned functions; none of them answers `none`. -/
def decodeMajor2D (w : BitVec 32) : Option Instr :=
  some (.sdrl (fld w 20 5) (fld w 15 5) (fld w 12 3) (fld w 0 12))

/-- Major opcode 0x30: the assigned functions; none of them answers `none`. -/
def decodeMajor30 (w : BitVec 32) : Option Instr :=
  some (.jmp (fld w 0 25))

/-- Major opcode 0x31: the assigned functions; none of them answers `none`. -/
def decodeMajor31 (w : BitVec 32) : Option Instr :=
  some (.jal (fld w 0 25))

/-- Major opcode 0x32: the assigned functions; none of them answers `none`. -/
def decodeMajor32 (w : BitVec 32) : Option Instr :=
  some (.jalr (fld w 20 5) (fld w 15 5) (fld w 0 15))

/-- Major opcode 0x33: the assigned functions; none of them answers `none`. -/
def decodeMajor33 (w : BitVec 32) : Option Instr :=
  some (.bc (fld w 20 5) (fld w 15 5) (fld w 12 3) (fld w 0 12))

/-- Major opcode 0x34: the assigned functions; none of them answers `none`. -/
def decodeMajor34 (w : BitVec 32) : Option Instr :=
  some (.dbnz (fld w 20 5) (fld w 0 20))

/-- Major opcode 0x38: the assigned functions; none of them answers `none`. -/
def decodeMajor38 (w : BitVec 32) : Option Instr :=
  if bitsAt w 12 8 = 0 then some (.csrr (fld w 20 5) (fld w 0 12))
  else if bitsAt w 12 3 = 1 then some (.csrw (fld w 20 5) (fld w 15 5) (fld w 0 12))
  else if bitsAt w 12 3 = 2 then some (.csrs (fld w 20 5) (fld w 15 5) (fld w 0 12))
  else if bitsAt w 12 3 = 3 then some (.csrc (fld w 20 5) (fld w 15 5) (fld w 0 12))
  else if bitsAt w 0 25 = 16384 then some (.ecall)
  else if bitsAt w 0 25 = 16385 then some (.ebreak)
  else if bitsAt w 0 25 = 16386 then some (.tret)
  else if bitsAt w 0 25 = 16387 then some (.isync)
  else if bitsAt w 0 25 = 16388 then some (.fenceSv)
  else if bitsAt w 0 25 = 16389 then some (.fenceVs)
  else if bitsAt w 0 25 = 16390 then some (.fenceVv)
  else if bitsAt w 4 5 = 0 ∧ bitsAt w 12 13 = 5 then some (.fence (fld w 9 3) (fld w 3 1) (fld w 2 1) (fld w 1 1) (fld w 0 1))
  else none

/-- Major opcode 0x39: the assigned functions; none of them answers `none`. -/
def decodeMajor39 (w : BitVec 32) : Option Instr :=
  some (.fmt (fld w 20 5) (fld w 15 5) (fld w 10 5) (fld w 5 5) (fld w 0 5))

/-- Major opcode 0x3A: the assigned functions; none of them answers `none`. -/
def decodeMajor3A (w : BitVec 32) : Option Instr :=
  if bitsAt w 0 10 = 0 then some (.await (fld w 20 5) (fld w 15 5) (fld w 10 5))
  else if bitsAt w 0 10 = 1 then some (.awaitq (fld w 20 5) (fld w 15 5) (fld w 10 5))
  else if bitsAt w 0 15 = 2 ∧ bitsAt w 20 5 = 0 then some (.yield (fld w 15 5))
  else if bitsAt w 0 25 = 3 then some (.exit)
  else if bitsAt w 0 10 = 4 then some (.spawn (fld w 20 5) (fld w 15 5) (fld w 10 5))
  else if bitsAt w 0 15 = 5 ∧ bitsAt w 20 5 = 0 then some (.gbar (fld w 15 5))
  else if bitsAt w 0 10 = 6 ∧ bitsAt w 20 5 = 0 then some (.migrate (fld w 15 5) (fld w 10 5))
  else if bitsAt w 0 15 = 7 ∧ bitsAt w 20 5 = 0 then some (.cresume (fld w 15 5))
  else if bitsAt w 0 15 = 8 ∧ bitsAt w 20 5 = 0 then some (.ckill (fld w 15 5))
  else none

/-- Major opcode 0x3B: the assigned functions; none of them answers `none`. -/
def decodeMajor3B (w : BitVec 32) : Option Instr :=
  if bitsAt w 0 15 = 0 then some (.beacon (fld w 20 5) (fld w 15 5))
  else if bitsAt w 0 15 = 1 ∧ bitsAt w 20 5 = 0 then some (.bfree (fld w 15 5))
  else if bitsAt w 0 10 = 2 ∧ bitsAt w 20 5 = 0 then some (.bset (fld w 15 5) (fld w 10 5))
  else if bitsAt w 0 10 = 3 ∧ bitsAt w 20 5 = 0 then some (.bsig (fld w 15 5) (fld w 10 5))
  else if bitsAt w 0 15 = 4 then some (.bread (fld w 20 5) (fld w 15 5))
  else none

/-- Major opcode 0x3C: the assigned functions; none of them answers `none`. -/
def decodeMajor3C (w : BitVec 32) : Option Instr :=
  if bitsAt w 0 4 = 0 then some (.amoadd (fld w 20 5) (fld w 15 5) (fld w 10 5) (fld w 7 3) (fld w 6 1) (fld w 5 1) (fld w 4 1))
  else if bitsAt w 0 4 = 1 then some (.amoand (fld w 20 5) (fld w 15 5) (fld w 10 5) (fld w 7 3) (fld w 6 1) (fld w 5 1) (fld w 4 1))
  else if bitsAt w 0 4 = 2 then some (.amoor (fld w 20 5) (fld w 15 5) (fld w 10 5) (fld w 7 3) (fld w 6 1) (fld w 5 1) (fld w 4 1))
  else if bitsAt w 0 4 = 3 then some (.amoxor (fld w 20 5) (fld w 15 5) (fld w 10 5) (fld w 7 3) (fld w 6 1) (fld w 5 1) (fld w 4 1))
  else if bitsAt w 0 4 = 4 then some (.amomin (fld w 20 5) (fld w 15 5) (fld w 10 5) (fld w 7 3) (fld w 6 1) (fld w 5 1) (fld w 4 1))
  else if bitsAt w 0 4 = 5 then some (.amomax (fld w 20 5) (fld w 15 5) (fld w 10 5) (fld w 7 3) (fld w 6 1) (fld w 5 1) (fld w 4 1))
  else if bitsAt w 0 4 = 6 then some (.amominu (fld w 20 5) (fld w 15 5) (fld w 10 5) (fld w 7 3) (fld w 6 1) (fld w 5 1) (fld w 4 1))
  else if bitsAt w 0 4 = 7 then some (.amomaxu (fld w 20 5) (fld w 15 5) (fld w 10 5) (fld w 7 3) (fld w 6 1) (fld w 5 1) (fld w 4 1))
  else if bitsAt w 0 4 = 8 then some (.amoswp (fld w 20 5) (fld w 15 5) (fld w 10 5) (fld w 7 3) (fld w 6 1) (fld w 5 1) (fld w 4 1))
  else if bitsAt w 0 4 = 9 then some (.amocas (fld w 20 5) (fld w 15 5) (fld w 10 5) (fld w 7 3) (fld w 6 1) (fld w 5 1) (fld w 4 1))
  else if bitsAt w 0 4 = 10 then some (.amoincw (fld w 20 5) (fld w 15 5) (fld w 10 5) (fld w 7 3) (fld w 6 1) (fld w 5 1) (fld w 4 1))
  else if bitsAt w 0 4 = 11 then some (.amoaddb (fld w 20 5) (fld w 15 5) (fld w 10 5) (fld w 7 3) (fld w 6 1) (fld w 5 1) (fld w 4 1))
  else none

/-- Major opcode 0x3D: the assigned functions; none of them answers `none`. -/
def decodeMajor3D (w : BitVec 32) : Option Instr :=
  if bitsAt w 0 4 = 0 ∧ bitsAt w 6 1 = 0 ∧ bitsAt w 10 5 = 0 then some (.lr (fld w 20 5) (fld w 15 5) (fld w 7 3) (fld w 5 1) (fld w 4 1))
  else if bitsAt w 0 4 = 1 then some (.sc (fld w 20 5) (fld w 15 5) (fld w 10 5) (fld w 7 3) (fld w 6 1) (fld w 5 1) (fld w 4 1))
  else if bitsAt w 0 15 = 2 ∧ bitsAt w 20 5 = 0 then some (.waitrs (fld w 15 5))
  else none

/-- Major opcode 0x40: the assigned functions; none of them answers `none`. -/
def decodeMajor40 (w : BitVec 32) : Option Instr :=
  if bitsAt w 0 5 = 0 then some (.vadd (fld w 20 5) (fld w 15 5) (fld w 10 5) (fld w 9 1) (fld w 8 1) (fld w 5 3))
  else if bitsAt w 0 5 = 1 then some (.vsub (fld w 20 5) (fld w 15 5) (fld w 10 5) (fld w 9 1) (fld w 8 1) (fld w 5 3))
  else if bitsAt w 0 5 = 2 then some (.vmul (fld w 20 5) (fld w 15 5) (fld w 10 5) (fld w 9 1) (fld w 8 1) (fld w 5 3))
  else if bitsAt w 0 5 = 3 then some (.vmulh (fld w 20 5) (fld w 15 5) (fld w 10 5) (fld w 9 1) (fld w 8 1) (fld w 5 3))
  else if bitsAt w 0 5 = 4 then some (.vmac (fld w 20 5) (fld w 15 5) (fld w 10 5) (fld w 9 1) (fld w 8 1) (fld w 5 3))
  else if bitsAt w 0 5 = 5 then some (.vmin (fld w 20 5) (fld w 15 5) (fld w 10 5) (fld w 9 1) (fld w 8 1) (fld w 5 3))
  else if bitsAt w 0 5 = 6 then some (.vmax (fld w 20 5) (fld w 15 5) (fld w 10 5) (fld w 9 1) (fld w 8 1) (fld w 5 3))
  else if bitsAt w 0 5 = 7 then some (.vminu (fld w 20 5) (fld w 15 5) (fld w 10 5) (fld w 9 1) (fld w 8 1) (fld w 5 3))
  else if bitsAt w 0 5 = 8 then some (.vmaxu (fld w 20 5) (fld w 15 5) (fld w 10 5) (fld w 9 1) (fld w 8 1) (fld w 5 3))
  else if bitsAt w 0 5 = 9 then some (.vsadd (fld w 20 5) (fld w 15 5) (fld w 10 5) (fld w 9 1) (fld w 8 1) (fld w 5 3))
  else if bitsAt w 0 5 = 10 then some (.vssub (fld w 20 5) (fld w 15 5) (fld w 10 5) (fld w 9 1) (fld w 8 1) (fld w 5 3))
  else if bitsAt w 0 5 = 11 ∧ bitsAt w 8 1 = 0 ∧ bitsAt w 10 5 = 0 then some (.vabs (fld w 20 5) (fld w 15 5) (fld w 9 1) (fld w 5 3))
  else none

/-- Major opcode 0x41: the assigned functions; none of them answers `none`. -/
def decodeMajor41 (w : BitVec 32) : Option Instr :=
  if bitsAt w 0 5 = 0 then some (.vand (fld w 20 5) (fld w 15 5) (fld w 10 5) (fld w 9 1) (fld w 8 1) (fld w 5 3))
  else if bitsAt w 0 5 = 1 then some (.vor (fld w 20 5) (fld w 15 5) (fld w 10 5) (fld w 9 1) (fld w 8 1) (fld w 5 3))
  else if bitsAt w 0 5 = 2 then some (.vxor (fld w 20 5) (fld w 15 5) (fld w 10 5) (fld w 9 1) (fld w 8 1) (fld w 5 3))
  else if bitsAt w 0 5 = 3 then some (.vsll (fld w 20 5) (fld w 15 5) (fld w 10 5) (fld w 9 1) (fld w 8 1) (fld w 5 3))
  else if bitsAt w 0 5 = 4 then some (.vsrl (fld w 20 5) (fld w 15 5) (fld w 10 5) (fld w 9 1) (fld w 8 1) (fld w 5 3))
  else if bitsAt w 0 5 = 5 then some (.vsra (fld w 20 5) (fld w 15 5) (fld w 10 5) (fld w 9 1) (fld w 8 1) (fld w 5 3))
  else none

/-- Major opcode 0x42: the assigned functions; none of them answers `none`. -/
def decodeMajor42 (w : BitVec 32) : Option Instr :=
  if bitsAt w 3 5 = 0 then some (.vcmp (fld w 20 5) (fld w 15 5) (fld w 10 5) (fld w 9 1) (fld w 8 1) (fld w 0 3))
  else if bitsAt w 0 5 = 16 then some (.vmerge (fld w 20 5) (fld w 15 5) (fld w 10 5) (fld w 9 1) (fld w 8 1) (fld w 5 3))
  else none

/-- Major opcode 0x43: the assigned functions; none of them answers `none`. -/
def decodeMajor43 (w : BitVec 32) : Option Instr :=
  if bitsAt w 0 5 = 0 then some (.vfadd (fld w 20 5) (fld w 15 5) (fld w 10 5) (fld w 9 1) (fld w 8 1) (fld w 5 3))
  else if bitsAt w 0 5 = 1 then some (.vfsub (fld w 20 5) (fld w 15 5) (fld w 10 5) (fld w 9 1) (fld w 8 1) (fld w 5 3))
  else if bitsAt w 0 5 = 2 then some (.vfmul (fld w 20 5) (fld w 15 5) (fld w 10 5) (fld w 9 1) (fld w 8 1) (fld w 5 3))
  else if bitsAt w 0 5 = 3 then some (.vfma (fld w 20 5) (fld w 15 5) (fld w 10 5) (fld w 9 1) (fld w 8 1) (fld w 5 3))
  else if bitsAt w 0 5 = 4 then some (.vfnma (fld w 20 5) (fld w 15 5) (fld w 10 5) (fld w 9 1) (fld w 8 1) (fld w 5 3))
  else if bitsAt w 0 5 = 5 then some (.vfmin (fld w 20 5) (fld w 15 5) (fld w 10 5) (fld w 9 1) (fld w 8 1) (fld w 5 3))
  else if bitsAt w 0 5 = 6 then some (.vfmax (fld w 20 5) (fld w 15 5) (fld w 10 5) (fld w 9 1) (fld w 8 1) (fld w 5 3))
  else if bitsAt w 0 5 = 7 then some (.vfdiv (fld w 20 5) (fld w 15 5) (fld w 10 5) (fld w 9 1) (fld w 8 1) (fld w 5 3))
  else if bitsAt w 0 5 = 8 ∧ bitsAt w 8 1 = 0 ∧ bitsAt w 10 5 = 0 then some (.vfsqrt (fld w 20 5) (fld w 15 5) (fld w 9 1) (fld w 5 3))
  else if bitsAt w 0 5 = 9 ∧ bitsAt w 8 1 = 0 ∧ bitsAt w 10 5 = 0 then some (.vfrsq (fld w 20 5) (fld w 15 5) (fld w 9 1) (fld w 5 3))
  else if bitsAt w 0 5 = 10 ∧ bitsAt w 8 1 = 0 ∧ bitsAt w 10 5 = 0 then some (.vfexp2 (fld w 20 5) (fld w 15 5) (fld w 9 1) (fld w 5 3))
  else if bitsAt w 0 5 = 11 then some (.vfsgn (fld w 20 5) (fld w 15 5) (fld w 10 5) (fld w 9 1) (fld w 8 1) (fld w 5 3))
  else none

/-- Major opcode 0x44: the assigned functions; none of them answers `none`. -/
def decodeMajor44 (w : BitVec 32) : Option Instr :=
  if bitsAt w 2 6 = 0 then some (.vfcmp (fld w 20 5) (fld w 15 5) (fld w 10 5) (fld w 9 1) (fld w 8 1) (fld w 0 2))
  else if bitsAt w 3 2 = 2 ∧ bitsAt w 8 1 = 0 ∧ bitsAt w 10 5 = 0 then some (.vfcvt (fld w 20 5) (fld w 15 5) (fld w 9 1) (fld w 5 3) (fld w 0 3))
  else none

/-- Major opcode 0x45: the assigned functions; none of them answers `none`. -/
def decodeMajor45 (w : BitVec 32) : Option Instr :=
  if bitsAt w 0 5 = 0 then some (.vredsum (fld w 20 5) (fld w 15 5) (fld w 10 5) (fld w 9 1) (fld w 8 1) (fld w 5 3))
  else if bitsAt w 0 5 = 1 then some (.vredmax (fld w 20 5) (fld w 15 5) (fld w 10 5) (fld w 9 1) (fld w 8 1) (fld w 5 3))
  else if bitsAt w 0 5 = 2 then some (.vredmin (fld w 20 5) (fld w 15 5) (fld w 10 5) (fld w 9 1) (fld w 8 1) (fld w 5 3))
  else if bitsAt w 0 5 = 3 then some (.vfredsum (fld w 20 5) (fld w 15 5) (fld w 10 5) (fld w 9 1) (fld w 8 1) (fld w 5 3))
  else if bitsAt w 0 5 = 4 then some (.vfredmax (fld w 20 5) (fld w 15 5) (fld w 10 5) (fld w 9 1) (fld w 8 1) (fld w 5 3))
  else if bitsAt w 0 5 = 5 then some (.vfredmin (fld w 20 5) (fld w 15 5) (fld w 10 5) (fld w 9 1) (fld w 8 1) (fld w 5 3))
  else none

/-- Major opcode 0x46: the assigned functions; none of them answers `none`. -/
def decodeMajor46 (w : BitVec 32) : Option Instr :=
  if bitsAt w 0 5 = 0 ∧ bitsAt w 8 1 = 0 then some (.vslideup (fld w 20 5) (fld w 15 5) (fld w 10 5) (fld w 9 1) (fld w 5 3))
  else if bitsAt w 0 5 = 1 ∧ bitsAt w 8 1 = 0 then some (.vslidedn (fld w 20 5) (fld w 15 5) (fld w 10 5) (fld w 9 1) (fld w 5 3))
  else if bitsAt w 0 5 = 2 then some (.vgather (fld w 20 5) (fld w 15 5) (fld w 10 5) (fld w 9 1) (fld w 8 1) (fld w 5 3))
  else if bitsAt w 0 5 = 3 ∧ bitsAt w 8 1 = 0 ∧ bitsAt w 10 5 = 0 then some (.vcompress (fld w 20 5) (fld w 15 5) (fld w 9 1) (fld w 5 3))
  else if bitsAt w 0 5 = 4 ∧ bitsAt w 8 1 = 0 ∧ bitsAt w 10 5 = 0 then some (.vscan (fld w 20 5) (fld w 15 5) (fld w 9 1) (fld w 5 3))
  else if bitsAt w 0 15 = 5 ∧ bitsAt w 20 5 = 0 then some (.vtopki (fld w 15 5))
  else if bitsAt w 0 5 = 6 ∧ bitsAt w 20 5 = 0 then some (.vtopk (fld w 15 5) (fld w 10 5) (fld w 9 1) (fld w 8 1) (fld w 5 3))
  else if bitsAt w 0 15 = 7 then some (.vtopkr (fld w 20 5) (fld w 15 5))
  else none

/-- Major opcode 0x47: the assigned functions; none of them answers `none`. -/
def decodeMajor47 (w : BitVec 32) : Option Instr :=
  if bitsAt w 0 10 = 0 then some (.vmand (fld w 20 5) (fld w 15 5) (fld w 10 5))
  else if bitsAt w 0 10 = 1 then some (.vmor (fld w 20 5) (fld w 15 5) (fld w 10 5))
  else if bitsAt w 0 10 = 2 then some (.vmxor (fld w 20 5) (fld w 15 5) (fld w 10 5))
  else if bitsAt w 0 15 = 3 then some (.vmnot (fld w 20 5) (fld w 15 5))
  else if bitsAt w 0 15 = 4 then some (.vmpopc (fld w 20 5) (fld w 15 5))
  else if bitsAt w 0 15 = 5 then some (.vmfirst (fld w 20 5) (fld w 15 5))
  else none

/-- Major opcode 0x48: the assigned functions; none of them answers `none`. -/
def decodeMajor48 (w : BitVec 32) : Option Instr :=
  if bitsAt w 0 5 = 0 ∧ bitsAt w 8 7 = 0 then some (.vmvx (fld w 20 5) (fld w 15 5) (fld w 5 3))
  else if bitsAt w 0 9 = 1 then some (.vmvs (fld w 20 5) (fld w 15 5) (fld w 10 5) (fld w 9 1))
  else if bitsAt w 0 5 = 2 ∧ bitsAt w 8 12 = 0 then some (.vid (fld w 20 5) (fld w 5 3))
  else if bitsAt w 0 5 = 3 ∧ bitsAt w 8 1 = 0 ∧ bitsAt w 10 5 = 0 then some (.vshape (fld w 20 5) (fld w 15 5) (fld w 9 1) (fld w 5 3))
  else none

/-- Major opcode 0x49: the assigned functions; none of them answers `none`. -/
def decodeMajor49 (w : BitVec 32) : Option Instr :=
  if bitsAt w 0 5 = 0 then some (.vrope (fld w 20 5) (fld w 15 5) (fld w 10 5) (fld w 9 1) (fld w 8 1) (fld w 5 3))
  else if bitsAt w 0 10 = 1 then some (.vscld (fld w 20 5) (fld w 15 5) (fld w 10 5))
  else if bitsAt w 0 10 = 2 then some (.vscst (fld w 20 5) (fld w 15 5) (fld w 10 5))
  else none

/-- Major opcode 0x4A: the assigned functions; none of them answers `none`. -/
def decodeMajor4A (w : BitVec 32) : Option Instr :=
  if bitsAt w 8 7 = 0 then some (.vsetl (fld w 20 5) (fld w 15 5) (fld w 0 8))
  else if bitsAt w 8 7 = 1 then some (.vsetlg (fld w 20 5) (fld w 15 5) (fld w 0 8))
  else if bitsAt w 0 10 = 512 then some (.kvsetrun (fld w 20 5) (fld w 15 5) (fld w 10 5))
  else none

/-- Major opcode 0x4B: the assigned functions; none of them answers `none`. -/
def decodeMajor4B (w : BitVec 32) : Option Instr :=
  if bitsAt w 0 5 = 0 ∧ bitsAt w 24 1 = 0 then some (.mopa (fld w 20 4) (fld w 15 5) (fld w 10 5) (fld w 9 1) (fld w 8 1) (fld w 5 3))
  else none

/-- Major opcode 0x50: the assigned functions; none of them answers `none`. -/
def decodeMajor50 (w : BitVec 32) : Option Instr :=
  if bitsAt w 0 3 = 0 ∧ bitsAt w 12 3 = 0 then some (.vld (fld w 20 5) (fld w 15 5) (fld w 10 2) (fld w 9 1) (fld w 8 1) (fld w 5 3) (fld w 3 2))
  else if bitsAt w 0 3 = 1 then some (.vlds (fld w 20 5) (fld w 15 5) (fld w 10 5) (fld w 9 1) (fld w 8 1) (fld w 5 3) (fld w 3 2))
  else if bitsAt w 0 3 = 2 then some (.vldx (fld w 20 5) (fld w 15 5) (fld w 10 5) (fld w 9 1) (fld w 8 1) (fld w 5 3) (fld w 3 2))
  else if bitsAt w 0 3 = 3 ∧ bitsAt w 12 3 = 0 then some (.vldff (fld w 20 5) (fld w 15 5) (fld w 10 2) (fld w 9 1) (fld w 8 1) (fld w 5 3) (fld w 3 2))
  else none

/-- Major opcode 0x51: the assigned functions; none of them answers `none`. -/
def decodeMajor51 (w : BitVec 32) : Option Instr :=
  if bitsAt w 0 3 = 0 ∧ bitsAt w 12 3 = 0 then some (.vst (fld w 20 5) (fld w 15 5) (fld w 10 2) (fld w 9 1) (fld w 8 1) (fld w 5 3) (fld w 3 2))
  else if bitsAt w 0 3 = 1 then some (.vsts (fld w 20 5) (fld w 15 5) (fld w 10 5) (fld w 9 1) (fld w 8 1) (fld w 5 3) (fld w 3 2))
  else if bitsAt w 0 3 = 2 then some (.vstx (fld w 20 5) (fld w 15 5) (fld w 10 5) (fld w 9 1) (fld w 8 1) (fld w 5 3) (fld w 3 2))
  else none

/-- Major opcode 0x52: the assigned functions; none of them answers `none`. -/
def decodeMajor52 (w : BitVec 32) : Option Instr :=
  if bitsAt w 0 5 = 0 ∧ bitsAt w 8 2 = 0 then some (.vldt (fld w 20 5) (fld w 15 5) (fld w 10 5) (fld w 5 3))
  else if bitsAt w 0 5 = 1 ∧ bitsAt w 8 2 = 0 then some (.vstt (fld w 20 5) (fld w 15 5) (fld w 10 5) (fld w 5 3))
  else if bitsAt w 0 5 = 2 ∧ bitsAt w 8 2 = 0 then some (.vldtt (fld w 20 5) (fld w 15 5) (fld w 10 5) (fld w 5 3))
  else none

/-- Major opcode 0x53: the assigned functions; none of them answers `none`. -/
def decodeMajor53 (w : BitVec 32) : Option Instr :=
  if bitsAt w 0 1 = 0 ∧ bitsAt w 2 3 = 0 then some (.vldkv (fld w 20 5) (fld w 15 5) (fld w 10 5) (fld w 9 1) (fld w 8 1) (fld w 5 3) (fld w 1 1))
  else if bitsAt w 0 1 = 1 ∧ bitsAt w 2 3 = 0 then some (.vstkv (fld w 20 5) (fld w 15 5) (fld w 10 5) (fld w 9 1) (fld w 8 1) (fld w 5 3) (fld w 1 1))
  else none

/-- Major opcode 0x60: the assigned functions; none of them answers `none`. -/
def decodeMajor60 (w : BitVec 32) : Option Instr :=
  if bitsAt w 0 15 = 0 then some (.cpy (fld w 20 5) (fld w 15 5))
  else if bitsAt w 0 15 = 64 then some (.cpy2d (fld w 20 5) (fld w 15 5))
  else if bitsAt w 0 15 = 128 then some (.cpyf (fld w 20 5) (fld w 15 5))
  else if bitsAt w 0 15 = 192 then some (.cpysh (fld w 20 5) (fld w 15 5))
  else if bitsAt w 0 20 = 256 then some (.publish (fld w 20 5))
  else if bitsAt w 0 15 = 320 then some (.cpymm (fld w 20 5) (fld w 15 5))
  else if bitsAt w 0 15 = 384 then some (.rowcopy (fld w 20 5) (fld w 15 5))
  else if bitsAt w 0 15 = 448 then some (.rowfill (fld w 20 5) (fld w 15 5))
  else if bitsAt w 0 15 = 4096 then some (.tcfg (fld w 20 5) (fld w 15 5))
  else if bitsAt w 0 15 = 4160 then some (.tstate (fld w 20 5) (fld w 15 5))
  else if bitsAt w 0 15 = 4224 then some (.mshape (fld w 20 5) (fld w 15 5))
  else if bitsAt w 4 11 = 268 then some (.mma (fld w 20 5) (fld w 15 5) (fld w 0 4))
  else if bitsAt w 4 11 = 272 then some (.mmag (fld w 20 5) (fld w 15 5) (fld w 0 4))
  else if bitsAt w 4 11 = 276 then some (.mmrot (fld w 20 5) (fld w 15 5) (fld w 0 4))
  else if bitsAt w 0 20 = 4480 then some (.mswap (fld w 20 5))
  else if bitsAt w 4 16 = 284 then some (.macq (fld w 20 5) (fld w 0 4))
  else if bitsAt w 4 21 = 288 then some (.mrel (fld w 0 4))
  else if bitsAt w 4 16 = 292 then some (.mdrain (fld w 20 5) (fld w 0 4))
  else if bitsAt w 4 16 = 296 then some (.mfill (fld w 20 5) (fld w 0 4))
  else if bitsAt w 4 21 = 300 then some (.mzero (fld w 0 4))
  else if bitsAt w 4 21 = 304 then some (.mreclaim (fld w 0 4))
  else if bitsAt w 4 16 = 308 then some (.mstat (fld w 20 5) (fld w 0 4))
  else if bitsAt w 0 15 = 8192 then some (.kvmap (fld w 20 5) (fld w 15 5))
  else if bitsAt w 0 15 = 8256 then some (.kvunmap (fld w 20 5) (fld w 15 5))
  else if bitsAt w 0 15 = 8320 then some (.kvlook (fld w 20 5) (fld w 15 5))
  else if bitsAt w 0 15 = 8384 then some (.kvver (fld w 20 5) (fld w 15 5))
  else if bitsAt w 0 15 = 8448 then some (.kvret (fld w 20 5) (fld w 15 5))
  else if bitsAt w 0 15 = 8512 then some (.kvhash (fld w 20 5) (fld w 15 5))
  else if bitsAt w 0 15 = 8576 then some (.kvalloc (fld w 20 5) (fld w 15 5))
  else if bitsAt w 0 15 = 8640 then some (.kvfree (fld w 20 5) (fld w 15 5))
  else if bitsAt w 0 15 = 8704 then some (.kvpin (fld w 20 5) (fld w 15 5))
  else if bitsAt w 0 15 = 8768 then some (.kvunpin (fld w 20 5) (fld w 15 5))
  else if bitsAt w 0 15 = 8832 then some (.kvappend (fld w 20 5) (fld w 15 5))
  else if bitsAt w 0 15 = 12288 then some (.nput (fld w 20 5) (fld w 15 5))
  else if bitsAt w 0 15 = 12352 then some (.nget (fld w 20 5) (fld w 15 5))
  else if bitsAt w 0 15 = 12416 then some (.namo (fld w 20 5) (fld w 15 5))
  else if bitsAt w 0 15 = 12480 then some (.nsig (fld w 20 5) (fld w 15 5))
  else if bitsAt w 0 20 = 12544 then some (.nsend (fld w 20 5))
  else if bitsAt w 4 16 = 1792 then some (.eset (fld w 20 5) (fld w 0 4))
  else if bitsAt w 4 16 = 1796 then some (.eget (fld w 20 5) (fld w 0 4))
  else none

/-- The assigned instruction a word's bits spell, before the checks on its field values (R284). -/
def decodeRaw (w : BitVec 32) : Option Instr :=
  match bitsAt w 25 7 with
  | 0x01 => decodeMajor01 w
  | 0x02 => decodeMajor02 w
  | 0x03 => decodeMajor03 w
  | 0x04 => decodeMajor04 w
  | 0x10 => decodeMajor10 w
  | 0x11 => decodeMajor11 w
  | 0x12 => decodeMajor12 w
  | 0x13 => decodeMajor13 w
  | 0x14 => decodeMajor14 w
  | 0x15 => decodeMajor15 w
  | 0x16 => decodeMajor16 w
  | 0x17 => decodeMajor17 w
  | 0x18 => decodeMajor18 w
  | 0x19 => decodeMajor19 w
  | 0x20 => decodeMajor20 w
  | 0x21 => decodeMajor21 w
  | 0x22 => decodeMajor22 w
  | 0x23 => decodeMajor23 w
  | 0x24 => decodeMajor24 w
  | 0x25 => decodeMajor25 w
  | 0x26 => decodeMajor26 w
  | 0x27 => decodeMajor27 w
  | 0x28 => decodeMajor28 w
  | 0x29 => decodeMajor29 w
  | 0x2A => decodeMajor2A w
  | 0x2B => decodeMajor2B w
  | 0x2C => decodeMajor2C w
  | 0x2D => decodeMajor2D w
  | 0x30 => decodeMajor30 w
  | 0x31 => decodeMajor31 w
  | 0x32 => decodeMajor32 w
  | 0x33 => decodeMajor33 w
  | 0x34 => decodeMajor34 w
  | 0x38 => decodeMajor38 w
  | 0x39 => decodeMajor39 w
  | 0x3A => decodeMajor3A w
  | 0x3B => decodeMajor3B w
  | 0x3C => decodeMajor3C w
  | 0x3D => decodeMajor3D w
  | 0x40 => decodeMajor40 w
  | 0x41 => decodeMajor41 w
  | 0x42 => decodeMajor42 w
  | 0x43 => decodeMajor43 w
  | 0x44 => decodeMajor44 w
  | 0x45 => decodeMajor45 w
  | 0x46 => decodeMajor46 w
  | 0x47 => decodeMajor47 w
  | 0x48 => decodeMajor48 w
  | 0x49 => decodeMajor49 w
  | 0x4A => decodeMajor4A w
  | 0x4B => decodeMajor4B w
  | 0x50 => decodeMajor50 w
  | 0x51 => decodeMajor51 w
  | 0x52 => decodeMajor52 w
  | 0x53 => decodeMajor53 w
  | 0x60 => decodeMajor60 w
  | _ => none

/-- What a word decodes to: an instruction, or one of the two fates of R283. -/
inductive Decoded where
  | ok (i : Instr)
  | rsv
  | ill
  deriving DecidableEq, Repr

/-- The decoder. The words of all zeros and of all ones are `ILL`; an unassigned encoding is `RSV`; an
assigned one whose field value is refused has the fate `Instr.refusal` names (R282, R283). (DEDUCED, log entry 19.) -/
def decode (w : BitVec 32) : Decoded :=
  if w = 0 ∨ w = BitVec.allOnes 32 then .ill
  else
    match decodeRaw w with
    | none => .rsv
    | some i =>
      match i.refusal with
      | none => .ok i
      | some .rsv => .rsv
      | some .ill => .ill

/-- A word's value with a field value put in from bit `lo` up. -/
def put (acc v lo : Nat) : Nat := acc + v * 2 ^ lo

/-- The word of an instruction, from the encoding tables R281-R295; an event has none. -/
def encode (i : Instr) : Option (BitVec 32) :=
  match i with
  | .add d a b => some (BitVec.ofNat 32 (put (put (put 0x02000000 d.toNat 20) a.toNat 15) b.toNat 10))
  | .sub d a b => some (BitVec.ofNat 32 (put (put (put 0x02000001 d.toNat 20) a.toNat 15) b.toNat 10))
  | .and d a b => some (BitVec.ofNat 32 (put (put (put 0x02000002 d.toNat 20) a.toNat 15) b.toNat 10))
  | .or d a b => some (BitVec.ofNat 32 (put (put (put 0x02000003 d.toNat 20) a.toNat 15) b.toNat 10))
  | .xor d a b => some (BitVec.ofNat 32 (put (put (put 0x02000004 d.toNat 20) a.toNat 15) b.toNat 10))
  | .andn d a b => some (BitVec.ofNat 32 (put (put (put 0x02000005 d.toNat 20) a.toNat 15) b.toNat 10))
  | .orn d a b => some (BitVec.ofNat 32 (put (put (put 0x02000006 d.toNat 20) a.toNat 15) b.toNat 10))
  | .sll d a b => some (BitVec.ofNat 32 (put (put (put 0x02000007 d.toNat 20) a.toNat 15) b.toNat 10))
  | .srl d a b => some (BitVec.ofNat 32 (put (put (put 0x02000008 d.toNat 20) a.toNat 15) b.toNat 10))
  | .sra d a b => some (BitVec.ofNat 32 (put (put (put 0x02000009 d.toNat 20) a.toNat 15) b.toNat 10))
  | .rot d a b => some (BitVec.ofNat 32 (put (put (put 0x0200000A d.toNat 20) a.toNat 15) b.toNat 10))
  | .slt d a b => some (BitVec.ofNat 32 (put (put (put 0x0200000B d.toNat 20) a.toNat 15) b.toNat 10))
  | .sltu d a b => some (BitVec.ofNat 32 (put (put (put 0x0200000C d.toNat 20) a.toNat 15) b.toNat 10))
  | .seq d a b => some (BitVec.ofNat 32 (put (put (put 0x0200000D d.toNat 20) a.toNat 15) b.toNat 10))
  | .min d a b => some (BitVec.ofNat 32 (put (put (put 0x0200000E d.toNat 20) a.toNat 15) b.toNat 10))
  | .max d a b => some (BitVec.ofNat 32 (put (put (put 0x0200000F d.toNat 20) a.toNat 15) b.toNat 10))
  | .minu d a b => some (BitVec.ofNat 32 (put (put (put 0x02000010 d.toNat 20) a.toNat 15) b.toNat 10))
  | .maxu d a b => some (BitVec.ofNat 32 (put (put (put 0x02000011 d.toNat 20) a.toNat 15) b.toNat 10))
  | .csel d a b c => some (BitVec.ofNat 32 (put (put (put (put 0x02000020 d.toNat 20) a.toNat 15) b.toNat 10) c.toNat 0))
  | .mul d a b => some (BitVec.ofNat 32 (put (put (put 0x04000000 d.toNat 20) a.toNat 15) b.toNat 10))
  | .mulh d a b => some (BitVec.ofNat 32 (put (put (put 0x04000001 d.toNat 20) a.toNat 15) b.toNat 10))
  | .mulhu d a b => some (BitVec.ofNat 32 (put (put (put 0x04000002 d.toNat 20) a.toNat 15) b.toNat 10))
  | .div d a b => some (BitVec.ofNat 32 (put (put (put 0x04000003 d.toNat 20) a.toNat 15) b.toNat 10))
  | .divu d a b => some (BitVec.ofNat 32 (put (put (put 0x04000004 d.toNat 20) a.toNat 15) b.toNat 10))
  | .rem d a b => some (BitVec.ofNat 32 (put (put (put 0x04000005 d.toNat 20) a.toNat 15) b.toNat 10))
  | .remu d a b => some (BitVec.ofNat 32 (put (put (put 0x04000006 d.toNat 20) a.toNat 15) b.toNat 10))
  | .clz d a => some (BitVec.ofNat 32 (put (put 0x06000000 d.toNat 20) a.toNat 15))
  | .ctz d a => some (BitVec.ofNat 32 (put (put 0x06001000 d.toNat 20) a.toNat 15))
  | .popc d a => some (BitVec.ofNat 32 (put (put 0x06002000 d.toNat 20) a.toNat 15))
  | .bswap d a => some (BitVec.ofNat 32 (put (put 0x06003000 d.toNat 20) a.toNat 15))
  | .sext d a n => some (BitVec.ofNat 32 (put (put (put 0x06004000 d.toNat 20) a.toNat 15) n.toNat 0))
  | .zext d a n => some (BitVec.ofNat 32 (put (put (put 0x06005000 d.toNat 20) a.toNat 15) n.toNat 0))
  | .bfx d a p l => some (BitVec.ofNat 32 (put (put (put (put 0x06006000 d.toNat 20) a.toNat 15) p.toNat 6) l.toNat 0))
  | .bfi d a p l => some (BitVec.ofNat 32 (put (put (put (put 0x06007000 d.toNat 20) a.toNat 15) p.toNat 6) l.toNat 0))
  | .fadd d a b r p => some (BitVec.ofNat 32 (put (put (put (put (put 0x08000000 d.toNat 20) a.toNat 15) b.toNat 10) r.toNat 7) p.toNat 4))
  | .fsub d a b r p => some (BitVec.ofNat 32 (put (put (put (put (put 0x08000001 d.toNat 20) a.toNat 15) b.toNat 10) r.toNat 7) p.toNat 4))
  | .fmul d a b r p => some (BitVec.ofNat 32 (put (put (put (put (put 0x08000002 d.toNat 20) a.toNat 15) b.toNat 10) r.toNat 7) p.toNat 4))
  | .fdiv d a b r p => some (BitVec.ofNat 32 (put (put (put (put (put 0x08000003 d.toNat 20) a.toNat 15) b.toNat 10) r.toNat 7) p.toNat 4))
  | .fsqrt d a r p => some (BitVec.ofNat 32 (put (put (put (put 0x08000004 d.toNat 20) a.toNat 15) r.toNat 7) p.toNat 4))
  | .fma d a b r p => some (BitVec.ofNat 32 (put (put (put (put (put 0x08000005 d.toNat 20) a.toNat 15) b.toNat 10) r.toNat 7) p.toNat 4))
  | .fmin d a b p => some (BitVec.ofNat 32 (put (put (put (put 0x08000006 d.toNat 20) a.toNat 15) b.toNat 10) p.toNat 4))
  | .fmax d a b p => some (BitVec.ofNat 32 (put (put (put (put 0x08000007 d.toNat 20) a.toNat 15) b.toNat 10) p.toNat 4))
  | .fcmp d a b c p => some (BitVec.ofNat 32 (put (put (put (put (put 0x08000008 d.toNat 20) a.toNat 15) b.toNat 10) c.toNat 5) p.toNat 4))
  | .fcvt d a s r t => some (BitVec.ofNat 32 (put (put (put (put (put 0x08000009 d.toNat 20) a.toNat 15) s.toNat 10) r.toNat 7) t.toNat 4))
  | .addi d a i => some (BitVec.ofNat 32 (put (put (put 0x20000000 d.toNat 20) a.toNat 15) i.toNat 0))
  | .andi d a i => some (BitVec.ofNat 32 (put (put (put 0x22000000 d.toNat 20) a.toNat 15) i.toNat 0))
  | .ori d a i => some (BitVec.ofNat 32 (put (put (put 0x24000000 d.toNat 20) a.toNat 15) i.toNat 0))
  | .xori d a i => some (BitVec.ofNat 32 (put (put (put 0x26000000 d.toNat 20) a.toNat 15) i.toNat 0))
  | .slli d a n => some (BitVec.ofNat 32 (put (put (put 0x28000000 d.toNat 20) a.toNat 15) n.toNat 0))
  | .srli d a n => some (BitVec.ofNat 32 (put (put (put 0x28002000 d.toNat 20) a.toNat 15) n.toNat 0))
  | .srai d a n => some (BitVec.ofNat 32 (put (put (put 0x28004000 d.toNat 20) a.toNat 15) n.toNat 0))
  | .roti d a n => some (BitVec.ofNat 32 (put (put (put 0x28006000 d.toNat 20) a.toNat 15) n.toNat 0))
  | .slti d a i => some (BitVec.ofNat 32 (put (put (put 0x2A000000 d.toNat 20) a.toNat 15) i.toNat 0))
  | .sltui d a i => some (BitVec.ofNat 32 (put (put (put 0x2C000000 d.toNat 20) a.toNat 15) i.toNat 0))
  | .seqi d a i => some (BitVec.ofNat 32 (put (put (put 0x2E000000 d.toNat 20) a.toNat 15) i.toNat 0))
  | .lhi d i => some (BitVec.ofNat 32 (put (put 0x30000000 d.toNat 20) i.toNat 0))
  | .pcadd d i => some (BitVec.ofNat 32 (put (put 0x32000000 d.toNat 20) i.toNat 0))
  | .lb d a i => some (BitVec.ofNat 32 (put (put (put 0x40000000 d.toNat 20) a.toNat 15) i.toNat 0))
  | .lbu d a i => some (BitVec.ofNat 32 (put (put (put 0x42000000 d.toNat 20) a.toNat 15) i.toNat 0))
  | .lh d a i => some (BitVec.ofNat 32 (put (put (put 0x44000000 d.toNat 20) a.toNat 15) i.toNat 0))
  | .lhu d a i => some (BitVec.ofNat 32 (put (put (put 0x46000000 d.toNat 20) a.toNat 15) i.toNat 0))
  | .lw d a i => some (BitVec.ofNat 32 (put (put (put 0x48000000 d.toNat 20) a.toNat 15) i.toNat 0))
  | .lwu d a i => some (BitVec.ofNat 32 (put (put (put 0x4A000000 d.toNat 20) a.toNat 15) i.toNat 0))
  | .ld d a i => some (BitVec.ofNat 32 (put (put (put 0x4C000000 d.toNat 20) a.toNat 15) i.toNat 0))
  | .pref k a i => some (BitVec.ofNat 32 (put (put (put 0x4E000000 k.toNat 20) a.toNat 15) i.toNat 0))
  | .sb d a i => some (BitVec.ofNat 32 (put (put (put 0x50000000 d.toNat 20) a.toNat 15) i.toNat 0))
  | .sh d a i => some (BitVec.ofNat 32 (put (put (put 0x52000000 d.toNat 20) a.toNat 15) i.toNat 0))
  | .sw d a i => some (BitVec.ofNat 32 (put (put (put 0x54000000 d.toNat 20) a.toNat 15) i.toNat 0))
  | .sd d a i => some (BitVec.ofNat 32 (put (put (put 0x56000000 d.toNat 20) a.toNat 15) i.toNat 0))
  | .ldaq d a s i => some (BitVec.ofNat 32 (put (put (put (put 0x58000000 d.toNat 20) a.toNat 15) s.toNat 12) i.toNat 0))
  | .sdrl d a s i => some (BitVec.ofNat 32 (put (put (put (put 0x5A000000 d.toNat 20) a.toNat 15) s.toNat 12) i.toNat 0))
  | .jmp o => some (BitVec.ofNat 32 (put 0x60000000 o.toNat 0))
  | .jal o => some (BitVec.ofNat 32 (put 0x62000000 o.toNat 0))
  | .jalr d a i => some (BitVec.ofNat 32 (put (put (put 0x64000000 d.toNat 20) a.toNat 15) i.toNat 0))
  | .bc a b c o => some (BitVec.ofNat 32 (put (put (put (put 0x66000000 a.toNat 20) b.toNat 15) c.toNat 12) o.toNat 0))
  | .dbnz d i => some (BitVec.ofNat 32 (put (put 0x68000000 d.toNat 20) i.toNat 0))
  | .csrr d c => some (BitVec.ofNat 32 (put (put 0x70000000 d.toNat 20) c.toNat 0))
  | .csrw d a c => some (BitVec.ofNat 32 (put (put (put 0x70001000 d.toNat 20) a.toNat 15) c.toNat 0))
  | .csrs d a c => some (BitVec.ofNat 32 (put (put (put 0x70002000 d.toNat 20) a.toNat 15) c.toNat 0))
  | .csrc d a c => some (BitVec.ofNat 32 (put (put (put 0x70003000 d.toNat 20) a.toNat 15) c.toNat 0))
  | .ecall => some (BitVec.ofNat 32 (0x70004000))
  | .ebreak => some (BitVec.ofNat 32 (0x70004001))
  | .tret => some (BitVec.ofNat 32 (0x70004002))
  | .isync => some (BitVec.ofNat 32 (0x70004003))
  | .fenceSv => some (BitVec.ofNat 32 (0x70004004))
  | .fenceVs => some (BitVec.ofNat 32 (0x70004005))
  | .fenceVv => some (BitVec.ofNat 32 (0x70004006))
  | .fence s e f g h => some (BitVec.ofNat 32 (put (put (put (put (put 0x70005000 s.toNat 9) e.toNat 3) f.toNat 2) g.toNat 1) h.toNat 0))
  | .fmt a b d k l => some (BitVec.ofNat 32 (put (put (put (put (put 0x72000000 a.toNat 20) b.toNat 15) d.toNat 10) k.toNat 5) l.toNat 0))
  | .await d a b => some (BitVec.ofNat 32 (put (put (put 0x74000000 d.toNat 20) a.toNat 15) b.toNat 10))
  | .awaitq d a b => some (BitVec.ofNat 32 (put (put (put 0x74000001 d.toNat 20) a.toNat 15) b.toNat 10))
  | .yield a => some (BitVec.ofNat 32 (put 0x74000002 a.toNat 15))
  | .exit => some (BitVec.ofNat 32 (0x74000003))
  | .spawn d a b => some (BitVec.ofNat 32 (put (put (put 0x74000004 d.toNat 20) a.toNat 15) b.toNat 10))
  | .gbar a => some (BitVec.ofNat 32 (put 0x74000005 a.toNat 15))
  | .migrate a b => some (BitVec.ofNat 32 (put (put 0x74000006 a.toNat 15) b.toNat 10))
  | .cresume a => some (BitVec.ofNat 32 (put 0x74000007 a.toNat 15))
  | .ckill a => some (BitVec.ofNat 32 (put 0x74000008 a.toNat 15))
  | .beacon d a => some (BitVec.ofNat 32 (put (put 0x76000000 d.toNat 20) a.toNat 15))
  | .bfree a => some (BitVec.ofNat 32 (put 0x76000001 a.toNat 15))
  | .bset a b => some (BitVec.ofNat 32 (put (put 0x76000002 a.toNat 15) b.toNat 10))
  | .bsig a b => some (BitVec.ofNat 32 (put (put 0x76000003 a.toNat 15) b.toNat 10))
  | .bread d a => some (BitVec.ofNat 32 (put (put 0x76000004 d.toNat 20) a.toNat 15))
  | .amoadd d a b s l q w => some (BitVec.ofNat 32 (put (put (put (put (put (put (put 0x78000000 d.toNat 20) a.toNat 15) b.toNat 10) s.toNat 7) l.toNat 6) q.toNat 5) w.toNat 4))
  | .amoand d a b s l q w => some (BitVec.ofNat 32 (put (put (put (put (put (put (put 0x78000001 d.toNat 20) a.toNat 15) b.toNat 10) s.toNat 7) l.toNat 6) q.toNat 5) w.toNat 4))
  | .amoor d a b s l q w => some (BitVec.ofNat 32 (put (put (put (put (put (put (put 0x78000002 d.toNat 20) a.toNat 15) b.toNat 10) s.toNat 7) l.toNat 6) q.toNat 5) w.toNat 4))
  | .amoxor d a b s l q w => some (BitVec.ofNat 32 (put (put (put (put (put (put (put 0x78000003 d.toNat 20) a.toNat 15) b.toNat 10) s.toNat 7) l.toNat 6) q.toNat 5) w.toNat 4))
  | .amomin d a b s l q w => some (BitVec.ofNat 32 (put (put (put (put (put (put (put 0x78000004 d.toNat 20) a.toNat 15) b.toNat 10) s.toNat 7) l.toNat 6) q.toNat 5) w.toNat 4))
  | .amomax d a b s l q w => some (BitVec.ofNat 32 (put (put (put (put (put (put (put 0x78000005 d.toNat 20) a.toNat 15) b.toNat 10) s.toNat 7) l.toNat 6) q.toNat 5) w.toNat 4))
  | .amominu d a b s l q w => some (BitVec.ofNat 32 (put (put (put (put (put (put (put 0x78000006 d.toNat 20) a.toNat 15) b.toNat 10) s.toNat 7) l.toNat 6) q.toNat 5) w.toNat 4))
  | .amomaxu d a b s l q w => some (BitVec.ofNat 32 (put (put (put (put (put (put (put 0x78000007 d.toNat 20) a.toNat 15) b.toNat 10) s.toNat 7) l.toNat 6) q.toNat 5) w.toNat 4))
  | .amoswp d a b s l q w => some (BitVec.ofNat 32 (put (put (put (put (put (put (put 0x78000008 d.toNat 20) a.toNat 15) b.toNat 10) s.toNat 7) l.toNat 6) q.toNat 5) w.toNat 4))
  | .amocas d a b s l q w => some (BitVec.ofNat 32 (put (put (put (put (put (put (put 0x78000009 d.toNat 20) a.toNat 15) b.toNat 10) s.toNat 7) l.toNat 6) q.toNat 5) w.toNat 4))
  | .amoincw d a b s l q w => some (BitVec.ofNat 32 (put (put (put (put (put (put (put 0x7800000A d.toNat 20) a.toNat 15) b.toNat 10) s.toNat 7) l.toNat 6) q.toNat 5) w.toNat 4))
  | .amoaddb d a b s l q w => some (BitVec.ofNat 32 (put (put (put (put (put (put (put 0x7800000B d.toNat 20) a.toNat 15) b.toNat 10) s.toNat 7) l.toNat 6) q.toNat 5) w.toNat 4))
  | .lr d a s q w => some (BitVec.ofNat 32 (put (put (put (put (put 0x7A000000 d.toNat 20) a.toNat 15) s.toNat 7) q.toNat 5) w.toNat 4))
  | .sc d a b s l q w => some (BitVec.ofNat 32 (put (put (put (put (put (put (put 0x7A000001 d.toNat 20) a.toNat 15) b.toNat 10) s.toNat 7) l.toNat 6) q.toNat 5) w.toNat 4))
  | .waitrs a => some (BitVec.ofNat 32 (put 0x7A000002 a.toNat 15))
  | .vadd d a b c e m => some (BitVec.ofNat 32 (put (put (put (put (put (put 0x80000000 d.toNat 20) a.toNat 15) b.toNat 10) c.toNat 9) e.toNat 8) m.toNat 5))
  | .vsub d a b c e m => some (BitVec.ofNat 32 (put (put (put (put (put (put 0x80000001 d.toNat 20) a.toNat 15) b.toNat 10) c.toNat 9) e.toNat 8) m.toNat 5))
  | .vmul d a b c e m => some (BitVec.ofNat 32 (put (put (put (put (put (put 0x80000002 d.toNat 20) a.toNat 15) b.toNat 10) c.toNat 9) e.toNat 8) m.toNat 5))
  | .vmulh d a b c e m => some (BitVec.ofNat 32 (put (put (put (put (put (put 0x80000003 d.toNat 20) a.toNat 15) b.toNat 10) c.toNat 9) e.toNat 8) m.toNat 5))
  | .vmac d a b c e m => some (BitVec.ofNat 32 (put (put (put (put (put (put 0x80000004 d.toNat 20) a.toNat 15) b.toNat 10) c.toNat 9) e.toNat 8) m.toNat 5))
  | .vmin d a b c e m => some (BitVec.ofNat 32 (put (put (put (put (put (put 0x80000005 d.toNat 20) a.toNat 15) b.toNat 10) c.toNat 9) e.toNat 8) m.toNat 5))
  | .vmax d a b c e m => some (BitVec.ofNat 32 (put (put (put (put (put (put 0x80000006 d.toNat 20) a.toNat 15) b.toNat 10) c.toNat 9) e.toNat 8) m.toNat 5))
  | .vminu d a b c e m => some (BitVec.ofNat 32 (put (put (put (put (put (put 0x80000007 d.toNat 20) a.toNat 15) b.toNat 10) c.toNat 9) e.toNat 8) m.toNat 5))
  | .vmaxu d a b c e m => some (BitVec.ofNat 32 (put (put (put (put (put (put 0x80000008 d.toNat 20) a.toNat 15) b.toNat 10) c.toNat 9) e.toNat 8) m.toNat 5))
  | .vsadd d a b c e m => some (BitVec.ofNat 32 (put (put (put (put (put (put 0x80000009 d.toNat 20) a.toNat 15) b.toNat 10) c.toNat 9) e.toNat 8) m.toNat 5))
  | .vssub d a b c e m => some (BitVec.ofNat 32 (put (put (put (put (put (put 0x8000000A d.toNat 20) a.toNat 15) b.toNat 10) c.toNat 9) e.toNat 8) m.toNat 5))
  | .vabs d a c m => some (BitVec.ofNat 32 (put (put (put (put 0x8000000B d.toNat 20) a.toNat 15) c.toNat 9) m.toNat 5))
  | .vand d a b c e m => some (BitVec.ofNat 32 (put (put (put (put (put (put 0x82000000 d.toNat 20) a.toNat 15) b.toNat 10) c.toNat 9) e.toNat 8) m.toNat 5))
  | .vor d a b c e m => some (BitVec.ofNat 32 (put (put (put (put (put (put 0x82000001 d.toNat 20) a.toNat 15) b.toNat 10) c.toNat 9) e.toNat 8) m.toNat 5))
  | .vxor d a b c e m => some (BitVec.ofNat 32 (put (put (put (put (put (put 0x82000002 d.toNat 20) a.toNat 15) b.toNat 10) c.toNat 9) e.toNat 8) m.toNat 5))
  | .vsll d a b c e m => some (BitVec.ofNat 32 (put (put (put (put (put (put 0x82000003 d.toNat 20) a.toNat 15) b.toNat 10) c.toNat 9) e.toNat 8) m.toNat 5))
  | .vsrl d a b c e m => some (BitVec.ofNat 32 (put (put (put (put (put (put 0x82000004 d.toNat 20) a.toNat 15) b.toNat 10) c.toNat 9) e.toNat 8) m.toNat 5))
  | .vsra d a b c e m => some (BitVec.ofNat 32 (put (put (put (put (put (put 0x82000005 d.toNat 20) a.toNat 15) b.toNat 10) c.toNat 9) e.toNat 8) m.toNat 5))
  | .vcmp d a b c e o => some (BitVec.ofNat 32 (put (put (put (put (put (put 0x84000000 d.toNat 20) a.toNat 15) b.toNat 10) c.toNat 9) e.toNat 8) o.toNat 0))
  | .vmerge d a b c e m => some (BitVec.ofNat 32 (put (put (put (put (put (put 0x84000010 d.toNat 20) a.toNat 15) b.toNat 10) c.toNat 9) e.toNat 8) m.toNat 5))
  | .vfadd d a b c e m => some (BitVec.ofNat 32 (put (put (put (put (put (put 0x86000000 d.toNat 20) a.toNat 15) b.toNat 10) c.toNat 9) e.toNat 8) m.toNat 5))
  | .vfsub d a b c e m => some (BitVec.ofNat 32 (put (put (put (put (put (put 0x86000001 d.toNat 20) a.toNat 15) b.toNat 10) c.toNat 9) e.toNat 8) m.toNat 5))
  | .vfmul d a b c e m => some (BitVec.ofNat 32 (put (put (put (put (put (put 0x86000002 d.toNat 20) a.toNat 15) b.toNat 10) c.toNat 9) e.toNat 8) m.toNat 5))
  | .vfma d a b c e m => some (BitVec.ofNat 32 (put (put (put (put (put (put 0x86000003 d.toNat 20) a.toNat 15) b.toNat 10) c.toNat 9) e.toNat 8) m.toNat 5))
  | .vfnma d a b c e m => some (BitVec.ofNat 32 (put (put (put (put (put (put 0x86000004 d.toNat 20) a.toNat 15) b.toNat 10) c.toNat 9) e.toNat 8) m.toNat 5))
  | .vfmin d a b c e m => some (BitVec.ofNat 32 (put (put (put (put (put (put 0x86000005 d.toNat 20) a.toNat 15) b.toNat 10) c.toNat 9) e.toNat 8) m.toNat 5))
  | .vfmax d a b c e m => some (BitVec.ofNat 32 (put (put (put (put (put (put 0x86000006 d.toNat 20) a.toNat 15) b.toNat 10) c.toNat 9) e.toNat 8) m.toNat 5))
  | .vfdiv d a b c e m => some (BitVec.ofNat 32 (put (put (put (put (put (put 0x86000007 d.toNat 20) a.toNat 15) b.toNat 10) c.toNat 9) e.toNat 8) m.toNat 5))
  | .vfsqrt d a c m => some (BitVec.ofNat 32 (put (put (put (put 0x86000008 d.toNat 20) a.toNat 15) c.toNat 9) m.toNat 5))
  | .vfrsq d a c m => some (BitVec.ofNat 32 (put (put (put (put 0x86000009 d.toNat 20) a.toNat 15) c.toNat 9) m.toNat 5))
  | .vfexp2 d a c m => some (BitVec.ofNat 32 (put (put (put (put 0x8600000A d.toNat 20) a.toNat 15) c.toNat 9) m.toNat 5))
  | .vfsgn d a b c e m => some (BitVec.ofNat 32 (put (put (put (put (put (put 0x8600000B d.toNat 20) a.toNat 15) b.toNat 10) c.toNat 9) e.toNat 8) m.toNat 5))
  | .vfcmp d a b c e o => some (BitVec.ofNat 32 (put (put (put (put (put (put 0x88000000 d.toNat 20) a.toNat 15) b.toNat 10) c.toNat 9) e.toNat 8) o.toNat 0))
  | .vfcvt d a c m k => some (BitVec.ofNat 32 (put (put (put (put (put 0x88000010 d.toNat 20) a.toNat 15) c.toNat 9) m.toNat 5) k.toNat 0))
  | .vredsum d a b c e m => some (BitVec.ofNat 32 (put (put (put (put (put (put 0x8A000000 d.toNat 20) a.toNat 15) b.toNat 10) c.toNat 9) e.toNat 8) m.toNat 5))
  | .vredmax d a b c e m => some (BitVec.ofNat 32 (put (put (put (put (put (put 0x8A000001 d.toNat 20) a.toNat 15) b.toNat 10) c.toNat 9) e.toNat 8) m.toNat 5))
  | .vredmin d a b c e m => some (BitVec.ofNat 32 (put (put (put (put (put (put 0x8A000002 d.toNat 20) a.toNat 15) b.toNat 10) c.toNat 9) e.toNat 8) m.toNat 5))
  | .vfredsum d a b c e m => some (BitVec.ofNat 32 (put (put (put (put (put (put 0x8A000003 d.toNat 20) a.toNat 15) b.toNat 10) c.toNat 9) e.toNat 8) m.toNat 5))
  | .vfredmax d a b c e m => some (BitVec.ofNat 32 (put (put (put (put (put (put 0x8A000004 d.toNat 20) a.toNat 15) b.toNat 10) c.toNat 9) e.toNat 8) m.toNat 5))
  | .vfredmin d a b c e m => some (BitVec.ofNat 32 (put (put (put (put (put (put 0x8A000005 d.toNat 20) a.toNat 15) b.toNat 10) c.toNat 9) e.toNat 8) m.toNat 5))
  | .vslideup d a b c m => some (BitVec.ofNat 32 (put (put (put (put (put 0x8C000000 d.toNat 20) a.toNat 15) b.toNat 10) c.toNat 9) m.toNat 5))
  | .vslidedn d a b c m => some (BitVec.ofNat 32 (put (put (put (put (put 0x8C000001 d.toNat 20) a.toNat 15) b.toNat 10) c.toNat 9) m.toNat 5))
  | .vgather d a b c e m => some (BitVec.ofNat 32 (put (put (put (put (put (put 0x8C000002 d.toNat 20) a.toNat 15) b.toNat 10) c.toNat 9) e.toNat 8) m.toNat 5))
  | .vcompress d a c m => some (BitVec.ofNat 32 (put (put (put (put 0x8C000003 d.toNat 20) a.toNat 15) c.toNat 9) m.toNat 5))
  | .vscan d a c m => some (BitVec.ofNat 32 (put (put (put (put 0x8C000004 d.toNat 20) a.toNat 15) c.toNat 9) m.toNat 5))
  | .vtopki a => some (BitVec.ofNat 32 (put 0x8C000005 a.toNat 15))
  | .vtopk a b c e m => some (BitVec.ofNat 32 (put (put (put (put (put 0x8C000006 a.toNat 15) b.toNat 10) c.toNat 9) e.toNat 8) m.toNat 5))
  | .vtopkr d a => some (BitVec.ofNat 32 (put (put 0x8C000007 d.toNat 20) a.toNat 15))
  | .vmand d a b => some (BitVec.ofNat 32 (put (put (put 0x8E000000 d.toNat 20) a.toNat 15) b.toNat 10))
  | .vmor d a b => some (BitVec.ofNat 32 (put (put (put 0x8E000001 d.toNat 20) a.toNat 15) b.toNat 10))
  | .vmxor d a b => some (BitVec.ofNat 32 (put (put (put 0x8E000002 d.toNat 20) a.toNat 15) b.toNat 10))
  | .vmnot d a => some (BitVec.ofNat 32 (put (put 0x8E000003 d.toNat 20) a.toNat 15))
  | .vmpopc d a => some (BitVec.ofNat 32 (put (put 0x8E000004 d.toNat 20) a.toNat 15))
  | .vmfirst d a => some (BitVec.ofNat 32 (put (put 0x8E000005 d.toNat 20) a.toNat 15))
  | .vmvx d a m => some (BitVec.ofNat 32 (put (put (put 0x90000000 d.toNat 20) a.toNat 15) m.toNat 5))
  | .vmvs d a b c => some (BitVec.ofNat 32 (put (put (put (put 0x90000001 d.toNat 20) a.toNat 15) b.toNat 10) c.toNat 9))
  | .vid d m => some (BitVec.ofNat 32 (put (put 0x90000002 d.toNat 20) m.toNat 5))
  | .vshape d a c m => some (BitVec.ofNat 32 (put (put (put (put 0x90000003 d.toNat 20) a.toNat 15) c.toNat 9) m.toNat 5))
  | .vrope d a b c e m => some (BitVec.ofNat 32 (put (put (put (put (put (put 0x92000000 d.toNat 20) a.toNat 15) b.toNat 10) c.toNat 9) e.toNat 8) m.toNat 5))
  | .vscld k a b => some (BitVec.ofNat 32 (put (put (put 0x92000001 k.toNat 20) a.toNat 15) b.toNat 10))
  | .vscst k a b => some (BitVec.ofNat 32 (put (put (put 0x92000002 k.toNat 20) a.toNat 15) b.toNat 10))
  | .vsetl d a t => some (BitVec.ofNat 32 (put (put (put 0x94000000 d.toNat 20) a.toNat 15) t.toNat 0))
  | .vsetlg d a t => some (BitVec.ofNat 32 (put (put (put 0x94000100 d.toNat 20) a.toNat 15) t.toNat 0))
  | .kvsetrun d a b => some (BitVec.ofNat 32 (put (put (put 0x94000200 d.toNat 20) a.toNat 15) b.toNat 10))
  | .mopa s a b c e m => some (BitVec.ofNat 32 (put (put (put (put (put (put 0x96000000 s.toNat 20) a.toNat 15) b.toNat 10) c.toNat 9) e.toNat 8) m.toNat 5))
  | .vld d a h o n m e => some (BitVec.ofNat 32 (put (put (put (put (put (put (put 0xA0000000 d.toNat 20) a.toNat 15) h.toNat 10) o.toNat 9) n.toNat 8) m.toNat 5) e.toNat 3))
  | .vlds d a s o n m e => some (BitVec.ofNat 32 (put (put (put (put (put (put (put 0xA0000001 d.toNat 20) a.toNat 15) s.toNat 10) o.toNat 9) n.toNat 8) m.toNat 5) e.toNat 3))
  | .vldx d a s o n m e => some (BitVec.ofNat 32 (put (put (put (put (put (put (put 0xA0000002 d.toNat 20) a.toNat 15) s.toNat 10) o.toNat 9) n.toNat 8) m.toNat 5) e.toNat 3))
  | .vldff d a h o n m e => some (BitVec.ofNat 32 (put (put (put (put (put (put (put 0xA0000003 d.toNat 20) a.toNat 15) h.toNat 10) o.toNat 9) n.toNat 8) m.toNat 5) e.toNat 3))
  | .vst d a h o n m e => some (BitVec.ofNat 32 (put (put (put (put (put (put (put 0xA2000000 d.toNat 20) a.toNat 15) h.toNat 10) o.toNat 9) n.toNat 8) m.toNat 5) e.toNat 3))
  | .vsts d a s o n m e => some (BitVec.ofNat 32 (put (put (put (put (put (put (put 0xA2000001 d.toNat 20) a.toNat 15) s.toNat 10) o.toNat 9) n.toNat 8) m.toNat 5) e.toNat 3))
  | .vstx d a s o n m e => some (BitVec.ofNat 32 (put (put (put (put (put (put (put 0xA2000002 d.toNat 20) a.toNat 15) s.toNat 10) o.toNat 9) n.toNat 8) m.toNat 5) e.toNat 3))
  | .vldt d t r m => some (BitVec.ofNat 32 (put (put (put (put 0xA4000000 d.toNat 20) t.toNat 15) r.toNat 10) m.toNat 5))
  | .vstt d t r m => some (BitVec.ofNat 32 (put (put (put (put 0xA4000001 d.toNat 20) t.toNat 15) r.toNat 10) m.toNat 5))
  | .vldtt d t r m => some (BitVec.ofNat 32 (put (put (put (put 0xA4000002 d.toNat 20) t.toNat 15) r.toNat 10) m.toNat 5))
  | .vldkv d a s o n m h => some (BitVec.ofNat 32 (put (put (put (put (put (put (put 0xA6000000 d.toNat 20) a.toNat 15) s.toNat 10) o.toNat 9) n.toNat 8) m.toNat 5) h.toNat 1))
  | .vstkv d a s o n m h => some (BitVec.ofNat 32 (put (put (put (put (put (put (put 0xA6000001 d.toNat 20) a.toNat 15) s.toNat 10) o.toNat 9) n.toNat 8) m.toNat 5) h.toNat 1))
  | .cpy a b => some (BitVec.ofNat 32 (put (put 0xC0000000 a.toNat 20) b.toNat 15))
  | .cpy2d a b => some (BitVec.ofNat 32 (put (put 0xC0000040 a.toNat 20) b.toNat 15))
  | .cpyf a b => some (BitVec.ofNat 32 (put (put 0xC0000080 a.toNat 20) b.toNat 15))
  | .cpysh a b => some (BitVec.ofNat 32 (put (put 0xC00000C0 a.toNat 20) b.toNat 15))
  | .publish a => some (BitVec.ofNat 32 (put 0xC0000100 a.toNat 20))
  | .cpymm a b => some (BitVec.ofNat 32 (put (put 0xC0000140 a.toNat 20) b.toNat 15))
  | .rowcopy a b => some (BitVec.ofNat 32 (put (put 0xC0000180 a.toNat 20) b.toNat 15))
  | .rowfill a b => some (BitVec.ofNat 32 (put (put 0xC00001C0 a.toNat 20) b.toNat 15))
  | .tcfg a b => some (BitVec.ofNat 32 (put (put 0xC0001000 a.toNat 20) b.toNat 15))
  | .tstate a t => some (BitVec.ofNat 32 (put (put 0xC0001040 a.toNat 20) t.toNat 15))
  | .mshape a b => some (BitVec.ofNat 32 (put (put 0xC0001080 a.toNat 20) b.toNat 15))
  | .mma a b s => some (BitVec.ofNat 32 (put (put (put 0xC00010C0 a.toNat 20) b.toNat 15) s.toNat 0))
  | .mmag a b s => some (BitVec.ofNat 32 (put (put (put 0xC0001100 a.toNat 20) b.toNat 15) s.toNat 0))
  | .mmrot a b s => some (BitVec.ofNat 32 (put (put (put 0xC0001140 a.toNat 20) b.toNat 15) s.toNat 0))
  | .mswap a => some (BitVec.ofNat 32 (put 0xC0001180 a.toNat 20))
  | .macq a s => some (BitVec.ofNat 32 (put (put 0xC00011C0 a.toNat 20) s.toNat 0))
  | .mrel s => some (BitVec.ofNat 32 (put 0xC0001200 s.toNat 0))
  | .mdrain a s => some (BitVec.ofNat 32 (put (put 0xC0001240 a.toNat 20) s.toNat 0))
  | .mfill a s => some (BitVec.ofNat 32 (put (put 0xC0001280 a.toNat 20) s.toNat 0))
  | .mzero s => some (BitVec.ofNat 32 (put 0xC00012C0 s.toNat 0))
  | .mreclaim s => some (BitVec.ofNat 32 (put 0xC0001300 s.toNat 0))
  | .mstat a s => some (BitVec.ofNat 32 (put (put 0xC0001340 a.toNat 20) s.toNat 0))
  | .kvmap a b => some (BitVec.ofNat 32 (put (put 0xC0002000 a.toNat 20) b.toNat 15))
  | .kvunmap a b => some (BitVec.ofNat 32 (put (put 0xC0002040 a.toNat 20) b.toNat 15))
  | .kvlook a b => some (BitVec.ofNat 32 (put (put 0xC0002080 a.toNat 20) b.toNat 15))
  | .kvver a b => some (BitVec.ofNat 32 (put (put 0xC00020C0 a.toNat 20) b.toNat 15))
  | .kvret a b => some (BitVec.ofNat 32 (put (put 0xC0002100 a.toNat 20) b.toNat 15))
  | .kvhash a b => some (BitVec.ofNat 32 (put (put 0xC0002140 a.toNat 20) b.toNat 15))
  | .kvalloc a b => some (BitVec.ofNat 32 (put (put 0xC0002180 a.toNat 20) b.toNat 15))
  | .kvfree a b => some (BitVec.ofNat 32 (put (put 0xC00021C0 a.toNat 20) b.toNat 15))
  | .kvpin a b => some (BitVec.ofNat 32 (put (put 0xC0002200 a.toNat 20) b.toNat 15))
  | .kvunpin a b => some (BitVec.ofNat 32 (put (put 0xC0002240 a.toNat 20) b.toNat 15))
  | .kvappend a b => some (BitVec.ofNat 32 (put (put 0xC0002280 a.toNat 20) b.toNat 15))
  | .nput a b => some (BitVec.ofNat 32 (put (put 0xC0003000 a.toNat 20) b.toNat 15))
  | .nget a b => some (BitVec.ofNat 32 (put (put 0xC0003040 a.toNat 20) b.toNat 15))
  | .namo a b => some (BitVec.ofNat 32 (put (put 0xC0003080 a.toNat 20) b.toNat 15))
  | .nsig a b => some (BitVec.ofNat 32 (put (put 0xC00030C0 a.toNat 20) b.toNat 15))
  | .nsend a => some (BitVec.ofNat 32 (put 0xC0003100 a.toNat 20))
  | .eset a c => some (BitVec.ofNat 32 (put (put 0xC0007000 a.toNat 20) c.toNat 0))
  | .eget a c => some (BitVec.ofNat 32 (put (put 0xC0007040 a.toNat 20) c.toNat 0))
  | .dispatch _ => none
  | .vectorEntryComplete _ => none
  | .storeAccept _ _ => none
  | .launchRecord _ => none
  | .launchStart _ => none
  | .launchAdmit _ => none
  | .gangPlace _ => none
  | .kvCommandRun _ => none
  | .copyPiece _ _ _ => none
  | .domeCommandStart _ => none
  | .powerGood => none
  | .functionLevelReset => none
  | .powerWindow _ => none
  | .thermalWarn _ _ => none
  | .thermalTrip _ _ => none
  | .thermalShutdown _ => none
  | .powerStateEnter _ => none
  | .unitWake _ => none
  | .partPwrtolWrite _ _ => none
  | .controlRegisterWrite _ _ _ => none
  | .hqCfgWrite _ _ => none
  | .hqTailWrite _ _ => none
  | .signalRecord _ => none
  | .terminationSweep _ => none
  | .evqCtlWrite _ => none
  | .evqHeadWrite _ => none
  | .evqIrqTimer => none
  | .fwStageImage => none
  | .fwAttest => none
  | .fwReadCert => none
  | .fwCommandDone => none
  | .faqPop _ _ => none
  | .memRetire _ => none
  | .memRetireDone => none
  | .patrolScrub _ _ _ => none
  | .cxlTimeout _ => none
  | .cxlPortDown _ => none
  | .partEnable _ => none
  | .partDisable _ => none
  | .partResume _ => none
  | .partSave _ => none
  | .partRestore _ => none
  | .partSeal _ => none
  | .partAdopt _ => none
  | .partOpComplete _ => none
  | .partBellWrite _ _ => none
  | .bellTime _ => none
  | .partStopComplete _ => none
  | .ualNodeWrite _ => none
  | .ualMapWrite _ _ => none
  | .windowAccess _ _ _ _ => none
  | .linkFault _ _ => none
  | .networkPieceSend _ _ => none
  | .remotePieceReceive _ _ _ _ _ => none
  | .remoteAck _ _ _ _ _ => none
  | .remoteTimeout _ _ _ => none
  | .nsendRequestRead _ _ => none
  | .uePacketReceive _ _ _ _ _ _ _ _ _ => none
  | .ueSelectiveAck _ _ _ _ => none
  | .ueRetransmitTimer _ _ _ => none
  | .ueRequestAbandon _ => none
  | .tsyncMessage _ => none
  | .tsyncLockLost => none
  | .quantumExpiry _ => none
  | .travelHopPlace _ => none
  | .spawnPlace _ => none
  | .migratePlace _ => none
  | .beaconSignalApply _ => none
  | .storeFault _ _ => none
  | .coroutineFree _ _ => none
  | .reservationGrant _ => none
  | .homeSliceTransaction _ _ _ => none
  | .remoteDrop _ _ => none
  | .rowPairCopy _ _ _ _ => none
  | .domeCommandComplete _ => none
  | .tileConfigure _ => none
  | .rotationLanding _ _ => none
  | .swapExchange _ => none
  | .followOnStart _ => none
  | .faultQueuePost _ _ => none
  | .ptbaseWrite _ => none
  | .xlinvPage _ => none
  | .xlinvRegion _ => none
  | .xlinvAsid _ => none
  | .xlinvAll _ => none
  | .kvbaseReloadOne _ => none
  | .kvbaseReloadAll _ => none
  | .svcwaysWrite _ => none
  | .svcbwWrite _ => none
  | .svcmapWrite _ => none
  | .fqheadWrite _ => none
  | .statusWrite _ => none
  | .prioWrite _ => none
  | .thermalCool _ _ => none
  | .uePortDown _ => none

/-- The decoder on the numbering of the opcode table: one 32-bit word, its bit 0 first. -/
def decodeTableWord (nbits w : Nat) : Option Instr :=
  match decode (BitVec.ofNat 32 (w % 2 ^ nbits)) with
  | .ok i => some i
  | .rsv => none
  | .ill => none

end Sys2Proof
end

