-- ==== Sys2Proof/Config.lean ====
section
/-! DEFINITION. What an implementation fixes and the values the spec leaves open: opaque constants, so that
no statement can rest on a value of theirs. The free values of one run are drawn by a counter in `Chip`. -/

namespace Sys2Proof.Config

/-- A 64-bit value the spec leaves open, the n-th drawn in a run. (DESIGN CHOICE, log entry 7.) -/
opaque freeWord : Nat → BitVec 64

/-- A choice the spec leaves open (which of two allowed events comes first), the n-th drawn in a run.
(DESIGN CHOICE, log entry 7.) -/
opaque freeBool : Nat → Bool

/-- The nanoseconds of `TIME` that pass in one step, the n-th drawn in a run (R10, R68). (DESIGN CHOICE, log entry 4.)
(DESIGN CHOICE, log entry 7.) (DESIGN CHOICE, log entry 45.) -/
opaque elapsed : Nat → Nat

/-- Whether an ECDSA P-384 signature (96 bytes) verifies over a 48-byte digest under a public key (R15, R92, R277).
(DESIGN CHOICE, log entry 7.) -/
opaque ecdsaVerify : List Byte → List Byte → List Byte → Bool

/-- The ECDSA P-384 signature by the part's identity key over a 48-byte digest; the counter makes each
signature's nonce free (R96, R277). (DESIGN CHOICE, log entry 7.) -/
opaque ecdsaSign : Nat → List Byte → List Byte

/-- The public key of the part's identity key pair (R96, R277). (DESIGN CHOICE, log entry 7.) -/
opaque identityKey : List Byte

/-- The per-boot save key, by boot number (R17, R274). (DESIGN CHOICE, log entry 7.) -/
opaque saveKey : Nat → List Byte

/-- The identity certificate, at most 2,048 bytes (R96). (DESIGN CHOICE, log entry 7.) -/
opaque certificate : List Byte

/-- Silicon stepping (R75). (DESIGN CHOICE, log entry 7.) -/
opaque stepping : BitVec 16

/-- Bytes a CXL port's memory device holds, at most 1,536 GiB (R25, R38). (DESIGN CHOICE, log entry 7.) -/
opaque cxlCapacity : Nat → Nat

/-- Whether boot trains and verifies each piece: the outside world's part of a boot stage (R17).
(DESIGN CHOICE, log entry 7.) -/
opaque bootPasses : Nat → Nat → Bool

/-- Where the lantern places the context spill region of a spire at a boot (R222, R269). (DESIGN CHOICE, log entry 7.) -/
opaque spillFrame : Nat → Nat → Nat

/-- Where the lantern places the two frames of a spire's beacon table at a boot (R138). (DESIGN CHOICE, log entry 7.) -/
opaque beaconFrame : Nat → Nat → Nat

/-- The microcode set identifier that a microcode image carries (R88); its place in the image is not given.
(DESIGN CHOICE, log entry 7.) -/
opaque microcodeSet : List Byte → BitVec 32

/-- The length in 64-byte units of a save-image section body whose layout the spec does not give, by section type (R274).
(DESIGN CHOICE, log entry 7.) -/
opaque bodyUnits : Nat → Nat

/-- The 48 check bits of a sector of 64 bytes: the spec gives what the code corrects and detects, not the code (R28).
(DESIGN CHOICE, log entry 50.) -/
opaque sectorCheck : List (BitVec 8) → BitVec 48

/-- The 16 check bits of the compass bits (R28). (DESIGN CHOICE, log entry 50.) -/
opaque compassCheck : BitVec 16 → BitVec 16

/-- Whether a row has been replaced by a spare row at channel repair: spire and slice as one number, bank, row (R34).
(DESIGN CHOICE, log entry 50.) -/
opaque spareRow : Nat → Nat → Nat → Bool

end Sys2Proof.Config
end

