-- ==== Sys2Proof/Machine/Map.lean ====
section
/-! DEFINITION. Finite maps as plain data: lists of key and value pairs, keys strictly rising. -/

namespace Sys2Proof.Machine

/-- A finite map by number, its keys strictly rising. -/
abbrev AMap (α : Type) := List (Nat × α)

/-- The value at a key, if there is one. -/
def mget {α : Type} (m : AMap α) (k : Nat) : Option α :=
  match m with
  | [] => none
  | (j, v) :: r => if j = k then some v else mget r k

/-- The value at a key, or a default. -/
def mgetD {α : Type} (m : AMap α) (k : Nat) (d : α) : α :=
  match mget m k with
  | some v => v
  | none => d

/-- The map with a key set. -/
def mset {α : Type} (m : AMap α) (k : Nat) (v : α) : AMap α :=
  match m with
  | [] => [(k, v)]
  | (j, u) :: r => if j = k then (k, v) :: r else if k < j then (k, v) :: (j, u) :: r else (j, u) :: mset r k v

/-- The map without a key. -/
def merase {α : Type} (m : AMap α) (k : Nat) : AMap α := m.filter (fun p => p.1 != k)

/-- The map with its values changed by a function of key and value. -/
def mmap {α β : Type} (m : AMap α) (f : Nat → α → β) : AMap β := m.map (fun p => (p.1, f p.1 p.2))

/-- The first key (and its value) whose entry satisfies a test. -/
def mfind {α : Type} (m : AMap α) (p : Nat → α → Bool) : Option (Nat × α) := m.find? (fun e => p e.1 e.2)

/-- How many entries satisfy a test. -/
def mcount {α : Type} (m : AMap α) (p : Nat → α → Bool) : Nat := (m.filter (fun e => p e.1 e.2)).length

/-- The least number from `i` up, within `fuel` tries, that satisfies a test. -/
def leastFrom (fuel i : Nat) (p : Nat → Bool) : Option Nat :=
  match fuel with
  | 0 => none
  | f + 1 => if p i then some i else leastFrom f (i + 1) p

/-- The least number below `n` that satisfies a test. -/
def leastBelow (n : Nat) (p : Nat → Bool) : Option Nat := leastFrom n 0 p

/-- A list with the entry at an index removed. -/
def dropAt {α : Type} (l : List α) (i : Nat) : List α := l.take i ++ l.drop (i + 1)

/-- The entry of a list that is least by a measure; the first of equals. -/
def leastBy {α : Type} (f : α → Nat) (l : List α) : Option α :=
  match l with
  | [] => none
  | a :: r =>
    match leastBy f r with
    | none => some a
    | some b => if f b < f a then some b else some a

/-- The entry of a list that is greatest by a measure; the first of equals. -/
def mostBy {α : Type} (f : α → Nat) (l : List α) : Option α :=
  match l with
  | [] => none
  | a :: r =>
    match mostBy f r with
    | none => some a
    | some b => if f a < f b then some b else some a

end Sys2Proof.Machine
end

