-- ==== Sys2Proof/Machine/Memory.lean ====
section
/-! DEFINITION. Memory as a sorted list of written bytes: the one canonical form, and access by byte and by
little-endian word. A byte that is not listed reads 0 (log entry 3). -/

namespace Sys2Proof.Machine

/-- Bytes by address, addresses strictly rising, no zero listed. -/
abbrev Memory := List Host.Cell

/-- The canonical form: addresses strictly rising and no listed zero. (DESIGN CHOICE, log entry 3.) -/
abbrev Memory.wf (m : Memory) : Prop :=
  List.Pairwise (fun a b => a.1 < b.1) m ∧ ∀ c ∈ m, c.2 ≠ 0

/-- One byte. (DESIGN CHOICE, log entry 3.) -/
def memRead (m : Memory) (a : Nat) : Byte :=
  match m with
  | [] => 0
  | (b, v) :: r => if b = a then v else memRead r a

/-- Memory with one byte written. -/
def memWrite (m : Memory) (a : Nat) (v : Byte) : Memory :=
  match m with
  | [] => if v = 0 then [] else [(a, v)]
  | (b, u) :: r =>
    if b = a then (if v = 0 then r else (a, v) :: r)
    else if a < b then (if v = 0 then (b, u) :: r else (a, v) :: (b, u) :: r)
    else (b, u) :: memWrite r a v

/-- `n` bytes from an address up. -/
def memReadBytes (m : Memory) (a n : Nat) : List Byte := (List.range n).map (fun i => memRead m (a + i))

/-- Memory with bytes written from an address up. (DESIGN CHOICE, log entry 3.) -/
def memWriteBytes (m : Memory) (a : Nat) (bs : List Byte) : Memory :=
  match bs with
  | [] => m
  | b :: r => memWriteBytes (memWrite m a b) (a + 1) r

/-- Memory with every byte of a range back to 0. -/
def memClear (m : Memory) (a n : Nat) : Memory := m.filter (fun c => c.1 < a || a + n ≤ c.1)

/-- The number that bytes stand for, lowest byte first. -/
def leNat (bs : List Byte) : Nat :=
  match bs with
  | [] => 0
  | b :: r => b.toNat + 256 * leNat r

/-- The lowest `n` bytes of a number, lowest first. -/
def leBytes (n v : Nat) : List Byte :=
  match n with
  | 0 => []
  | k + 1 => BitVec.ofNat 8 v :: leBytes k (v / 256)

/-- The lowest `n` bytes of a number, highest first (the big-endian integers of signatures). -/
def beBytes (n v : Nat) : List Byte := (leBytes n v).reverse

/-- The number that bytes stand for, highest byte first. -/
def beNat (bs : List Byte) : Nat := leNat bs.reverse

/-- A little-endian number of `n` bytes. -/
def memReadNat (m : Memory) (a n : Nat) : Nat := leNat (memReadBytes m a n)

/-- Memory with a little-endian number of `n` bytes written. -/
def memWriteNat (m : Memory) (a n v : Nat) : Memory := memWriteBytes m a (leBytes n v)

end Sys2Proof.Machine
end

