-- ==== Sys2Proof/Machine/Bits.lean ====
section
/-! DEFINITION. Bit fields and sign extension of the instruction and register layouts. -/

namespace Sys2Proof.Machine

/-- Bits `hi`..`lo` of a number. -/
def bits (v hi lo : Nat) : Nat := v / 2 ^ lo % 2 ^ (hi + 1 - lo)

/-- One bit of a number. -/
def bit (v i : Nat) : Bool := v / 2 ^ i % 2 = 1

/-- A truth value as a number. -/
def b2n (b : Bool) : Nat := if b then 1 else 0

/-- A word as a signed number. -/
def sgn {w : Nat} (v : BitVec w) : Int := v.toInt

/-- A signed number as a 64-bit register. -/
def wordOfInt (i : Int) : Word := BitVec.ofInt 64 i

/-- A number as a 64-bit register. -/
def wordOf (n : Nat) : Word := BitVec.ofNat 64 n

/-- A signed immediate at 64 bits. -/
def simm {w : Nat} (v : BitVec w) : Word := v.signExtend 64

/-- A number with bits `hi`..`lo` replaced. -/
def setBits (v hi lo x : Nat) : Nat :=
  v % 2 ^ lo + (x % 2 ^ (hi + 1 - lo)) * 2 ^ lo + v / 2 ^ (hi + 1) * 2 ^ (hi + 1)

/-- The low `n` bits of a number, sign-extended to a signed number. -/
def sxNat (v n : Nat) : Int :=
  if n = 0 then 0
  else if v % 2 ^ n < 2 ^ (n - 1) then ((v % 2 ^ n : Nat) : Int) else ((v % 2 ^ n : Nat) : Int) - (2 ^ n : Nat)

/-- Ceiling division. -/
def cdiv (a b : Nat) : Nat := (a + b - 1) / b

/-- A signed number clamped between bounds. -/
def clampInt (v lo hi : Int) : Int := if v < lo then lo else if hi < v then hi else v

/-- A signed number clamped to 32 bits (R394). -/
def clamp32 (v : Int) : Int := clampInt v (-2147483648) 2147483647

/-- The least power of two at or above a number. -/
def pow2Above (fuel n p : Nat) : Nat :=
  match fuel with
  | 0 => p
  | f + 1 => if n ≤ p then p else pow2Above f n (2 * p)

end Sys2Proof.Machine
end

