-- ==== Sys2Proof/Machine/State.lean ====
section
/-! DEFINITION. The state of the package as plain data: the chip (memory, cores, coroutines, clusters, engines,
partitions, launches), the keep (boot, power, host interface, events, errors), and the schedule of the run.
INVENTORY.md lists every field with the rule that names it. -/

namespace Sys2Proof.Machine

/-! ### Coroutines (R211-R222, R260-R265) -/

/-- A vector register by its shape (R229): a width code with its value, or 256 bytes. -/
inductive VReg where
  | uniform (w : Nat) (u : Word)
  | affine (w : Nat) (b s : Word)
  | general (d : BitVec 2048)
  deriving DecidableEq, Repr

/-- The states of a coroutine identifier but free (R211). -/
inductive CoState where
  | ready | running | awaiting | faulted | parked | exited
  deriving DecidableEq, Repr

/-- What an awaiting coroutine waits for (R212). (DEDUCED, log entry 25.) -/
inductive Wait where
  | none
  /-- a beacon's count below a signed threshold: `AWAIT`, or a joined fault record (R116, R225) -/
  | beacon (tok : Word) (th : BitVec 32)
  /-- a physical tile of its cluster becoming ready (R227) -/
  | tile (t : Nat)
  /-- a physical slot of its cluster becoming free or its own (R246) -/
  | slot (s : Nat)
  /-- a write to a line of the reservation set (R391) -/
  | reservation
  /-- the other members of its gang (R402) -/
  | barrier
  /-- a fault beacon becoming free on its spire (R117) -/
  | freeBeacon
  deriving DecidableEq, Repr

/-- A store in a store buffer or in a pending-store list (R197, R199, R265). -/
structure Store where
  slot : Nat
  va : Nat
  data : Nat
  size : Nat
  release : Bool
  scope : Nat
  asid : Nat
  sup : Bool
  deriving DecidableEq, Repr

/-- A vector instruction in a vector command queue or an opaque block, with what it captured (R235, R238, R353). -/
structure VEntry where
  op : Instr
  slot : Nat
  pc : Word
  s1 : Word
  s2 : Word
  vl : Nat
  vstart : Nat
  vtype : Nat
  frm : Nat
  rope : Word
  cap : Nat
  asid : Nat
  sup : Bool
  pfx : Option IWord
  seqs : List Nat
  /-- the physical ranges that its elements have written (R187) -/
  wrote : List (Nat × Nat)
  deriving DecidableEq, Repr

/-- What a trap reports (R260, R261, R265), with the address space of the access that it is about. -/
structure Trap where
  cause : Nat
  epc : Word
  faddr : Word
  kind : Nat
  acc : Nat
  vec : Bool
  elem : Nat
  pos : Nat
  posx : Word
  vpc : Word
  tok : Word
  asid : Nat
  deriving DecidableEq, Repr

/-- A trap that a coroutine has taken while its stores and vector entries still drain (R200, R214, R264): it becomes faulted
or goes to its handler, with the fault-queue flags, or it waits on the fault record that it joined. -/
inductive Due where
  | trap (t : Trap) (flags : Nat)
  | join (t : Trap)
  deriving DecidableEq, Repr

/-- A line of a reservation set and whether another observer has written it since (R202). -/
structure Reserved where
  line : Nat
  broken : Bool
  deriving DecidableEq, Repr

/-- A coroutine: its registers, its CSRs, its trap state and its place (R216-R221, R260-R265, R163). -/
structure Coroutine where
  state : CoState
  prior : CoState
  wait : Wait
  sup : Bool
  pc : Word
  fetchAsid : Nat
  x : Vector Word 32
  v : Vector VReg 32
  m : Vector (BitVec 256) 8
  k : Vector (BitVec 16) 64
  q : Vector Word 16
  topk : List (BitVec 32 × BitVec 32)
  pp : Bool
  su : Bool
  mu : Bool
  qu : Bool
  ku : Bool
  inl : BitVec 16
  pfx : IWord
  vl : Nat
  vstart : Nat
  vtype : Nat
  live : Word
  dlive : Word
  ropecfg : Word
  mshape : Word
  quantum : BitVec 32
  level : BitVec 2
  ceil : BitVec 2
  fflags : BitVec 6
  frm : BitVec 3
  asid : Nat
  asidSel : Nat
  svcsel : Nat
  topkn : BitVec 32
  rtime : Nat
  estepEl : Bool
  estepIs : Bool
  epc : Word
  cause : BitVec 8
  faddr : Word
  finfo : Word
  hact : Bool
  nobk : Bool
  trapped : Bool
  token : Word
  posx : Word
  vpc : Word
  pend : List Store
  block : List VEntry
  resv : List Reserved
  fresh : Bool
  /-- the trap it has taken, while its stores and vector entries drain (R264) -/
  due : Option Due
  /-- its pending stores and block are those of a stop inside its handler: its next dispatch issues them again (R175, R272) -/
  again : Bool
  /-- whether its record lies in its spill slot and not in its core's context cache (R222, R267) -/
  evicted : Bool
  /-- when its record was written, by a count that rises (R222) -/
  left : Nat
  /-- the free word that its latest record holds where the spec gives no contents (R221, R238) -/
  recWord : Word
  /-- the numbers of its `NPUT` and `NAMO` commands, which a release at pod scope waits for (R191) -/
  remote : List Nat
  lid : Nat
  gid : BitVec 16
  gsize : Nat
  grank : Nat
  gang : Nat
  tbase : Nat
  tcount : Nat
  abase : Nat
  acount : Nat
  deriving DecidableEq, Repr

/-! ### Cores, clusters and engines (R209, R235-R259, R409-R437) -/

/-- A line of an L1 cache, named by ASID and virtual line (R194, R209). -/
structure L1Line where
  asid : Nat
  vline : Nat
  pline : Nat
  ro : Bool
  user : Bool
  data : List Byte
  deriving DecidableEq, Repr

/-- A matrix command in a core's matrix queue with what it captured at issue (R244, R318, R421). -/
structure MEntry where
  op : Instr
  core : Nat
  slot : Nat
  lid : Nat
  s1 : Word
  s2 : Word
  tbase : Nat
  abase : Nat
  fmt : Nat
  pfx : Option IWord
  vtype : Nat
  vl : Nat
  mshape : Word
  k : Vector (BitVec 16) 64
  mask : BitVec 256
  va : VReg
  vb : VReg
  seqs : List Nat
  /-- the copy command whose follow-on it is (R254) -/
  copy : Option Nat
  /-- whether its vector operands have been read (R244) -/
  ready : Bool
  /-- the tiles whose fill counts it raised and that have been given out anew since (R162, R241) -/
  forgotten : List Nat := []
  /-- moves of its move phase that have landed (R423) -/
  westDone : Bool
  northDone : Bool
  deriving DecidableEq, Repr

/-- A core: the running coroutine, its queues, its L1 caches and the CSRs that belong to the core (R209). -/
structure Core where
  running : Option Nat
  dispatched : Nat
  sb : List Store
  vq : List VEntry
  mq : List MEntry
  l1d : List L1Line
  l1i : List L1Line
  bkpt : Vector Word 4
  ecsel : Word
  /-- the block pool: the identifier and vector register of each block in use, least recently used first (R209, R233) -/
  pool : List (Nat × Nat)
  /-- counts the records written, so that the oldest suspension is known (R222) -/
  stamp : Nat
  deriving DecidableEq, Repr

/-- What every asynchronous command holds from its issue (R410). -/
structure Cmd where
  id : Nat
  core : Nat
  slot : Nat
  lid : Nat
  tok : Word
  asid : Nat
  sup : Bool
  solo : Bool
  status : Nat
  deriving DecidableEq, Repr

/-- A copy command in a copy queue (R250, R426-R430). -/
structure CopyCmd where
  cmd : Cmd
  op : Nat
  dst : Nat
  src : Nat
  n : Nat
  h : Nat
  ds : Word
  ss : Word
  next : Nat
  ahead : List Nat
  stalled : List (Nat × Word)
  seqs : List Nat
  fills : List (Nat × Nat)
  drains : List (Nat × Nat)
  follow : Bool
  moved : Bool
  /-- the stripes whose lines have been recalled (R33 phase 1) -/
  recalled : List Nat
  /-- the destination stripes in memory, by address over 128 KiB, whose L1 lines go at completion (R33 phase 3) -/
  dests : List Nat
  deriving DecidableEq, Repr

/-- A KV command in a KV queue (R433). -/
structure KvCmd where
  cmd : Cmd
  op : Nat
  handle : Word
  arg : Word
  q0 : Word
  deriving DecidableEq, Repr

/-- A piece or packet that a network command has sent and that is not acknowledged, or whose returned data has not yet
been written. -/
structure Flight where
  off : Nat
  sent : Nat
  sends : Nat
  data : List Byte
  /-- whether that data is poisoned (R59) -/
  bad : Bool
  /-- the status with which it came back, while its data waits to be written -/
  back : Option Nat
  deriving DecidableEq, Repr

/-- A network command in a network queue (R435, R58-R67). -/
structure NetCmd where
  cmd : Cmd
  op : Nat
  a : Word
  b : Word
  n : Nat
  q0 : Word
  q2 : Word
  q3 : Word
  /-- the accelerator identifier that the node map gave at issue (R56) -/
  dest : Nat
  /-- the work request of an `NSEND`, once it has been read -/
  wr : List Byte
  /-- the commands that an `NSIG` follows (R61) -/
  after : List Nat
  next : Nat
  redo : List Nat
  flight : List Flight
  stalled : List (Nat × Word)
  deriving DecidableEq, Repr

/-- An access recorded in a cluster's scoreboard: tiles 0-31, slots 32-47 (R243). -/
structure SbAccess where
  seq : Nat
  obj : Nat
  write : Bool
  deriving DecidableEq, Repr

/-- A tile's configuration and counts (R241, R414). -/
structure Tile where
  fmt : Nat
  rows : Nat
  cols : Nat
  configured : Bool
  fill : Nat
  drain : Nat
  deriving DecidableEq, Repr

/-- An accumulator slot's tag, state, format and flags (R246, R315, R418). -/
structure Slot where
  held : Bool
  orphan : Bool
  core : Nat
  slot : Nat
  lid : Nat
  ended : Bool
  fmt : Nat
  flags : BitVec 6
  deriving DecidableEq, Repr

/-- A KV fault record of an astrolabe (R135). -/
structure KvRec where
  space : Nat
  key : Option (Nat × Nat × Nat × Nat)
  fbi : Nat
  opener : Option Nat
  kind : Nat
  deriving DecidableEq, Repr

/-- A KV-TLB entry: space, sequence, layer, block, step, and the frame (R132). -/
structure KvTlb where
  space : Nat
  seq : Nat
  layer : Nat
  blk : Nat
  step : Nat
  frame : Nat
  deriving DecidableEq, Repr

/-- A cluster: tiles, slots, scoreboard, engine queues, the dome's turn and the stall counters. -/
structure Cluster where
  tiles : AMap Tile
  slots : AMap Slot
  board : List SbAccess
  copyQ : List CopyCmd
  kvQ : List KvCmd
  netQ : List NetCmd
  lastCore : Nat
  dome : Option MEntry
  /-- matrix commands in their move phase, in order (R423, R424) -/
  moves : List MEntry
  ecnt : AMap Word
  kvtlb : List KvTlb
  kvrecs : List KvRec
  power : Nat
  offTime : Nat
  offSince : Nat
  deriving DecidableEq, Repr

/-! ### Spires, translation and memory (R28-R47, R100-R117, R182-R187, R255) -/

/-- A beacon (R255); its waiters are the coroutines whose `wait` names its token. -/
structure Beacon where
  count : BitVec 32
  gen : BitVec 36
  alloc : Bool
  err : BitVec 8
  esrc : BitVec 8
  ecount : BitVec 16
  deriving DecidableEq, Repr

/-- An open translation fault record (R116). -/
structure FaultRec where
  asid : Nat
  page : Nat
  fbi : Nat
  opener : Option Nat
  host : Bool
  kind : Nat
  deriving DecidableEq, Repr

/-- A leaf as a slice holds it, with where it was read (R102, R109). -/
structure TlbEntry where
  leaf : Nat
  lvl : Nat
  ea : Nat
  deriving DecidableEq, Repr

/-- The modes of a slice's copy of a line (R185); `home` on the line's own spire. -/
inductive CopyMode where
  | home | shared | exclusive | dirtyOwner | readOnly
  deriving DecidableEq, Repr

/-- The name of a line in a slice: ASID and virtual line, with the leaf under which it was filled (R110, R142). -/
structure LineName where
  asid : Nat
  vline : Nat
  ent : TlbEntry
  deriving DecidableEq, Repr

/-- A slice's copy of a line: its mode, the valid and dirty bits of its two sectors, whether it came poisoned from a CXL
device, its way, when it was last used, its name, and its bytes where they are not those of `Chip.mem`
(R40, R137, R140, R142, R185). -/
structure LineCopy where
  mode : CopyMode
  valid : BitVec 2
  dirty : BitVec 2
  poison : Bool
  way : Nat
  used : Nat
  name : Option LineName
  data : Option (List Byte)
  deriving DecidableEq, Repr

/-- Errors in a line's DRAM cells that no read has found: symbols in error in each sector, bits in error in the compass
word (R28). (DESIGN CHOICE, log entry 50.) -/
structure Latent where
  s0 : BitVec 2
  s1 : BitVec 2
  w : BitVec 2
  deriving DecidableEq, Repr

/-- An error that a controller has found, on its way to its spire's fault-address queue (R41, R44).
(DESIGN CHOICE, log entry 44.) -/
structure MemErr where
  spire : Nat
  line : Nat
  kind : Nat
  sect : Nat
  port : Nat
  deriving DecidableEq, Repr

/-- A request in a line's reservation queue (R201). -/
structure ResReq where
  core : Nat
  slot : Nat
  op : Instr
  deriving DecidableEq, Repr

/-- A message of virtual channel 3 that is in flight (R153, R172). (DEDUCED, log entry 25.) -/
inductive Msg where
  /-- a signal: token, signed decrement, status with its source code, the issuing core and launch when counted -/
  | signal (tok : Word) (dec : Int) (status esrc : Nat) (count : Option (Nat × Nat))
  /-- a `BSET` on its way to its beacon -/
  | setCount (tok : Word) (v : BitVec 32) (count : Option (Nat × Nat))
  /-- a spawned child bound for a reserved identifier -/
  | spawn (core slot : Nat) (co : Coroutine)
  /-- a travelling coroutine and the physical line it travels to -/
  | hop (spire line : Nat) (co : Coroutine)
  /-- a migrating coroutine bound for a reserved identifier -/
  | migrate (core slot : Nat) (co : Coroutine)
  deriving DecidableEq, Repr

/-- Where a message comes from: a core, an engine of a cluster (1 copy, 2 KV, 3 network), the package's links, or the keep
(R155). -/
inductive Source where
  | core (k : Nat)
  | engine (kind cl : Nat)
  | links
  | keep
  deriving DecidableEq, Repr

/-- A message with the partition it is bound for, whether it lies in a drop-off buffer (R176), and its source. -/
structure Flying where
  part : Option Nat
  dropped : Bool
  /-- a hop that has arrived and waits for an identifier (R171) -/
  waiting : Bool
  msg : Msg
  /-- what has sent it: the messages of one source to one destination arrive in order (R155) -/
  src : Source
  /-- while it is dropped off: the router that it has left the network at, and whether that router's full buffer has sent it on
  to the spill region of its spire (R176) -/
  router : Nat := 0
  spilled : Bool := false
  deriving DecidableEq, Repr

/-- A spire: its beacons, its open fault records, where its spill region and the two frames of its beacon table lie,
and its power state. -/
structure Spire where
  beacons : AMap Beacon
  recs : List FaultRec
  spill : Nat
  frames : List Nat
  power : Nat
  deriving DecidableEq, Repr

/-! ### Partitions and launches (R157-R179, R267-R273) -/

/-- A fault-queue entry before it is posted (R267). -/
structure FqEntry where
  cause : Nat
  flags : Nat
  who : Word
  epc : Word
  faddr : Word
  finfo : Word
  token : Word
  deriving DecidableEq, Repr

/-- A partition's fault queue and handler on one spire (R267, R268, R272). -/
structure FaultQ where
  en : Bool
  base : Nat
  head : BitVec 32
  tail : BitVec 32
  tvec : Word
  waiting : List FqEntry
  deriving DecidableEq, Repr

/-- Where a launch is between its taking and its end (R81, R160). -/
inductive LaunchPhase where
  | waiting | started | admitted
  deriving DecidableEq, Repr

/-- One sweep's result for a launch (R173). -/
structure Sweep where
  flag : Bool
  sent : Nat
  recv : Nat
  deriving DecidableEq, Repr

/-- A launch (R80-R82, R160, R172). -/
structure Launch where
  part : Nat
  asid : Nat
  gangs : Nat
  gsize : Nat
  prio : Nat
  tbase : Nat
  tcount : Nat
  abase : Nat
  acount : Nat
  irq : BitVec 16
  entry : Word
  code : Word
  args : Word
  arglen : Nat
  waits : List Word
  done : Word
  tag : Word
  queue : Nat
  phase : LaunchPhase
  order : Nat
  slot : Nat
  placed : Nat
  live : Word
  status : Nat
  sent : AMap Nat
  recv : AMap Nat
  last : Option Sweep
  deriving DecidableEq, Repr

/-- A gang, or a spawned or supervisor coroutine as its own gang: its window and length grant (R162, R355). -/
structure Gang where
  lid : Nat
  gid : BitVec 16
  cluster : Nat
  tbase : Nat
  tcount : Nat
  abase : Nat
  acount : Nat
  parent : Option Nat
  grant : Option (Nat × Word × Nat)
  deriving DecidableEq, Repr

/-- A section of a save image: its type, the coroutine key or cluster it describes, its place and body length (R274). -/
structure Sect where
  type : Nat
  who : Nat
  off : Nat
  len : Nat
  deriving DecidableEq, Repr

/-- What the bytes of a save image stand for (R179, R274, R275): coroutines, clusters with their window bytes and
matrix queues, messages, launches, and the fault-queue and handler CSRs. -/
structure Image where
  cos : AMap Coroutine
  gangs : AMap Gang
  clusters : AMap Cluster
  window : Memory
  mqs : AMap (List MEntry)
  msgs : List Flying
  launches : AMap Launch
  fqs : Vector FaultQ 4
  sects : List Sect
  deriving DecidableEq, Repr

/-- An image as the part knows it: the digest of its sections, and of its sealed header with its signature (R275, R277). -/
structure Archived where
  digest : List Byte
  head : List Byte
  sig : List Byte
  image : Image
  deriving DecidableEq, Repr

/-- A partition (R157): its registers, its latency tolerance (R19), when its stop began, the save or restore in progress,
its fault queues, and the image it holds in state 5. -/
structure Partition where
  en : Bool
  state : Nat
  err : Bool
  clus : BitVec 128
  asids : BitVec 256
  sventry : Word
  /-- whether it was enabled with `PART_SVENTRY` = 0, and so has no supervisor coroutine (R270) -/
  unserved : Bool
  bell : Word
  /-- whether the bell time is still to come (R174, R175) -/
  armed : Bool
  save : Word
  savelen : Word
  stoptok : Word
  tol : BitVec 24
  stopAt : Nat
  pendingOp : Nat
  fqs : Vector FaultQ 4
  image : Option Image
  deriving DecidableEq, Repr

/-! ### Links (R54-R74) -/

/-- An export window (R57). -/
structure Window where
  base : Nat
  len : Nat
  asid : Nat
  perm : BitVec 8
  die : Nat
  key : Nat
  deriving DecidableEq, Repr

/-- An Ultra Ethernet endpoint table entry (R64). -/
structure Endpoint where
  addr : BitVec 128
  job : BitVec 32
  ep : BitVec 32
  deriving DecidableEq, Repr

/-- A link port (R72). -/
structure Port where
  up : Bool
  width : Nat
  events : BitVec 16
  deriving DecidableEq, Repr

/-- A request an Ultra Ethernet receiver holds (R65, R67). -/
structure UeRx where
  src : Nat
  op : Nat
  len : Nat
  roff : Nat
  rkey : Nat
  token : Word
  sigR : Bool
  /-- the packets placed: offset and length -/
  got : List (Nat × Nat)
  finished : Bool
  last : Nat
  deriving DecidableEq, Repr

/-- What has left the package on a link: where to, what kind (0 write, 1 read, 2 atomic, 3 signal, 4 packet of a write,
5 packet of a read, 6 an answer, 7 a timing message), and its contents. -/
structure Wire where
  dest : Nat
  kind : Nat
  /-- the pod address or token of a piece, `ROFF` of a packet -/
  addr : Word
  /-- the offset of the piece or packet from it -/
  off : Nat
  /-- the status of an answer; 4 where the data is sent as poisoned -/
  status : Nat
  data : List Byte
  /-- the op and width of an atomic, `OP` and `FLAGS` of a work request above -/
  op : Nat := 0
  /-- the bytes of a read, *u* of an atomic, the decrement of a signal, `LEN` of a work request -/
  u : Word := 0
  /-- `RKEY` (R63) -/
  key : Nat := 0
  /-- `TOKEN_R` (R63) -/
  token : Word := 0
  /-- the port that it left through -/
  port : Nat := 0
  /-- `TIME` of a timing message, and the hardware timestamp of a packet (R68) -/
  time : Nat := 0
  deriving DecidableEq, Repr

/-- The link block: node number, node map, time-out, ports, time synchronisation. (DESIGN CHOICE, log entry 6.) -/
structure Links where
  id : BitVec 10
  valid : Bool
  map : AMap (BitVec 10 × Bool)
  /-- map entries as they were before their last write, with its time (R56) -/
  mapOld : AMap (Nat × BitVec 10 × Bool)
  tmo : BitVec 24
  ual : Vector Port 8
  ue : Vector Port 4
  master : Bool
  locked : Bool
  err : BitVec 16
  lastSync : Nat
  windows : AMap Window
  endpoints : AMap Endpoint
  rx : List UeRx
  cxlDown : BitVec 4
  /-- lines that a CXL device returns with poison (R38, R40) -/
  cxlBad : List Nat
  wire : List Wire
  deriving DecidableEq, Repr

/-- An event on its way to the pilot (R90). (DESIGN CHOICE, log entry 44.) -/
structure PEvent where
  type : Nat
  source : Nat
  d0 : Word
  d1 : Word
  /-- the MSI-X vector to send once the entry is written (R82) -/
  irq : Option Nat := none
  deriving DecidableEq, Repr

/-! ### The chip -/

/-- Everything outside the keep that instructions and engines act on. (DESIGN CHOICE, log entry 6.) -/
structure Chip where
  time : Nat
  cycle : Nat
  free : Nat
  version : BitVec 32
  devhash : Word
  saveKey : List Byte
  mem : Memory
  dramOld : List Host.Cell
  /-- compass words as DRAM holds them -/
  compass : AMap (BitVec 16)
  /-- pending compass words by channel, line and word, oldest first (R31) -/
  combiner : AMap (List (Nat × BitVec 16))
  latent : AMap Latent
  found : List MemErr
  copies : AMap LineCopy
  /-- counts the uses of slice lines, so that the least recently used is known (R141) -/
  uses : Nat
  retired : List Nat
  roots : AMap Nat
  tlb : AMap TlbEntry
  svcways : AMap (BitVec 58)
  svcbw : AMap (BitVec 8)
  svcmap : AMap (BitVec 4)
  kvbase : Word
  kvdesc : AMap (List Byte)
  spires : Vector Spire 4
  clusters : AMap Cluster
  cores : AMap Core
  cos : AMap Coroutine
  gangs : AMap Gang
  nextGang : Nat
  parts : AMap Partition
  launches : AMap Launch
  nextLid : Nat
  nextOrder : Nat
  nextCmd : Nat
  nextSeq : Nat
  msgs : List Flying
  resq : AMap (List ResReq)
  links : Links
  clmask : BitVec 128
  archive : List Archived
  outbox : List PEvent
  deriving DecidableEq, Repr

/-! ### The keep (R11-R24, R41-R47, R75-R97, R455) -/

/-- A thermal sensor (R23, R24). -/
structure Sensor where
  temp : BitVec 16
  warn : Bool
  trip : Bool
  warm : Bool
  tripped : Bool
  tripAt : Nat
  /-- whether every reading since it tripped has been at or above its trip temperature (R24) -/
  stayed : Bool
  deriving DecidableEq, Repr

/-- A host launch queue's registers (R78). -/
structure Hq where
  en : Bool
  err : Bool
  tail : Nat
  head : Nat
  deriving DecidableEq, Repr

/-- A fault-address queue (R41-R44). -/
structure Faq where
  entries : List (BitVec 32 × BitVec 8 × BitVec 64)
  ovf : Bool
  dropped : Nat
  deriving DecidableEq, Repr

/-- The pilot's event ring (R89-R91). -/
structure Pilot where
  base : Word
  en : Bool
  log2n : Nat
  vec : BitVec 11
  head : BitVec 16
  tail : BitVec 16
  irqCount : BitVec 8
  usec : BitVec 16
  lost : BitVec 16
  phase : Bool
  seq : BitVec 32
  buffer : List (PEvent × Nat)
  held : List PEvent
  unsignalled : Nat
  since : Nat
  deriving DecidableEq, Repr

/-- Power and thermal management (R11-R24). -/
structure Power where
  level : Nat
  under : Nat
  die : Nat
  hbm : Nat
  mw : BitVec 32
  throttle : Nat
  sensors : Vector Sensor 13
  package : Nat
  halted : Bool
  deriving DecidableEq, Repr

/-- Boot progress and what the boot read (R15-R18). (DESIGN CHOICE, log entry 6.) -/
structure Boot where
  stage : BitVec 8
  err : BitVec 8
  ready : Bool
  started : Bool
  count : Nat
  plimit : Nat
  dieWarn : Nat
  hbmWarn : Nat
  cfgSeq : Word
  cfgRecord : List Byte
  fwImage : List Byte
  ucImage : List Byte
  deriving DecidableEq, Repr

/-- The keep's fuses, the digests of the vendor and the owner key, and its non-volatile store, which holds the public keys
themselves (R15, R24, R45, R92-R95). (DESIGN CHOICE, log entry 8.) -/
structure Store2 where
  vendor : List Byte
  owner : List Byte
  keys : List (List Byte)
  config : List (List Byte)
  fw : List (List Byte)
  uc : List (List Byte)
  fwSvn : Nat
  ucSvn : Nat
  badPages : List Nat
  shutdown : Option Nat
  deriving DecidableEq, Repr

/-- Firmware commands (R94). -/
structure Fw where
  addr : Word
  len : BitVec 32
  busy : Bool
  result : Nat
  op : Nat
  pending : Nat
  deriving DecidableEq, Repr

/-- Memory retirement registers (R46). -/
structure Retire where
  status : Nat
  busy : Bool
  frame : Nat
  index : BitVec 12
  deriving DecidableEq, Repr

/-- The keep: boot, power, the host interface, errors and the non-volatile store. (DESIGN CHOICE, log entry 6.) -/
structure Keep where
  boot : Boot
  power : Power
  store : Store2
  fw : Fw
  hqs : Vector Hq 64
  turn : Nat
  queueMem : Memory
  hostMem : Memory
  pilot : Pilot
  msix : AMap (BitVec 128)
  pba : BitVec 2048
  sentIrqs : List Nat
  faqs : Vector Faq 4
  retire : Retire
  hostReads : List Byte
  /-- whether the last host window access completed with Unsupported Request (R53) -/
  hostUr : Bool
  deriving DecidableEq, Repr

/-! ### The whole state -/

/-- Where an uncorrectable error of the package's own stores lies: the context-cache entry of a coroutine, the pool block of a core's
coroutine, a tile or an accumulator slot of a cluster (R266). -/
inductive BadStore where
  | context (key : Nat)
  | block (core slot : Nat)
  | tile (cl t : Nat)
  | slot (cl s : Nat)
  deriving DecidableEq, Repr

/-- What happens next in a run: an event of the opcode table, the next instruction of a core, or an error that comes from outside.
(DESIGN CHOICE, log entry 1.) -/
inductive Sched where
  | event (i : Instr)
  | issue (core : Nat)
  /-- the core's next instruction, an AMO, `LR` or `SC`, only enters its line's reservation queue (R201) -/
  | request (core : Nat)
  /-- a DRAM line goes wrong, and nothing reads it yet (R28) -/
  | upset (line found sect : Nat)
  /-- a store of the package goes wrong (R266) -/
  | bad (e : BadStore)
  deriving DecidableEq, Repr

/-- The state of the model. `agenda` is the order in which the agents of the package and the outside world act
next; when it is empty the model's own order applies (log entry 1). `cur` is the core whose coroutine an
instruction word acts on. (DESIGN CHOICE, log entry 6.) -/
structure State where
  keep : Keep
  chip : Chip
  agenda : List Sched
  cur : Nat
  deriving DecidableEq, Repr

/-- How a run can stop. -/
inductive Fault where
  /-- A thermal shutdown has stopped every clock outside the keep (R24), or a boot has failed and the spires stay unpowered
  (R17); nothing but `POWER_GOOD` follows. Raised by an instruction word then. Safe: the hardware does not execute either. -/
  | clocksStopped
  deriving DecidableEq, Repr

/-- Why the model gives no next state. -/
inductive Refusal where
  /-- An instruction the model gives no meaning yet; raised by its arm of `exec`. Safe. -/
  | notModelled (mnemonic : String)
  /-- An instruction word was asked of a core on which no coroutine is running; `step` never asks it. Safe. -/
  | noCoroutine
  deriving DecidableEq, Repr

/-! ### Reset -/

/-- A general value of zero bytes as a placed coroutine holds it: uniform zero of width code 0 (R84). -/
def VReg.zero : VReg := .uniform 0 0

/-- A coroutine with every register as R84 and the CSR maps give it, in user mode, before its placement fills in
its place. -/
def Coroutine.blank : Coroutine where
  state := .ready
  prior := .ready
  wait := .none
  sup := false
  pc := 0
  fetchAsid := 0
  x := Vector.replicate 32 0
  v := Vector.replicate 32 VReg.zero
  m := Vector.replicate 8 0
  k := Vector.replicate 64 0
  q := Vector.replicate 16 0
  topk := []
  pp := false
  su := false
  mu := false
  qu := false
  ku := false
  inl := 0
  pfx := 0
  vl := 0
  vstart := 0
  vtype := 2
  live := 0xFFFFFFFFFFFFFFFE
  dlive := 0
  ropecfg := 0
  mshape := 0
  quantum := 65536
  level := 0
  ceil := 0
  fflags := 0
  frm := 0
  asid := 0
  asidSel := 0
  svcsel := 0
  topkn := 128
  rtime := 0
  estepEl := false
  estepIs := false
  epc := 0
  cause := 0
  faddr := 0
  finfo := 0
  hact := false
  nobk := false
  trapped := false
  token := 0
  posx := 0
  vpc := 0
  pend := []
  block := []
  resv := []
  fresh := true
  due := none
  again := false
  evicted := false
  left := 0
  recWord := 0
  remote := []
  lid := 0
  gid := 0xFFFF
  gsize := 1
  grank := 0
  gang := 0
  tbase := 0
  tcount := 0
  abase := 0
  acount := 0

/-- A core that runs nothing. -/
def Core.reset : Core where
  running := none
  dispatched := 0
  sb := []
  vq := []
  mq := []
  l1d := []
  l1i := []
  bkpt := Vector.replicate 4 0
  ecsel := 0
  pool := []
  stamp := 0

/-- A cluster that holds nothing. (DESIGN CHOICE, log entry 5.) -/
def Cluster.reset : Cluster where
  tiles := []
  slots := []
  board := []
  copyQ := []
  kvQ := []
  netQ := []
  lastCore := 3
  dome := none
  moves := []
  ecnt := []
  kvtlb := []
  kvrecs := []
  power := 0
  offTime := 0
  offSince := 0

/-- A tile that no `TCFG` has configured. -/
def Tile.empty : Tile := ⟨0, 0, 0, false, 0, 0⟩

/-- A free slot. (DESIGN CHOICE, log entry 5.) -/
def Slot.free : Slot := ⟨false, false, 0, 0, 0, false, 1, 0⟩

/-- A cleared beacon. -/
def Beacon.reset : Beacon := ⟨0, 0, false, 0, 0, 0⟩

/-- A fault queue with every register at its reset value. -/
def FaultQ.reset : FaultQ := ⟨false, 0, 0, 0, 0, []⟩

/-- A partition with every register at its reset value. (DESIGN CHOICE, log entry 5.) -/
def Partition.reset : Partition where
  en := false
  state := 0
  err := false
  clus := 0
  asids := 0
  sventry := 0
  unserved := false
  bell := 0
  armed := false
  save := 0
  savelen := 0
  stoptok := 0
  tol := 0
  stopAt := 0
  pendingOp := 0
  fqs := Vector.replicate 4 FaultQ.reset
  image := none

/-- The link block at reset (R70-R74). (DESIGN CHOICE, log entry 5.) -/
def Links.reset : Links where
  id := 0
  valid := false
  map := []
  mapOld := []
  tmo := 2000
  ual := Vector.replicate 8 ⟨false, 0, 0⟩
  ue := Vector.replicate 4 ⟨false, 0, 0⟩
  master := false
  locked := false
  err := 0
  lastSync := 0
  windows := []
  endpoints := []
  rx := []
  cxlDown := 0
  cxlBad := []
  wire := []

/-- The chip before boot. (DESIGN CHOICE, log entry 5.) -/
def Chip.reset : Chip where
  time := 0
  cycle := 0
  free := 0
  version := 0
  devhash := 0
  saveKey := []
  mem := []
  dramOld := []
  compass := []
  combiner := []
  latent := []
  found := []
  copies := []
  uses := 0
  retired := []
  roots := []
  tlb := []
  svcways := []
  svcbw := []
  svcmap := []
  kvbase := 0
  kvdesc := []
  spires := Vector.replicate 4 ⟨[], [], 0, [], 0⟩
  clusters := []
  cores := []
  cos := []
  gangs := []
  nextGang := 0
  parts := []
  launches := []
  nextLid := 1
  nextOrder := 0
  nextCmd := 0
  nextSeq := 0
  msgs := []
  resq := []
  links := Links.reset
  clmask := 0
  archive := []
  outbox := []

/-- A sensor at reset. -/
def Sensor.reset : Sensor := ⟨0, false, false, false, false, 0, false⟩

/-- The keep before boot. The non-volatile store holds no images (log entry 8). (DESIGN CHOICE, log entry 5.) -/
def Keep.reset : Keep where
  boot := ⟨0, 0, false, false, 0, 2000, 0, 0, 0, [], [], []⟩
  power := ⟨0, 0, 0, 0, 0, 0, Vector.replicate 13 Sensor.reset, 0, false⟩
  store := ⟨[], [], [], [], [], [], 0, 0, [], none⟩
  fw := ⟨0, 0, false, 0, 0, 0⟩
  hqs := Vector.replicate 64 ⟨false, false, 0, 0⟩
  turn := 0
  queueMem := []
  hostMem := []
  pilot := ⟨0, false, 8, 0, 0, 0, 1, 0, 0, true, 0, [], [], 0, 0⟩
  msix := []
  pba := 0
  sentIrqs := []
  faqs := Vector.replicate 4 ⟨[], false, 0⟩
  retire := ⟨0, false, 0, 0⟩
  hostReads := []
  hostUr := false

/-- The package right after reset: nothing booted, nothing in memory, nothing scheduled. (DESIGN CHOICE, log entry 5.) -/
def State.reset : State where
  keep := Keep.reset
  chip := Chip.reset
  agenda := []
  cur := 0

end Sys2Proof.Machine
end

