-- ==== Sys2Proof/Machine/Base.lean ====
section
/-! DEFINITION. The named accessors of the state: the one way every meaning reads and writes cores, clusters,
coroutines, partitions, launches, beacons, and the register kinds of a coroutine. -/

namespace Sys2Proof.Machine

/-! ### Places (R8, R9) -/

/-- The cluster of a core. -/
def clusterOf (core : Nat) : Nat := core / 4

/-- The spire of a cluster. -/
def spireOfCluster (cl : Nat) : Nat := cl / 32

/-- The spire of a core. -/
def spireOf (core : Nat) : Nat := core / 128

/-- The key of a coroutine: core and identifier. -/
def coKey (core slot : Nat) : Nat := core * 256 + slot

/-- The `CID` of a coroutine key: slot in 7:0, core in 9:8, cluster in 16:10 (R163). -/
def cidOf (key : Nat) : Nat := key

/-! ### Free values -/

/-- Draw a free word. (DESIGN CHOICE, log entry 6.) -/
def drawWord (c : Chip) : Word × Chip := (Config.freeWord c.free, { c with free := c.free + 1 })

/-- Draw a free choice. (DESIGN CHOICE, log entry 6.) -/
def drawBool (c : Chip) : Bool × Chip := (Config.freeBool c.free, { c with free := c.free + 1 })

/-- Bytes that nothing constrains. (DESIGN CHOICE, log entry 37.) -/
def freeBytes (free n : Nat) : List Byte := (List.range n).map (fun i => (Config.freeWord (free + i)).setWidth 8)

/-! ### Cores, clusters, spires, partitions, launches -/

/-- A core. -/
def Chip.core (c : Chip) (k : Nat) : Core := mgetD c.cores k Core.reset

/-- Change a core. -/
def Chip.modCore (c : Chip) (k : Nat) (f : Core → Core) : Chip := { c with cores := mset c.cores k (f (c.core k)) }

/-- A cluster. -/
def Chip.cluster (c : Chip) (k : Nat) : Cluster := mgetD c.clusters k Cluster.reset

/-- Change a cluster. -/
def Chip.modCluster (c : Chip) (k : Nat) (f : Cluster → Cluster) : Chip :=
  { c with clusters := mset c.clusters k (f (c.cluster k)) }

/-- A partition. -/
def Chip.part (c : Chip) (p : Nat) : Partition := mgetD c.parts p Partition.reset

/-- Change a partition. -/
def Chip.modPart (c : Chip) (p : Nat) (f : Partition → Partition) : Chip :=
  { c with parts := mset c.parts p (f (c.part p)) }

/-- A spire. -/
def Chip.spire (c : Chip) (d : Nat) : Spire := c.spires.getD d ⟨[], [], 0, [], 0⟩

/-- Change a spire. -/
def Chip.modSpire (c : Chip) (d : Nat) (f : Spire → Spire) : Chip :=
  { c with spires := c.spires.setIfInBounds d (f (c.spire d)) }

/-- A partition's fault queue on a spire. -/
def Chip.fq (c : Chip) (p d : Nat) : FaultQ := (c.part p).fqs.getD d FaultQ.reset

/-- Change a partition's fault queue on a spire. -/
def Chip.modFq (c : Chip) (p d : Nat) (f : FaultQ → FaultQ) : Chip :=
  c.modPart p (fun q => { q with fqs := q.fqs.setIfInBounds d (f (q.fqs.getD d FaultQ.reset)) })

/-- A launch. -/
def Chip.launch (c : Chip) (lid : Nat) : Option Launch := mget c.launches lid

/-- Change a launch, if it lives. -/
def Chip.modLaunch (c : Chip) (lid : Nat) (f : Launch → Launch) : Chip :=
  match mget c.launches lid with
  | some l => { c with launches := mset c.launches lid (f l) }
  | none => c

/-- The enabled partition that holds a cluster (R156). -/
def Chip.partOf (c : Chip) (cl : Nat) : Option Nat :=
  (mfind c.parts (fun _ p => p.en && p.clus.getLsbD cl)).map (fun e => e.1)

/-- A tile of a cluster. -/
def Cluster.tile (k : Cluster) (t : Nat) : Tile := mgetD k.tiles t Tile.empty

/-- A slot of a cluster. -/
def Cluster.slot (k : Cluster) (s : Nat) : Slot := mgetD k.slots s Slot.free

/-- Change a tile. -/
def Cluster.modTile (k : Cluster) (t : Nat) (f : Tile → Tile) : Cluster := { k with tiles := mset k.tiles t (f (k.tile t)) }

/-- Change a slot. -/
def Cluster.modSlot (k : Cluster) (s : Nat) (f : Slot → Slot) : Cluster := { k with slots := mset k.slots s (f (k.slot s)) }

/-- Post an event to the pilot (R90). (DESIGN CHOICE, log entry 44.) -/
def Chip.post (c : Chip) (e : PEvent) : Chip := { c with outbox := c.outbox ++ [e] }

/-! ### Coroutines -/

/-- A coroutine by key; a free identifier has none. -/
def Chip.co (c : Chip) (key : Nat) : Option Coroutine := mget c.cos key

/-- A coroutine by key, blank where the identifier is free. -/
def Chip.coD (c : Chip) (key : Nat) : Coroutine := mgetD c.cos key Coroutine.blank

/-- Put a coroutine at a key. -/
def Chip.setCo (c : Chip) (key : Nat) (co : Coroutine) : Chip := { c with cos := mset c.cos key co }

/-- Change a coroutine; a free identifier stays free. -/
def Chip.modCo (c : Chip) (key : Nat) (f : Coroutine → Coroutine) : Chip :=
  match mget c.cos key with
  | some co => { c with cos := mset c.cos key (f co) }
  | none => c

/-- The key of the coroutine that runs on a core. -/
def Chip.runningKey (c : Chip) (core : Nat) : Option Nat := (c.core core).running.map (coKey core)

/-- Whether a coroutine is solo: gang size 1 and both windows empty (R162). -/
def Coroutine.solo (co : Coroutine) : Bool := co.gsize = 1 && co.tcount = 0 && co.acount = 0

/-! ### Register kinds (R282, R218) -/

/-- A scalar register; `x0` reads zero. -/
def Coroutine.xr (co : Coroutine) (r : BitVec 5) : Word := if r = 0 then 0 else co.x[r.toNat]'(r.isLt)

/-- Write a scalar register; `x0` discards the write. -/
def Coroutine.setX (co : Coroutine) (r : BitVec 5) (v : Word) : Coroutine :=
  if r = 0 then co else { co with x := co.x.set r.toNat v r.isLt }

/-- A vector register. -/
def Coroutine.vr (co : Coroutine) (r : BitVec 5) : VReg := co.v[r.toNat]'(r.isLt)

/-- Write a vector register. -/
def Coroutine.setV (co : Coroutine) (r : BitVec 5) (v : VReg) : Coroutine := { co with v := co.v.set r.toNat v r.isLt }

/-- A mask register by number; zero while `STATUS.MU` is clear. -/
def Coroutine.mr (co : Coroutine) (n : Nat) : BitVec 256 := if co.mu then co.m.getD n 0 else 0

/-- Write a mask register, setting `STATUS.MU`. -/
def Coroutine.setM (co : Coroutine) (n : Nat) (v : BitVec 256) : Coroutine :=
  { co with m := (if co.mu then co.m else Vector.replicate 8 0).setIfInBounds n v, mu := true }

/-- A scale register by number; zero while `STATUS.SU` is clear. -/
def Coroutine.kr (co : Coroutine) (n : Nat) : BitVec 16 := if co.su then co.k.getD n 0 else 0

/-- Every scale register as it reads. -/
def Coroutine.kregs (co : Coroutine) : Vector (BitVec 16) 64 := if co.su then co.k else Vector.replicate 64 0

/-- Write a scale register, setting `STATUS.SU`. -/
def Coroutine.setK (co : Coroutine) (n : Nat) (v : BitVec 16) : Coroutine :=
  { co with k := co.kregs.setIfInBounds n v, su := true }

/-- A staging register by number; zero while `STATUS.QU` is clear. -/
def Coroutine.qr (co : Coroutine) (n : Nat) : Word := if co.qu then co.q.getD n 0 else 0

/-- Write a staging register, setting `STATUS.QU`. -/
def Coroutine.setQ (co : Coroutine) (n : Nat) (v : Word) : Coroutine :=
  { co with q := (if co.qu then co.q else Vector.replicate 16 0).setIfInBounds n v, qu := true }

/-- Move past the instruction. -/
def Coroutine.advance (co : Coroutine) : Coroutine := { co with pc := co.pc + 4 }

/-- `STATUS` with its `TR` bit given (R217). -/
def Coroutine.statusBits (co : Coroutine) (tr : Bool) : Word :=
  wordOf (b2n co.sup + 2 * b2n co.pp + 4 * b2n co.su + 8 * b2n co.mu + 16 * b2n co.qu + 32 * b2n co.ku
    + 64 * b2n (!co.block.isEmpty) + 128 * b2n tr + 65536 * co.inl.toNat)

/-- `STATUS` as a coroutine reads it (R217). -/
def Coroutine.statusWord (co : Coroutine) : Word := co.statusBits co.trapped

/-- The shape code of a vector register (R228). -/
def VReg.shape (v : VReg) : Nat :=
  match v with
  | .general _ => 0
  | .uniform _ _ => 1
  | .affine _ _ _ => 2

/-- The width code of a vector register (R219). -/
def VReg.width (v : VReg) : Nat :=
  match v with
  | .general _ => 0
  | .uniform w _ => w
  | .affine w _ _ => w

/-- `VSHAPE` as a word (R228). -/
def Coroutine.vshapeWord (co : Coroutine) : Word :=
  wordOf ((co.v.toList.zipIdx.map (fun p => p.1.shape * 4 ^ p.2)).foldl (· + ·) 0)

/-- `VWIDTH` as a word (R219). -/
def Coroutine.vwidthWord (co : Coroutine) : Word :=
  wordOf ((co.v.toList.zipIdx.map (fun p => p.1.width * 4 ^ p.2)).foldl (· + ·) 0)

/-- Whether a core has a coroutine in a state. -/
def Chip.anyOn (c : Chip) (core : Nat) (p : Coroutine → Bool) : Bool :=
  c.cos.any (fun e => e.1 / 256 = core && p e.2)

/-- Whether a coroutine counts as live: any state but exited (R172). -/
def Coroutine.isLive (co : Coroutine) : Bool := co.state ≠ .exited

/-- Live coroutines of a cluster (R161). -/
def Chip.liveOn (c : Chip) (cl : Nat) : Nat := mcount c.cos (fun k co => k / 1024 = cl && co.isLive)

/-- Ready and running coroutines of a core (R169). -/
def Chip.busyOn (c : Chip) (core : Nat) : Nat :=
  mcount c.cos (fun k co => k / 256 = core && (co.state = .ready || co.state = .running))

/-- Whether an identifier is promised to a message in flight (R169). -/
def Chip.promised (c : Chip) (core slot : Nat) : Bool :=
  c.msgs.any (fun f => match f.msg with
    | .spawn k s _ => k = core && s = slot
    | .migrate k s _ => k = core && s = slot
    | _ => false)

/-- The lowest free identifier of a core that is promised to nobody. -/
def Chip.freeSlot (c : Chip) (core : Nat) : Option Nat :=
  leastBelow 256 (fun s => (mget c.cos (coKey core s)).isNone && !c.promised core s)

/-- How many identifiers of a core are free. -/
def Chip.freeSlots (c : Chip) (core : Nat) : Nat :=
  ((List.range 256).filter (fun s => (mget c.cos (coKey core s)).isNone && !c.promised core s)).length

end Sys2Proof.Machine
end

