-- ==== Sys2Proof/Machine/Mmu.lean ====
section
/-! DEFINITION. The physical address map (R25), physical reads of tables, the entries that a page-table walk
finds, the keys of the slices' TLB entries and what a leaf gives its page (R98-R111). -/

namespace Sys2Proof.Machine

/-! ### Physical addresses -/

/-- What lies at a physical address (R25). -/
inductive Place where
  | hbm
  | cxl (port : Nat)
  | tile (cl : Nat)
  | slot (cl : Nat)
  | beacon (d : Nat)
  | hole
  deriving DecidableEq, Repr

/-- The physical address map (R25). -/
def place (pa : Nat) : Place :=
  if pa < 0x008000000000 then .hbm
  else if pa < 0x010000000000 then .hole
  else if pa < 0x090000000000 then
    (if (pa - 0x010000000000) % 0x020000000000 < Nat.min (Config.cxlCapacity ((pa - 0x010000000000) / 0x020000000000)) 0x018000000000
     then .cxl ((pa - 0x010000000000) / 0x020000000000) else .hole)
  else if pa < 0x800000000000 then .hole
  else if pa < 0x800080000000 then
    (if pa % 0x1000000 < 0x200000 then .tile ((pa - 0x800000000000) / 0x1000000)
     else if 0x400000 ≤ pa % 0x1000000 ∧ pa % 0x1000000 < 0x500000 then .slot ((pa - 0x800000000000) / 0x1000000)
     else .hole)
  else if pa < 0x800100000000 then .hole
  else if pa < 0x800104000000 then
    (if pa % 0x1000000 < 0x400000 then .beacon ((pa - 0x800100000000) / 0x1000000) else .hole)
  else .hole

/-- Whether a place is behind a CXL port. -/
def Place.isCxl (p : Place) : Bool :=
  match p with
  | .cxl _ => true
  | _ => false

/-- Whether a place is in a beacon table. -/
def Place.isBeacon (p : Place) : Bool :=
  match p with
  | .beacon _ => true
  | _ => false

/-- Whether an address lies in the on-chip window. -/
def inWindow (pa : Nat) : Bool := 0x800000000000 ≤ pa

/-- Whether a CXL port is down (R40). -/
def Chip.cxlDown (c : Chip) (port : Nat) : Bool := c.links.cxlDown.getLsbD port

/-- Whether nothing answers at an address: a hole, or the window of a CXL port that is down (R103). -/
def Chip.nothingAt (c : Chip) (pa : Nat) : Bool :=
  match place pa with
  | .hole => true
  | .cxl p => c.cxlDown p
  | _ => false

/-- The home spire of an HBM4E address, bits 38:37 (R26). -/
def hbmHome (pa : Nat) : Nat := pa / 2 ^ 37 % 4

/-- The HBM4E frame of an address as the bad-page list names it, bits 38:21 (R45). -/
def frameOf (pa : Nat) : Nat := pa / 2 ^ 21

/-- Whether an address lies in a retired frame (R45). -/
def Chip.isRetired (c : Chip) (pa : Nat) : Bool := place pa = .hbm && c.retired.contains (frameOf pa)

/-- The line of an address. -/
def lineOf (pa : Nat) : Nat := pa / 128

/-- The rose: slice and set of an address (R136). -/
def rose (a : Nat) : Nat × Nat :=
  (Nat.xor (Nat.xor (bits a 12 7) (bits a 18 13)) (bits a 20 19), bits a 20 13)

/-- The channel of a line over the package: spire and slice (R8, R26). -/
def channelOf (line : Nat) : Nat := hbmHome (line * 128) * 64 + (rose (line * 128)).1

/-- The compass word of a line that waits in its channel's write combiner (R31). -/
def Chip.pendingWord (c : Chip) (line : Nat) : Option (BitVec 16) :=
  ((mgetD c.combiner (channelOf line) []).find? (fun p => p.1 = line)).map (fun p => p.2)

/-- The compass word of a line as every reader sees it: the pending value, or DRAM's (R31, R182). -/
def Chip.compassOf (c : Chip) (line : Nat) : BitVec 16 :=
  match c.pendingWord line with
  | some w => w
  | none => mgetD c.compass line 0

/-- `STATE` of a compass word. -/
def cState (w : BitVec 16) : Nat := bits w.toNat 15 13
/-- `OWNER` of a compass word. -/
def cOwner (w : BitVec 16) : Nat := bits w.toNat 12 11
/-- `SHARERS` of a compass word. -/
def cSharers (w : BitVec 16) : Nat := bits w.toNat 10 7

/-- A compass word with its state fields replaced and its poison bit kept (R30). -/
def cWith (w : BitVec 16) (st ow sh : Nat) : BitVec 16 :=
  BitVec.ofNat 16 (bits w.toNat 6 6 * 64 + sh * 128 + ow * 2048 + st * 8192)

/-- Whether a compass word is malformed for a line homed on a spire (R182). -/
def cMalformed (w : BitVec 16) (home : Nat) : Bool :=
  4 ≤ cState w || ((cState w = 2 || cState w = 3) && cOwner w = home) || bit (cSharers w) home
    || (cState w = 1 && cSharers w = 0) || (cState w = 3 && bit (cSharers w) (cOwner w))

/-- Whether a line is poisoned: by its compass word (R182), by a malformed word, which the poison row makes poisoned (R187),
or, in CXL memory, as a slice holds it or its device returns it (R40). -/
def Chip.poisoned (c : Chip) (line : Nat) : Bool :=
  match place (line * 128) with
  | .hbm => (c.compassOf line).getLsbD 6 || cMalformed (c.compassOf line) (hbmHome (line * 128))
  | .tile _ | .slot _ => (c.compassOf line).getLsbD 6
  | p => p.isCxl && (c.links.cxlBad.contains line || c.copies.any (fun e => e.1 / 4 = line && e.2.poison))

/-- Whether any line of a byte range is poisoned. -/
def Chip.anyPoison (c : Chip) (pa n : Nat) : Bool :=
  (List.range (lineOf (pa + n - 1) + 1 - lineOf pa)).any (fun i => c.poisoned (lineOf pa + i))

/-! ### Accesses and leaves -/

/-- What an access does with its page (R111). -/
structure Acc where
  r : Bool
  w : Bool
  x : Bool
  /-- an AMO, `LR`, `SC` or `NAMO`, refused in the on-chip window (R104) -/
  atomic : Bool
  deriving DecidableEq, Repr

/-- A load. -/
def Acc.load : Acc := ⟨true, false, false, false⟩
/-- A store. -/
def Acc.store : Acc := ⟨false, true, false, false⟩
/-- An instruction fetch. -/
def Acc.fetch : Acc := ⟨false, false, true, false⟩
/-- An AMO or `SC`. -/
def Acc.amo : Acc := ⟨true, true, false, true⟩
/-- An `LR`, which walks as a read (R111). -/
def Acc.lr : Acc := ⟨true, false, false, true⟩

/-- The classes of a page (R102). -/
def clsDie : Nat := 0
/-- PKG class. -/
def clsPkg : Nat := 1
/-- RO class. -/
def clsRo : Nat := 2

/-- Where a translated access goes and how it is cached. -/
structure Xlat where
  pa : Nat
  cls : Nat
  pol : Nat
  home : Nat
  travel : Bool
  ns : Bool
  sp : Bool
  /-- the address space and virtual address it came by, which name its line (R142) and give its class (R143) -/
  asid : Nat
  va : Nat
  /-- the leaf under which it was translated, for the line's copy of its permissions (R110); zero in ASID 0 -/
  ent : TlbEntry
  deriving DecidableEq, Repr

/-- Frame address of a leaf, bits 47:21 (R102). -/
def leafFrame (e : Nat) : Nat := bits e 47 21 * 2 ^ 21

/-- Whether a leaf maps a shadow pair: `SP`, which has no effect on a window frame (R104, R108). -/
def leafPair (e : Nat) : Bool := bit e 14 && !inWindow (leafFrame e)

/-- The frame in front of a shadow pair: `FRAME`, or `FRAME` XOR 1 when `FACE` is set (R108, log entry 12). -/
def frontFrame (e : Nat) : Nat :=
  if leafPair e then Nat.xor (bits e 47 21) (bits e 50 50) * 2 ^ 21 else leafFrame e

/-- The frame behind: the other of the pair (R108). -/
def backFrame (e : Nat) : Nat := Nat.xor (frontFrame e / 2 ^ 21) 1 * 2 ^ 21

/-- The home spire of a page by its frame (R104). -/
def frameHome (pa home : Nat) : Nat :=
  match place pa with
  | .hbm => hbmHome pa
  | .cxl _ => home
  | .tile cl => spireOfCluster cl
  | .slot cl => spireOfCluster cl
  | .beacon d => d
  | .hole => home

/-- Whether R104 refuses an access to a window frame. -/
def windowRefuses (pa : Nat) (k : Acc) : Bool :=
  inWindow pa && (k.x || k.atomic || (k.w && (place pa).isBeacon))

/-- The fault kind of a leaf that is malformed, in a hole or retired, or of a refused access; 0 when none
(R103, R111 in its order; R119 for a retired shadow pair). -/
def Chip.checkLeaf (c : Chip) (e lvl : Nat) (pa : Nat) (k : Acc) (sup : Bool) : Nat :=
  if bits e 9 8 = 3 ∨ lvl = 1 ∨ (lvl = 2 ∧ (bits e 30 21 ≠ 0 ∨ bit e 14)) ∨ (bits e 9 8 = clsRo ∧ bit e 3)
      ∨ ((place (leafFrame e)).isCxl ∧ bits e 9 8 = clsPkg) then 2
  else if c.nothingAt pa then 5
  else if c.isRetired pa ∨ (leafPair e ∧ (c.isRetired (leafFrame e) ∨ c.isRetired (Nat.xor (bits e 47 21) 1 * 2 ^ 21))) then 6
  else if !sup ∧ !bit e 5 then 3
  else if k.w ∧ bits e 9 8 = clsRo then 4
  else if (k.r ∧ !bit e 2) ∨ (k.w ∧ !bit e 3) ∨ (k.x ∧ !bit e 4) then 3
  else if k.w ∧ bit e 15 then 9
  else if windowRefuses pa k then 3
  else 0

/-- Physical address of a VA under a leaf; `back` selects the back frame of a shadow pair (R108). (DEDUCED, log entry 12.) -/
def leafPa (e lvl va : Nat) (back : Bool) : Nat :=
  if lvl = 2 then leafFrame e + va % 2 ^ 31
  else (if back ∧ leafPair e then backFrame e else frontFrame e) + va % 2 ^ 21

/-- Identity translation of ASID 0: the fault kind, 0 when none, in the order of R98. -/
def Chip.checkIdentity (c : Chip) (va : Nat) (k : Acc) (sup : Bool) : Nat :=
  if 2 ^ 48 ≤ va then 1
  else if !sup ∨ (k.x ∧ ((0x010000000000 ≤ va ∧ va < 0x090000000000) ∨ inWindow va)) ∨ windowRefuses va k then 3
  else if c.nothingAt va then 5
  else if c.isRetired va then 6
  else 0

/-- Where an ASID-0 access goes (R98). -/
def identity (spire va : Nat) : Xlat :=
  match place va with
  | .cxl _ => ⟨va, clsDie, 2, spire, false, true, false, 0, va, ⟨0, 0, 0⟩⟩
  | .hbm => ⟨va, clsPkg, 0, hbmHome va, false, false, false, 0, va, ⟨0, 0, 0⟩⟩
  | _ => ⟨va, clsPkg, 3, frameHome va spire, false, true, false, 0, va, ⟨0, 0, 0⟩⟩

/-- Where an access goes under a leaf, by its address space (R104, R107): window frames are always uncached-device, and
`CLASS`, `T` and `SP` have no effect on them. -/
def leafXlat (t : TlbEntry) (asid va : Nat) (back : Bool) : Xlat :=
  let e := t.leaf
  let pa := leafPa e t.lvl va back
  if inWindow pa then ⟨pa, clsPkg, 3, frameHome pa 0, false, bit e 11, false, asid, va, t⟩
  else ⟨pa, bits e 9 8, bits e 13 12, frameHome pa (bits e 49 48), bit e 10, bit e 11, bit e 14, asid, va, t⟩

/-- Whether a table address can be read: HBM4E, not retired (R101). -/
def Chip.tableOk (c : Chip) (pa : Nat) : Bool := place pa = .hbm && !c.isRetired pa

/-- The level-1 table of a live address space: `PTBASE.ROOT` where `PTBASE.V` is set (R100). -/
def Chip.rootOf (c : Chip) (asid : Nat) : Option Nat :=
  if bit (mgetD c.roots asid 0) 0 then some (bits (mgetD c.roots asid 0) 47 14 * 2 ^ 14) else none

/-- A leaf with `A` set, and `D` set for a write (R111). -/
def touchLeaf (e : Nat) (w : Bool) : Nat := if w then setBits (setBits e 6 6 1) 7 7 1 else setBits e 6 6 1

/-- The key of a TLB entry: spire, ASID and 2 MiB page (R109). -/
def tlbKey (spire asid va : Nat) : Nat := (spire * 256 + asid) * 2 ^ 31 + va / 2 ^ 21 % 2 ^ 31

/-! ### Invalidation (R112, R113) -/

/-- Whether a TLB key is of an `XLINV` operation's pages: 0 one page, 1 a 2 GiB region, 2 an ASID, 3 all. -/
def xlinvHits (op asid page key : Nat) : Bool :=
  if op = 3 then true
  else if key / 2 ^ 31 % 256 ≠ asid then false
  else if op = 2 then true
  else if op = 1 then key % 2 ^ 31 / 1024 = page / 1024
  else key % 2 ^ 31 = page

/-- Whether an ASID and a 2 MiB page are an `XLINV` operation's. -/
def xlinvNames (op asid page a vline : Nat) : Bool := xlinvHits op asid page (tlbKey 0 a (vline * 128))

/-- Steps 2 to 4 of an invalidation: translations removed, the names of the matching lines removed while data and tags stay,
and the L1 lines of the ASIDs concerned invalidated (R113). -/
def Chip.invalidate (c : Chip) (op asid page : Nat) : Chip :=
  { c with
    tlb := c.tlb.filter (fun e => !xlinvHits op asid page e.1)
    copies := mmap c.copies (fun _ p =>
      if p.name.any (fun n => xlinvNames op asid page n.asid n.vline) then { p with name := none } else p)
    cores := mmap c.cores (fun _ k => { k with
      l1d := k.l1d.filter (fun l => !(op = 3 || l.asid = asid))
      l1i := k.l1i.filter (fun l => !(op = 3 || l.asid = asid)) }) }

end Sys2Proof.Machine
end

