-- ==== Sys2Proof/Machine/Slices.lean ====
section
/-! DEFINITION. The shared-cache slices and what stands behind them: DRAM with its latent errors (R28, R32, R42), the write
combiner (R31), the slices' copies of lines with sectors, ways and names (R137-R142), fills, write-backs and evictions. -/

namespace Sys2Proof.Machine

/-! ### Channels, banks and rows (R26, R27) -/

/-- Where a line of HBM4E lies in the DRAM (R26). -/
structure DramPlace where
  stack : Nat
  channel : Nat
  bank : Nat
  row : Nat
  subarray : Nat
  line : Nat
  deriving DecidableEq, Repr

/-- The bank of an HBM4E address, a[20:17] (R26). -/
def dramBank (pa : Nat) : Nat := bits pa 20 17

/-- The row within the bank, a[36:21] (R26). -/
def dramRow (pa : Nat) : Nat := bits pa 36 21

/-- The subarray, a[36:30] (R26). -/
def dramSubarray (pa : Nat) : Nat := bits pa 36 30

/-- The placement of an HBM4E line: stack, channel within the stack, bank, row, subarray, and line within the row (R26). -/
def dramPlace (pa : Nat) : DramPlace where
  stack := 2 * hbmHome pa + b2n (32 ≤ (rose pa).1)
  channel := (rose pa).1 % 32
  bank := dramBank pa
  row := dramRow pa
  subarray := dramSubarray pa
  line := bits pa 16 13

/-! ### The side-band (R28) -/

/-- The 128 side-band bits of a line: compass word with its check bits, and the check bits of both sectors (R28). The codes
themselves are not given, so their bits are opaque functions of what they protect (log entry 50). -/
def sideband (w : BitVec 16) (d : List Byte) : BitVec 128 :=
  Config.sectorCheck (d.drop 64) ++ Config.sectorCheck (d.take 64) ++ (Config.compassCheck w ++ w)

/-- No latent error. -/
def Latent.none : Latent := ⟨0, 0, 0⟩

/-- The latent errors of a line. -/
def Chip.latentOf (c : Chip) (line : Nat) : Latent := mgetD c.latent line Latent.none

/-- Set the latent errors of a line; a line without any is not listed. -/
def Chip.setLatent (c : Chip) (line : Nat) (l : Latent) : Chip :=
  { c with latent := if l = Latent.none then merase c.latent line else mset c.latent line l }

/-- The symbols in error in a sector. -/
def Latent.sector (l : Latent) (s : Nat) : BitVec 2 := if s = 0 then l.s0 else l.s1

/-- A sector's symbols in error set. -/
def Latent.setSector (l : Latent) (s : Nat) (n : BitVec 2) : Latent := if s = 0 then { l with s0 := n } else { l with s1 := n }

/-- A controller reports an error to its spire's fault-address queue (R41). -/
def Chip.report (c : Chip) (e : MemErr) : Chip := { c with found := c.found ++ [e] }

/-! ### The compass word and the write combiner (R30, R31) -/

/-- A word in DRAM; the zero word (U, not poisoned) is not listed. -/
def putWord (m : AMap (BitVec 16)) (line : Nat) (w : BitVec 16) : AMap (BitVec 16) :=
  if w = 0 then merase m line else mset m line w

/-- A word written to DRAM by any writer but a grant: it starts from the latest value, so a pending one is done with (R30). -/
def Chip.setCompass (c : Chip) (line : Nat) (w : BitVec 16) : Chip :=
  { c with
    compass := putWord c.compass line w
    combiner := if (c.pendingWord line).isNone then c.combiner
      else mset c.combiner (channelOf line) ((mgetD c.combiner (channelOf line) []).filter (fun p => p.1 ≠ line)) }

/-- A grant's update of a compass word through the channel's write combiner of 64 entries (R31): a pending value is replaced,
and a full combiner first writes its oldest entry to DRAM. An update that changes nothing writes nothing (R186). -/
def Chip.grantCompass (c : Chip) (line : Nat) (w : BitVec 16) : Chip :=
  let q := mgetD c.combiner (channelOf line) []
  if c.compassOf line = w then c
  else if q.any (fun p => p.1 = line) then
    { c with combiner := mset c.combiner (channelOf line) (q.map (fun p => if p.1 = line then (line, w) else p)) }
  else if q.length < 64 then { c with combiner := mset c.combiner (channelOf line) (q ++ [(line, w)]) }
  else
    match q with
    | [] => c
    | p :: r => { c with
        compass := putWord c.compass p.1 p.2
        combiner := mset c.combiner (channelOf line) (r ++ [(line, w)]) }

/-- Set or clear a line's poison bit (R42, R187). -/
def Chip.setPoison (c : Chip) (line : Nat) (p : Bool) : Chip :=
  c.setCompass line (if p then c.compassOf line ||| 0x40 else c.compassOf line &&& 0xFFBF)

/-! ### Slice copies -/

/-- The key of a spire's copy of a line. -/
def copyKey (spire line : Nat) : Nat := line * 4 + spire % 4

/-- A spire's copy of a line. -/
def Chip.copyAt (c : Chip) (spire line : Nat) : Option LineCopy := mget c.copies (copyKey spire line)

/-- A line is clean: every slice that holds it shows memory's bytes of it, and so does DRAM. -/
def Chip.Clean (c : Chip) (line : Nat) : Prop :=
  (∀ p ∈ c.copies, p.1 / 4 = line → p.2.data = none) ∧ ∀ e ∈ c.dramOld, e.1 / 128 ≠ line

/-- Put a copy of a line in a spire's slice, as the one used last. -/
def Chip.putCopy (c : Chip) (spire line : Nat) (p : LineCopy) : Chip :=
  { c with copies := mset c.copies (copyKey spire line) { p with used := c.uses }, uses := c.uses + 1 }

/-- Change a spire's copy of a line, if it holds one. -/
def Chip.modCopy (c : Chip) (spire line : Nat) (f : LineCopy → LineCopy) : Chip :=
  match c.copyAt spire line with
  | some p => { c with copies := mset c.copies (copyKey spire line) (f p) }
  | none => c

/-- Drop a spire's copy of a line. -/
def Chip.dropCopy (c : Chip) (spire line : Nat) : Chip := { c with copies := merase c.copies (copyKey spire line) }

/-- Whether a spire's copy of a line has a dirty sector. -/
def Chip.dirtyAt (c : Chip) (spire line : Nat) : Bool :=
  match c.copyAt spire line with
  | some p => decide (p.dirty ≠ 0)
  | none => false

/-- Whether any slice holds a line. -/
def Chip.lineHeld (c : Chip) (line : Nat) : Bool := c.copies.any (fun e => e.1 / 4 = line)

/-- Whether any slice holds a sector of a line. -/
def Chip.sectorHeld (c : Chip) (line s : Nat) : Bool := c.copies.any (fun e => e.1 / 4 = line && e.2.valid.getLsbD s)

/-- Where a sector's bytes begin. -/
def sectorBase (line s : Nat) : Nat := line * 128 + 64 * s

/-- Whether an address lies in a sector. -/
def inSector (pa line s : Nat) : Bool := pa / 64 = line * 2 + s

/-- The sectors that a range of bytes of one line touches. -/
def sectorsOf (pa n : Nat) : BitVec 2 :=
  if n = 0 then 0 else if pa % 128 / 64 = (pa % 128 + n - 1) / 64 then BitVec.ofNat 2 (2 ^ (pa % 128 / 64)) else 3

/-- The sectors of one line that a range of bytes covers wholly. -/
def sectorsWhole (pa n : Nat) : BitVec 2 :=
  BitVec.ofNat 2 ((if pa % 128 = 0 ∧ 64 ≤ n then 1 else 0) + (if pa % 128 ≤ 64 ∧ 128 ≤ pa % 128 + n then 2 else 0))

/-- The line of a copy as it reads: its own bytes, or memory's. -/
def LineCopy.bytes (p : LineCopy) (m : Memory) (line : Nat) : List Byte :=
  match p.data with
  | some d => d
  | none => memReadBytes m (line * 128) 128

/-- A copy given its bytes; those that memory shows too are not kept apart. -/
def LineCopy.withBytes (p : LineCopy) (m : Memory) (line : Nat) (d : List Byte) : LineCopy :=
  { p with data := if d = memReadBytes m (line * 128) 128 then none else some d }

/-- A line with one sector replaced. -/
def patchSector (d : List Byte) (s : Nat) (v : List Byte) : List Byte := if s = 0 then v ++ d.drop 64 else d.take 64 ++ v

/-! ### DRAM behind the slices (R207) -/

/-- What DRAM holds at an address: the byte at L2 unless a slice is newer or older there (R207). -/
def Chip.dramByte (c : Chip) (pa : Nat) : Byte :=
  match mget c.dramOld pa with
  | some v => v
  | none => memRead c.mem pa

/-- A byte written to DRAM, whatever the slices hold. -/
def Chip.setDram (c : Chip) (pa : Nat) (v : Byte) : Chip :=
  { c with dramOld := if memRead c.mem pa = v then merase c.dramOld pa else mset c.dramOld pa v }

/-- Bytes placed one after another. -/
def Chip.placeAll (c : Chip) (pa : Nat) (vs : List Byte) (f : Chip → Nat → Byte → Chip) : Chip :=
  match vs with
  | [] => c
  | v :: r => Chip.placeAll (f c pa v) (pa + 1) r f

/-- A sector that no slice holds as a fill finds it: DRAM's bytes are what L2 shows from now on. -/
def Chip.refill (c : Chip) (line s : Nat) : Chip :=
  let old := c.dramOld.filter (fun e => inSector e.1 line s)
  { c with
    mem := old.foldl (fun m e => memWrite m e.1 e.2) c.mem
    dramOld := if old = [] then c.dramOld else c.dramOld.filter (fun e => !inSector e.1 line s) }

/-- A controller reads a sector: what it corrects is rewritten, two symbols are reported, and an uncorrectable sector poisons
its line (R32, R41, R42). -/
def Chip.readSector (c : Chip) (line s : Nat) (scrub : Bool) : Chip :=
  let n := (c.latentOf line).sector s
  if place (line * 128) ≠ .hbm ∨ n = 0 then c
  else
    let c := c.setLatent line ((c.latentOf line).setSector s 0)
    if n = 2 then c.report ⟨hbmHome (line * 128), bits (line * 128) 38 7, 1, s, 0⟩
    else if n = 3 then
      (c.setPoison line true).report ⟨hbmHome (line * 128), bits (line * 128) 38 7, if scrub then 4 else 2, s, 0⟩
    else c

/-- A sector of a copy written to DRAM with fresh check bits. -/
def Chip.flushSector (c : Chip) (p : LineCopy) (line s : Nat) : Chip :=
  let c := c.setLatent line ((c.latentOf line).setSector s 0)
  match p.data with
  | none => { c with dramOld := c.dramOld.filter (fun e => !inSector e.1 line s) }
  | some d => c.placeAll (sectorBase line s) ((d.drop (64 * s)).take 64) Chip.setDram

/-- A poisoned line of a CXL page goes back to its device as poisoned (R38, R40). (DEDUCED, log entry 41.) -/
def Chip.flushPoison (c : Chip) (p : LineCopy) (line : Nat) : Chip :=
  if (place (line * 128)).isCxl ∧ p.dirty ≠ 0 then
    { c with links := { c.links with cxlBad := (c.links.cxlBad.filter (fun l => l ≠ line)) ++ (if p.poison then [line] else []) } }
  else c

/-- Write a copy's dirty sectors back to DRAM (R140). -/
def Chip.flushCopy (c : Chip) (spire line : Nat) : Chip :=
  match c.copyAt spire line with
  | none => c
  | some p =>
    let d := c.flushPoison p line
    let d := if p.dirty.getLsbD 0 then d.flushSector p line 0 else d
    let d := if p.dirty.getLsbD 1 then d.flushSector p line 1 else d
    d.modCopy spire line (fun q => { q with dirty := 0 })

/-- A spire gives up its copy of a line: what is dirty of it is written to DRAM first. -/
def Chip.giveUp (c : Chip) (spire line : Nat) : Chip := (c.flushCopy spire line).dropCopy spire line

/-- The copies of some spires given up. -/
def Chip.flushSpires (c : Chip) (line : Nat) (ds : List Nat) : Chip :=
  match ds with
  | [] => c
  | d :: r => Chip.flushSpires (c.giveUp d line) line r

/-- The copies of every spire in a mask dropped: those of a line's sharers, which are clean. -/
def Chip.dropMask (c : Chip) (line mask : Nat) : Chip := c.flushSpires line ((List.range 4).filter (fun d => bit mask d))

/-! ### Ways (R137, R139, R141, R144) -/

/-- Whether two lines lie in the same set of the same-numbered slice (R136, R137). -/
def sameSet (a b : Nat) : Bool := rose (a * 128) = rose (b * 128)

/-- The copies that a spire holds in the set of a line. -/
def Chip.setOf (c : Chip) (spire line : Nat) : AMap LineCopy := c.copies.filter (fun e => e.1 % 4 = spire && sameSet (e.1 / 4) line)

/-- A way that is empty among some, in the set of a line. -/
def Chip.emptyWay (c : Chip) (spire line : Nat) (ways : List Nat) : Option Nat :=
  ways.find? (fun w => !(c.setOf spire line).any (fun e => e.2.way = w))

/-- The general ways that the class of an address space may fill (R143, R144). -/
def Chip.classWays (c : Chip) (asid : Nat) : List Nat :=
  let m := mgetD c.svcways (mgetD c.svcmap asid 0).toNat (BitVec.allOnes 58)
  if m = 0 then List.range 58 else (List.range 58).filter (fun w => m.getLsbD w)

/-- The ways of context spill lines (R139). -/
def spillWays : List Nat := [58, 59, 60, 61]

/-- A remote slice's dirty sectors go to the home slice, where they become dirty, and its copy goes (R185, R186). Where the
home slice has no way for them they go on to DRAM. (DEDUCED, log entry 42.) -/
def Chip.sendHome (c : Chip) (line home n : Nat) : Chip :=
  match c.copyAt n line with
  | none => c
  | some p =>
    if p.dirty = 0 then c.dropCopy n line
    else
      match c.copyAt home line with
      | some h =>
        let q := { h with valid := h.valid ||| p.dirty, dirty := h.dirty ||| p.dirty }
        let q := if p.data = none ∧ h.data = none then q
          else
            let pd := p.bytes c.mem line
            let hd := h.bytes c.mem line
            q.withBytes c.mem line ((if p.dirty.getLsbD 0 then pd.take 64 else hd.take 64)
              ++ (if p.dirty.getLsbD 1 then pd.drop 64 else hd.drop 64))
        (c.dropCopy n line).putCopy home line q
      | none =>
        match c.emptyWay home line (List.range 58) with
        | some w => (c.dropCopy n line).putCopy home line { p with mode := .home, valid := p.dirty, way := w, name := none }
        | none => (c.flushCopy n line).dropCopy n line

/-- A slice gives up its copy of a line: only dirty sectors are written back, from the home slice to DRAM, from a remote one
to the home slice (R140, R185). -/
def Chip.evict (c : Chip) (spire line : Nat) : Chip :=
  match c.copyAt spire line with
  | none => c
  | some p =>
    match p.mode with
    | .home | .readOnly => c.giveUp spire line
    | _ => c.sendHome line (hbmHome (line * 128)) spire

/-- A way for a new line: an empty one among those allowed, or that of the least recently used line, which is evicted
(R139, R141, R144). With no way allowed the line is placed in none, number 64. -/
def Chip.takeWay (c : Chip) (spire line : Nat) (ways : List Nat) : Nat × Chip :=
  match ways with
  | [] => (64, c)
  | v :: _ =>
    match c.emptyWay spire line ways with
    | some w => (w, c)
    | none =>
      match leastBy (fun e => e.2.used) ((c.setOf spire line).filter (fun e => ways.contains e.2.way)) with
      | some e => (e.2.way, c.evict spire (e.1 / 4))
      | none => (v, c)

/-- An empty copy of a line, in a way of a spire's slice. -/
def Chip.newCopy (c : Chip) (spire line : Nat) (mode : CopyMode) (ways : List Nat) : Chip :=
  let r := c.takeWay spire line ways
  r.2.putCopy spire line ⟨mode, 0, 0, false, r.1, 0, none, none⟩

/-! ### Fills (R140) -/

/-- Whether the CXL device behind a line returns it as poisoned (R38, R40). -/
def Chip.deviceBad (c : Chip) (line : Nat) : Bool := (place (line * 128)).isCxl && c.links.cxlBad.contains line

/-- A sector read for a fill: by the controller, or from a CXL device, whose poison is reported once (R38, R40, R41). -/
def Chip.readForFill (c : Chip) (spire line s : Nat) (p : LineCopy) : Chip :=
  let c := c.readSector line s false
  if c.deviceBad line && !p.poison then
    c.report ⟨spire, bits (line * 128) 40 9, 5, 0, (line * 128 - 0x010000000000) / 0x020000000000⟩
  else c

/-- A copy with one sector more. -/
def LineCopy.gains (p : LineCopy) (s : Nat) (poison : Bool) : LineCopy :=
  { p with valid := p.valid ||| BitVec.ofNat 2 (2 ^ s), poison := p.poison || poison }

/-- A sector that has been read, put in a spire's copy: no slice holds it, so that it shows DRAM's bytes from now on, or another
slice does. -/
def Chip.takeSector (c : Chip) (spire line s : Nat) (p : LineCopy) : Chip :=
  let q := p.gains s (c.deviceBad line)
  if !c.sectorHeld line s then
    let d := c.refill line s
    d.modCopy spire line (fun _ =>
      if p.data = none then q
      else q.withBytes d.mem line (patchSector (p.bytes c.mem line) s (memReadBytes d.mem (sectorBase line s) 64)))
  else
    c.modCopy spire line (fun _ =>
      if p.data = none ∧ !c.dramOld.any (fun e => inSector e.1 line s) then q
      else q.withBytes c.mem line (patchSector (p.bytes c.mem line) s
        ((List.range 64).map (fun i => c.dramByte (sectorBase line s + i)))))

/-- One sector of a copy filled from DRAM or a CXL device. -/
def Chip.fillDram (c : Chip) (spire line s : Nat) (p : LineCopy) : Chip := (c.readForFill spire line s p).takeSector spire line s p

/-- One sector of a spire's copy filled, from the home slice where that holds it, else from DRAM (R140, R186). -/
def Chip.fillSector (c : Chip) (spire line home s : Nat) : Chip :=
  match c.copyAt spire line with
  | none => c
  | some p =>
    if p.valid.getLsbD s then c
    else
      match (if spire = home then none else c.copyAt home line) with
      | some h =>
        if h.valid.getLsbD s then
          let q := p.gains s h.poison
          c.modCopy spire line (fun _ =>
            if p.data = none ∧ h.data = none then q
            else q.withBytes c.mem line (patchSector (p.bytes c.mem line) s (((h.bytes c.mem line).drop (64 * s)).take 64)))
        else c.fillDram spire line s p
      | none => c.fillDram spire line s p

/-- The sectors of a copy that an access needs, filled. -/
def Chip.fillSectors (c : Chip) (spire line home : Nat) (need : BitVec 2) : Chip :=
  let c := if need.getLsbD 0 then c.fillSector spire line home 0 else c
  if need.getLsbD 1 then c.fillSector spire line home 1 else c

end Sys2Proof.Machine
end

