-- ==== Sys2Proof/Machine/Coherence.lean ====
section
/-! DEFINITION. Lines at the slices: compass coherence (R182-R187), what DRAM holds where a slice is dirty (R207),
reservation breaks (R202), and reads and writes at L2 and at memory. -/

namespace Sys2Proof.Machine

/-! ### Waking -/

/-- A coroutine whose wait is satisfied at a time: ready, or ready as its prior state when parked (R177, R212). -/
def Coroutine.wake (co : Coroutine) (t : Nat) : Coroutine :=
  if co.state = .awaiting then { co with state := .ready, wait := .none, rtime := t }
  else if co.state = .parked ∧ co.prior = .awaiting then { co with prior := .ready, wait := .none, rtime := t }
  else co

/-- Whether a coroutine awaits, now or as its prior state. -/
def Coroutine.isWaiting (co : Coroutine) : Bool :=
  co.state = .awaiting || (co.state = .parked && co.prior = .awaiting)

/-- Wake every waiting coroutine that satisfies a test. -/
def Chip.wakeAll (c : Chip) (p : Nat → Coroutine → Bool) : Chip :=
  { c with cos := mmap c.cos (fun k co => if co.isWaiting && p k co then co.wake c.time else co) }

/-- A write to a line by one observer breaks the others' reservations of it and ends their `WAITRS` (R202, R391). -/
def Chip.breakReservations (c : Chip) (line : Nat) (writer : Option Nat) : Chip :=
  { c with cos := mmap c.cos (fun k co =>
      if writer = some k || !(co.resv.any (fun r => r.line = line)) then co
      else
        let co := { co with resv := co.resv.map (fun r => if r.line = line then { r with broken := true } else r) }
        if co.isWaiting && co.wait = .reservation then co.wake c.time else co) }

/-! ### Coherence transactions (R182-R187) -/

/-- Recall a line's owner: its dirty sectors become dirty in the home slice and its copy goes (R186). -/
def Chip.recallOwner (c : Chip) (line home o : Nat) : Chip := c.sendHome line home o

/-- Remove every remote copy that a compass word names (R183, R186). -/
def Chip.recallNamed (c : Chip) (line home : Nat) : Chip :=
  let w := c.compassOf line
  if cState w = 1 then c.dropMask line (cSharers w)
  else if cState w = 2 then c.recallOwner line home (cOwner w)
  else if cState w = 3 then (c.recallOwner line home (cOwner w)).dropMask line (cSharers w)
  else c

/-- Clean the home slice's copy before a grant (R186). -/
def Chip.cleanHome (c : Chip) (line home : Nat) : Chip := if c.dirtyAt home line then c.flushCopy home line else c

/-- The row that resolves a malformed or unreadable compass word (R187). -/
def Chip.poisonRow (c : Chip) (line home : Nat) : Chip :=
  (c.flushSpires line ((List.range 4).filter (fun d => d ≠ home))).setCompass line 0x40

/-- The compass word as the fill that brings a line into its home slice reads it: what can be corrected is rewritten, and an
uncorrectable word is reported and resolved by the poison row (R42, R187). -/
def Chip.readWord (c : Chip) (line home : Nat) : Chip :=
  let w := (c.latentOf line).w
  if w = 0 ∨ (c.copyAt home line).isSome then c
  else
    let c := c.setLatent line { c.latentOf line with w := 0 }
    if w = 3 then (c.poisonRow line home).report ⟨home, bits (line * 128) 38 7, 3, 0, 0⟩ else c

/-- A malformed word is resolved by the poison row (R186, R187). -/
def Chip.resolveWord (c : Chip) (line home : Nat) : Chip :=
  if cMalformed (c.compassOf line) home then c.poisonRow line home else c

/-- The compass word read and resolved. -/
def Chip.soundWord (c : Chip) (line home : Nat) : Chip := (c.readWord line home).resolveWord line home

/-- A home read of a PKG line (R186). (DEDUCED, log entry 42.) -/
def Chip.homeRead (c : Chip) (line home : Nat) (ways : List Nat) : Chip :=
  let w := c.compassOf line
  let c := if cState w = 2 ∨ cState w = 3 then c.recallOwner line home (cOwner w) else c
  let c := if (c.copyAt home line).isSome then c else c.newCopy home line .home ways
  c.fillSectors home line home 3

/-- A home write of a PKG line, before the data is placed: the sectors that the write covers only in part are filled (R140,
R186). (DEDUCED, log entry 42.) -/
def Chip.homeWrite (c : Chip) (line home : Nat) (ways : List Nat) (need : BitVec 2) : Chip :=
  let c := c.recallNamed line home
  let c := if (c.copyAt home line).isSome then c else c.newCopy home line .home ways
  c.fillSectors home line home need

/-- A spire's new copy with what another spire's copy holds. -/
def Chip.copyFrom (c : Chip) (line n o : Nat) (mode : CopyMode) (dirty : Bool) (ways : List Nat) : Chip :=
  match c.copyAt o line with
  | none => c
  | some p => (c.newCopy n line mode ways).modCopy n line (fun q =>
      { q with valid := p.valid, dirty := if dirty then p.dirty else 0, poison := p.poison, data := p.data })

/-- A spire gets a shared copy, which its fill takes from the home slice or from DRAM (R186). -/
def Chip.share (c : Chip) (line n : Nat) (w : BitVec 16) (ways : List Nat) : Chip :=
  (c.grantCompass line w).newCopy n line .shared ways

/-- A spire gets a shared copy from the owner, whose own copy stays in a mode (R186). -/
def Chip.shareFrom (c : Chip) (line n o : Nat) (w : BitVec 16) (mode : CopyMode) (ways : List Nat) : Chip :=
  ((c.grantCompass line w).modCopy o line (fun p => { p with mode := mode })).copyFrom line n o .shared false ways

/-- A remote read of a PKG line by a spire that holds no copy (R186). (DEDUCED, log entry 42.) -/
def Chip.remoteRead (c : Chip) (line home n : Nat) (ways : List Nat) : Chip :=
  let w := c.compassOf line
  let o := cOwner w
  let d := c.cleanHome line home
  let d :=
    if (cState w = 2 ∨ cState w = 3) ∧ o ≠ n ∧ (c.copyAt o line).isSome then
      if cState w = 2 ∧ !c.dirtyAt o line then d.shareFrom line n o (cWith w 1 0 (Nat.lor (2 ^ o) (2 ^ n))) .shared ways
      else d.shareFrom line n o (cWith w 3 o (Nat.lor (if cState w = 2 then 0 else cSharers w) (2 ^ n))) .dirtyOwner ways
    else d.share line n (cWith w 1 0 (Nat.lor (if cState w = 2 then 0 else cSharers w) (2 ^ n))) ways
  d.fillSectors n line home 3

/-- A spire gets the exclusive copy: the owner's, or its own, or one to be filled (R185, R186). -/
def Chip.takeLine (c : Chip) (line n o : Nat) (owned : Bool) (ways : List Nat) : Chip :=
  if owned && (c.copyAt o line).isSome then ((c.giveUp n line).copyFrom line n o .exclusive true ways).dropCopy o line
  else if (c.copyAt n line).isSome then c.modCopy n line (fun p => { p with mode := .exclusive })
  else c.newCopy n line .exclusive ways

/-- A remote write of a PKG line by a spire that holds no exclusive copy: the copy it gets is exclusive, and dirty only where
a recalled owner's was (R185, R186). (DEDUCED, log entry 42.) -/
def Chip.remoteWrite (c : Chip) (line home n : Nat) (ways : List Nat) (need : BitVec 2) : Chip :=
  let w := c.compassOf line
  let o := cOwner w
  let d := c.cleanHome line home
  let d := if cState w = 1 ∨ cState w = 3 then d.dropMask line (Nat.xor (Nat.lor (cSharers w) (2 ^ n)) (2 ^ n)) else d
  ((((d.takeLine line n o ((cState w = 2 || cState w = 3) && o ≠ n) ways).grantCompass line (cWith w 2 n 0)).fillSectors n line home
    need).giveUp home line)

/-- A drop of a remote spire's copy: dirty sectors go to the home slice, the compass word stays (R185).
(DEDUCED, log entry 42.) -/
def Chip.remoteDrop (c : Chip) (line home n : Nat) : Chip := c.sendHome line home n

/-- A line recalled to U, its dirty data written back, its poison kept (R33, R47, R186). -/
def Chip.recallToU (c : Chip) (line : Nat) : Chip :=
  let c := c.flushSpires line (List.range 4)
  c.setCompass line (cWith (c.compassOf line) 0 0 0)

/-! ### Bringing a line to a spire (R105, R140, R142, R208) -/

/-- The spire whose slice serves an access: the home spire of a DIE-class page, else the one it arises on (R105). -/
def Xlat.server (x : Xlat) (spire : Nat) : Nat := if x.cls = clsDie then x.home else spire

/-- The access that used a line last gives it its name, with the copy of its leaf's permissions (R110, R142). -/
def Chip.nameLine (c : Chip) (d line : Nat) (x : Xlat) : Chip :=
  Chip.modCopy { c with uses := c.uses + 1 } d line (fun p => { p with
    used := c.uses
    name := if x.asid = 0 then p.name else some ⟨x.asid, x.va / 128, x.ent⟩ })

/-- A line that a no-allocate access has brought in leaves again (R208). -/
def Chip.dropUnplaced (c : Chip) (d line : Nat) : Chip :=
  match c.copyAt d line with
  | some p => if p.way = 64 then c.evict d line else c
  | none => c

/-- The ways that an access may fill: its class's, or none for a no-allocate access (R144, R208). -/
def Chip.fillWays (c : Chip) (x : Xlat) (noFill : Bool) : List Nat := if noFill then [] else c.classWays x.asid

/-- Bring a line to a spire for reading some of its sectors (R105, R140, R185, R186). -/
def Chip.lineForRead (c : Chip) (spire : Nat) (x : Xlat) (line : Nat) (need : BitVec 2) (noFill : Bool) : Chip :=
  let ways := c.fillWays x noFill
  let d := x.server spire
  let c :=
    if x.cls = clsPkg then
      let c := c.soundWord line x.home
      if spire = x.home then c.homeRead line x.home ways
      else if (c.copyAt spire line).isSome then c.fillSectors spire line x.home 3
      else c.remoteRead line x.home spire ways
    else
      let c := if (c.copyAt d line).isSome then c
        else c.newCopy d line (if x.cls = clsRo then .readOnly else .home) ways
      c.fillSectors d line x.home need
  c.nameLine d line x

/-- Bring a line to a spire for writing; `need` are the sectors to fill before the write (R140, R185, R186). -/
def Chip.lineForWrite (c : Chip) (spire : Nat) (x : Xlat) (line : Nat) (need : BitVec 2) (noFill : Bool) : Chip :=
  let ways := c.fillWays x noFill
  let d := x.server spire
  let c :=
    if x.cls = clsPkg then
      let c := c.soundWord line x.home
      if spire = x.home then c.homeWrite line x.home ways need
      else if (c.copyAt spire line).any (fun p => p.mode = .exclusive) then c.fillSectors spire line x.home need
      else c.remoteWrite line x.home spire ways need
    else
      let c := if (c.copyAt d line).isSome then c else c.newCopy d line .home ways
      c.fillSectors d line x.home need
  c.nameLine d line x

/-! ### Bytes -/

/-- The 64 bytes of a beacon; its waiter list is free (R255). (DEDUCED, log entry 25.) -/
def beaconBytes (b : Beacon) (w : Word) : List Byte :=
  leBytes 4 b.count.toNat ++ leBytes 4 0 ++ leBytes 8 (b.gen.toNat + 2 ^ 63 * b2n b.alloc)
    ++ [b.err, b.esrc] ++ leBytes 2 b.ecount.toNat ++ leBytes 4 0
    ++ leBytes 8 w.toNat ++ leBytes 8 w.toNat ++ leBytes 8 w.toNat ++ leBytes 8 w.toNat ++ leBytes 8 w.toNat

/-- A beacon by spire and index. -/
def Chip.beacon (c : Chip) (d i : Nat) : Beacon := mgetD (c.spire d).beacons i Beacon.reset

/-- The window address of a beacon line that is named by its place in HBM4E: the resident copy serves both (R25, R138). -/
def Chip.residentPa (c : Chip) (pa : Nat) : Nat :=
  match place pa with
  | .hbm =>
    (match (List.range 4).find? (fun d => (c.spire d).frames.contains (frameOf pa)) with
      | some d => 0x800100000000 + d * 0x1000000 + ((c.spire d).frames.findIdx (fun f => f = frameOf pa)) * 0x200000 + pa % 0x200000
      | none => pa)
  | _ => pa

/-- A byte of the on-chip window, or of DRAM (R107, R207). -/
def Chip.byteAt (c : Chip) (pa pol : Nat) : Byte :=
  match place pa with
  | .beacon d => (beaconBytes (c.beacon d (pa % 0x1000000 / 64)) (Config.freeWord c.free)).getD (pa % 64) 0
  | .hole => 0
  | _ => if 2 ≤ pol then c.dramByte pa else memRead c.mem pa

/-- Bytes at a physical address by policy. -/
def Chip.bytesAt (c : Chip) (pa n pol : Nat) : List Byte := (List.range n).map (fun i => c.byteAt (pa + i) pol)

/-- The bytes of one line that a spire's copy shows: memory's, or its own where copies differ (R39, R207). -/
def Chip.shownBytes (c : Chip) (d pa n : Nat) : List Byte :=
  match (c.copyAt d (lineOf pa)).bind (fun p => p.data) with
  | some b => (b.drop (pa % 128)).take n
  | none => memReadBytes c.mem pa n

/-- One byte placed at L2: what DRAM keeps is remembered until the line is written back. -/
def Chip.placeCached (c : Chip) (pa : Nat) (v : Byte) : Chip :=
  { c with
    mem := memWrite c.mem pa v
    dramOld := if c.dramByte pa = v then merase c.dramOld pa else mset c.dramOld pa (c.dramByte pa) }

/-- One byte written to DRAM: a slice that holds its sector keeps its own (R207). -/
def Chip.placeUncached (c : Chip) (pa : Nat) (v : Byte) (held : Bool) : Chip :=
  if held then c.setDram pa v else { c with mem := memWrite c.mem pa v, dramOld := merase c.dramOld pa }

/-- Bytes of one line written in the copy that serves the access. Copies of a PKG line agree; where the spires of two leaves
with different `HOME` hold a CXL line, only the one written changes (R39). The sectors written are dirty from now on, and a
write-through store has the line written back (R107, R140, R185, R207). -/
def Chip.writeCopy (c : Chip) (d pa : Nat) (vs : List Byte) (pkg through : Bool) : Chip :=
  let line := lineOf pa
  let mark := fun (p : LineCopy) =>
    { p with valid := p.valid ||| sectorsOf pa vs.length, dirty := p.dirty ||| sectorsOf pa vs.length }
  let c :=
    if pkg ∨ !c.copies.any (fun e => e.1 / 4 = line && e.1 % 4 ≠ d) then
      let c := match (c.copyAt d line).bind (fun p => p.data) with
        | some b => (c.placeAll (line * 128) (b.take 128) Chip.placeCached).modCopy d line (fun p => { p with data := none })
        | none => c
      (c.placeAll pa vs Chip.placeCached).modCopy d line mark
    else
      c.modCopy d line (fun p =>
        (mark p).withBytes c.mem line ((p.bytes c.mem line).take (pa % 128) ++ vs ++ (p.bytes c.mem line).drop (pa % 128 + vs.length)))
  if through then c.flushCopy d line else c

/-- A controller reads some sectors of a line for an access that fills nothing. -/
def Chip.readSectors (c : Chip) (line : Nat) (need : BitVec 2) : Chip :=
  let c := if need.getLsbD 0 then c.readSector line 0 false else c
  if need.getLsbD 1 then c.readSector line 1 false else c

/-- A write that covers the whole line clears its poison when it is of a kind that R187 lists. -/
def Chip.clearPoison (c : Chip) (line : Nat) : Chip :=
  if (place (line * 128)).isCxl then
    { c with
      copies := mmap c.copies (fun k p => if k / 4 = line then { p with poison := false } else p)
      links := { c.links with cxlBad := c.links.cxlBad.filter (fun l => l ≠ line) } }
  else c.setPoison line false

/-- Poisoned data has been written to a line, which is poisoned from now on (R187, R251). -/
def Chip.poisonLine (c : Chip) (line : Nat) : Chip :=
  match place (line * 128) with
  | .cxl _ =>
    if c.lineHeld line then { c with copies := mmap c.copies (fun k p => if k / 4 = line then { p with poison := true } else p) }
    else if c.links.cxlBad.contains line then c
    else { c with links := { c.links with cxlBad := c.links.cxlBad ++ [line] } }
  | .beacon _ | .hole => c
  | _ => c.setPoison line true

/-- A spire that is idle wakes for an access to its slices or memory (R14). -/
def Chip.wakeSpire (c : Chip) (d : Nat) : Chip :=
  if (c.spire d).power = 0 then c else c.modSpire d (fun s => { s with power := 0 })

/-- A read of bytes of one line at L2, or at memory for an uncached page (R107, R208). -/
def Chip.readL2 (c : Chip) (spire : Nat) (x : Xlat) (n : Nat) (noFill : Bool) : List Byte × Chip :=
  let c := c.wakeSpire x.home
  let pa := c.residentPa x.pa
  if inWindow pa then (c.bytesAt pa n 0, { c with free := c.free + 1 })
  else if 2 ≤ x.pol then
    let c := c.readSectors (lineOf pa) (sectorsOf pa n)
    (c.bytesAt pa n x.pol, c)
  else
    let c := c.lineForRead spire x (lineOf pa) (sectorsOf pa n) noFill
    (c.shownBytes (x.server spire) pa n, c.dropUnplaced (x.server spire) (lineOf pa))

/-- A read that consumes its data: none where the line is poisoned, once the read has learnt of it (R42, R187, R266). -/
def Chip.readSound (c : Chip) (spire : Nat) (x : Xlat) (n : Nat) (noFill : Bool) : Option (List Byte) × Chip :=
  let r := c.readL2 spire x n noFill
  (if r.2.poisoned (lineOf x.pa) then none else some r.1, r.2)

/-- A write of bytes of one line at L2, or to memory for an uncached page, by an observer; `full` says that the
write is of a kind that clears poison when it covers the line (R187). Writes to a beacon table are discarded. -/
def Chip.writeL2 (c : Chip) (spire : Nat) (x : Xlat) (vs : List Byte) (writer : Option Nat) (full through noFill : Bool) : Chip :=
  let c := c.wakeSpire x.home
  let pa := c.residentPa x.pa
  let line := lineOf pa
  if vs = [] then c
  else if inWindow pa then
    (match place pa with
      | .tile _ | .slot _ =>
        let c := { c with mem := memWriteBytes c.mem pa vs }
        if full ∧ vs.length = 128 then c.clearPoison line else c
      | _ => c)
  else
    let part := sectorsOf pa vs.length &&& ~~~(sectorsWhole pa vs.length)
    let c :=
      if 2 ≤ x.pol then
        let c := c.readSectors line part
        let c := c.setLatent line (Latent.mk
          (if (sectorsWhole pa vs.length).getLsbD 0 then 0 else (c.latentOf line).s0)
          (if (sectorsWhole pa vs.length).getLsbD 1 then 0 else (c.latentOf line).s1) (c.latentOf line).w)
        c.placeAll pa vs (fun d a v => d.placeUncached a v (c.sectorHeld line (a % 128 / 64)))
      else
        let d := x.server spire
        ((c.lineForWrite spire x line part noFill).writeCopy d pa vs (x.cls = clsPkg) (through || x.pol = 1)).dropUnplaced d line
    let c := if full ∧ vs.length = 128 then c.clearPoison line else c
    c.breakReservations line writer

/-! ### Memory that the device reads and writes itself -/

/-- The parts of an access that lie in different lines: address and length each. -/
def linePieces (fuel va n : Nat) : List (Nat × Nat) :=
  match fuel with
  | 0 => []
  | f + 1 => if n = 0 then [] else if va % 128 + n ≤ 128 then [(va, n)]
    else (va, 128 - va % 128) :: linePieces f (va + (128 - va % 128)) (n - (128 - va % 128))

/-- Bytes of HBM4E read through their home slices by the device itself: tables of the KV space, context records, save images.
(DEDUCED, log entry 42.) -/
def Chip.homeGet (c : Chip) (ps : List (Nat × Nat)) (ways : List Nat) : List Byte × Chip :=
  match ps with
  | [] => ([], c)
  | p :: r =>
    let line := lineOf p.1
    let c := (c.soundWord line (hbmHome p.1)).homeRead line (hbmHome p.1) ways
    let t := Chip.homeGet c r ways
    (c.shownBytes (hbmHome p.1) p.1 p.2 ++ t.1, t.2)

/-- Bytes of HBM4E written through their home slices by the device itself. (DEDUCED, log entry 42.) -/
def Chip.homePut (c : Chip) (ps : List (Nat × Nat)) (vs : List Byte) (ways : List Nat) : Chip :=
  match ps with
  | [] => c
  | p :: r =>
    let line := lineOf p.1
    let d := hbmHome p.1
    Chip.homePut (((c.soundWord line d).homeWrite line d ways (sectorsOf p.1 p.2 &&& ~~~(sectorsWhole p.1 p.2))).writeCopy d p.1
      (vs.take p.2) true false) r (vs.drop p.2) ways

/-! ### L1 caches (R194) -/

/-- Invalidate a core's L1 data lines that are not RO class: an acquire at scope 2 or wider (R191, R194). -/
def Chip.acquireL1 (c : Chip) (core : Nat) : Chip :=
  c.modCore core (fun k => { k with l1d := k.l1d.filter (fun l => l.ro) })

/-- Invalidate physical lines in every core's L1 data cache. -/
def Chip.dropL1Data (c : Chip) (p : Nat → Bool) : Chip :=
  { c with cores := mmap c.cores (fun _ k => { k with l1d := k.l1d.filter (fun l => !p l.pline) }) }

/-- Invalidate physical lines in every core's L1 instruction cache. -/
def Chip.dropL1Instr (c : Chip) (p : Nat → Bool) : Chip :=
  { c with cores := mmap c.cores (fun _ k => { k with l1i := k.l1i.filter (fun l => !p l.pline) }) }

/-- The bytes of a line with some replaced from an offset up. -/
def patchLine (d : List Byte) (o : Nat) (vs : List Byte) : List Byte := d.take o ++ vs ++ d.drop (o + vs.length)

/-- A performed scalar store updates the line in its own core's L1 (R194). -/
def Chip.updateL1 (c : Chip) (core pa : Nat) (asid va : Nat) (vs : List Byte) : Chip :=
  c.modCore core (fun k => { k with l1d := k.l1d.map (fun l =>
    if l.asid = asid ∧ l.vline = va / 128 ∧ l.pline = lineOf pa then { l with data := patchLine l.data (pa % 128) vs } else l) })

end Sys2Proof.Machine
end

