-- ==== Sys2Proof/Machine/Walk.lean ====
section
/-! DEFINITION. The page-table walk as PKG-class accesses of the walking spire, and translation by a line's name, a TLB entry
or a walk (R98, R109-R111). -/

namespace Sys2Proof.Machine

/-- One level of the walk: the entry at `ta` for `va`, or a fault kind (R111), read as a PKG-class access of the walking spire
by physical address. (DEDUCED, log entry 42.) -/
def Chip.walkEntry (c : Chip) (spire ta idx : Nat) : (Nat ⊕ Nat) × Chip :=
  let ea := ta + 8 * idx
  if !c.tableOk ea then (.inl 11, c)
  else
    match c.readSound spire (identity spire ea) 8 false with
    | (none, c) => (.inl 10, c)
    | (some bs, c) => (if bit (leNat bs) 0 then .inr (leNat bs) else .inl 1, c)

/-- The walk to a leaf: a fault kind, or the leaf with its level and its own address (R101, R111). -/
def Chip.walkLeaf (c : Chip) (spire asid va : Nat) : (Nat ⊕ TlbEntry) × Chip :=
  match c.rootOf asid with
  | none => (.inl 8, c)
  | some root =>
    if 2 ^ 52 ≤ va then (.inl 1, c)
    else
      match c.walkEntry spire root (bits va 51 41) with
      | (.inl f, c) => (.inl f, c)
      | (.inr e1, c) =>
        if bit e1 1 then (.inr ⟨e1, 1, root + 8 * bits va 51 41⟩, c)
        else
          match c.walkEntry spire (bits e1 47 13 * 2 ^ 13) (bits va 40 31) with
          | (.inl f, c) => (.inl f, c)
          | (.inr e2, c) =>
            if bit e2 1 then (.inr ⟨e2, 2, bits e1 47 13 * 2 ^ 13 + 8 * bits va 40 31⟩, c)
            else
              match c.walkEntry spire (bits e2 47 13 * 2 ^ 13) (bits va 30 21) with
              | (.inl f, c) => (.inl f, c)
              | (.inr e3, c) =>
                (if bit e3 1 then .inr ⟨e3, 3, bits e2 47 13 * 2 ^ 13 + 8 * bits va 30 21⟩ else .inl 2, c)

/-- A leaf written back with `A` and `D` set, as a PKG-class write of the walking spire (R111); a walker is no observer, so
reservations stand (R114, R180). A write to a beacon table is discarded (R138). (DEDUCED, log entry 42.) -/
def Chip.writeTable (c : Chip) (spire ea e : Nat) : Chip :=
  if inWindow (c.residentPa ea) then c
  else (c.lineForWrite spire (identity spire ea) (lineOf ea) (sectorsOf ea 8) false).writeCopy spire ea (leBytes 8 e) true false

/-- A walk that checks the leaf, sets `A` and `D` in memory, and leaves the entry at the spire (R111). The
compare-and-swap never fails within one step. -/
def Chip.walk (c : Chip) (spire asid va : Nat) (k : Acc) (sup back : Bool) : (Nat ⊕ Xlat) × Chip :=
  match c.walkLeaf spire asid va with
  | (.inl f, c) => (.inl f, c)
  | (.inr t, c) =>
    if c.checkLeaf t.leaf t.lvl (leafPa t.leaf t.lvl va back) k sup ≠ 0 then
      (.inl (c.checkLeaf t.leaf t.lvl (leafPa t.leaf t.lvl va back) k sup), c)
    else
      let u : TlbEntry := { t with leaf := touchLeaf t.leaf k.w }
      let c := if u = t then c else c.writeTable spire t.ea u.leaf
      (.inr (leafXlat u asid va back), { c with tlb := mset c.tlb (tlbKey spire asid va) u })

/-- A walk in place of an entry that a slice held, which goes when the walk fails (R109). -/
def Chip.rewalk (c : Chip) (spire asid va : Nat) (k : Acc) (sup back : Bool) : (Nat ⊕ Xlat) × Chip :=
  match c.walk spire asid va k sup back with
  | (.inl f, c) => (.inl f, { c with tlb := merase c.tlb (tlbKey spire asid va) })
  | (.inr x, c) => (.inr x, c)

/-- An access by an entry that a slice holds, its own or a line's copy of it: checked as the walk checks a leaf (R109, R110).
A write through an entry with `D` clear has the leaf's `D` set by a walk. -/
def Chip.byEntry (c : Chip) (t : TlbEntry) (spire asid va : Nat) (k : Acc) (sup back : Bool) : (Nat ⊕ Xlat) × Chip :=
  if c.checkLeaf t.leaf t.lvl (leafPa t.leaf t.lvl va back) k sup ≠ 0 then
    (.inl (c.checkLeaf t.leaf t.lvl (leafPa t.leaf t.lvl va back) k sup), c)
  else if k.w ∧ !bit t.leaf 7 then c.rewalk spire asid va k sup back
  else (.inr (leafXlat t asid va back), c)

/-- The line of a spire's slices that has a name (R109, R110, R142). -/
def Chip.namedLine (c : Chip) (spire asid va : Nat) : Option TlbEntry :=
  (c.copies.find? (fun e => e.1 % 4 = spire && e.2.name.any (fun n => n.asid = asid && n.vline = va / 128))).bind
    (fun e => e.2.name.map (fun n => n.ent))

/-- Translate an access that arises on a spire: by the line that has its name, else by an entry of the translation home slice,
which it uses while that is still held, a free choice, else by a walk (R109, R110, log entry 13). A shadow copy reaches the
other frame of its pair, so no line's name serves it. -/
def Chip.translate (c : Chip) (spire asid va : Nat) (k : Acc) (sup back : Bool) : (Nat ⊕ Xlat) × Chip :=
  if asid = 0 then
    (if c.checkIdentity va k sup ≠ 0 then .inl (c.checkIdentity va k sup) else .inr (identity spire va), c)
  else
    match (if back then none else c.namedLine spire asid va) with
    | some t => c.byEntry t spire asid va k sup back
    | none =>
      match mget c.tlb (tlbKey spire asid va) with
      | none => c.walk spire asid va k sup back
      | some t =>
        if 2 ^ 52 ≤ va then (.inl 1, c)
        else
          let r := if Config.freeBool c.free then c.byEntry t spire asid va k sup back else c.rewalk spire asid va k sup back
          (r.1, { r.2 with free := r.2.free + 1 })

/-- Translate without leaving anything behind: the probe of R250. -/
def Chip.probe (c : Chip) (spire asid va : Nat) (k : Acc) (sup back : Bool) : Option Xlat :=
  match (c.translate spire asid va k sup back).1 with
  | .inr x => some x
  | .inl _ => none

end Sys2Proof.Machine
end

