-- ==== Sys2Proof/Machine/Beacon.lean ====
section
/-! DEFINITION. Beacons, tokens and signals (R224-R226, R255-R256, R393-R397), and the closing of fault records
by a signal (R116, R135, R412). -/

namespace Sys2Proof.Machine

/-! ### Tokens (R224) -/

/-- The node number of a token. -/
def tokNode (t : Word) : Nat := bits t.toNat 63 54
/-- The spire of a token. -/
def tokDie (t : Word) : Nat := bits t.toNat 53 52
/-- The beacon index of a token. -/
def tokIndex (t : Word) : Nat := bits t.toNat 51 36
/-- The generation of a token. -/
def tokGen (t : Word) : Nat := bits t.toNat 35 0

/-- A token of this package's node. -/
def Chip.token (c : Chip) (d i : Nat) (gen : BitVec 36) : Word :=
  wordOf (gen.toNat + 2 ^ 36 * i + 2 ^ 52 * d + 2 ^ 54 * c.links.id.toNat)

/-- Whether a token names this node. -/
def Chip.tokHere (c : Chip) (t : Word) : Bool := tokNode t = c.links.id.toNat

/-- The beacon a token names. -/
def Chip.tokBeacon (c : Chip) (t : Word) : Beacon := c.beacon (tokDie t) (tokIndex t)

/-- Whether a token is current: its generation is the beacon's, which is allocated (R224, R393). -/
def Chip.tokCurrent (c : Chip) (t : Word) : Bool :=
  (c.tokBeacon t).alloc && (c.tokBeacon t).gen.toNat = tokGen t

/-- The next generation: 2^36 - 1 is followed by 1 (R395). -/
def nextGen (g : BitVec 36) : BitVec 36 := if g = BitVec.allOnes 36 then 1 else g + 1

/-- Change a beacon. -/
def Chip.modBeacon (c : Chip) (d i : Nat) (f : Beacon → Beacon) : Chip :=
  c.modSpire d (fun s => { s with beacons := mset s.beacons i (f (mgetD s.beacons i Beacon.reset)) })

/-- A beacon allocated with a count, in one slice transaction (R395). -/
def Beacon.allocate (b : Beacon) (count : BitVec 32) : Beacon := ⟨count, nextGen b.gen, true, 0, 0, 0⟩

/-- A beacon freed (R396). -/
def Beacon.free (b : Beacon) : Beacon := { b with alloc := false, gen := nextGen b.gen }

/-- The token that names a beacon as it stands. -/
def Chip.tokenOf (c : Chip) (d i : Nat) : Word := c.token d i (c.beacon d i).gen

/-- The lowest free beacon below 0xFE00 of a spire (R395). -/
def Chip.freeBeacon (c : Chip) (d : Nat) : Option Nat := leastBelow 0xFE00 (fun i => !(c.beacon d i).alloc)

/-- The lowest free fault beacon of a spire (R116). -/
def Chip.freeFaultBeacon (c : Chip) (d : Nat) : Option Nat :=
  (leastBelow 0x100 (fun i => !(c.beacon d (0xFF00 + i)).alloc)).map (fun i => 0xFF00 + i)

/-- The worse of two statuses: the non-OK one of lowest code (R59, R411). -/
def worse (a b : Nat) : Nat := if a = 0 then b else if b = 0 then a else Nat.min a b

/-! ### Counts (R225, R256, R394) -/

/-- A launch that waits on a token is past it once the count is at most 0 (R81). -/
def Chip.passLaunchWaits (c : Chip) (tok : Word) : Chip :=
  { c with launches := mmap c.launches (fun _ l => { l with waits := l.waits.filter (fun t => t ≠ tok) }) }

/-- Wake the waiters that a beacon's count satisfies (R225). -/
def Chip.releaseWaiters (c : Chip) (d i : Nat) : Chip :=
  let tok := c.tokenOf d i
  let n := (c.beacon d i).count.toInt
  let c := if n ≤ 0 then c.passLaunchWaits tok else c
  c.wakeAll (fun _ co => match co.wait with
    | .beacon t th => t = tok && decide (n < th.toInt)
    | _ => false)

/-- A count decremented with saturation (R394). -/
def Beacon.decrement (b : Beacon) (dec : Int) : Beacon := { b with count := BitVec.ofInt 32 (clamp32 (b.count.toInt - dec)) }

/-- A status recorded: the first error sticks (R256). -/
def Beacon.record (b : Beacon) (status esrc : Nat) : Beacon :=
  if status = 0 then b
  else { b with
    err := if b.err = 0 then BitVec.ofNat 8 status else b.err
    esrc := if b.err = 0 then BitVec.ofNat 8 esrc else b.esrc
    ecount := if b.ecount = BitVec.allOnes 16 then b.ecount else b.ecount + 1 }

/-! ### Closing a fault record (R116, R135, R412) -/

/-- A copy command whose pieces stalled on a token replay, or fail with status `FAULT` when abandoned. -/
def CopyCmd.unstall (q : CopyCmd) (tok : Word) (abandon : Bool) : CopyCmd :=
  if q.stalled.any (fun p => p.2 = tok) then
    { q with
      stalled := q.stalled.filter (fun p => p.2 ≠ tok)
      ahead := if abandon then q.ahead ++ (q.stalled.filter (fun p => p.2 = tok)).map (fun p => p.1) else q.ahead
      cmd := if abandon then { q.cmd with status := worse q.cmd.status 1 } else q.cmd }
  else q

/-- A network command's stalled local pieces replay, or fail with `FAULT` (R59) when abandoned. A work request that
cannot be read completes as one of no bytes without a token. -/
def NetCmd.unstall (q : NetCmd) (tok : Word) (abandon : Bool) : NetCmd :=
  if q.stalled.any (fun p => p.2 = tok) then
    let offs := (q.stalled.filter (fun p => p.2 = tok)).map (fun p => p.1)
    let kept := q.stalled.filter (fun p => p.2 ≠ tok)
    let unsent := offs.filter (fun o => !(q.flight.any (fun f => f.off = o)))
    if abandon then
      { q with
        stalled := kept
        flight := q.flight.filter (fun f => !offs.contains f.off)
        wr := if q.op = 4 ∧ q.wr = [] then List.replicate 64 0 else q.wr
        cmd := { q.cmd with status := worse q.cmd.status 3 } }
    else { q with stalled := kept, redo := if q.op = 4 ∧ q.wr = [] then q.redo else q.redo ++ unsent }
  else q

/-- Every engine piece stalled on a token. -/
def Chip.unstallEngines (c : Chip) (tok : Word) (abandon : Bool) : Chip :=
  { c with clusters := mmap c.clusters (fun _ k => { k with
      copyQ := k.copyQ.map (fun q => q.unstall tok abandon)
      netQ := k.netQ.map (fun q => q.unstall tok abandon) }) }

/-- Close the record that a fault beacon belongs to: its waiters are released whatever their thresholds, its
engine pieces replay or are abandoned, its beacon is freed (R116, R412), and those that wait for a fault beacon to
be free try again (R117). (DEDUCED, log entry 25.) -/
def Chip.closeRecord (c : Chip) (d i : Nat) : Chip :=
  let tok := c.tokenOf d i
  let abandon := decide ((c.beacon d i).count.toInt ≤ -1)
  let c := (if (c.beacon d i).count.toInt ≤ 0 then c.passLaunchWaits tok else c).wakeAll (fun _ co => match co.wait with
    | .beacon t _ => t = tok
    | _ => false)
  let c := c.unstallEngines tok abandon
  let c := c.modSpire d (fun s => { s with recs := s.recs.filter (fun r => r.fbi ≠ i) })
  let c := { c with clusters := mmap c.clusters (fun k q =>
    if spireOfCluster k = d then { q with kvrecs := q.kvrecs.filter (fun r => r.fbi ≠ i) } else q) }
  let c := c.modBeacon d i Beacon.free
  c.wakeAll (fun k co => co.wait = .freeBeacon && spireOf (k / 256) = d)

/-! ### Signals (R394, R397) -/

/-- Whether a fault beacon is that of a record which the host services (R117). -/
def Chip.hostRecord (c : Chip) (d i : Nat) : Bool := (c.spire d).recs.any (fun r => r.fbi = i && r.host)

/-- Apply a signal at its beacon's slice: nothing when the token is not current; the count, the status, the
waiters; and the close of the record when the beacon is a fault beacon. A record that the host services closes only at the
host's own signal record; any other signal lowers its count (R117). (DEDUCED, log entry 25.) -/
def Chip.applySignal (c : Chip) (tok : Word) (dec : Int) (status esrc : Nat) (host : Bool) : Chip :=
  if c.tokHere tok && c.tokCurrent tok then
    let d := tokDie tok
    let i := tokIndex tok
    let c := c.modBeacon d i (fun b => (b.record status esrc).decrement dec)
    if 0xFF00 ≤ i ∧ (host ∨ !c.hostRecord d i) then c.closeRecord d i else c.releaseWaiters d i
  else c

/-- Apply a `BSET` at its beacon's slice (R397). -/
def Chip.applySet (c : Chip) (tok : Word) (v : BitVec 32) : Chip :=
  if c.tokHere tok && c.tokCurrent tok then
    (c.modBeacon (tokDie tok) (tokIndex tok) (fun b => { b with count := v, err := 0, esrc := 0, ecount := 0 })).releaseWaiters
      (tokDie tok) (tokIndex tok)
  else c

/-- Send a message on virtual channel 3 (R153, R155). -/
def Chip.send (c : Chip) (src : Source) (part : Option Nat) (m : Msg) : Chip := 
  { c with msgs := c.msgs ++ [{ part := part, dropped := false, waiting := false, msg := m, src := src }] }

/-- Signal a token by 1 with a status: the completion of a command; token 0 names no beacon (R410). -/
def Chip.complete (c : Chip) (src : Source) (tok : Word) (status esrc : Nat) : Chip :=
  if tok = 0 then c else c.send src none (.signal tok 1 status esrc none)

/-- The fault record open for a page at a spire (R116). -/
def Chip.recordFor (c : Chip) (d asid va : Nat) : Option FaultRec :=
  (c.spire d).recs.find? (fun r => r.asid = asid && r.page = va / 2 ^ 21)

/-- The fault record that a coroutine opened, translation or KV: its beacon (R116, R135). -/
def Chip.openedBy (c : Chip) (d key : Nat) : Option Nat :=
  match (c.spire d).recs.find? (fun r => r.opener = some key) with
  | some r => some r.fbi
  | none =>
    match c.clusters.find? (fun e => spireOfCluster e.1 = d && e.2.kvrecs.any (fun r => r.opener = some key)) with
    | some e => (e.2.kvrecs.find? (fun r => r.opener = some key)).map (fun r => r.fbi)
    | none => none

end Sys2Proof.Machine
end

