-- ==== Sys2Proof/Machine/Access.lean ====
section
/-! DEFINITION. One access of a coroutine or an engine: translation with fault records and travel (R105, R111,
R116), scalar loads through the L1 and the store buffer (R189, R194, R197, R208), stores placed at L2. -/

namespace Sys2Proof.Machine

/-- Who makes an access: its spire, address space and mode, and how R105 and R116 treat it. -/
structure Agent where
  spire : Nat
  asid : Nat
  sup : Bool
  /-- an access of a coroutine itself; otherwise an engine's -/
  own : Bool
  /-- an own access of a solo coroutine to data: it may hop -/
  solo : Bool
  /-- an own access of a supervisor coroutine: it neither opens nor joins a record -/
  supCo : Bool
  key : Option Nat
  deriving DecidableEq, Repr

/-- Why an access is not performed. -/
inductive MemFault where
  /-- a translation fault of a kind (R115) -/
  | kind (k : Nat)
  /-- an open record of the page is joined: its token and its kind (R116) -/
  | joined (tok : Word) (kind : Nat)
  /-- a DIE-class page of another spire, no hop (R105) -/
  | xdie
  /-- a travel hop to a spire, to a physical line (R105, R170) -/
  | travel (spire line : Nat)
  /-- poisoned data is consumed (R266) -/
  | poison
  deriving DecidableEq, Repr

/-- A coroutine as the agent of its own data accesses. -/
def Coroutine.agent (co : Coroutine) (key : Nat) : Agent :=
  ⟨spireOf (key / 256), co.asid, co.sup, true, co.solo, co.sup, some key⟩

/-- A coroutine as the agent of its fetches, which never hop (R105). -/
def Coroutine.fetchAgent (co : Coroutine) (key : Nat) : Agent :=
  ⟨spireOf (key / 256), co.fetchAsid, co.sup, true, false, co.sup, some key⟩

/-- A command as the agent of its engine accesses (R111). -/
def Cmd.agent (q : Cmd) : Agent := ⟨spireOf q.core, q.asid, q.sup, false, false, false, none⟩

/-- The supervisor-mode engine access of a window or of the start phase (R58, R81, R111). -/
def engineAgent (spire asid : Nat) (sup : Bool) : Agent := ⟨spire, asid, sup, false, false, false, none⟩

/-- What R105 makes of a translated access. -/
def route (a : Agent) (x : Xlat) : Option MemFault :=
  if inWindow x.pa ∨ x.cls = clsRo ∨ x.home = a.spire then none
  else if a.solo ∧ x.travel then some (.travel x.home (lineOf x.pa))
  else if x.cls = clsPkg then none
  else some .xdie

/-- Translate one access, joining an open record of its page (R116). -/
def Chip.xlate (c : Chip) (a : Agent) (va : Nat) (k : Acc) (back : Bool) : (MemFault ⊕ Xlat) × Chip :=
  match (if a.supCo then none else c.recordFor a.spire a.asid va) with
  | some r => (.inl (.joined (c.tokenOf a.spire r.fbi) r.kind), c)
  | none =>
    match c.translate a.spire a.asid va k a.sup back with
    | (.inl f, c) => (.inl (.kind f), c)
    | (.inr x, c) =>
      match route a x with
      | some f => (.inl f, c)
      | none => (.inr x, c)

/-- Translate every piece of an access of up to a few lines; the first failure decides. -/
def Chip.xlateAll (c : Chip) (a : Agent) (ps : List (Nat × Nat)) (k : Acc) : (MemFault ⊕ List (Xlat × Nat)) × Chip :=
  match ps with
  | [] => (.inr [], c)
  | p :: r =>
    match c.xlate a (p.1 % 2 ^ 64) k false with
    | (.inl f, c) => (.inl f, c)
    | (.inr x, c) =>
      match Chip.xlateAll c a r k with
      | (.inl f, c) => (.inl f, c)
      | (.inr xs, c) => (.inr ((x, p.2) :: xs), c)

/-- Read the pieces of an access at L2, one after another; none where a line turns out poisoned. -/
def Chip.readPieces (c : Chip) (spire : Nat) (xs : List (Xlat × Nat)) (noFill : Bool) : Option (List Byte) × Chip :=
  match xs with
  | [] => (some [], c)
  | p :: r =>
    let q := c.readSound spire p.1 p.2 noFill
    let t := Chip.readPieces q.2 spire r noFill
    (q.1.bind (fun bs => t.1.map (fun cs => bs ++ cs)), t.2)

/-- Read the pieces of an access to be delivered with their poison: the bytes, and whether a line was poisoned (R59, R187). -/
def Chip.readDelivered (c : Chip) (spire : Nat) (xs : List (Xlat × Nat)) : List Byte × Bool × Chip :=
  match xs with
  | [] => ([], false, c)
  | p :: r =>
    let q := c.readL2 spire p.1 p.2 false
    let bad := q.2.poisoned (lineOf p.1.pa)
    let t := Chip.readDelivered q.2 spire r
    (q.1 ++ t.1, bad || t.2.1, t.2.2)

/-- Delivered data written piece by piece: poisoned data leaves its lines poisoned (R59, R187). -/
def Chip.writeDelivered (c : Chip) (spire : Nat) (xs : List (Xlat × Nat)) (vs : List Byte) (bad : Bool) : Chip :=
  match xs with
  | [] => c
  | p :: r =>
    let c := c.writeL2 spire p.1 (vs.take p.2) none true false false
    Chip.writeDelivered (if bad then c.poisonLine (lineOf p.1.pa) else c) spire r (vs.drop p.2) bad

/-- Write the pieces of an access at L2, one after another. -/
def Chip.writePieces (c : Chip) (spire : Nat) (xs : List (Xlat × Nat)) (vs : List Byte) (writer : Option Nat)
    (full through noFill : Bool) : Chip :=
  match xs with
  | [] => c
  | p :: r =>
    Chip.writePieces (c.writeL2 spire p.1 (vs.take p.2) writer full through noFill) spire r (vs.drop p.2) writer full through
      noFill

/-- A read of `n` bytes at L2, checked for poison: vector elements, AMO operands, list reads. -/
def Chip.load (c : Chip) (a : Agent) (va n : Nat) (k : Acc) (noFill : Bool) : (MemFault ⊕ List Byte) × Chip :=
  match c.xlateAll a (linePieces 8 va n) k with
  | (.inl f, c) => (.inl f, c)
  | (.inr xs, c) =>
    match c.readPieces a.spire xs noFill with
    | (none, c) => (.inl .poison, c)
    | (some bs, c) => (.inr bs, c)

/-- A write of bytes at L2 or at memory. -/
def Chip.store (c : Chip) (a : Agent) (va : Nat) (vs : List Byte) (full through : Bool) : Option MemFault × Chip :=
  match c.xlateAll a (linePieces 8 va vs.length) .store with
  | (.inl f, c) => (some f, c)
  | (.inr xs, c) => (none, c.writePieces a.spire xs vs a.key full through false)

/-! ### The L1 and the store buffer -/

/-- The L1 line that a load may be served from (R194): present, still resident (a free choice, log entry 13), and
filled from a page the mode may read. (DESIGN CHOICE, log entry 49.) -/
def Chip.l1Hit (c : Chip) (core asid va : Nat) (sup : Bool) : Option L1Line :=
  match (c.core core).l1d.find? (fun l => l.asid = asid && l.vline = va / 128 && (sup || l.user)) with
  | some l => if Config.freeBool c.free then some l else none
  | none => none

/-- A line as an L1 of a spire's core keeps it: the leaf says whether user mode may read it; ASID 0 has none. -/
def Chip.l1Line (c : Chip) (spire asid va : Nat) (x : Xlat) : L1Line :=
  ⟨asid, va / 128, lineOf x.pa, x.cls = clsRo, bit x.ent.leaf 5, c.shownBytes (x.server spire) (x.pa / 128 * 128) 128⟩

/-- An L1 of `cap` lines with a line filled: it replaces the line of its name, or, in a full one, a line that nothing determines.
(DESIGN CHOICE, log entry 13.) -/
def fillLine (cap : Nat) (w : Word) (l : L1Line) (ls : List L1Line) : List L1Line :=
  let rest := ls.filter (fun m => !(m.asid = l.asid && m.vline = l.vline))
  l :: (if rest.length < cap then rest else dropAt rest (w.toNat % rest.length))

/-- The chip as an L1 fills from it: both sectors of the line are at the slice (R140, R194). -/
def Chip.wholeLine (c : Chip) (spire : Nat) (x : Xlat) : Chip := c.fillSectors (x.server spire) (lineOf x.pa) x.home 3

/-- Fill an L1 line from L2, in the 64 KiB of the L1 data cache (R194, R209); a beacon line is served by its slices alone
(R138). -/
def Chip.fillL1 (c : Chip) (core asid va : Nat) (x : Xlat) : Chip :=
  if inWindow (c.residentPa x.pa) then c
  else
    let c := c.wholeLine (spireOf core) x
    { c.modCore core (fun k => { k with
        l1d := fillLine 512 (Config.freeWord c.free) (c.l1Line (spireOf core) asid va x) k.l1d }) with free := c.free + 1 }

/-- One piece of a scalar load through the L1 (R194, R207, R208). `bypass`: an acquire or a hint reads at L2. -/
def Chip.loadPiece (c : Chip) (core : Nat) (a : Agent) (va n : Nat) (bypass : Bool) : (MemFault ⊕ List Byte) × Chip :=
  match (if bypass then none else c.l1Hit core a.asid va a.sup) with
  | some l => (.inr ((l.data.drop (va % 128)).take n), { c with free := c.free + 1 })
  | none =>
    match c.xlate a (va % 2 ^ 64) .load false with
    | (.inl f, c) => (.inl f, c)
    | (.inr x, c) =>
      match c.readSound a.spire x n false with
      | (none, c) => (.inl .poison, c)
      | (some bs, c) => (.inr bs, if bypass ∨ 2 ≤ x.pol then c else c.fillL1 core a.asid va x)

/-- The pieces of a scalar load, in order; the first failure decides. -/
def Chip.loadPieces (c : Chip) (core : Nat) (a : Agent) (ps : List (Nat × Nat)) (bypass : Bool) :
    (MemFault ⊕ List Byte) × Chip :=
  match ps with
  | [] => (.inr [], c)
  | p :: r =>
    match c.loadPiece core a p.1 p.2 bypass with
    | (.inl f, c) => (.inl f, c)
    | (.inr bs, c) =>
      match Chip.loadPieces c core a r bypass with
      | (.inl f, c) => (.inl f, c)
      | (.inr cs, c) => (.inr (bs ++ cs), c)

/-- Whether a buffered store and an access share a byte of one name (R189, R197). -/
def Store.overlaps (s : Store) (slot asid va n : Nat) : Bool :=
  s.slot = slot && s.asid = asid && decide (s.va < va + n) && decide (va < s.va + s.size)

/-- The latest buffered store of a coroutine that shares a byte with an access. -/
def Chip.buffered (c : Chip) (core slot asid va n : Nat) : Option Store :=
  ((c.core core).sb.filter (fun s => s.overlaps slot asid va n)).getLast?

/-- Whether a store covers an access wholly. -/
def Store.covers (s : Store) (va n : Nat) : Bool := decide (s.va ≤ va) && decide (va + n ≤ s.va + s.size)

/-- Whether an access goes to an uncached-device page (R107). -/
def Chip.toDevice (c : Chip) (a : Agent) (va : Nat) (k : Acc) : Bool :=
  match c.probe a.spire a.asid (va % 2 ^ 64) k a.sup false with
  | some x => x.pol = 3
  | none => false

/-- Whether a buffered store goes to an uncached-device page (R107). -/
def Chip.storesDevice (c : Chip) (core : Nat) (s : Store) : Bool :=
  c.toDevice ⟨spireOf core, s.asid, s.sup, true, false, s.sup, some (coKey core s.slot)⟩ s.va .store

/-- Whether an access to an uncached-device page must wait for its coroutine's older stores to such pages: each is made once
and in program order (R107). -/
def Chip.deviceWaits (c : Chip) (core slot : Nat) (a : Agent) (va : Nat) (k : Acc) : Bool :=
  (c.core core).sb.any (fun s => s.slot = slot) && c.toDevice a va k
    && (c.core core).sb.any (fun s => s.slot = slot && c.storesDevice core s)

/-- What a scalar load gives: it waits, fails, or reads bytes. -/
inductive LoadRes where
  | wait
  | fail (f : MemFault)
  | bytes (v : Nat)
  deriving DecidableEq, Repr

/-- A scalar load of a coroutine: its own buffered store, else the L1 or L2 (R189, R194, R197); a load from an uncached-device
page is made itself, after the coroutine's older stores to such pages (R107). (DESIGN CHOICE, log entry 49.) -/
def Chip.scalarLoad (c : Chip) (key : Nat) (co : Coroutine) (va n : Nat) (bypass : Bool) : LoadRes × Chip :=
  if c.deviceWaits (key / 256) (key % 256) (co.agent key) va .load then (.wait, c)
  else
    match c.buffered (key / 256) (key % 256) co.asid va n with
    | some s => (if s.covers va n then .bytes (s.data / 256 ^ (va - s.va) % 256 ^ n) else .wait, c)
    | none =>
      match c.loadPieces (key / 256) (co.agent key) (linePieces 8 va n) bypass with
      | (.inl f, c) => (.fail f, c)
      | (.inr bs, c) => (.bytes (leNat bs), c)

/-- Whether a coroutine has buffered stores. (DEDUCED, log entry 14.) -/
def Chip.storesPending (c : Chip) (key : Nat) : Bool := (c.core (key / 256)).sb.any (fun s => s.slot = key % 256)

/-- Whether a coroutine has entries in its core's vector command queue. -/
def Chip.vectorPending (c : Chip) (key : Nat) : Bool := (c.core (key / 256)).vq.any (fun e => e.slot = key % 256)

/-- Update the core's own L1 lines with a performed store, piece by piece (R194). -/
def Chip.updateL1All (c : Chip) (core asid : Nat) (ps : List (Nat × Nat)) (vs : List Byte) : Chip :=
  match ps with
  | [] => c
  | p :: r =>
    let c := match c.probe (spireOf core) asid p.1 .load true false with
      | some x => c.updateL1 core x.pa asid p.1 (vs.take p.2)
      | none => c
    Chip.updateL1All c core asid r (vs.drop p.2)

/-- Perform a buffered store at its slice: the first failure, or the chip with the store placed and the core's own
L1 line updated (R194, R197). -/
def Chip.performStore (c : Chip) (core : Nat) (co : Coroutine) (s : Store) : Option MemFault × Chip :=
  match c.store { co.agent (coKey core s.slot) with asid := s.asid, sup := s.sup } s.va (leBytes s.size s.data) false false with
  | (some f, c) => (some f, c)
  | (none, c) =>
    (none, if (c.core core).l1d.isEmpty then c
      else c.updateL1All core s.asid (linePieces 8 s.va s.size) (leBytes s.size s.data))

end Sys2Proof.Machine
end

