-- ==== Sys2Proof/Machine/Sha.lean ====
section
/-! DEFINITION. SHA-384 and HMAC-SHA-384, which the spec names for `DEVHASH`, tags, digests and attestation
(R88, R96, R274, R275); their computation is FIPS 180-4's and RFC 2104's (log entry 16). -/

namespace Sys2Proof.Machine

/-- The round constants 0-39 of SHA-384. -/
def shaK0 : List Nat :=
  [0x428A2F98D728AE22, 0x7137449123EF65CD, 0xB5C0FBCFEC4D3B2F, 0xE9B5DBA58189DBBC,
   0x3956C25BF348B538, 0x59F111F1B605D019, 0x923F82A4AF194F9B, 0xAB1C5ED5DA6D8118,
   0xD807AA98A3030242, 0x12835B0145706FBE, 0x243185BE4EE4B28C, 0x550C7DC3D5FFB4E2,
   0x72BE5D74F27B896F, 0x80DEB1FE3B1696B1, 0x9BDC06A725C71235, 0xC19BF174CF692694,
   0xE49B69C19EF14AD2, 0xEFBE4786384F25E3, 0x0FC19DC68B8CD5B5, 0x240CA1CC77AC9C65,
   0x2DE92C6F592B0275, 0x4A7484AA6EA6E483, 0x5CB0A9DCBD41FBD4, 0x76F988DA831153B5,
   0x983E5152EE66DFAB, 0xA831C66D2DB43210, 0xB00327C898FB213F, 0xBF597FC7BEEF0EE4,
   0xC6E00BF33DA88FC2, 0xD5A79147930AA725, 0x06CA6351E003826F, 0x142929670A0E6E70,
   0x27B70A8546D22FFC, 0x2E1B21385C26C926, 0x4D2C6DFC5AC42AED, 0x53380D139D95B3DF,
   0x650A73548BAF63DE, 0x766A0ABB3C77B2A8, 0x81C2C92E47EDAEE6, 0x92722C851482353B]

/-- The round constants 40-79 of SHA-384. -/
def shaK1 : List Nat :=
  [0xA2BFE8A14CF10364, 0xA81A664BBC423001, 0xC24B8B70D0F89791, 0xC76C51A30654BE30,
   0xD192E819D6EF5218, 0xD69906245565A910, 0xF40E35855771202A, 0x106AA07032BBD1B8,
   0x19A4C116B8D2D0C8, 0x1E376C085141AB53, 0x2748774CDF8EEB99, 0x34B0BCB5E19B48A8,
   0x391C0CB3C5C95A63, 0x4ED8AA4AE3418ACB, 0x5B9CCA4F7763E373, 0x682E6FF3D6B2B8A3,
   0x748F82EE5DEFB2FC, 0x78A5636F43172F60, 0x84C87814A1F0AB72, 0x8CC702081A6439EC,
   0x90BEFFFA23631E28, 0xA4506CEBDE82BDE9, 0xBEF9A3F7B2C67915, 0xC67178F2E372532B,
   0xCA273ECEEA26619C, 0xD186B8C721C0C207, 0xEADA7DD6CDE0EB1E, 0xF57D4F7FEE6ED178,
   0x06F067AA72176FBA, 0x0A637DC5A2C898A6, 0x113F9804BEF90DAE, 0x1B710B35131C471B,
   0x28DB77F523047D84, 0x32CAAB7B40C72493, 0x3C9EBE0A15C9BEBC, 0x431D67C49C100D4C,
   0x4CC5D4BECB3E42B6, 0x597F299CFC657E2A, 0x5FCB6FAB3AD6FAEC, 0x6C44198C4A475817]

/-- The initial hash value of SHA-384. -/
def shaH : List Nat :=
  [0xCBBB9D5DC1059ED8, 0x629A292A367CD507, 0x9159015A3070DD17, 0x152FECD8F70E5939,
   0x67332667FFC00B31, 0x8EB44A8768581511, 0xDB0C2E0D64F98FA7, 0x47B5481DBEFA4FA4]

/-- A rotation of a 64-bit number to the right. -/
def shaRotr (n x : Nat) : Nat := x / 2 ^ n + x % 2 ^ n * 2 ^ (64 - n)

/-- A sum modulo 2^64. -/
def shaAdd (a b : Nat) : Nat := (a + b) % 2 ^ 64

/-- Bitwise complement at 64 bits. -/
def shaNot (x : Nat) : Nat := 2 ^ 64 - 1 - x

/-- One word of the message schedule from the sixteen before it, latest first. -/
def shaNext (w : List Nat) : Nat :=
  let s1 := w.getD 1 0
  let s0 := w.getD 14 0
  shaAdd (shaAdd (Nat.xor (Nat.xor (shaRotr 19 s1) (shaRotr 61 s1)) (s1 / 2 ^ 6)) (w.getD 6 0))
    (shaAdd (Nat.xor (Nat.xor (shaRotr 1 s0) (shaRotr 8 s0)) (s0 / 2 ^ 7)) (w.getD 15 0))

/-- One round on the eight working variables. -/
def shaRound (v : List Nat) (k w : Nat) : List Nat :=
  match v with
  | [a, b, c, d, e, f, g, h] =>
    let t1 := shaAdd (shaAdd (shaAdd h (Nat.xor (Nat.xor (shaRotr 14 e) (shaRotr 18 e)) (shaRotr 41 e)))
      (Nat.xor (Nat.land e f) (Nat.land (shaNot e) g))) (shaAdd k w)
    let t2 := shaAdd (Nat.xor (Nat.xor (shaRotr 28 a) (shaRotr 34 a)) (shaRotr 39 a))
      (Nat.xor (Nat.xor (Nat.land a b) (Nat.land a c)) (Nat.land b c))
    [shaAdd t1 t2, a, b, c, shaAdd d t1, e, f, g]
  | _ => v

/-- The rounds: `w` holds the last sixteen schedule words, the one to use now last. -/
def shaRounds (ks : List Nat) (w v : List Nat) : List Nat :=
  match ks with
  | [] => v
  | k :: r => shaRounds r ((shaNext w :: w).take 16) (shaRound v k (w.getD 15 0))

/-- The big-endian words of a block, in order. -/
def shaWords (n : Nat) (bs : List Byte) : List Nat :=
  match n with
  | 0 => []
  | k + 1 => beNat (bs.take 8) :: shaWords k (bs.drop 8)

/-- The blocks of a padded message, folded into the hash value. -/
def shaBlocks (n : Nat) (bs : List Byte) (h : List Nat) : List Nat :=
  match n with
  | 0 => h
  | k + 1 =>
    shaBlocks k (bs.drop 128)
      (List.zipWith shaAdd h (shaRounds (shaK0 ++ shaK1) (shaWords 16 (bs.take 128)).reverse h))

/-- The padding of a message of a length in bytes. -/
def shaPad (n : Nat) : List Byte :=
  (0x80 : Byte) :: (List.replicate ((239 - n % 128) % 128) 0 ++ beBytes 16 (8 * n))

/-- SHA-384 of a message. (PRESUMED, log entry 16.) -/
def sha384 (bs : List Byte) : List Byte :=
  ((shaBlocks ((bs.length + (shaPad bs.length).length) / 128) (bs ++ shaPad bs.length) shaH).take 6).flatMap (beBytes 8)

/-- HMAC-SHA-384 under a key of at most 128 bytes. (PRESUMED, log entry 16.) -/
def hmac384 (key bs : List Byte) : List Byte :=
  let k := key ++ List.replicate (128 - key.length) 0
  sha384 (k.map (fun b => b ^^^ 0x5C) ++ sha384 (k.map (fun b => b ^^^ 0x36) ++ bs))

/-- A section tag: bits 63:0 of the HMAC read as a big-endian number (R274). (PRESUMED, log entry 16.) -/
def sectionTag (key bs : List Byte) : Nat := beNat ((hmac384 key bs).drop 40)

end Sys2Proof.Machine
end

