-- ==== Sys2Proof/Machine/Record.lean ====
section
/-! DEFINITION. The context record as bytes (R219-R221, R265, R271, R274); the context cache, its evictions to the spill
slots and what is read back from them (R222, R267, R276); the block pool (R231-R233). -/

namespace Sys2Proof.Machine

/-- The state code of a record (R211). -/
def CoState.code (s : CoState) : Nat :=
  match s with
  | .ready => 1
  | .running => 2
  | .awaiting => 3
  | .faulted => 4
  | .parked => 5
  | .exited => 6

/-- The wait kind of a record (R219). -/
def Wait.kind (w : Wait) : Nat :=
  match w with
  | .none => 0
  | .beacon _ _ => 1
  | .tile _ => 2
  | _ => 3

/-- The `WAIT` field of a record (R219). -/
def Wait.word (w : Wait) : Nat :=
  match w with
  | .beacon t _ => t.toNat
  | .tile t => t
  | _ => 0

/-- The threshold of a record (R220). -/
def Wait.threshold (w : Wait) : Nat :=
  match w with
  | .beacon _ th => th.toNat
  | _ => 0

/-- The bytes of a live vector register (R221). -/
def VReg.recordBytes (v : VReg) : List Byte :=
  match v with
  | .uniform _ u => leBytes 8 u.toNat
  | .affine _ b s => leBytes 8 b.toNat ++ leBytes 8 s.toNat
  | .general d => leBytes 256 d.toNat

/-- A pending store as the trap extension holds it (R265). -/
def Store.recordBytes (s : Store) : List Byte :=
  leBytes 8 s.va ++ leBytes 8 s.data ++ leBytes 1 s.size ++ leBytes 1 (b2n s.release) ++ leBytes 1 s.scope
    ++ leBytes 1 s.asid ++ leBytes 4 0

/-- Whether a record carries a trap extension: of a trapped coroutine, and of one whose handler is active, whose next fetch
takes no breakpoint, or whose trap CSRs a supervisor reads (R260, R265, R272, R279). (DEDUCED, log entry 51.) -/
def Coroutine.extended (co : Coroutine) : Bool :=
  co.trapped || co.hact || co.nobk
    || (co.sup && !(co.cause = 0 && co.epc = 0 && co.faddr = 0 && co.finfo = 0))

/-- `STATUS` as a record holds it. -/
def Coroutine.recordStatus (co : Coroutine) : Word := co.statusBits co.extended

/-- The trap extension (R265). -/
def Coroutine.trapBytes (co : Coroutine) : List Byte :=
  leBytes 2 (64 + 24 * co.pend.length) ++ leBytes 1 co.pend.length ++ leBytes 1 (b2n co.hact + 2 * b2n co.nobk)
    ++ leBytes 4 0 ++ leBytes 8 co.cause.toNat ++ leBytes 8 co.epc.toNat ++ leBytes 8 co.faddr.toNat
    ++ leBytes 8 co.finfo.toNat ++ leBytes 8 co.token.toNat ++ leBytes 8 co.posx.toNat ++ leBytes 8 co.vpc.toNat
    ++ co.pend.flatMap Store.recordBytes

/-- The opaque block: its lead, then 48 bytes for each entry whose contents no software may use (R238). -/
def Coroutine.blockBytes (co : Coroutine) (version : BitVec 32) (w : Word) : List Byte :=
  leBytes 2 (16 + 48 * co.block.length) ++ leBytes 1 co.block.length ++ leBytes 1 0 ++ leBytes 4 version.toNat
    ++ leBytes 8 0 ++ co.block.flatMap (fun _ => (List.replicate 6 (leBytes 8 w.toNat)).flatten)

/-- The bytes of a register's part of a record. -/
def VReg.recordLen (v : VReg) : Nat :=
  match v with
  | .uniform _ _ => 8
  | .affine _ _ _ => 16
  | .general _ => 256

/-- The parts of a record after its CSR block (R221). What the top-k part holds beyond the pairs in the buffer is open. -/
def Coroutine.partBytes (co : Coroutine) (version : BitVec 32) (w : Word) : List Byte :=
  (List.range 32).flatMap (fun i => if i ≠ 0 ∧ co.live.getLsbD i then leBytes 8 (co.x.getD i 0).toNat else [])
    ++ (List.range 32).flatMap (fun i => if co.live.getLsbD (32 + i) then (co.v.getD i VReg.zero).recordBytes else [])
    ++ (if co.su then co.k.toList.flatMap (fun s => leBytes 2 s.toNat) else [])
    ++ (if co.mu then co.m.toList.flatMap (fun s => leBytes 32 s.toNat) else [])
    ++ (if co.qu then co.q.toList.flatMap (fun s => leBytes 8 s.toNat) else [])
    ++ (if co.ku then (List.range 128).flatMap (fun i =>
          match co.topk[i]? with
          | some p => leBytes 4 p.1.toNat ++ leBytes 4 p.2.toNat
          | none => leBytes 8 w.toNat) else [])
    ++ (if co.block.isEmpty then [] else co.blockBytes version w)
    ++ (if co.extended then co.trapBytes else [])

/-- The length of those parts. -/
def Coroutine.partLen (co : Coroutine) : Nat :=
  8 * ((List.range 32).filter (fun i => i ≠ 0 && co.live.getLsbD i)).length
    + (((List.range 32).filter (fun i => co.live.getLsbD (32 + i))).map (fun i => (co.v.getD i VReg.zero).recordLen)).foldl (· + ·) 0
    + 128 * b2n co.su + 256 * b2n co.mu + 128 * b2n co.qu + 1024 * b2n co.ku
    + (if co.block.isEmpty then 0 else 16 + 48 * co.block.length)
    + (if co.extended then 64 + 24 * co.pend.length else 0)

/-- The length of a record in 64-byte units (R221, R222). -/
def Coroutine.units (co : Coroutine) : Nat := cdiv (128 + co.partLen) 64

/-- The header and the CSR block (R219, R220), `units` being the record's length in 64-byte units. -/
def Coroutine.headBytes (co : Coroutine) (units : Nat) : List Byte :=
  leBytes 8 co.pc.toNat ++ leBytes 8 co.recordStatus.toNat ++ leBytes 8 co.vshapeWord.toNat ++ leBytes 8 co.vwidthWord.toNat
    ++ leBytes 8 co.live.toNat ++ leBytes 2 co.vl ++ leBytes 2 co.vstart ++ leBytes 4 co.vtype ++ leBytes 4 co.pfx.toNat
    ++ leBytes 2 units
    ++ leBytes 1 (co.state.code + (if co.state = .parked then 8 * co.prior.code else 0) + 64 * co.wait.kind)
    ++ leBytes 1 0 ++ leBytes 8 co.wait.word
    ++ leBytes 8 co.dlive.toNat ++ leBytes 8 co.ropecfg.toNat ++ leBytes 8 co.mshape.toNat ++ leBytes 4 co.quantum.toNat
    ++ leBytes 2 (co.level.toNat + 256 * co.ceil.toNat) ++ leBytes 1 co.fflags.toNat ++ leBytes 1 co.frm.toNat
    ++ leBytes 1 co.asid ++ leBytes 1 co.asidSel ++ leBytes 1 co.svcsel ++ leBytes 1 0 ++ leBytes 4 co.topkn.toNat
    ++ leBytes 4 co.wait.threshold ++ leBytes 4 0 ++ leBytes 8 co.rtime
    ++ leBytes 8 (b2n co.estepEl + 2 * b2n co.estepIs)

/-- The whole record, padded with zeros to 64 bytes (R221). -/
def Coroutine.recordBytes (co : Coroutine) (version : BitVec 32) (w : Word) : List Byte :=
  let raw := co.headBytes co.units ++ co.partBytes version w
  raw ++ List.replicate (co.units * 64 - raw.length) 0

/-- The feature bits of a record (R274). -/
def Coroutine.feat (co : Coroutine) : Nat :=
  1 + 2 * b2n co.su + 4 * b2n co.mu + 8 * b2n co.qu + 16 * b2n co.ku + 32 * b2n (!co.block.isEmpty) + 64 * b2n co.extended

/-- The ordinal of a cluster among its partition's clusters on its spire (R179, R274). -/
def Chip.ordinal (c : Chip) (cl : Nat) : Nat :=
  match c.partOf cl with
  | none => 0
  | some p => ((List.range (cl % 32)).filter (fun i => (c.part p).clus.getLsbD (cl / 32 * 32 + i))).length

/-- A section header before its tag (R274). -/
def sectionHead (type place core slot : Nat) (version : BitVec 32) (feat len : Nat) : List Byte :=
  leBytes 1 type ++ leBytes 1 place ++ leBytes 1 core ++ leBytes 1 slot ++ leBytes 4 version.toNat ++ leBytes 4 feat
    ++ leBytes 4 0 ++ leBytes 8 len

/-- A section: header with its tag, then the body (R274). -/
def sectionBytes (key : List Byte) (head body : List Byte) : List Byte :=
  head ++ leBytes 8 (sectionTag key (head ++ body)) ++ body

/-- The section of a coroutine's record. -/
def Chip.recordSection (c : Chip) (key : Nat) (co : Coroutine) : List Byte :=
  let body := co.recordBytes c.version co.recWord
  sectionBytes c.saveKey
    (sectionHead 1 (spireOf (key / 256) + 4 * c.ordinal (key / 1024)) (key / 256 % 4) (key % 256) c.version co.feat body.length)
    body

/-- The address of a coroutine's spill slot (R222, R269). -/
def Chip.spillSlot (c : Chip) (key : Nat) : Nat := (c.spire (spireOf (key / 256))).spill + key % 32768 * 16384

/-- The pieces of a spill slot's bytes, line by line. -/
def Chip.slotPieces (c : Chip) (key n : Nat) : List (Nat × Nat) := linePieces 128 (c.spillSlot key) n

/-- Write a coroutine's record to its spill slot, through ways 58-61 of the slices, with a fresh tag (R139, R222, R267, R274).
Where the spec gives no contents the record holds a free word. -/
def Chip.spillRecord (c : Chip) (key : Nat) : Chip :=
  match c.co key with
  | none => c
  | some co =>
    let co := { co with recWord := Config.freeWord c.free, evicted := true }
    let bs := c.recordSection key co
    Chip.homePut { c with free := c.free + 1, cos := mset c.cos key co } (c.slotPieces key bs.length) bs spillWays

/-- A number read from a record. -/
def recNat (bs : List Byte) (o n : Nat) : Nat := leNat ((bs.drop o).take n)

/-- A live vector register read from a record, with the offset after it. -/
def recVReg (bs : List Byte) (o shape width : Nat) : VReg × Nat :=
  if shape = 1 then (.uniform width (wordOf (recNat bs o 8)), o + 8)
  else if shape = 2 then (.affine width (wordOf (recNat bs o 8)) (wordOf (recNat bs (o + 8) 8)), o + 16)
  else (.general (BitVec.ofNat 2048 (recNat bs o 256)), o + 256)

/-- Live scalar registers read from a record from register `i` on. -/
def recXs (fuel i : Nat) (bs : List Byte) (o live : Nat) (co : Coroutine) : Coroutine × Nat :=
  match fuel with
  | 0 => (co, o)
  | f + 1 =>
    if i ≠ 0 ∧ bit live i then recXs f (i + 1) bs (o + 8) live { co with x := co.x.setIfInBounds i (wordOf (recNat bs o 8)) }
    else recXs f (i + 1) bs o live { co with x := co.x.setIfInBounds i 0 }

/-- Live vector registers read from a record from register `i` on. -/
def recVs (fuel i : Nat) (bs : List Byte) (o live shapes widths : Nat) (co : Coroutine) : Coroutine × Nat :=
  match fuel with
  | 0 => (co, o)
  | f + 1 =>
    if bit live (32 + i) then
      let r := recVReg bs o (bits shapes (2 * i + 1) (2 * i)) (bits widths (2 * i + 1) (2 * i))
      recVs f (i + 1) bs r.2 live shapes widths { co with v := co.v.setIfInBounds i r.1 }
    else recVs f (i + 1) bs o live shapes widths { co with v := co.v.setIfInBounds i VReg.zero }

/-- A pending store read from a trap extension. -/
def recStore (bs : List Byte) (o slot : Nat) (sup : Bool) : Store :=
  ⟨slot, recNat bs o 8, recNat bs (o + 8) 8, recNat bs (o + 16) 1, recNat bs (o + 17) 1 % 2 = 1, recNat bs (o + 18) 1,
    recNat bs (o + 19) 1, sup⟩

/-- A pair of the top-k part, of entry `i`. -/
def recPair (bs : List Byte) (o i : Nat) : BitVec 32 × BitVec 32 :=
  (BitVec.ofNat 32 (recNat bs (o + 8 * i) 4), BitVec.ofNat 32 (recNat bs (o + 8 * i + 4) 4))

/-- The top-k buffer read from a record: the pairs it held, and those that software has written behind them.
(DESIGN CHOICE, log entry 51.) -/
def recTopk (bs : List Byte) (o held : Nat) (w : Word) : List (BitVec 32 × BitVec 32) :=
  ((List.range 128).filter (fun i => decide (i < held) || decide (recNat bs (o + 8 * i) 8 ≠ w.toNat))).map (recPair bs o)

/-- `TOPKN.CAP` as a write stores it (R370). -/
def topkCap (n : Nat) : BitVec 32 := if n = 0 ∨ 128 < n then 128 else BitVec.ofNat 32 n

/-- The register parts of a record, and the offset after them. -/
def Coroutine.fromParts (co : Coroutine) (bs : List Byte) (st live : Nat) : Coroutine × Nat :=
  let r := recXs 32 0 bs 0x80 live co
  let r := recVs 32 0 bs r.2 live (recNat bs 0x10 8) (recNat bs 0x18 8) r.1
  let co := r.1
  let o := r.2
  let co := { co with k := if bit st 2 then Vector.ofFn (fun i : Fin 64 => BitVec.ofNat 16 (recNat bs (o + 2 * i.val) 2)) else Vector.replicate 64 0 }
  let o := if bit st 2 then o + 128 else o
  let co := { co with m := if bit st 3 then Vector.ofFn (fun i : Fin 8 => BitVec.ofNat 256 (recNat bs (o + 32 * i.val) 32)) else Vector.replicate 8 0 }
  let o := if bit st 3 then o + 256 else o
  let co := { co with q := if bit st 4 then Vector.ofFn (fun i : Fin 16 => wordOf (recNat bs (o + 8 * i.val) 8)) else Vector.replicate 16 0 }
  let o := if bit st 4 then o + 128 else o
  let co := { co with topk := if bit st 5 then recTopk bs o co.topk.length co.recWord else [] }
  (co, if bit st 5 then o + 1024 else o)

/-- The trap extension of a record, at an offset (R265). -/
def Coroutine.fromTrap (co : Coroutine) (bs : List Byte) (o slot : Nat) (sup : Bool) : Coroutine :=
  { co with
    hact := bit (recNat bs (o + 3) 1) 0
    nobk := bit (recNat bs (o + 3) 1) 1
    cause := BitVec.ofNat 8 (recNat bs (o + 8) 8)
    epc := wordOf (recNat bs (o + 0x10) 8)
    faddr := wordOf (recNat bs (o + 0x18) 8)
    finfo := wordOf (recNat bs (o + 0x20) 8)
    token := wordOf (recNat bs (o + 0x28) 8)
    posx := wordOf (recNat bs (o + 0x30) 8)
    vpc := wordOf (recNat bs (o + 0x38) 8)
    pend := (List.range (Nat.min (recNat bs (o + 2) 1) 32)).map (fun i => recStore bs (o + 0x40 + 24 * i) slot sup) }

/-- A coroutine with the fields that its record in memory holds: reserved bits are ignored, and the opaque block, of which
software may change nothing, is kept as it is (R5, R271, R280). -/
def Coroutine.fromRecord (co : Coroutine) (bs : List Byte) (slot : Nat) : Coroutine :=
  let st := recNat bs 0x08 8
  let live := recNat bs 0x20 8
  let r := co.fromParts bs st live
  let o := if co.block.isEmpty then r.2 else r.2 + 16 + 48 * co.block.length
  let co := if bit st 7 then r.1.fromTrap bs o slot (bit st 0) else { r.1 with hact := false, nobk := false, pend := [], trapped := false }
  { co with
    pc := wordOf (recNat bs 0 8 / 4 * 4)
    sup := bit st 0
    pp := bit st 1, su := bit st 2, mu := bit st 3, qu := bit st 4, ku := bit st 5
    inl := BitVec.ofNat 16 (bits st 31 16)
    live := wordOf live &&& ~~~1
    vl := recNat bs 0x28 2 % 512
    vstart := recNat bs 0x2A 2 % 512
    vtype := recNat bs 0x2C 4 % 64
    pfx := BitVec.ofNat 32 (recNat bs 0x30 4)
    dlive := wordOf (recNat bs 0x40 8) &&& ~~~1
    ropecfg := wordOf (recNat bs 0x48 8 % 2 ^ 51)
    mshape := wordOf (recNat bs 0x50 8)
    quantum := BitVec.ofNat 32 (recNat bs 0x58 4)
    level := BitVec.ofNat 2 (recNat bs 0x5C 2)
    ceil := BitVec.ofNat 2 (recNat bs 0x5C 2 / 256)
    fflags := BitVec.ofNat 6 (recNat bs 0x5E 1)
    frm := BitVec.ofNat 3 (recNat bs 0x5F 1)
    asid := recNat bs 0x60 1
    fetchAsid := if recNat bs 0x60 1 = co.asid then co.fetchAsid else recNat bs 0x60 1
    asidSel := recNat bs 0x61 1
    svcsel := recNat bs 0x62 1 % 16
    topkn := topkCap (recNat bs 0x64 4 % 256)
    estepEl := bit (recNat bs 0x78 8) 0
    estepIs := bit (recNat bs 0x78 8) 1 }

/-- The section header of a coroutine's spill slot and the record behind it, read through the slices: as many bytes as its
`LEN` field says, up to the largest record (R221, R274). -/
def Chip.readSlot (c : Chip) (key : Nat) : List Byte × Chip :=
  let h := c.homeGet (c.slotPieces key 32) spillWays
  h.2.homeGet (c.slotPieces key (32 + Nat.min (recNat h.1 0x10 8) 12544)) spillWays

/-- Whether any line of a spill slot's section is poisoned. -/
def Chip.slotPoisoned (c : Chip) (key : Nat) (bs : List Byte) : Bool := c.anyPoison (c.spillSlot key) (Nat.max bs.length 32)

/-- Whether the tag of a section is right (R274). -/
def Chip.tagRight (c : Chip) (bs : List Byte) : Bool := decide (sectionTag c.saveKey (bs.take 24 ++ bs.drop 32) = recNat bs 24 8)

/-- A record that lies in its spill slot, read back with its tag checked: the cause that kills, or the coroutine that it
describes (R276). A record in the context cache is as it is. -/
def Chip.fetchRecord (c : Chip) (key : Nat) (co : Coroutine) : (Nat ⊕ Coroutine) × Chip :=
  if !co.evicted then (.inr co, c)
  else
    let r := c.readSlot key
    (if r.2.slotPoisoned key r.1 then .inl 0x13
      else if r.2.tagRight r.1 then .inr (co.fromRecord (r.1.drop 32) (key % 256)) else .inl 0x15, r.2)

/-! ### The block pool (R231-R234) -/

/-- Whether a vector register holds a general value. -/
def Coroutine.isGeneral (co : Coroutine) (r : Nat) : Bool := (co.v.getD r VReg.zero).shape = 0

/-- A block for a register: a free one, or that of the least recently used register of a coroutine that is not running, whose
value goes to its place in that coroutine's record (R233). -/
def takeBlock (pool : List (Nat × Nat)) (slot r : Nat) : List (Nat × Nat) :=
  if pool.length < 64 then pool ++ [(slot, r)] else pool.eraseP (fun p => p.1 ≠ slot) ++ [(slot, r)]

/-- The pool after a coroutine's registers have changed: a register that is not general any more gives up its block; while the
coroutine runs, one that is general and has no block takes one, and those just read or written become the most recent
(R214, R232, R233). -/
def Core.settled (k : Core) (slot : Nat) (co : Coroutine) (used : List Nat) : Core :=
  let pool := k.pool.filter (fun p => p.1 ≠ slot || co.isGeneral p.2)
  if k.running ≠ some slot then { k with pool := pool }
  else
    let need := (List.range 32).filter (fun r => co.isGeneral r && !pool.contains (slot, r))
    let pool := need.foldl (fun m r => takeBlock m slot r) pool
    { k with pool := pool.filter (fun p => !(p.1 = slot && used.contains p.2)) ++ pool.filter (fun p => p.1 = slot && used.contains p.2) }

/-- Settle the pool of a coroutine's core. -/
def Chip.settlePool (c : Chip) (key : Nat) (used : List Nat) : Chip :=
  match c.co key with
  | some co => c.modCore (key / 256) (fun k => k.settled (key % 256) co used)
  | none => c

/-- A coroutine gives up its blocks. -/
def Chip.freeBlocks (c : Chip) (key : Nat) : Chip :=
  if (c.core (key / 256)).pool.any (fun p => p.1 = key % 256) then
    c.modCore (key / 256) (fun k => { k with pool := k.pool.filter (fun p => p.1 ≠ key % 256) })
  else c

/-! ### The context cache (R222) -/

/-- Whether a coroutine has a record in its core's context cache. -/
def Coroutine.cached (co : Coroutine) : Bool := !co.evicted && co.state ≠ .running && co.state ≠ .exited

/-- The 64-byte units in use in a core's context cache of 96 KiB. -/
def Chip.cacheUse (c : Chip) (core : Nat) : Nat :=
  (c.cos.filter (fun e => e.1 / 256 = core && e.2.cached)).foldl (fun n e => n + e.2.units) 0

/-- The record that is evicted next, other than a new one: of an awaiting, faulted or parked coroutine the oldest suspension,
else of a ready one the latest ready time (R222). (DESIGN CHOICE, log entry 51.) -/
def Chip.victim (c : Chip) (core new : Nat) : Option Nat :=
  let l := c.cos.filter (fun e => e.1 / 256 = core && e.1 ≠ new && e.2.cached)
  match leastBy (fun e => e.2.left) (l.filter (fun e => e.2.state ≠ .ready)) with
  | some e => some e.1
  | none => (mostBy (fun e => e.2.rtime) l).map (fun e => e.1)

/-- Evict records until all fit (R222). -/
def Chip.makeRoom (fuel : Nat) (c : Chip) (core new : Nat) : Chip :=
  match fuel with
  | 0 => c
  | f + 1 =>
    if c.cacheUse core ≤ 1536 then c
    else
      match c.victim core new with
      | some k => Chip.makeRoom f ((c.freeBlocks k).spillRecord k) core new
      | none => c

/-- A coroutine that does not run gets a record in the context cache, and evictions make room for it (R214, R222). -/
def Chip.keepRecord (c : Chip) (key : Nat) : Chip :=
  let n := (c.core (key / 256)).stamp
  let c := (c.modCo key (fun co => { co with evicted := false, left := n })).modCore (key / 256) (fun k => { k with stamp := n + 1 })
  Chip.makeRoom 256 (c.settlePool key []) (key / 256) key

end Sys2Proof.Machine
end

