-- ==== Sys2Proof/Machine/Ops.lean ====
section
/-! DEFINITION. The shared operations of a core: taking an exception and returning from one (R234, R260-R273),
fault records (R116, R117), suspension (R214-R216), dispatch (R165, R271), hops (R170), and ending (R408). -/

namespace Sys2Proof.Machine

/-! ### Cause codes (R262) -/

/-- `ILL` -/ def causeIll : Nat := 0x01
/-- `RSV` -/ def causeRsv : Nat := 0x02
/-- `PRIV` -/ def causePriv : Nat := 0x03
/-- `ALIGN` -/ def causeAlign : Nat := 0x04
/-- `LPF` -/ def causeLpf : Nat := 0x05
/-- `SPF` -/ def causeSpf : Nat := 0x06
/-- `VPF` -/ def causeVpf : Nat := 0x07
/-- `KVU` -/ def causeKvu : Nat := 0x08
/-- `KVR` -/ def causeKvr : Nat := 0x09
/-- `XDIE` -/ def causeXdie : Nat := 0x0A
/-- `TWIN` -/ def causeTwin : Nat := 0x0B
/-- `AWIN` -/ def causeAwin : Nat := 0x0C
/-- `MGEO` -/ def causeMgeo : Nat := 0x0D
/-- `STALE` -/ def causeStale : Nat := 0x0E
/-- `EPF` -/ def causeEpf : Nat := 0x0F
/-- `CALL` -/ def causeCall : Nat := 0x10
/-- `BRK` -/ def causeBrk : Nat := 0x11
/-- `STEP` -/ def causeStep : Nat := 0x12
/-- `POISON` -/ def causePoison : Nat := 0x13
/-- `FEAT` -/ def causeFeat : Nat := 0x14
/-- `INTEG` -/ def causeInteg : Nat := 0x15
/-- `SPAWN` -/ def causeSpawn : Nat := 0x16
/-- `LINK` -/ def causeLink : Nat := 0x17
/-- `PFX` -/ def causePfx : Nat := 0x18

/-- A trap with no access behind it: cause, `EPC`, `FADDR`. -/
def plainTrap (cause : Nat) (epc faddr : Word) : Trap := ⟨cause, epc, faddr, 0, 0, false, 0, 0, 0, 0, 0, 0⟩

/-- `FINFO` of a trap (R261). -/
def Trap.finfo (t : Trap) (pend : Bool) : Word :=
  wordOf (t.kind + 16 * t.acc + 256 * b2n pend + 512 * b2n t.vec + 1024 * (t.elem % 4096)
    + 2 ^ 22 * (if t.tok = 0 then 0 else tokIndex t.tok) + 2 ^ 38 * (if t.tok = 0 then 0 else tokDie t.tok)
    + 2 ^ 40 * (t.pos % 2 ^ 24))

/-! ### Live masks (R215, R216) -/

/-- The registers that a live mask keeps; the others read 0, vectors uniform of width code 0. A top-k buffer that `KU` does
not mark is not saved (R218). -/
def Coroutine.keepLive (co : Coroutine) (live : Word) : Coroutine :=
  { co with
    x := Vector.ofFn (fun i : Fin 32 => if i.val ≠ 0 ∧ live.getLsbD i.val then co.x[i.val]'(i.isLt) else 0)
    v := Vector.ofFn (fun i : Fin 32 => if live.getLsbD (32 + i.val) then co.v[i.val]'(i.isLt) else VReg.zero)
    topk := if co.ku then co.topk else []
    live := live &&& ~~~1 }

/-! ### Fault queues (R267, R270) -/

/-- `WHO` of a coroutine: its `CID`, its launch id above (R267). -/
def whoWord (key lid : Nat) : Word := wordOf (cidOf key + 2 ^ 32 * lid)

/-- `WHO` of an engine: cluster and engine number (R267). -/
def whoEngine (cl engine : Nat) : Word := wordOf (1024 * cl + engine)

/-- Enter a fault for a partition's supervisor on a spire, or post the unserviced-fault event of a partition
without one (R267, R270). -/
def Chip.enterFault (c : Chip) (p d : Nat) (e : FqEntry) : Chip :=
  if (c.part p).unserved then
    c.post ⟨0x0006, d, e.token, wordOf (e.cause + 256 * p + 2 ^ 16 * d + 2 ^ 18 * (e.flags % 2)
      + 2 ^ 32 * (if e.flags % 2 = 1 then 0 else e.who.toNat / 2 ^ 32)), none⟩
  else c.modFq p d (fun q => { q with waiting := q.waiting ++ [e] })

/-- The reservation queues without the requests of a coroutine; an empty queue is not listed. -/
def Chip.dropRequests (c : Chip) (key : Nat) : Chip :=
  if c.resq.isEmpty then c
  else
    let q := mmap c.resq (fun _ q => q.filter (fun r => !(r.core = key / 256 && r.slot = key % 256)))
    { c with resq := q.filter (fun e => !e.2.isEmpty) }

/-- A core stops running a coroutine, if it runs it; a reservation it has asked for is given up. -/
def Chip.stopRunning (c : Chip) (key : Nat) : Chip :=
  if (c.core (key / 256)).running = some (key % 256) then
    (c.modCore (key / 256) (fun k => { k with running := none })).dropRequests key
  else c

/-! ### Slots, belfries and ending (R246, R402, R404, R408) -/

/-- Whether a holder has matrix commands that have not completed (R246). -/
def Chip.matrixPending (c : Chip) (core slot lid : Nat) : Bool :=
  (List.range 4).any (fun i => (c.core (core / 4 * 4 + i)).mq.any (fun e => e.core = core && e.slot = slot && e.lid = lid))
    || (match (c.cluster (clusterOf core)).dome with
        | some e => e.core = core && e.slot = slot && e.lid = lid
        | none => false)
    || (c.cluster (clusterOf core)).moves.any (fun e => e.core = core && e.slot = slot && e.lid = lid)

/-- Wake the coroutines of a cluster that wait for a slot (R246). -/
def Chip.wakeSlotWaiters (c : Chip) (cl s : Nat) : Chip :=
  c.wakeAll (fun k co => k / 1024 = cl && co.wait = .slot s)

/-- The first `n` bytes of a slot's storage, whose contents have become undefined: free values (R246, R419).
(DEDUCED, log entry 29.) -/
def Chip.scrambleSlot (c : Chip) (cl s n : Nat) : Chip :=
  let a := 0x800000000000 + cl * 0x1000000 + 0x400000 + s * 0x10000
  let bytes := ((List.range n).map (fun i => (a + i, (Config.freeWord (c.free + i)).setWidth 8))).filter (fun p => p.2 ≠ 0)
  { c with
    mem := c.mem.filter (fun p => p.1 < a) ++ bytes ++ c.mem.filter (fun p => a + n ≤ p.1)
    free := c.free + n }

/-- Free the slots of holders that have ended and have no matrix command left (R246). -/
def Chip.sweepSlots (c : Chip) (cl : Nat) : Chip :=
  (List.range 16).foldl (fun c s =>
    let t := (c.cluster cl).slot s
    if t.held && t.ended && !c.matrixPending t.core t.slot t.lid then
      ((c.modCluster cl (fun k => k.modSlot s (fun t => { t with held := false, orphan := false, ended := false }))).wakeSlotWaiters cl s).scrambleSlot cl s 0x10000
    else c) c

/-- Mark the slots of an ended holder, and free those it has no command left for. -/
def Chip.endSlots (c : Chip) (key lid : Nat) : Chip :=
  let cl := key / 1024
  (c.modCluster cl (fun k => { k with slots := mmap k.slots (fun _ t =>
    if t.held && t.core = key / 256 && t.slot = key % 256 && t.lid = lid then { t with ended := true } else t) })).sweepSlots cl

/-- Whether a member of a gang is on its way to another core. -/
def Chip.memberAway (c : Chip) (gang : Nat) : Bool :=
  c.msgs.any (fun f => match f.msg with
    | .hop _ _ co => co.gang = gang
    | .migrate _ _ co => co.gang = gang
    | _ => false)

/-- Release a gang's barrier when every needed member has arrived (R402). -/
def Chip.barrier (c : Chip) (gang : Nat) : Chip :=
  let needed := c.cos.filter (fun e => e.2.gang = gang && e.2.state ≠ .exited)
  if needed.all (fun e => e.2.isWaiting && e.2.wait = .barrier) && !c.memberAway gang then
    c.wakeAll (fun _ co => co.gang = gang && co.wait = .barrier)
  else c

/-- Give a launch a status that its end will report, unless an error has given it one (R408, R276). -/
def Chip.blame (c : Chip) (lid status : Nat) : Chip :=
  c.modLaunch lid (fun l => if l.status = 7 then l else { l with status := status })

/-- Signal the record that a coroutine opened, if it did (R116, R407, R408). -/
def Chip.signalOpened (c : Chip) (key : Nat) (dec : Int) : Chip :=
  match c.openedBy (spireOf (key / 256)) key with
  | some i => c.applySignal (c.tokenOf (spireOf (key / 256)) i) dec 0 0 false
  | none => c

/-- A coroutine leaves the scheduler for good: exited, its waits and lists gone (R404, R408). -/
def Chip.exitCo (c : Chip) (key : Nat) : Chip :=
  match c.co key with
  | none => c
  | some co =>
    let c := (c.setCo key { co with
      state := .exited, wait := .none, pend := [], block := [], resv := [], trapped := false, due := none, evicted := false }).freeBlocks key
    let seqs := co.block.flatMap (fun e => e.seqs)
    let c := if seqs.isEmpty then c
      else (c.modCluster (key / 1024) (fun k => { k with board := k.board.filter (fun a => !seqs.contains a.seq) })).modCore (key / 256)
        (fun k => { k with mq := k.mq.filter (fun e => e.ready || !(e.seqs.any seqs.contains)) })
    let c := c.stopRunning key
    (c.endSlots key co.lid).barrier co.gang

/-- End a coroutine (R408): its record is signalled, its launch will end with the status given. (DEDUCED, log entry 47.) -/
def Chip.endCo (c : Chip) (key status : Nat) : Chip :=
  match c.co key with
  | none => c
  | some co =>
    let c := c.exitCo key
    (c.signalOpened key 1).blame co.lid status

/-! ### Suspension (R200, R214) -/

/-- Whether a coroutine has buffered stores or queued vector instructions, which it waits for before its record is written
(R200, R214, R234). (DEDUCED, log entry 11.) -/
def Chip.undrained (c : Chip) (key : Nat) : Bool := c.storesPending key || c.vectorPending key

/-- Leave the running state: the live mask applied, the new state and wait set, the core free, the record in the context
cache, and the blocks of excluded registers back in the pool (R214). The stores and the vector queue of the coroutine are
already drained. -/
def Chip.suspend (c : Chip) (key : Nat) (live : Word) (st : CoState) (w : Wait) : Chip :=
  ((c.modCo key (fun co => { co.keepLive live with state := st, wait := w, rtime := c.time })).stopRunning key).keepRecord key

/-! ### Taking an exception -/

/-- The handler address of a supervisor coroutine: `TVEC` bits 51:2 (R272). -/
def Chip.handler (c : Chip) (key : Nat) : Nat :=
  match c.partOf (key / 1024) with
  | some p => bits (c.fq p (spireOf (key / 256))).tvec.toNat 51 2 * 4
  | none => 0

/-- Whether a trap takes a coroutine to its handler: a supervisor coroutine with `HACT` = 0 and `TVEC` ≠ 0 (R272, R273). -/
def Chip.handles (c : Chip) (key : Nat) (co : Coroutine) : Bool := co.sup && !co.hact && decide (c.handler key ≠ 0)

/-- A coroutine with the trap written into its trap CSRs (R260, R265). -/
def Coroutine.withTrap (co : Coroutine) (t : Trap) : Coroutine :=
  { co with
    cause := BitVec.ofNat 8 t.cause, epc := t.epc, faddr := t.faddr, finfo := t.finfo (!co.pend.isEmpty)
    token := t.tok, posx := t.posx, vpc := t.vpc, resv := [], due := none }

/-- A supervisor coroutine at its handler, which is fetched at a physical address (R98, R272). (DEDUCED, log entry 51.) -/
def Chip.atHandler (c : Chip) (key : Nat) (co : Coroutine) : Coroutine :=
  { co with hact := true, pc := wordOf (c.handler key), fetchAsid := 0 }

/-- What a faulted coroutine gives notice of, once its record is in its slot: an entry for its supervisor, or, for a
supervisor coroutine, the supervisor-fault event (R267, R273). -/
def Chip.postFault (c : Chip) (key : Nat) (co : Coroutine) (flags : Nat) : Chip :=
  let d := spireOf (key / 256)
  let p := c.partOf (key / 1024)
  if co.sup then c.post ⟨0x0005, d, wordOf (p.getD 0 + 256 * d), wordOf co.cause.toNat, none⟩
  else
    match p with
    | some p => c.enterFault p d ⟨co.cause.toNat, flags, whoWord key co.lid, co.epc, co.faddr, co.finfo, co.token⟩
    | none => c

/-- A trapped coroutine becomes faulted: its record goes to its spill slot, notice is given, its core runs on (R234, R267).
`co` is the coroutine as its record keeps it; a parked one becomes faulted as its prior state (R175, R226). -/
def Chip.becomeFaulted (c : Chip) (key : Nat) (co : Coroutine) (flags : Nat) : Chip :=
  let co := if co.state = .parked then { co with prior := .faulted, wait := .none, trapped := true }
    else { co with state := .faulted, wait := .none, trapped := true }
  ((((c.setCo key co).stopRunning key).settlePool key []).spillRecord key).postFault key co flags

/-- THE EXCEPTION ENTRY. A user coroutine becomes faulted under its live mask `DLIVE`, and an entry is posted for its
supervisor (R234, R267); a supervisor coroutine goes on at its handler with `HACT` set (R272), or, when a handler is active
or there is none, becomes faulted with a supervisor-fault event (R273). `flags` bit 1: the trap opened a fault record. -/
def Chip.takeTrap (c : Chip) (key : Nat) (t : Trap) (flags : Nat) : Chip :=
  match c.co key with
  | none => c
  | some co =>
    if c.handles key co then c.setCo key (c.atHandler key (co.withTrap t))
    else c.becomeFaulted key ((co.withTrap t).keepLive co.dlive) flags

/-- A trap whose access waits on a record instead of posting an entry: joining, or a kind the host serves (R116,
R117): the trap point is saved under `DLIVE` and the coroutine awaits the token below 1. -/
def Chip.waitOnRecord (c : Chip) (key : Nat) (t : Trap) : Chip :=
  match c.co key with
  | none => c
  | some co =>
    let co := co.withTrap t
    ((c.setCo key { co.keepLive co.dlive with
      state := .awaiting, trapped := true, rtime := c.time
      wait := if t.tok = 0 then .freeBeacon else .beacon t.tok 1 }).stopRunning key).keepRecord key

/-- Whether the wait of a joiner is over by the time it is enrolled: its record has closed (R116), or a fault beacon is
free (R117). -/
def Chip.joinOver (c : Chip) (key : Nat) (t : Trap) : Bool :=
  if t.tok = 0 then (c.freeFaultBeacon (spireOf (key / 256))).isSome else !c.tokCurrent t.tok

/-- A trap that has been taken, once everything that it waits for has drained (R200, R214, R264). -/
def Chip.deliver (c : Chip) (key : Nat) (d : Due) : Chip :=
  match d with
  | .trap t flags => c.takeTrap key t flags
  | .join t => if c.joinOver key t then (c.waitOnRecord key t).modCo key (fun co => co.wake c.time) else c.waitOnRecord key t

/-- A coroutine takes a trap: at once when it has drained, else as soon as its stores and vector entries have; until then it
issues nothing (R200, R214, R264). (DEDUCED, log entry 11.) -/
def Chip.take (c : Chip) (key : Nat) (d : Due) : Chip :=
  if c.undrained key then c.modCo key (fun co => { co with due := some d }) else c.deliver key d

/-- A trap that has been taken is recorded as soon as nothing is left to drain (R264). -/
def Chip.settleDue (c : Chip) (key : Nat) : Chip :=
  match c.co key with
  | none => c
  | some co =>
    match co.due with
    | none => c
    | some d => if c.undrained key then c else c.deliver key d

/-- A coroutine takes a trap that has no fault record. -/
def Chip.trap (c : Chip) (key : Nat) (t : Trap) : Chip := c.take key (.trap t 0)

/-! ### Fault records (R116, R117) -/

/-- Whether the host serves a kind (R115). -/
def hostKind (k : Nat) : Bool := k = 5 || k = 6 || k = 9 || k = 10 || k = 11

/-- Open a record for a page at a spire: its token, or 0 when no fault beacon is free. Host-served kinds post the
host-fault event (R90, R116, R117). -/
def Chip.openRecord (c : Chip) (d asid va kind : Nat) (opener : Option Nat) : Word × Chip :=
  match c.freeFaultBeacon d with
  | none => (0, c)
  | some i =>
    let c := c.modBeacon d i (fun b => b.allocate 1)
    let c := c.modSpire d (fun s => { s with recs := s.recs ++ [⟨asid, va / 2 ^ 21, i, if hostKind kind then none else opener, hostKind kind, kind⟩] })
    let tok := c.tokenOf d i
    (tok, if hostKind kind then
        c.post ⟨0x0004, d, tok, wordOf (bits va 51 21 + 2 ^ 31 * asid + 2 ^ 39 * kind), none⟩ else c)

/-- Travel: the coroutine leaves its core as a hop context bound for a spire (R170, R171), its access to be replayed;
with no cluster of its partition there, the access traps `XDIE`. -/
def Chip.hop (c : Chip) (key spire line : Nat) (t : Trap) : Chip :=
  match c.co key, c.partOf (key / 1024) with
  | some co, some p =>
    if (List.range 32).any (fun i => (c.part p).clus.getLsbD (32 * spire + i)) then
      let co := { co.keepLive co.dlive with state := .ready, resv := [], fresh := true }
      let c := ({ c with cos := merase c.cos key }.stopRunning key).freeBlocks key
      let c := c.modLaunch co.lid (fun l => { l with sent := mset l.sent (key / 256) (mgetD l.sent (key / 256) 0 + 1) })
      c.send (.core (key / 256)) (some p) (.hop spire line co)
    else c.trap key { t with cause := causeXdie, kind := 7 }
  | _, _ => c.trap key { t with cause := causeXdie, kind := 7 }

/-- What a coroutine does when one of its accesses is not performed: a record opened or joined, a trap, a hop. The
trap `t` carries the cause of R115 and the access; pending stores and the block are already in the coroutine. The kind that a
joining coroutine's `FINFO` shows is open, since its access makes no walk. (DESIGN CHOICE, log entry 28.) -/
def Chip.memTrap (c : Chip) (key : Nat) (f : MemFault) (t : Trap) : Chip :=
  match c.co key with
  | none => c
  | some co =>
    match f with
    | .poison => c.trap key { t with cause := causePoison, kind := 0 }
    | .xdie => c.trap key { t with cause := causeXdie, kind := 7 }
    | .travel d line => c.hop key d line t
    | .joined tok _ =>
      Chip.take { c with free := c.free + 1 } key (.join { t with kind := (Config.freeWord c.free).toNat % 16, tok := tok })
    | .kind k =>
      if co.sup then c.trap key { t with kind := k }
      else if k = 7 then c.trap key { t with cause := causeXdie, kind := 7 }
      else
        let r := c.openRecord (spireOf (key / 256)) t.asid t.faddr.toNat k (some key)
        if hostKind k then r.2.take key (.join { t with kind := k, tok := r.1 })
        else r.2.take key (.trap { t with kind := k, tok := r.1 } (if r.1 = 0 then 0 else 2))

/-- An engine access that faults: it joins the open record or opens one and stalls on its token (R116, R412); 0 while
no fault beacon is free, when it tries again. -/
def Chip.engineFault (c : Chip) (a : Agent) (cl engine : Nat) (va kind : Nat) : Word × Chip :=
  let r := c.openRecord a.spire a.asid va kind none
  if r.1 = 0 ∨ hostKind kind then r
  else
    match r.2.partOf cl with
    | some p => (r.1, r.2.enterFault p a.spire ⟨causeEpf, 3, whoEngine cl engine, 0, wordOf va,
        (⟨causeEpf, 0, 0, kind, 0, false, 0, 0, 0, 0, r.1, 0⟩ : Trap).finfo false, r.1⟩)
    | none => r

/-! ### Integrity kills (R276) -/

/-- The fault-queue entry of a kill: `FADDR` is the address that R262 gives; the trap point and `FINFO` are open.
(DESIGN CHOICE, log entry 37.) -/
def killEntry (cause key lid : Nat) (faddr : Word) (free : Nat) : FqEntry :=
  ⟨cause, 4, whoWord key lid, Config.freeWord free, faddr, Config.freeWord (free + 1), 0⟩

/-- End every member of a gang; its launch will end with `ERROR` (R276, R408). -/
def Chip.endGang (c : Chip) (g : Nat) : Chip :=
  ((c.cos.filter (fun e => e.2.gang = g && e.2.state ≠ .exited)).map (fun e => e.1)).foldl (fun c k => c.endCo k 7) c

/-- A record that cannot be trusted kills its coroutine's gang, with one entry for the coroutine concerned; a supervisor
coroutine is killed with its event (R273, R276). `faddr` is the address of the section, or of the error (R262). -/
def Chip.killConcerned (c : Chip) (key cause : Nat) (faddr : Word) : Chip :=
  match c.co key with
  | none => c
  | some co =>
    let d := spireOf (key / 256)
    let p := c.partOf (key / 1024)
    if co.sup then
      (c.endCo key 7).post ⟨0x0005, d, wordOf (p.getD 0 + 256 * d), wordOf cause, none⟩
    else
      let c := c.endGang co.gang
      match p with
      | some p => Chip.enterFault { c with free := c.free + 2 } p d (killEntry cause key co.lid faddr c.free)
      | none => c

/-- A coroutine whose record is read back from its slot where it lies there, or killed where that cannot be trusted
(R222, R276). -/
def Chip.withRecord (c : Chip) (key : Nat) (f : Chip → Coroutine → Chip) : Chip :=
  match c.co key with
  | none => c
  | some co =>
    match c.fetchRecord key co with
    | (.inl cause, c) => c.killConcerned key cause (wordOf (c.spillSlot key))
    | (.inr co, c) => f c co

/-! ### Stale waiters (R226) -/

/-- An enrolled waiter of a freed beacon takes `STALE` before its `AWAIT`, whose live mask its record keeps: a supervisor
coroutine becomes ready at its handler, any other coroutine faulted, parked ones as their prior state (R175, R226, R273).
(DEDUCED, log entry 51.) -/
def Chip.staleWaiter (c : Chip) (key : Nat) (tok : Word) : Chip :=
  c.withRecord key (fun c co =>
    let co := { co with pc := co.pc - 4, wait := .none }
    let ct := co.withTrap (plainTrap causeStale co.pc tok)
    if c.handles key co then
      let ct := { c.atHandler key ct with rtime := c.time }
      c.setCo key (if co.state = .parked then { ct with prior := .ready } else { ct with state := .ready })
    else c.becomeFaulted key ct 0)

/-- The coroutines enrolled on a token. -/
def Chip.enrolled (c : Chip) (tok : Word) : List Nat :=
  (c.cos.filter (fun e => e.2.isWaiting && (match e.2.wait with | .beacon t _ => t = tok | _ => false))).map (fun e => e.1)

/-- Free a beacon: its waiters follow R226 (R396). -/
def Chip.freeBeaconAt (c : Chip) (d i : Nat) : Chip :=
  let tok := c.tokenOf d i
  let ws := c.enrolled tok
  ws.foldl (fun c k => c.staleWaiter k tok) (c.modBeacon d i Beacon.free)

/-! ### Dispatch (R165, R194, R216, R271) -/

/-- The opaque block as it is issued again: its first entry starts at `VSTART` (R271). -/
def Coroutine.blockAgain (co : Coroutine) : List VEntry :=
  match co.block with
  | [] => []
  | e :: r => { e with vstart := co.vstart } :: r

/-- A coroutine whose pending stores and block have been issued again. -/
def Coroutine.replayed (co : Coroutine) : Coroutine :=
  { co with pend := [], block := [], vstart := if co.block.isEmpty then co.vstart else 0 }

/-- A core that issues a coroutine's pending stores and block again. -/
def Core.replay (k : Core) (co : Coroutine) : Core := { k with sb := k.sb ++ co.pend, vq := k.vq ++ co.blockAgain }

/-- Give a core to a ready coroutine: its record is read back if it was evicted, its general registers go into blocks of the
pool, its pending stores and opaque block are issued again before it fetches, and the core's non-RO L1 lines go when it is
new there or resumes an acquire (R165, R194, R222, R233, R271, R276). A supervisor coroutine in its handler keeps the pending
stores and block of its trap for its `TRET`. -/
def Chip.dispatchCo (c : Chip) (core slot : Nat) : Chip :=
  c.withRecord (coKey core slot) (fun c co =>
    let c := if co.fresh then c.acquireL1 core else c
    let run := { co with state := .running, wait := .none, rtime := 0, fresh := false, evicted := false, again := false }
    (if co.hact && !co.again then
      (c.setCo (coKey core slot) run).modCore core (fun k => { k with running := some slot, dispatched := c.time })
    else
      (c.setCo (coKey core slot) { run.replayed with trapped := false }).modCore core
        (fun k => { (k.replay co) with running := some slot, dispatched := c.time })).settlePool (coKey core slot) [])

/-- THE RETURN FROM AN EXCEPTION of a supervisor coroutine: `HACT` clears, it goes on at `EPC`, its fetch space is
`ASID.CUR`, and its pending stores and block are issued again (R99, R272, R280). -/
def Chip.returnFromTrap (c : Chip) (key : Nat) (co : Coroutine) : Chip :=
  (c.setCo key { co.replayed with hact := false, pc := co.epc &&& ~~~3, fetchAsid := co.asid }).modCore (key / 256)
    (fun k => k.replay co)

/-- `CRESUME` on a faulted coroutine: its record is read from its slot without a check of its tag, it becomes ready, the
record it opened is signalled, `NOBK` is set (R271, R407); an uncorrectable read kills its gang (R276). -/
def Chip.resumeCo (c : Chip) (key : Nat) : Chip :=
  match c.co key with
  | none => c
  | some co =>
    if co.state = .faulted ∧ co.cause.toNat ≠ causeFeat then
      let r := c.readSlot key
      let c := r.2
      if c.slotPoisoned key r.1 then c.killConcerned key causePoison (wordOf (c.spillSlot key))
      else
        ((c.setCo key { co.fromRecord (r.1.drop 32) (key % 256) with
          state := .ready, wait := .none, rtime := c.time, nobk := true, fresh := true }).keepRecord key).signalOpened key 1
    else c

end Sys2Proof.Machine
end

