-- ==== Sys2Proof/Machine/Issue.lean ====
section
/-! DEFINITION. How the front end issues one instruction word of a running coroutine: what it waits for, the
prefix rule (R296), and what follows a retired instruction (R278, R279). -/

namespace Sys2Proof.Machine

/-- What issuing an instruction comes to. -/
inductive Issue where
  /-- the instruction waits; nothing has changed -/
  | stall
  /-- it has retired -/
  | retire (c : Chip)
  /-- it has trapped or suspended without retiring, or retired into a state of its own -/
  | gone (c : Chip)
  deriving DecidableEq, Repr

/-- The meaning of an instruction word: the chip, the key of the running coroutine, and the coroutine. -/
abbrev WordBody := Chip → Nat → Coroutine → Issue

/-! ### What the front end waits for (R235, R278, R353) -/

/-- The scalar register that a queued instruction writes when it completes (R235, R418). -/
def lateX (i : Instr) : Option (BitVec 5) :=
  match i with
  | .vmpopc d _ => some d
  | .vmfirst d _ => some d
  | .vmvs d _ _ _ => some d
  | .macq a _ => some a
  | .mstat a _ => some a
  | _ => none

/-- Whether an instruction reads a scalar register, as the operands of its rule give. -/
def readsX (i : Instr) (r : BitVec 5) : Bool :=
  match i with
  | .add _ a b | .sub _ a b | .and _ a b | .or _ a b | .xor _ a b | .andn _ a b | .orn _ a b | .sll _ a b | .srl _ a b
  | .sra _ a b | .rot _ a b | .slt _ a b | .sltu _ a b | .seq _ a b | .min _ a b | .max _ a b | .minu _ a b | .maxu _ a b
  | .mul _ a b | .mulh _ a b | .mulhu _ a b | .div _ a b | .divu _ a b | .rem _ a b | .remu _ a b
  | .fadd _ a b _ _ | .fsub _ a b _ _ | .fmul _ a b _ _ | .fdiv _ a b _ _ | .fmin _ a b _ | .fmax _ a b _ | .fcmp _ a b _ _
  | .bc a b _ _ | .awaitq _ a b | .migrate a b | .bset a b | .bsig a b | .sc _ a b _ _ _ _
  | .amoadd _ a b _ _ _ _ | .amoand _ a b _ _ _ _ | .amoor _ a b _ _ _ _ | .amoxor _ a b _ _ _ _ | .amomin _ a b _ _ _ _
  | .amomax _ a b _ _ _ _ | .amominu _ a b _ _ _ _ | .amomaxu _ a b _ _ _ _ | .amoswp _ a b _ _ _ _
  | .amoincw _ a b _ _ _ _ | .amoaddb _ a b _ _ _ _
  | .vscld _ a b | .vscst _ a b | .kvsetrun _ a b | .vlds _ a b _ _ _ _ | .vsts _ a b _ _ _ _ | .vldkv _ a b _ _ _ _
  | .vstkv _ a b _ _ _ _
  | .cpy a b | .cpy2d a b | .cpyf a b | .cpysh a b | .cpymm a b | .rowcopy a b | .rowfill a b | .tcfg a b
  | .kvmap a b | .kvunmap a b | .kvlook a b | .kvver a b | .kvhash a b | .kvfree a b | .kvpin a b | .kvunpin a b | .kvappend a b
  | .nput a b | .nget a b | .namo a b | .nsig a b => r = a || r = b
  | .csel _ a b c => r = a || r = b || r = c
  | .fma d a b _ _ | .await d a b | .amocas d a b _ _ _ _ => r = d || r = a || r = b
  | .spawn _ a b => r = a || r = b || r = 10 || r = 11 || r = 12 || r = 13
  | .bfi d a _ _ | .sb d a _ | .sh d a _ | .sw d a _ | .sd d a _ | .sdrl d a _ _ => r = d || r = a
  | .clz _ a | .ctz _ a | .popc _ a | .bswap _ a | .sext _ a _ | .zext _ a _ | .bfx _ a _ _ | .fsqrt _ a _ _ | .fcvt _ a _ _ _
  | .addi _ a _ | .andi _ a _ | .ori _ a _ | .xori _ a _ | .slli _ a _ | .srli _ a _ | .srai _ a _ | .roti _ a _ | .slti _ a _
  | .sltui _ a _ | .seqi _ a _ | .lb _ a _ | .lbu _ a _ | .lh _ a _ | .lhu _ a _ | .lw _ a _ | .lwu _ a _ | .ld _ a _
  | .pref _ a _ | .ldaq _ a _ _ | .jalr _ a _ | .csrw _ a _ | .csrs _ a _ | .csrc _ a _ | .yield a | .gbar a | .cresume a
  | .ckill a | .beacon _ a | .bfree a | .bread _ a | .lr _ a _ _ _ | .waitrs a | .vtopki a | .vtopkr _ a | .vmvx _ a _
  | .vsetl _ a _ | .vsetlg _ a _ | .vld _ a _ _ _ _ _ | .vldx _ a _ _ _ _ _ | .vldff _ a _ _ _ _ _ | .vst _ a _ _ _ _ _
  | .vstx _ a _ _ _ _ _ | .vldt _ _ a _ | .vstt _ _ a _ | .vldtt _ _ a _ | .vslideup _ _ a _ _ | .vslidedn _ _ a _ _
  | .vmvs _ _ a _ | .publish a | .mshape _ a | .macq a _ | .kvret a _ | .kvalloc a _ | .nsend a | .eset a _ => r = a
  | .dbnz d _ => r = d
  | _ => false

/-- Whether an instruction reads `VL`: every vector instruction, `CSRR` of it, `VSETL` and `VSETLG` (R353). -/
def readsVl (i : Instr) : Bool :=
  match i with
  | .csrr _ n => n = 0x008
  | .vsetl _ _ _ | .vsetlg _ _ _ => true
  | .kvsetrun _ _ _ => false
  | i => match encode i with
    | some w => decide (0x40 ≤ bits w.toNat 31 25) && decide (bits w.toNat 31 25 < 0x54)
    | none => false

/-- Whether a queued instruction is a `VLDFF`, which may write `VL` (R353). -/
def isVldff (i : Instr) : Bool :=
  match i with
  | .vldff _ _ _ _ _ _ _ => true
  | _ => false

/-- Whether an instruction waits for a queued one: it reads the scalar register or the `VL` that the queued one will write
(R235, R353, R418). (DEDUCED, log entry 14.) -/
def waitsFor (i q : Instr) : Bool :=
  (match lateX q with
    | some r => r ≠ 0 && readsX i r
    | none => false) || (isVldff q && readsVl i)

/-- The instructions of a coroutine that wait in its core's vector and matrix queues or are under way in the dome. -/
def Chip.queued (c : Chip) (key : Nat) : List Instr :=
  (((c.core (key / 256)).vq.filter (fun e => e.slot = key % 256)).map (fun e => e.op))
    ++ (((c.core (key / 256)).mq.filter (fun e => e.slot = key % 256)).map (fun e => e.op))
    ++ (match (c.cluster (key / 1024)).dome with
      | some e => if e.core = key / 256 ∧ e.slot = key % 256 then [e.op] else []
      | none => [])

/-- Whether the front end waits before it issues an instruction of a coroutine: for a queued instruction whose result it reads,
or, under `ESTEP.EL`, for every vector instruction (R235, R278, R353). -/
def Chip.holds (c : Chip) (key : Nat) (co : Coroutine) (i : Instr) : Bool :=
  (c.queued key).any (fun q => waitsFor i q) || (co.estepEl && c.vectorPending key)

/-! ### Traps and what follows an instruction -/

/-- A `STEP` trap after a retired instruction (R278). (DEDUCED, log entry 21.) -/
def Chip.stepTrap (c : Chip) (key : Nat) : Chip :=
  match c.co key with
  | none => c
  | some co => if co.state ≠ .running ∨ co.due.isSome then c else c.trap key (plainTrap causeStep co.pc 0)

/-- What follows a retired instruction: `NOBK` clears (R279), a taker's prefix is used up (R296), and under
`ESTEP.IS` a `STEP` trap is taken after it (R278). `co` is the coroutine as the instruction found it.
(DEDUCED, log entry 21.) -/
def Chip.afterRetire (c : Chip) (key : Nat) (co : Coroutine) (takes : Bool) : Chip :=
  let c := if co.nobk then c.modCo key (fun co => { co with nobk := false }) else c
  let c := if takes then c.modCo key (fun co => { co with pp := false }) else c
  if co.estepIs then c.stepTrap key else c

/-- A trap that leaves its instruction undone: it is taken at once, and recorded once the coroutine has drained (R264).
(DEDUCED, log entry 11.) -/
def Chip.trapDrained (c : Chip) (key : Nat) (co : Coroutine) (t : Trap) : Issue := .gone ((c.setCo key co).trap key t)

/-- A trap before the instruction (point B), which has no effect. -/
def trapB (c : Chip) (key : Nat) (co : Coroutine) (cause : Nat) (faddr : Word) : Issue :=
  c.trapDrained key co (plainTrap cause co.pc faddr)

/-- The word of an instruction, which `FADDR` holds for `ILL`, `RSV` and `PRIV` (R262). -/
def wordAt (i : Instr) : Word := wordOf (((encode i).getD 0).toNat)

/-- A trap of cause `ILL`, `RSV` or `PRIV` before the instruction. -/
def trapWord (c : Chip) (key : Nat) (co : Coroutine) (cause : Nat) (i : Instr) : Issue :=
  trapB c key co cause (wordAt i)

/-- Whether an access that is not performed makes its coroutine travel. -/
def MemFault.travels (f : MemFault) : Bool :=
  match f with
  | .travel _ _ => true
  | _ => false

/-- An access of an instruction that is not performed: what R116 and R262 make of it; a hop waits until the coroutine has
drained (R170, R200). `c'` is the chip after the failed translation. (DEDUCED, log entry 11.) -/
def faultB (c c' : Chip) (key : Nat) (f : MemFault) (t : Trap) : Issue :=
  if f.travels && c.undrained key then .stall else .gone (c'.memTrap key f t)

/-- A non-taker behind a prefix traps `PFX` at the prefix, whose address is the pc that the context keeps; the prefix is
dropped (R219, R262, R296). (DEDUCED, log entry 19.) -/
def Chip.prefixTrap (c : Chip) (key : Nat) (co : Coroutine) : Issue :=
  c.trapDrained key { co with pp := false, pc := co.pc - 4 } (plainTrap causePfx (co.pc - 4) (wordOf co.pfx.toNat))

/-- The next state of an issue. (DEDUCED, log entry 10.) -/
def Issue.state (s : State) (key : Nat) (co : Coroutine) (takes : Bool) (r : Issue) : State :=
  match r with
  | .stall => s
  | .retire c => { s with chip := c.afterRetire key co takes }
  | .gone c => { s with chip := c }

/-- Issue an instruction word on the current core's running coroutine. `pre` gives the cause of a decode check that
the coroutine's own state decides, which comes before the prefix check (R262). (DEDUCED, log entry 19.) -/
def runChecked (pre : Coroutine → Option Nat) (i : Instr) (takes : Bool) (f : WordBody) (s : State) :
    Host.Outcome State Fault Refusal :=
  if s.keep.power.halted then .fault .clocksStopped
  else
    match s.chip.runningKey s.cur with
    | none => .refused .noCoroutine
    | some key =>
      match s.chip.co key with
      | none => .refused .noCoroutine
      | some co =>
        match pre co with
        | some cause => .next ((trapWord s.chip key co cause i).state s key co takes)
        | none =>
          if co.pp && !takes then .next ((s.chip.prefixTrap key co).state s key co takes)
          else .next ((f s.chip key co).state s key co takes)

/-- Issue an instruction word that has no such check. -/
def runWord (takes : Bool) (f : WordBody) (s : State) : Host.Outcome State Fault Refusal :=
  runChecked (fun _ => none) .isync takes f s

/-- The chip part of an event: always a next state; after a thermal shutdown nothing outside the keep acts (R24).
(DEDUCED, log entry 10.) -/
def onChip (f : Chip → Chip) (s : State) : Host.Outcome State Fault Refusal :=
  .next (if s.keep.power.halted then s else { s with chip := f s.chip })

/-- An event of the keep and the chip together. (DEDUCED, log entry 10.) -/
def onState (f : State → State) (s : State) : Host.Outcome State Fault Refusal := .next (f s)

/-- An instruction that only changes its coroutine, which then goes on at the next instruction. -/
def retireCo (f : Coroutine → Coroutine) : WordBody :=
  fun c key co => .retire (c.setCo key (f co).advance)

end Sys2Proof.Machine
end

