-- ==== Sys2Proof/Machine/Operands.lean ====
section
/-! DEFINITION. The operand forms of scalar instructions and their integer arithmetic (R323-R330). -/

namespace Sys2Proof.Machine

/-- An instruction that writes one scalar register and goes on. -/
def writeX (d : BitVec 5) (v : Coroutine → Word) : WordBody := retireCo (fun co => co.setX d (v co))

/-- Bits 5:0 of a shift amount; the others are ignored (R324). -/
def shiftAmount (b : Word) : Nat := b.toNat % 64

/-- A left shift. -/
def shiftLeft (a : Word) (n : Nat) : Word := a <<< n

/-- A right shift filling with zeros. -/
def shiftRight (a : Word) (n : Nat) : Word := a >>> n

/-- A right shift filling with bit 63. -/
def shiftRightSigned (a : Word) (n : Nat) : Word := a.sshiftRight n

/-- A rotation right by less than 64. -/
def rotateRight (a : Word) (n : Nat) : Word := (a >>> n) ||| (a <<< (64 - n))

/-- Bits 127:64 of the signed product. -/
def mulHigh (a b : Word) : Word := BitVec.ofInt 64 (a.toInt * b.toInt / (2 ^ 64 : Nat))

/-- Bits 127:64 of the unsigned product. -/
def mulHighUnsigned (a b : Word) : Word := BitVec.ofNat 64 (a.toNat * b.toNat / 2 ^ 64)

/-- The signed quotient truncated towards zero, modulo 2^64; all ones for a zero divisor (R326). -/
def divSigned (a b : Word) : Word := if b = 0 then BitVec.allOnes 64 else BitVec.ofInt 64 (a.toInt.tdiv b.toInt)

/-- The unsigned quotient; all ones for a zero divisor. -/
def divUnsigned (a b : Word) : Word := if b = 0 then BitVec.allOnes 64 else BitVec.ofNat 64 (a.toNat / b.toNat)

/-- The signed remainder, with the sign of the dividend; the dividend for a zero divisor. -/
def remSigned (a b : Word) : Word := if b = 0 then a else BitVec.ofInt 64 (a.toInt.tmod b.toInt)

/-- The unsigned remainder; the dividend for a zero divisor. -/
def remUnsigned (a b : Word) : Word := if b = 0 then a else BitVec.ofNat 64 (a.toNat % b.toNat)

/-- Leading zero bits; 64 for 0. -/
def leadingZeros (a : Word) : Nat := (leastBelow 64 (fun i => a.getLsbD (63 - i))).getD 64

/-- Trailing zero bits; 64 for 0. -/
def trailingZeros (a : Word) : Nat := (leastBelow 64 (fun i => a.getLsbD i)).getD 64

/-- One bits. -/
def onesCount (a : Word) : Nat := ((List.range 64).filter (fun i => a.getLsbD i)).length

/-- Byte i placed in byte 7 - i. -/
def byteSwap (a : Word) : Word := BitVec.ofNat 64 (beNat (leBytes 8 a.toNat))

/-- Bits `n`:0 sign-extended. -/
def signExtendFrom (a : Word) (n : Nat) : Word := BitVec.ofInt 64 (sxNat a.toNat (n + 1))

/-- Bits `n`:0 zero-extended. -/
def zeroExtendFrom (a : Word) (n : Nat) : Word := BitVec.ofNat 64 (bits a.toNat n 0)

/-- The `l` bits from bit `p` up, zero-extended. -/
def extractField (a : Word) (p l : Nat) : Word := BitVec.ofNat 64 (bits a.toNat (p + l - 1) p)

/-- A word with the `l` bits from bit `p` up replaced by the low bits of another. -/
def insertField (x a : Word) (p l : Nat) : Word := BitVec.ofNat 64 (setBits x.toNat (p + l - 1) p a.toNat)

/-- The effective address of a scalar load or store (R335). -/
def effAddr (co : Coroutine) (a : BitVec 5) (i : BitVec 15) : Word := co.xr a + simm i

end Sys2Proof.Machine
end

