-- ==== Sys2Proof/Machine/Kv.lean ====
section
/-! DEFINITION. The KV space: handles and descriptors (R120, R122), frames (R123), charts and the hash table
(R125-R129), walks with the KV-TLB (R131, R132) and KV fault records (R134, R135). -/

namespace Sys2Proof.Machine

/-! ### Handles (R120) -/

/-- `HEAD` of a handle. -/
def hdlHead (h : Word) : Nat := bits h.toNat 7 0
/-- `LAYER` of a handle. -/
def hdlLayer (h : Word) : Nat := bits h.toNat 15 8
/-- `SEQ` of a handle. -/
def hdlSeq (h : Word) : Nat := bits h.toNat 39 16
/-- `SPACE` of a handle. -/
def hdlSpace (h : Word) : Nat := bits h.toNat 47 40
/-- `STEP` of a handle. -/
def hdlStep (h : Word) : Nat := bits h.toNat 63 48

/-! ### Descriptors (R122) -/

/-- A space descriptor. -/
structure Desc where
  flags : Nat
  asid : Nat
  fmt : Nat
  btlog : Nat
  heads : Nat
  layers : Nat
  dim : Nat
  limit : Nat
  table : Nat
  seqs : Nat
  hlog : Nat
  freelog : Nat
  free : Nat
  ovf : Nat
  ovfcap : Nat
  deriving DecidableEq, Repr

/-- A field of bytes. -/
def field (bs : List Byte) (o n : Nat) : Nat := leNat ((bs.drop o).take n)

/-- A descriptor from its 64 bytes. -/
def parseDesc (bs : List Byte) : Desc where
  flags := field bs 0x00 1
  asid := field bs 0x01 1
  fmt := field bs 0x02 1
  btlog := field bs 0x03 1
  heads := field bs 0x04 2
  layers := field bs 0x06 2
  dim := field bs 0x08 2
  limit := field bs 0x0C 4
  table := field bs 0x10 8
  seqs := field bs 0x18 4
  hlog := field bs 0x1C 1
  freelog := field bs 0x1D 1
  free := field bs 0x20 8
  ovf := field bs 0x28 8
  ovfcap := field bs 0x30 4

/-- `V`. -/
def Desc.valid (d : Desc) : Bool := bit d.flags 0
/-- `CLASS` is pooled. -/
def Desc.pooled (d : Desc) : Bool := bit d.flags 1
/-- Bytes of an element. -/
def Desc.es (d : Desc) : Nat := match d.fmt with | 0 => 2 | 1 => 2 | 2 => 1 | 3 => 1 | _ => 4
/-- Tokens of a block. -/
def Desc.bt (d : Desc) : Nat := 2 ^ d.btlog
/-- Blocks of a chart. -/
def Desc.nb (d : Desc) : Nat := cdiv d.limit d.bt

/-- Whether a descriptor is malformed (R122). -/
def Desc.malformed (d : Desc) : Bool :=
  decide (4 < d.fmt) || decide (d.btlog < 3) || decide (7 < d.btlog) || d.heads = 0 || decide (256 < d.heads)
    || d.layers = 0 || decide (256 < d.layers) || decide (d.dim < 16) || decide (512 < d.dim) || d.dim % 16 ≠ 0
    || d.limit = 0 || decide (2 ^ 24 < d.limit) || decide (d.freelog < 6) || decide (24 < d.freelog)
    || decide (32768 < d.heads * d.bt * d.dim * d.es)
    || d.table % 4096 ≠ 0 || place d.table ≠ .hbm || d.free % 64 ≠ 0 || place d.free ≠ .hbm
    || (d.pooled && (decide (d.hlog < 8) || decide (24 < d.hlog) || d.ovf % 64 ≠ 0 || place d.ovf ≠ .hbm
      || decide (d.ovfcap < 2) || decide (2 ^ 24 < d.ovfcap)))

/-- The descriptor of a space as the astrolabes hold it; none where its read failed. -/
def Chip.desc (c : Chip) (space : Nat) : Option Desc :=
  match mget c.kvdesc space with
  | none => some (parseDesc (List.replicate 64 0))
  | some [] => none
  | some bs => some (parseDesc bs)

/-! ### Tables -/

/-- The kinds of R134. -/
def kvUnmapped : Nat := 1
/-- `NOVER` -/
def kvNover : Nat := 2
/-- `BADFRAME` -/
def kvBadframe : Nat := 3
/-- `TABLE` -/
def kvTable : Nat := 4
/-- `RANGE` -/
def kvRange : Nat := 5
/-- `COORD` -/
def kvCoord : Nat := 6
/-- `SPACE` -/
def kvSpace : Nat := 7

/-- A KV access goes by physical address to the home slice, PKG class, write-back (R124). -/
def kvXlat (pa : Nat) : Xlat := identity (hbmHome pa) pa

/-- A little-endian table field of `n` bytes, unless its line is poisoned or it is not in live HBM4E (R131). It is read at its
home slice as KV data are (R124). (DEDUCED, log entry 42.) -/
def Chip.kvRead (c : Chip) (pa n : Nat) : Option Nat × Chip :=
  if c.tableOk pa then
    let r := c.readSound (hbmHome pa) (kvXlat pa) n false
    (r.1.map leNat, r.2)
  else (none, c)

/-- Whether a version at a step is at or before a step, in serial order (R126, R127). -/
def beforeStep (v r : Nat) : Bool := (r + 65536 - v) % 65536 < 32768

/-- A version slot: its index, step, whether it lives, and its chart. -/
structure Version where
  idx : Nat
  step : Nat
  live : Bool
  chart : Nat
  deriving DecidableEq, Repr

/-- Address of a version slot of a sequence. -/
def Desc.slotAt (d : Desc) (seq i : Nat) : Nat := d.table + 64 * seq + 16 * i

/-- A version slot from its 16 bytes. -/
def readVersion (i v : Nat) : Version := ⟨i, v % 65536, bit v 16, v / 2 ^ 64⟩

/-- The version slots of a sequence from slot `i` on, `n` of them. -/
def Chip.versionsFrom (c : Chip) (d : Desc) (seq n i : Nat) : Option (List Version) × Chip :=
  match n with
  | 0 => (some [], c)
  | k + 1 =>
    match c.kvRead (d.slotAt seq i) 16 with
    | (none, c) => (none, c)
    | (some v, c) =>
      let t := Chip.versionsFrom c d seq k (i + 1)
      (t.1.map (fun l => readVersion i v :: l), t.2)

/-- The four version slots of a sequence. -/
def Chip.chartVersions (c : Chip) (d : Desc) (seq : Nat) : Option (List Version) × Chip := c.versionsFrom d seq 4 0

/-- The named version of a step (R126). -/
def namedVersion (vs : List Version) (step : Nat) : Option Version :=
  leastBy (fun v => (step + 65536 - v.step) % 65536) (vs.filter (fun v => v.live && beforeStep v.step step))

/-- Address of a chart entry. -/
def Desc.chartEntry (d : Desc) (chart layer blk : Nat) : Nat := chart + 8 * (layer * d.nb + blk)

/-- The home index of a key (R129). -/
def kvHome (seq layer blk hlog : Nat) : Nat :=
  let x := Nat.xor (Nat.xor seq (layer * 65536)) (blk * 0x3B % 2 ^ 32)
  Nat.xor x (x / 2 ^ hlog) % 2 ^ hlog

/-- Whether a hash entry, as a 128-bit number, has a key. -/
def hashMatches (v seq layer blk : Nat) : Bool :=
  bit v 63 && bits v 23 0 = seq && bits v 31 24 = layer && bits v 52 32 = blk

/-- What a lookup finds: an entry's address, the address of the link that leads to it where it lies in a chain, and the entry;
a miss; or a bad table. -/
inductive Hit where
  | found (pa : Nat) (link : Option Nat) (v : Nat)
  | miss
  | bad
  deriving DecidableEq, Repr

/-- Follow the overflow chain whose next index is read at `link` (R129). -/
def Chip.chain (c : Chip) (d : Desc) (fuel link idx seq layer blk : Nat) : Hit × Chip :=
  if idx = 0 then (.miss, c)
  else if d.ovfcap ≤ idx then (.bad, c)
  else
    match fuel with
    | 0 => (.bad, c)
    | f + 1 =>
      match c.kvRead (d.ovf + 16 * idx) 16 with
      | (none, c) => (.bad, c)
      | (some v, c) =>
        if hashMatches v seq layer blk then (.found (d.ovf + 16 * idx) (some link) v, c)
        else Chip.chain c d f (d.ovf + 16 * idx) (bits v 127 96) seq layer blk

/-- Probe the table from entry `h` + `i` on, `n` probes left: a hit, a bad read, or the end of probing. -/
def Chip.probeTable (c : Chip) (d : Desc) (n h i seq layer blk : Nat) : Hit × Chip :=
  match n with
  | 0 => (.miss, c)
  | k + 1 =>
    match c.kvRead (d.table + 16 * ((h + i) % 2 ^ d.hlog)) 16 with
    | (none, c) => (.bad, c)
    | (some v, c) =>
      if hashMatches v seq layer blk then (.found (d.table + 16 * ((h + i) % 2 ^ d.hlog)) none v, c)
      else if !bit v 63 && !bit v 61 then (.miss, c)
      else Chip.probeTable c d k h (i + 1) seq layer blk

/-- A lookup (R129). -/
def Chip.lookup (c : Chip) (d : Desc) (seq layer blk : Nat) : Hit × Chip :=
  let h := kvHome seq layer blk d.hlog
  match c.probeTable d 8 h 0 seq layer blk with
  | (.miss, c) =>
    (match c.kvRead (d.table + 16 * h) 16 with
      | (none, c) => (.bad, c)
      | (some v, c) => c.chain d 256 (d.table + 16 * h) (bits v 127 96) seq layer blk)
  | r => r

/-! ### Walks (R131, R132) -/

/-- The key of a KV record or KV-TLB entry: sequence, layer, block, and the step of a dense space. -/
def Desc.key (d : Desc) (h : Word) (pos : Nat) : Nat × Nat × Nat × Nat :=
  (hdlSeq h, hdlLayer h, pos / d.bt, if d.pooled then 0 else hdlStep h)

/-- The checks of a walk before its tables, on a descriptor found valid, owned and well formed: the fault kind, or 0. -/
def Desc.checkCoords (d : Desc) (h : Word) (pos : Nat) : Nat :=
  if 2 ^ 24 ≤ pos ∨ d.limit ≤ pos then kvRange
  else if d.layers ≤ hdlLayer h ∨ d.heads ≤ hdlHead h then kvCoord
  else if !d.pooled ∧ d.seqs ≤ hdlSeq h then kvCoord
  else 0

/-- The descriptor a walk may use, or the fault kind with whether the descriptor itself is at fault (R131, R135). -/
def Chip.walkDesc (c : Chip) (h : Word) (asid : Nat) : (Nat × Bool) ⊕ Desc :=
  match c.desc (hdlSpace h) with
  | none => .inl (kvTable, true)
  | some d =>
    if !d.valid ∨ d.asid ≠ asid then .inl (kvSpace, false)
    else if d.malformed then .inl (kvTable, true)
    else .inr d

/-- The frame number of a key read from the tables: a fault kind, or the number, 0 for none. -/
def Chip.readFrame (c : Chip) (d : Desc) (h : Word) (pos : Nat) : (Nat ⊕ Nat) × Chip :=
  if d.pooled then
    match c.lookup d (hdlSeq h) (hdlLayer h) (pos / d.bt) with
    | (.found _ _ v, c) => (.inr (bits v 95 64), c)
    | (.miss, c) => (.inr 0, c)
    | (.bad, c) => (.inl kvTable, c)
  else
    match c.chartVersions d (hdlSeq h) with
    | (none, c) => (.inl kvTable, c)
    | (some vs, c) =>
      match namedVersion vs (hdlStep h) with
      | none => (.inl kvNover, c)
      | some v =>
        match c.kvRead (d.chartEntry v.chart (hdlLayer h) (pos / d.bt)) 8 with
        | (none, c) => (.inl kvTable, c)
        | (some e, c) => (.inr (e % 2 ^ 32), c)

/-- Whether a frame can hold data: in HBM4E and not in a retired 2 MiB frame. -/
def Chip.frameOk (c : Chip) (f : Nat) : Bool := place (f * 65536) = .hbm && !c.isRetired (f * 65536)

/-- A KV fault: its kind, and whether the space's descriptor is at fault. -/
structure KvStop where
  kind : Nat
  spaceOnly : Bool
  deriving DecidableEq, Repr

/-- `KvWalk` at a cluster's astrolabe: the fault, or the frame number and the descriptor. A KV-TLB entry is used while
it is still held, which is a free choice (log entry 13). -/
def Chip.kvWalk (c : Chip) (cl : Nat) (h : Word) (pos asid : Nat) : (KvStop ⊕ (Nat × Desc)) × Chip :=
  match c.walkDesc h asid with
  | .inl f => (.inl ⟨f.1, f.2⟩, c)
  | .inr d =>
    if d.checkCoords h pos ≠ 0 then (.inl ⟨d.checkCoords h pos, false⟩, c)
    else
      let k := d.key h pos
      let held := ((c.cluster cl).kvtlb.find? (fun e => e.space = hdlSpace h && (e.seq, e.layer, e.blk, e.step) = k))
      match (match held with | some e => if Config.freeBool c.free then some e.frame else none | none => none) with
      | some f =>
        (if c.frameOk f then .inr (f, d) else .inl ⟨kvBadframe, false⟩, { c with free := c.free + 1 })
      | none =>
        match c.readFrame d h pos with
        | (.inl kind, c) => (.inl ⟨kind, false⟩, c)
        | (.inr f, c) =>
          if f = 0 then (.inl ⟨kvUnmapped, false⟩, c)
          else if !c.frameOk f then (.inl ⟨kvBadframe, false⟩, c)
          else (.inr (f, d), c.modCluster cl (fun q => { q with
            kvtlb := (⟨hdlSpace h, k.1, k.2.1, k.2.2.1, k.2.2.2, f⟩ :: q.kvtlb).take 1024 }))

/-- The physical address of element `d` of a handle's head at a position, in half K or V of a frame (R123). -/
def Desc.elemAt (ds : Desc) (frame : Nat) (h : Word) (pos d : Nat) (halfV : Bool) : Nat :=
  let base := hdlHead h * ds.bt * ds.dim * ds.es
  if halfV then frame * 65536 + 0x8000 + base + (pos % ds.bt * ds.dim + d) * ds.es
  else frame * 65536 + base + (d * ds.bt + pos % ds.bt) * ds.es

/-! ### Records (R134, R135) -/

/-- The record open at a cluster's astrolabe that an access joins. -/
def Chip.kvRecordFor (c : Chip) (cl : Nat) (h : Word) (pos : Nat) : Option KvRec :=
  (c.cluster cl).kvrecs.find? (fun r => r.space = hdlSpace h &&
    (match r.key with
      | none => true
      | some k => (match c.desc (hdlSpace h) with
        | some d => k = d.key h pos
        | none => false)))

/-- Open a KV record: its token, or 0 when no record or fault beacon is free. -/
def Chip.openKvRecord (c : Chip) (cl : Nat) (h : Word) (pos kind : Nat) (spaceOnly : Bool) (opener : Option Nat) : Word × Chip :=
  let d := spireOfCluster cl
  if 16 ≤ (c.cluster cl).kvrecs.length then (0, c)
  else
    match c.freeFaultBeacon d with
    | none => (0, c)
    | some i =>
      let key := if spaceOnly then none else (c.desc (hdlSpace h)).map (fun ds => ds.key h pos)
      let c := c.modBeacon d i (fun b => b.allocate 1)
      let c := c.modCluster cl (fun q => { q with kvrecs := q.kvrecs ++ [⟨hdlSpace h, key, i, opener, kind⟩] })
      (c.tokenOf d i, c)

/-- The cause of a KV fault in a coroutine (R134). -/
def kvCause (kind : Nat) : Nat := if kind ≤ 4 then causeKvu else causeKvr

/-- A coroutine whose KV access faults: a record joined or opened, a trap (R135). Records are of kinds 1 to 4; the kind that a
joiner's `FINFO` shows is open, since its access makes no walk. (DESIGN CHOICE, log entry 28.) -/
def Chip.kvTrap (c : Chip) (key : Nat) (f : KvStop) (joined : Word) (h : Word) (pos : Nat) (t : Trap) : Chip :=
  match c.co key with
  | none => c
  | some co =>
    let t := { t with cause := kvCause f.kind, faddr := h, kind := f.kind, pos := pos, posx := wordOf pos }
    if co.sup then c.trap key t
    else if joined ≠ 0 then
      Chip.take { c with free := c.free + 1 } key (.join { t with kind := (Config.freeWord c.free).toNat % 16, tok := joined })
    else if 5 ≤ f.kind then c.trap key t
    else
      let r := c.openKvRecord (key / 1024) h pos f.kind f.spaceOnly (some key)
      r.2.take key (.trap { t with tok := r.1 } (if r.1 = 0 then 0 else 2))

end Sys2Proof.Machine
end

