-- ==== Sys2Proof/Machine/Float.lean ====
section
/-! DEFINITION. Number formats and exact arithmetic (R306-R316): exact values as signed dyadic numbers, `RoundTo`
with its flags, the operations of R313 and R314, and the conversions of R316. -/

namespace Sys2Proof.Machine

/-- Exception flags as `FFLAGS` bits 5:0 (R311). -/
abbrev Flags := BitVec 6

/-- `NX` -/ def flagNX : Flags := 1
/-- `UF` -/ def flagUF : Flags := 2
/-- `OF` -/ def flagOF : Flags := 4
/-- `DZ` -/ def flagDZ : Flags := 8
/-- `NV` -/ def flagNV : Flags := 16
/-- `FE` -/ def flagFE : Flags := 32

/-- A flag when a condition holds. -/
def flagIf (p : Bool) (f : Flags) : Flags := if p then f else 0

/-- An exact finite value: plus or minus `mant` times 2^`exp`; when `sticky`, a magnitude strictly between that and
the next multiple of 2^`exp`. A zero keeps its sign. -/
structure Exact where
  neg : Bool
  mant : Nat
  exp : Int
  sticky : Bool
  deriving DecidableEq, Repr

/-- A floating-point value: a NaN with its sign and whether it signals, an infinity, or an exact number. -/
inductive FNum where
  | nan (neg sig : Bool)
  | inf (neg : Bool)
  | fin (x : Exact)
  deriving DecidableEq, Repr

/-- How a format treats its all-ones exponent (R307). -/
inductive Specials where
  | ieee | f8a | none
  deriving DecidableEq, Repr

/-- A floating-point format (R306): field widths, bias, specials, and the container bits below the fraction. -/
structure FFmt where
  eb : Nat
  mb : Nat
  bias : Nat
  kind : Specials
  drop : Nat
  deriving DecidableEq, Repr

/-- F64 -/ def fmtF64 : FFmt := ⟨11, 52, 1023, .ieee, 0⟩
/-- F32 -/ def fmtF32 : FFmt := ⟨8, 23, 127, .ieee, 0⟩
/-- F19 -/ def fmtF19 : FFmt := ⟨8, 10, 127, .ieee, 13⟩
/-- F16 -/ def fmtF16 : FFmt := ⟨5, 10, 15, .ieee, 0⟩
/-- B16 -/ def fmtB16 : FFmt := ⟨8, 7, 127, .ieee, 0⟩
/-- F8A -/ def fmtF8A : FFmt := ⟨4, 3, 7, .f8a, 0⟩
/-- F8B -/ def fmtF8B : FFmt := ⟨5, 2, 15, .ieee, 0⟩
/-- F6A -/ def fmtF6A : FFmt := ⟨3, 2, 3, .none, 0⟩
/-- F6B -/ def fmtF6B : FFmt := ⟨2, 3, 1, .none, 0⟩
/-- F4 -/ def fmtF4 : FFmt := ⟨2, 1, 1, .none, 0⟩

/-- An exact integer. -/
def Exact.ofInt (i : Int) : Exact := ⟨decide (i < 0), i.natAbs, 0, false⟩

/-- A zero of a sign. -/
def Exact.zero (neg : Bool) : Exact := ⟨neg, 0, 0, false⟩

/-- Whether an exact value is zero. -/
def Exact.isZero (x : Exact) : Bool := x.mant = 0 && !x.sticky

/-- The signed multiple of 2^`e` that an exact value is; `e` is at most its exponent. -/
def Exact.at (x : Exact) (e : Int) : Int :=
  if x.neg then -((x.mant * 2 ^ (x.exp - e).toNat : Nat) : Int) else ((x.mant * 2 ^ (x.exp - e).toNat : Nat) : Int)

/-- The lesser exponent of two exact values. -/
def Exact.common (x y : Exact) : Int := if x.exp ≤ y.exp then x.exp else y.exp

/-- Whether one exact value is less than another. -/
def Exact.lt (x y : Exact) : Bool := decide (x.at (x.common y) < y.at (x.common y))

/-- Whether two exact values are equal numbers. -/
def Exact.eqv (x y : Exact) : Bool := decide (x.at (x.common y) = y.at (x.common y))

/-! ### Reading a stored value (R307) -/

/-- The value of a stored element. -/
def readFloat (f : FFmt) (v : Nat) : FNum :=
  let s := bit v (f.drop + f.mb + f.eb)
  let e := bits v (f.drop + f.mb + f.eb - 1) (f.drop + f.mb)
  let m := bits v (f.drop + f.mb - 1) f.drop
  if e = 0 then .fin ⟨s, m, 1 - (f.bias : Int) - (f.mb : Int), false⟩
  else if e = 2 ^ f.eb - 1 ∧ f.kind = .ieee then
    (if m = 0 then .inf s else .nan s (!bit m (f.mb - 1)))
  else if e = 2 ^ f.eb - 1 ∧ f.kind = .f8a ∧ m = 2 ^ f.mb - 1 then .nan s false
  else .fin ⟨s, 2 ^ f.mb + m, (e : Int) - (f.bias : Int) - (f.mb : Int), false⟩

/-! ### `RoundTo` (R312) -/

/-- Whether a truncated magnitude is rounded up: `rm` 0 RNE, 1 RTZ, 2 RDN, 3 RUP, 4 RMM. -/
def roundsUp (rm : Nat) (neg odd above tie inexact : Bool) : Bool :=
  match rm with
  | 0 => above || (tie && odd)
  | 1 => false
  | 2 => neg && inexact
  | 3 => !neg && inexact
  | _ => above || tie

/-- A magnitude divided by 2^`sh` and rounded: the rounded quotient, and whether it is inexact. -/
def roundMag (rm : Nat) (neg : Bool) (mant sh : Nat) (sticky : Bool) : Nat × Bool :=
  let q := mant / 2 ^ sh
  let r := 2 * (mant % 2 ^ sh)
  let inexact := r ≠ 0 || sticky
  let above := decide (2 ^ sh < r) || (r = 2 ^ sh && sticky)
  let tie := r = 2 ^ sh && !sticky
  (if roundsUp rm neg (q % 2 = 1) above tie inexact then q + 1 else q, inexact)

/-- The code of the largest finite magnitude of a format. -/
def maxCode (f : FFmt) : Nat :=
  match f.kind with
  | .ieee => (2 ^ f.eb - 1) * 2 ^ f.mb - 1
  | .f8a => 2 ^ (f.eb + f.mb) - 2
  | .none => 2 ^ (f.eb + f.mb) - 1

/-- The code of infinity in a format with one. -/
def infCode (f : FFmt) : Nat := (2 ^ f.eb - 1) * 2 ^ f.mb

/-- A stored element from its sign and magnitude code. -/
def packFloat (f : FFmt) (neg : Bool) (code : Nat) : Nat := (b2n neg * 2 ^ (f.eb + f.mb) + code) * 2 ^ f.drop

/-- What an overflow gives (R312). -/
def overflowCode (f : FFmt) (rm : Nat) (neg : Bool) : Nat :=
  if f.kind ≠ .ieee then maxCode f
  else if rm = 1 ∨ (rm = 2 ∧ !neg) ∨ (rm = 3 ∧ neg) then maxCode f
  else infCode f

/-- `RoundTo(x, f, rm)`: the stored element and the flags. -/
def roundTo (x : Exact) (f : FFmt) (rm : Nat) : Nat × Flags :=
  if x.mant = 0 then (packFloat f x.neg 0, flagIf x.sticky (flagNX ||| flagUF))
  else
    let e : Int := x.exp + (x.mant.log2 : Int)
    let emin : Int := 1 - (f.bias : Int)
    let q : Int := (if e < emin then emin else e) - (f.mb : Int)
    let p := if q ≤ x.exp then (x.mant * 2 ^ (x.exp - q).toNat, x.sticky) else roundMag rm x.neg x.mant (q - x.exp).toNat x.sticky
    let code := (q + (f.mb : Int) + (f.bias : Int) - 1).toNat * 2 ^ f.mb + p.1
    let qu : Int := e - (f.mb : Int)
    let u := if qu ≤ x.exp then (x.mant * 2 ^ (x.exp - qu).toNat, false) else roundMag rm x.neg x.mant (qu - x.exp).toNat x.sticky
    let tiny := decide ((if u.1 = 2 ^ (f.mb + 1) then e + 1 else e) < emin)
    if maxCode f < code then (packFloat f x.neg (overflowCode f rm x.neg), flagOF ||| flagNX)
    else (packFloat f x.neg code, flagIf p.2 flagNX ||| flagIf (p.2 && tiny) flagUF)

/-- The canonical NaN of an IEEE format (R313). -/
def canonicalNaN (f : FFmt) : Nat := packFloat f false (infCode f + 2 ^ (f.mb - 1))

/-- An exact result rounded once into an IEEE format, a NaN being the canonical one. -/
def roundNum (v : FNum) (f : FFmt) (rm : Nat) : Nat × Flags :=
  match v with
  | .nan _ _ => (canonicalNaN f, 0)
  | .inf s => (packFloat f s (infCode f), 0)
  | .fin x => roundTo x f rm

/-! ### Exact operations with the flags of R313 -/

/-- Whether a value is a NaN. -/
def FNum.isNaN (v : FNum) : Bool :=
  match v with
  | .nan _ _ => true
  | _ => false

/-- Whether a value is a signalling NaN. -/
def FNum.isSig (v : FNum) : Bool :=
  match v with
  | .nan _ s => s
  | _ => false

/-- The sign of a value. -/
def FNum.neg (v : FNum) : Bool :=
  match v with
  | .nan s _ => s
  | .inf s => s
  | .fin x => x.neg

/-- The value with its sign changed. -/
def FNum.negate (v : FNum) : FNum :=
  match v with
  | .nan s q => .nan (!s) q
  | .inf s => .inf (!s)
  | .fin x => .fin { x with neg := !x.neg }

/-- `NV` for any signalling operand. -/
def sigFlags (vs : List FNum) : Flags := flagIf (vs.any FNum.isSig) flagNV

/-- The exact sum of two finite values; an exact zero is signed by R312. -/
def Exact.add (x y : Exact) (rm : Nat) : Exact :=
  let e := x.common y
  let s := x.at e + y.at e
  if s = 0 then
    (if x.mant = 0 ∧ y.mant = 0 ∧ x.neg = y.neg then .zero x.neg else .zero (rm = 2))
  else ⟨decide (s < 0), s.natAbs, e, false⟩

/-- The exact product of two finite values. -/
def Exact.mul (x y : Exact) : Exact := ⟨x.neg ^^ y.neg, x.mant * y.mant, x.exp + y.exp, false⟩

/-- A sum. -/
def fAdd (a b : FNum) (rm : Nat) : FNum × Flags :=
  match a, b with
  | .fin x, .fin y => (.fin (x.add y rm), 0)
  | .inf s, .inf t => if s = t then (.inf s, 0) else (.nan false false, flagNV)
  | .inf s, .fin _ => (.inf s, 0)
  | .fin _, .inf s => (.inf s, 0)
  | a, b => (.nan false false, sigFlags [a, b])

/-- A product. -/
def fMul (a b : FNum) : FNum × Flags :=
  match a, b with
  | .fin x, .fin y => (.fin (x.mul y), 0)
  | .inf s, .inf t => (.inf (s ^^ t), 0)
  | .inf s, .fin y => if y.mant = 0 then (.nan false false, flagNV) else (.inf (s ^^ y.neg), 0)
  | .fin x, .inf t => if x.mant = 0 then (.nan false false, flagNV) else (.inf (x.neg ^^ t), 0)
  | a, b => (.nan false false, sigFlags [a, b])

/-- A product and a sum, exact: the flags of both; a signalling addend raises `NV` beside a NaN product. -/
def fMulAdd (a b d : FNum) (rm : Nat) : FNum × Flags :=
  let p := fMul a b
  let r := fAdd p.1 d rm
  (r.1, p.2 ||| r.2)

/-- The bits of precision that a quotient or root is computed to before rounding. -/
def workBits : Nat := 160

/-- A quotient. -/
def fDiv (a b : FNum) : FNum × Flags :=
  match a, b with
  | .fin x, .fin y =>
    if y.mant = 0 then
      (if x.mant = 0 then (.nan false false, flagNV) else (.inf (x.neg ^^ y.neg), flagDZ))
    else if x.mant = 0 then (.fin (.zero (x.neg ^^ y.neg)), 0)
    else (.fin ⟨x.neg ^^ y.neg, x.mant * 2 ^ workBits / y.mant, x.exp - y.exp - (workBits : Int),
        x.mant * 2 ^ workBits % y.mant ≠ 0⟩, 0)
  | .inf _, .inf _ => (.nan false false, flagNV)
  | .inf s, .fin y => (.inf (s ^^ y.neg), 0)
  | .fin x, .inf t => (.fin (.zero (x.neg ^^ t)), 0)
  | a, b => (.nan false false, sigFlags [a, b])

/-- The largest `r` below 2^`n` with `p r`, for a `p` that holds up to some number and not beyond, from `r` up. -/
def searchBits (n r : Nat) (p : Nat → Bool) : Nat :=
  match n with
  | 0 => r
  | k + 1 => if p (r + 2 ^ k) then searchBits k (r + 2 ^ k) p else searchBits k r p

/-- The integer square root of a number below 2^(2 `n`). -/
def isqrt (n v : Nat) : Nat := searchBits n 0 (fun r => decide (r * r ≤ v))

/-- A square root. -/
def fSqrt (a : FNum) : FNum × Flags :=
  match a with
  | .fin x =>
    if x.mant = 0 then (.fin x, 0)
    else if x.neg then (.nan false false, flagNV)
    else
      let odd := x.exp % 2 ≠ 0
      let m := x.mant * (if odd then 2 else 1) * 2 ^ workBits
      let e := (x.exp - (if odd then 1 else 0) - (workBits : Int)) / 2
      let r := isqrt (m.log2 / 2 + 1) m
      (.fin ⟨false, r, e, r * r ≠ m⟩, 0)
  | .inf s => if s then (.nan false false, flagNV) else (.inf false, 0)
  | a => (.nan false false, sigFlags [a])

/-- A reciprocal square root. -/
def fRsqrt (a : FNum) : FNum × Flags :=
  match a with
  | .fin x =>
    if x.mant = 0 then (.inf x.neg, flagDZ)
    else if x.neg then (.nan false false, flagNV)
    else
      let odd := x.exp % 2 ≠ 0
      let m := x.mant * (if odd then 2 else 1)
      let e := (x.exp - (if odd then 1 else 0)) / 2
      let k := workBits + m.log2
      let r := searchBits (k + 1) 0 (fun r => decide (r * r * m ≤ 2 ^ (2 * k)))
      (.fin ⟨false, r, -e - (k : Int), r * r * m ≠ 2 ^ (2 * k)⟩, 0)
  | .inf s => if s then (.nan false false, flagNV) else (.fin (.zero false), 0)
  | a => (.nan false false, sigFlags [a])

/-- The lesser of two values, -0 below +0; a NaN gives the other (R313). -/
def fMin (a b : FNum) : FNum × Flags :=
  (match a, b with
    | .nan _ _, .nan _ _ => .nan false false
    | .nan _ _, b => b
    | a, .nan _ _ => a
    | .inf true, _ => .inf true
    | .inf false, b => b
    | _, .inf true => .inf true
    | a, .inf false => a
    | .fin x, .fin y => if x.lt y || (x.eqv y && x.neg) then .fin x else .fin y, sigFlags [a, b])

/-- The greater of two values. -/
def fMax (a b : FNum) : FNum × Flags :=
  (match a, b with
    | .nan _ _, .nan _ _ => .nan false false
    | .nan _ _, b => b
    | a, .nan _ _ => a
    | .inf false, _ => .inf false
    | .inf true, b => b
    | _, .inf false => .inf false
    | a, .inf true => a
    | .fin x, .fin y => if y.lt x || (x.eqv y && !x.neg) then .fin x else .fin y, sigFlags [a, b])

/-- Whether one number is less than another; neither is a NaN. -/
def FNum.less (a b : FNum) : Bool :=
  match a, b with
  | .inf s, .inf t => s && !t
  | .inf s, .fin _ => s
  | .fin _, .inf t => !t
  | .fin x, .fin y => x.lt y
  | _, _ => false

/-- Whether two numbers are equal; a NaN equals nothing. -/
def FNum.same (a b : FNum) : Bool :=
  match a, b with
  | .inf s, .inf t => s = t
  | .fin x, .fin y => x.eqv y
  | _, _ => false

/-- A comparison by code: 0 EQ, 1 LT, 2 LE, 3 UN, with its flags (R333). -/
def fCompare (cond : Nat) (a b : FNum) : Bool × Flags :=
  let nan := a.isNaN || b.isNaN
  match cond with
  | 0 => (a.same b, sigFlags [a, b])
  | 1 => (!nan && a.less b, flagIf nan flagNV)
  | 2 => (!nan && (a.less b || a.same b), flagIf nan flagNV)
  | _ => (nan, sigFlags [a, b])

/-! ### Base-2 exponential (R314) -/

/-- The fraction bits that `exp2` works with (log entry 17). -/
def expBits : Nat := 256

/-- 2^f in fixed point for a fraction whose bits are listed, the most significant first; `root` is 2^(2^-i) for the
next bit. -/
def expChain (fs : List Bool) (root acc : Nat) : Nat :=
  match fs with
  | [] => acc
  | b :: r =>
    let root := isqrt (expBits + 1) (root * 2 ^ expBits)
    expChain r root (if b then acc * root / 2 ^ expBits else acc)

/-- 2 to an exact finite power: the value truncated, with what is left as sticky. (DESIGN CHOICE, log entry 17.) -/
def Exact.exp2 (x : Exact) : Exact :=
  if x.mant = 0 then ⟨false, 1, 0, false⟩
  else if 0 ≤ x.exp + (x.mant.log2 : Int) - 20 then
    -- a magnitude of 2^20 or more: beyond every format's range
    (if x.neg then ⟨false, 1, -2097152, true⟩ else ⟨false, 1, 2097152, false⟩)
  else
    let scaled : Nat × Bool := if 0 ≤ x.exp + (expBits : Int) then (x.mant * 2 ^ (x.exp + (expBits : Int)).toNat, false)
      else (x.mant / 2 ^ (-(x.exp + (expBits : Int))).toNat, x.mant % 2 ^ (-(x.exp + (expBits : Int))).toNat ≠ 0)
    let fix : Int := if x.neg then -(scaled.1 : Int) - (if scaled.2 then 1 else 0) else (scaled.1 : Int)
    let n : Int := fix / (2 ^ expBits : Nat)
    let f : Nat := (fix % (2 ^ expBits : Nat)).toNat
    if f = 0 ∧ !scaled.2 then ⟨false, 1, n, false⟩
    else
      let v := expChain ((List.range expBits).map (fun i => bit f (expBits - 1 - i))) (2 * 2 ^ expBits) (2 ^ expBits)
      ⟨false, v, n - (expBits : Int), true⟩

/-- `VFEXP2` of a value. -/
def fExp2 (a : FNum) : FNum × Flags :=
  match a with
  | .fin x => (.fin x.exp2, 0)
  | .inf s => (if s then .fin (.zero false) else .inf false, 0)
  | a => (.nan false false, sigFlags [a])

/-! ### Conversions (R316) -/

/-- An exact value rounded to an integer, and whether it was inexact. -/
def roundInt (x : Exact) (rm : Nat) : Int × Bool :=
  let p := if 0 ≤ x.exp then (x.mant * 2 ^ x.exp.toNat, x.sticky) else roundMag rm x.neg x.mant (-x.exp).toNat x.sticky
  (if x.neg then -(p.1 : Int) else (p.1 : Int), p.2)

/-- A value converted to an integer between bounds (R316). -/
def toIntRange (v : FNum) (lo hi : Int) (rm : Nat) : Int × Flags :=
  match v with
  | .nan _ _ => (0, flagNV)
  | .inf s => (if s then lo else hi, flagNV)
  | .fin x =>
    let r := roundInt x rm
    if r.1 < lo then (lo, flagNV) else if hi < r.1 then (hi, flagNV) else (r.1, flagIf r.2 flagNX)

/-- A value converted to a float format (R316). -/
def toFloatFmt (v : FNum) (f : FFmt) (rm : Nat) : Nat × Flags :=
  match v with
  | .fin x => roundTo x f rm
  | .nan neg sig =>
    match f.kind with
    | .ieee => (canonicalNaN f, flagIf sig flagNV)
    | .f8a => (packFloat f neg (2 ^ (f.eb + f.mb) - 1), flagIf sig flagNV)
    | .none => (0, flagNV)
  | .inf neg =>
    match f.kind with
    | .ieee => (packFloat f neg (infCode f), 0)
    | _ => (packFloat f neg (maxCode f), flagOF)

/-- A value converted to T2 (R316). -/
def toT2 (v : FNum) (rm : Nat) : Nat × Flags :=
  let code (i : Int) : Nat := if i = 0 then 0 else if i < 0 then 3 else 1
  match v with
  | .nan _ _ => (0, flagNV)
  | .inf s => (if s then 3 else 1, flagNV)
  | .fin x =>
    let r := roundInt x rm
    (code r.1, flagIf (r.2 || decide (r.1 < -1) || decide (1 < r.1)) flagNX)

/-- A value converted to B1 (R316). -/
def toB1 (v : FNum) : Nat × Flags :=
  match v with
  | .nan _ _ => (0, flagNV)
  | .inf s => (b2n s, flagNX)
  | .fin x => (b2n (x.neg && x.mant ≠ 0), flagIf (!(x.eqv (.ofInt 1) || x.eqv (.ofInt (-1)))) flagNX)

/-- A float format by its format code (R295). -/
def floatFmt (code : Nat) : Option FFmt :=
  match code with
  | 1 => some fmtF32
  | 2 => some fmtF19
  | 3 => some fmtF16
  | 4 => some fmtB16
  | 5 => some fmtF8A
  | 6 => some fmtF8B
  | 7 => some fmtF6A
  | 8 => some fmtF6B
  | 9 => some fmtF4
  | _ => none

/-- Width and signedness of an integer format by its code (R295, R308); the O4 formats are not among them. -/
def intFmt (code : Nat) : Option (Nat × Bool) :=
  match code with
  | 10 => some (16, true)
  | 11 => some (16, false)
  | 12 => some (8, true)
  | 13 => some (8, false)
  | 14 => some (4, true)
  | 15 => some (4, false)
  | 16 => some (2, true)
  | 21 => some (32, true)
  | _ => none

/-- The element width of a format code (R309). -/
def fmtWidth (code : Nat) : Nat :=
  match code with
  | 1 => 32 | 2 => 32 | 21 => 32
  | 3 => 16 | 4 => 16 | 10 => 16 | 11 => 16
  | 5 => 8 | 6 => 8 | 12 => 8 | 13 => 8
  | 7 => 6 | 8 => 6
  | 9 => 4 | 14 => 4 | 15 => 4 | 19 => 4 | 20 => 4
  | 16 => 2 | 17 => 2
  | 18 => 1
  | _ => 0

/-- Bounds of an integer format. -/
def intLo (w : Nat) (signed : Bool) : Int := if signed then -((2 ^ (w - 1) : Nat) : Int) else 0
/-- Upper bound of an integer format. -/
def intHi (w : Nat) (signed : Bool) : Int := if signed then ((2 ^ (w - 1) : Nat) : Int) - 1 else ((2 ^ w : Nat) : Int) - 1

/-- The value of a stored element by its format code, with the flag of a malformed code (R307, R308). O4 codes read
as their plain two's complement here; `readO4` gives their blocks. -/
def readElem (code v : Nat) : FNum × Flags :=
  match floatFmt code with
  | some f => (readFloat f v, 0)
  | none =>
    match intFmt code with
    | some (w, s) => (.fin (.ofInt (if s then sxNat v w else ((v % 2 ^ w : Nat) : Int))), 0)
    | none =>
      if code = 17 then
        (match v % 4 with
          | 0 => (.fin (.ofInt 0), 0)
          | 1 => (.fin (.ofInt 1), 0)
          | 2 => (.fin (.ofInt 0), flagFE)
          | _ => (.fin (.ofInt (-1)), 0))
      else if code = 18 then (.fin (.ofInt (if v % 2 = 0 then 1 else -1)), 0)
      else (.fin (.ofInt (sxNat v 4)), 0)

/-- `Convert` and the conversions of R316 to a format by its code. -/
def convertElem (v : FNum) (code rm : Nat) : Nat × Flags :=
  match floatFmt code with
  | some f => toFloatFmt v f rm
  | none =>
    match intFmt code with
    | some (w, s) =>
      let r := toIntRange v (intLo w s) (intHi w s) rm
      ((r.1 % ((2 ^ w : Nat) : Int)).toNat, r.2)
    | none => if code = 17 then toT2 v rm else toB1 v

end Sys2Proof.Machine
end

