-- ==== Sys2Proof/Machine/Tiles.lean ====
section
/-! DEFINITION. Tiles and accumulator slots: where their elements lie (R240), tile states (R241), the scoreboard
(R243), the window checks (R239), tile-waits and slot-waits (R227, R417). -/

namespace Sys2Proof.Machine

/-! ### Storage (R240) -/

/-- Physical address of a tile of a cluster. -/
def tileBase (cl p : Nat) : Nat := 0x800000000000 + cl * 0x1000000 + p * 0x10000

/-- Physical address of a slot of a cluster. -/
def slotBase (cl s : Nat) : Nat := 0x800000000000 + cl * 0x1000000 + 0x400000 + s * 0x10000

/-- Bytes of a tile row of `cols` elements of `w` bits. -/
def rowStride (cols w : Nat) : Nat := cdiv (cols * w) 512 * 64

/-- Bytes that an element of `w` bits at column `c` touches. -/
def elemSpan (w c : Nat) : Nat := cdiv (c * w % 8 + w) 8

/-- Element (`r`, `c`) of a tile at `base` with row stride `rs` and elements of `w` bits. -/
def tileElem (m : Memory) (base rs w r c : Nat) : Nat :=
  memReadNat m (base + r * rs + c * w / 8) (elemSpan w c) / 2 ^ (c * w % 8) % 2 ^ w

/-- A tile with an element written; the other bits of its bytes stay. -/
def setTileElem (m : Memory) (base rs w r c v : Nat) : Memory :=
  let a := base + r * rs + c * w / 8
  memWriteNat m a (elemSpan w c) (setBits (memReadNat m a (elemSpan w c)) (c * w % 8 + w - 1) (c * w % 8) v)

/-- Bytes of a slot element of a format code. -/
def slotElemBytes (fmt : Nat) : Nat := if fmt = 3 then 2 else 4

/-- Element (`r`, `c`) of a slot at `base`. -/
def slotElem (m : Memory) (base fmt r c : Nat) : Nat :=
  memReadNat m (base + (128 * r + c) * slotElemBytes fmt) (slotElemBytes fmt)

/-- A slot with an element written. -/
def setSlotElem (m : Memory) (base fmt r c v : Nat) : Memory :=
  memWriteNat m (base + (128 * r + c) * slotElemBytes fmt) (slotElemBytes fmt) v

/-- The row stride of a configured tile. -/
def Tile.stride (t : Tile) : Nat := rowStride t.cols (fmtWidth t.fmt)

/-! ### Tile states (R241) -/

/-- The state of a tile: 0 empty, 1 filling, 2 draining, 3 ready. -/
def Tile.state (t : Tile) : Nat :=
  if !t.configured then 0 else if t.fill ≠ 0 then 1 else if t.drain ≠ 0 then 2 else 3

/-- The coroutines that tile-wait on a tile become ready once it is ready (R227). -/
def Chip.wakeTile (c : Chip) (cl p : Nat) : Chip :=
  if ((c.cluster cl).tile p).state = 3 then c.wakeAll (fun k co => k / 1024 = cl && co.wait = .tile p) else c

/-- Change a tile's counts or configuration, and wake those that wait for it. -/
def Chip.modTile (c : Chip) (cl p : Nat) (f : Tile → Tile) : Chip :=
  (c.modCluster cl (fun k => k.modTile p f)).wakeTile cl p

/-- Raise a tile's fill count. -/
def Tile.moreFill (t : Tile) : Tile := { t with fill := t.fill + 1 }
/-- Lower a tile's fill count. -/
def Tile.lessFill (t : Tile) : Tile := { t with fill := t.fill - 1 }
/-- Raise a tile's drain count. -/
def Tile.moreDrain (t : Tile) : Tile := { t with drain := t.drain + 1 }
/-- Lower a tile's drain count. -/
def Tile.lessDrain (t : Tile) : Tile := { t with drain := t.drain - 1 }

/-! ### The scoreboard (R243) -/

/-- The scoreboard's number of a slot. -/
def slotObj (s : Nat) : Nat := 32 + s

/-- Record an access at a cluster: its number in recording order, and the chip. -/
def Chip.record (c : Chip) (cl obj : Nat) (write : Bool) : Nat × Chip :=
  (c.nextSeq, { c with
    nextSeq := c.nextSeq + 1
    clusters := mset c.clusters cl { c.cluster cl with board := (c.cluster cl).board ++ [⟨c.nextSeq, obj, write⟩] } })

/-- Record several accesses in order. -/
def Chip.recordAll (c : Chip) (cl : Nat) (l : List (Nat × Bool)) : List Nat × Chip :=
  match l with
  | [] => ([], c)
  | p :: r =>
    let q := c.record cl p.1 p.2
    let t := Chip.recordAll q.2 cl r
    (q.1 :: t.1, t.2)

/-- Whether every earlier-recorded access that conflicts with one of the accesses `seqs` has been performed. An
access of the same instruction (`own`) is no obstacle. -/
def Cluster.clearFor (k : Cluster) (own seqs : List Nat) : Bool :=
  k.board.all (fun a => !seqs.contains a.seq ||
    k.board.all (fun b => own.contains b.seq || a.seq ≤ b.seq || b.obj ≠ a.obj || !(a.write || b.write)))

/-- Whether all accesses of an instruction may be performed. -/
def Cluster.clear (k : Cluster) (seqs : List Nat) : Bool := k.clearFor seqs seqs

/-- The accesses `seqs` have been performed. -/
def Chip.performed (c : Chip) (cl : Nat) (seqs : List Nat) : Chip :=
  if seqs.isEmpty then c
  else c.modCluster cl (fun k => { k with board := k.board.filter (fun a => !seqs.contains a.seq) })

/-! ### Names, waits and tags (R227, R239, R246, R417) -/

/-- Suspend on a tile or a slot, once the coroutine has drained (R214); the instruction reissues later. -/
def Chip.suspendOn (c : Chip) (key : Nat) (co : Coroutine) (w : Wait) : Issue :=
  if c.undrained key then .stall else .gone (c.suspend key co.dlive .awaiting w)

/-- The first named physical tile that is not ready. -/
def Chip.unreadyTile (c : Chip) (cl : Nat) (ps : List Nat) : Option Nat :=
  ps.find? (fun p => ((c.cluster cl).tile p).state ≠ 3)

/-- Who an accumulator slot belongs to in recording order, as a command of a coroutine finds it. -/
inductive Tag where
  | own | other | free
  deriving DecidableEq, Repr

/-- The tag of a slot for a coroutine. -/
def Slot.tagFor (t : Slot) (key lid : Nat) : Tag :=
  if !t.held then .free
  else if t.core = key / 256 ∧ t.slot = key % 256 ∧ t.lid = lid ∧ !t.ended then .own
  else .other

end Sys2Proof.Machine
end

