-- ==== Sys2Proof/Machine/Flags.lean ====
section
/-! DEFINITION. The flag computations of scalar floating point: `Raise`, rounding selection, and the shapes of
instructions that write a register and flags (R310, R311, R323, R331). -/

namespace Sys2Proof.Machine

/-- `Raise`: flags are ORed into `FFLAGS` (R305, R311). -/
def Coroutine.raise (co : Coroutine) (f : Flags) : Coroutine := { co with fflags := co.fflags ||| f }

/-- The rounding mode of a rounding field: 0-4 as it stands, the dynamic code 7 `FRM.RM`, none where that is 5-7
(R310, R331). -/
def Coroutine.rounding (co : Coroutine) (r : Nat) : Option Nat :=
  if r = 7 then (if 5 ≤ co.frm.toNat then none else some co.frm.toNat) else some r

/-- The scalar format of a precision bit (R314). -/
def scalarFmt (p : BitVec 1) : FFmt := if p = 1 then fmtF64 else fmtF32

/-- A scalar floating-point operand. -/
def Coroutine.fr (co : Coroutine) (p : BitVec 1) (r : BitVec 5) : FNum := readFloat (scalarFmt p) (co.xr r).toNat

/-- An exact result rounded once into a scalar format, with the flags of the operation and of the rounding. -/
def roundResult (v : FNum × Flags) (f : FFmt) (rm : Nat) : Nat × Flags :=
  ((roundNum v.1 f rm).1, v.2 ||| (roundNum v.1 f rm).2)

/-- Write a value and raise flags. -/
def Coroutine.setXF (co : Coroutine) (d : BitVec 5) (v : Nat × Flags) : Coroutine := (co.setX d (wordOf v.1)).raise v.2

/-- A scalar floating-point instruction that rounds: `RSV` at B where the dynamic mode is 5-7. -/
def writeRounded (i : Instr) (d : BitVec 5) (r : BitVec 3) (p : BitVec 1) (op : Coroutine → Nat → FNum × Flags) : WordBody :=
  fun c key co =>
    match co.rounding r.toNat with
    | none => trapWord c key co causeRsv i
    | some rm => .retire (c.setCo key (co.setXF d (roundResult (op co rm) (scalarFmt p) rm)).advance)

/-- A scalar floating-point instruction that does not round. -/
def writeFlagged (d : BitVec 5) (op : Coroutine → Nat × Flags) : WordBody := retireCo (fun co => co.setXF d (op co))

/-! ### `FCVT` (R334) -/

/-- The float format of an `FCVT` type code. -/
def cvtFmt (t : Nat) : Option FFmt :=
  match t with
  | 0 => some fmtF32
  | 1 => some fmtF64
  | 2 => some fmtF16
  | _ => none

/-- Width and signedness of an `FCVT` integer type code. -/
def cvtInt (t : Nat) : Nat × Bool :=
  match t with
  | 3 => (32, true)
  | 4 => (32, false)
  | 5 => (64, true)
  | _ => (64, false)

/-- The source value of an `FCVT`. -/
def cvtSource (t : Nat) (v : Word) : FNum :=
  match cvtFmt t with
  | some f => readFloat f v.toNat
  | none => .fin (.ofInt (if (cvtInt t).2 then sxNat v.toNat (cvtInt t).1 else ((v.toNat % 2 ^ (cvtInt t).1 : Nat) : Int)))

/-- The result of an `FCVT` as its register holds it: I32 sign-extended, the others zero-extended. -/
def cvtResult (t : Nat) (v : FNum) (rm : Nat) : Word × Flags :=
  match cvtFmt t with
  | some f => (wordOf (toFloatFmt v f rm).1, (toFloatFmt v f rm).2)
  | none =>
    let r := toIntRange v (intLo (cvtInt t).1 (cvtInt t).2) (intHi (cvtInt t).1 (cvtInt t).2) rm
    (wordOfInt r.1, r.2)

/-- Whether an `FCVT` widens: F16 to F32 or F64, F32 to F64 (R334, log entry 18). -/
def cvtWidens (t s : Nat) : Bool := (s = 2 && (t = 0 || t = 1)) || (s = 0 && t = 1)

end Sys2Proof.Machine
end

