-- ==== Sys2Proof/Machine/VectorReg.lean ====
section
/-! DEFINITION. Vector registers by element (R229-R231), result shapes, the exact functions of `VROPE` (R375) and the
ranking of the top-k unit (R372). -/

namespace Sys2Proof.Machine

/-! ### Elements (R229) -/

/-- The bits of a width code. -/
def widthBits (w : Nat) : Nat := 8 * 2 ^ w

/-- An element of the register's own width. -/
def VReg.own (v : VReg) (i : Nat) : Nat :=
  match v with
  | .general d => d.toNat / 2 ^ (8 * i) % 256
  | .uniform w u => u.toNat % 2 ^ widthBits w
  | .affine w b s => (b.toNat + i * s.toNat) % 2 ^ widthBits w

/-- The width in which `own` counts elements. -/
def VReg.ownBits (v : VReg) : Nat :=
  match v with
  | .general _ => 8
  | .uniform w _ => widthBits w
  | .affine w _ _ => widthBits w

/-- Own elements from index `i` on, put together lowest first. -/
def VReg.join (v : VReg) (i n : Nat) : Nat :=
  match n with
  | 0 => 0
  | k + 1 => v.own i + 2 ^ v.ownBits * VReg.join v (i + 1) k

/-- `Elem(vn, i, w)` (R305). -/
def VReg.elem (v : VReg) (i w : Nat) : Nat :=
  match v with
  | .general d => d.toNat / 2 ^ (i * w) % 2 ^ w
  | v => if w ≤ v.ownBits then v.own (i * w / v.ownBits) / 2 ^ (i * w % v.ownBits) % 2 ^ w
    else v.join (i * (w / v.ownBits)) (w / v.ownBits)

/-- The 256-byte image of a register, as its elements at a width. -/
def VReg.elems (v : VReg) (w : Nat) : List Nat := (List.range (2048 / w)).map (fun i => v.elem i w)

/-- A number from its elements of a width, lowest first. -/
def packElems (w : Nat) (l : List Nat) : Nat :=
  match l with
  | [] => 0
  | a :: r => a + 2 ^ w * packElems w r

/-- A general register from its elements. -/
def VReg.ofElems (w : Nat) (l : List Nat) : VReg := .general (BitVec.ofNat 2048 (packElems w l))

/-- The register as a general one (R231). -/
def VReg.expand (v : VReg) : VReg := .ofElems 8 (v.elems 8)

/-- The register with one element written, general (R231). -/
def VReg.setElem (v : VReg) (i w x : Nat) : VReg := .ofElems w ((v.elems w).set i x)

/-- Effective input shapes (R229). -/
inductive Shape where
  | general | uniform | affine
  deriving DecidableEq, Repr

/-- The effective shape of a register at a width. -/
def VReg.effective (v : VReg) (w : Nat) : Shape :=
  match v with
  | .general _ => .general
  | .uniform wc u => if (List.range (widthBits wc / w)).all (fun i => VReg.elem (.uniform wc u) i w = VReg.elem (.uniform wc u) 0 w)
    then .uniform else .general
  | .affine wc _ _ => if widthBits wc = w then .affine else .general

/-- How the result shape follows from the input shapes (R230). -/
inductive ShapeRule where
  | add | mul | shift | mac | allUniform | scalar | index | general
  deriving DecidableEq, Repr

/-- The shape of a sum. -/
def Shape.add (a b : Shape) : Shape :=
  if a = .general ∨ b = .general then .general else if a = .uniform ∧ b = .uniform then .uniform else .affine

/-- The shape of a product. -/
def Shape.mul (a b : Shape) : Shape :=
  if a = .general ∨ b = .general ∨ (a = .affine ∧ b = .affine) then .general
  else if a = .uniform ∧ b = .uniform then .uniform else .affine

/-- The result shape of a full unmasked instruction. -/
def ShapeRule.result (r : ShapeRule) (a b d : Shape) : Shape :=
  match r with
  | .add => a.add b
  | .mul => a.mul b
  | .shift => if b ≠ .uniform then .general else a
  | .mac => d.add (a.mul b)
  | .allUniform => if a = .uniform ∧ b = .uniform ∧ d = .uniform then .uniform else .general
  | .scalar => .uniform
  | .index => .affine
  | .general => .general

/-- A register of a result shape from its elements; an affine result of stride 0 is uniform (R229). -/
def VReg.shaped (sh : Shape) (wc w : Nat) (l : List Nat) : VReg :=
  match sh with
  | .general => .ofElems w l
  | .uniform => .uniform wc (wordOf (l.getD 0 0))
  | .affine =>
    if l.getD 0 0 = l.getD 1 0 then .uniform wc (wordOf (l.getD 0 0))
    else .affine wc (wordOf (l.getD 0 0)) (wordOf ((l.getD 1 0 + 2 ^ w - l.getD 0 0) % 2 ^ w))

/-! ### Captured values (R353) -/

/-- SEW in bits of a captured `VTYPE`. -/
def sewBits (vtype : Nat) : Nat := widthBits (bits vtype 1 0)

/-- The block exponent of a captured `VTYPE`. -/
def blkOf (vtype : Nat) : Nat := bits vtype 4 2

/-- VLMAX at a captured `VTYPE`. -/
def vlmaxOf (vtype : Nat) : Nat := 2048 / sewBits vtype

/-- SEW of an entry. -/
def VEntry.sew (e : VEntry) : Nat := sewBits e.vtype

/-- Whether an element is within an entry's range and its mask (R305, R357). -/
def VEntry.active (e : VEntry) (co : Coroutine) (m : BitVec 3) (i : Nat) : Bool :=
  decide (e.vstart ≤ i) && decide (i < e.vl) && (m = 0 || (co.mr m.toNat).getLsbD i)

/-- Whether an entry's result takes its shape from its inputs (R230). -/
def VEntry.full (e : VEntry) (m : BitVec 3) : Bool := m = 0 && e.vstart = 0 && e.vl = vlmaxOf e.vtype

/-- The vector floating-point format of a width (R314). -/
def sewFmt (w : Nat) : FFmt := if w = 16 then fmtF16 else if w = 64 then fmtF64 else fmtF32

/-! ### `VROPE` functions (R375) -/

/-- The fraction bits that sines and cosines are computed with (log entry 17). -/
def trigBits : Nat := 512

/-- The ratio of a circle's circumference to its diameter, times 2^512, truncated. -/
def piFixed : Nat :=
  0x3243f6a8885a308d313198a2e03707344a4093822299f31d0082efa98ec4e6c89452821e638d01377be5466cf34e90c6cc0ac29b7c97c50dd3f84d5b5b5470917

/-- The alternating series of a sine or cosine in fixed point: `t` is the term of index `n`, `x2` the square. -/
def trigSeries (fuel n : Nat) (t x2 : Nat) (plus : Bool) (acc : Int) : Int :=
  match fuel with
  | 0 => acc
  | f + 1 =>
    trigSeries f (n + 2) (t * x2 / 2 ^ trigBits / ((n + 1) * (n + 2))) x2 (!plus)
      (if plus then acc + (t : Int) else acc - (t : Int))

/-- Cosine and sine, in fixed point, of a fixed-point angle from 0 to half of `piFixed`. -/
def trigQuadrant (r : Nat) : Int × Int :=
  let x2 := r * r / 2 ^ trigBits
  (trigSeries 100 0 (2 ^ trigBits) x2 true 0, trigSeries 100 1 r x2 true 0)

/-- A fixed-point number as an exact value with what was cut off as sticky. -/
def fixedExact (v : Int) : Exact := ⟨decide (v < 0), v.natAbs, -(trigBits : Int), true⟩

/-- Cosine and sine of a nonnegative exact angle of at most 48 significant bits. (DESIGN CHOICE, log entry 17.) -/
def cosSin (x : Exact) : Exact × Exact :=
  if x.mant = 0 then (.ofInt 1, .zero false)
  else if x.exp + (x.mant.log2 : Int) < -100 then
    -- a tiny angle: just below 1, and just below the angle
    (⟨false, 2 ^ 100 - 1, -100, true⟩, ⟨false, x.mant * 2 ^ 100 - 1, x.exp - 100, true⟩)
  else
    let t := if 0 ≤ x.exp + (trigBits : Int) then x.mant * 2 ^ (x.exp + (trigBits : Int)).toNat
      else x.mant / 2 ^ (-(x.exp + (trigBits : Int))).toNat
    let half := piFixed / 2
    let q := t / half
    let cs := trigQuadrant (t - q * half)
    match q % 4 with
    | 0 => (fixedExact cs.1, fixedExact cs.2)
    | 1 => (fixedExact (-cs.2), fixedExact cs.1)
    | 2 => (fixedExact (-cs.1), fixedExact (-cs.2))
    | _ => (fixedExact cs.2, fixedExact (-cs.1))

/-- The fraction bits that the powers of `VROPE` are found to. (DESIGN CHOICE, log entry 17.) -/
def powBits : Nat := 160

/-- BASE^(-2p/DIM) for a finite base above 1 and 2p below DIM: the largest fixed-point `r` with
r^DIM times BASE^(2p) at most 1. (DESIGN CHOICE, log entry 17.) -/
def ropeOmega (base : Exact) (p2 dim : Nat) : Exact :=
  let bm := base.mant ^ p2
  let be : Int := base.exp * (p2 : Int)
  -- r^dim * bm * 2^be <= 2^(powBits * dim)
  let lim : Int := ((powBits * dim : Nat) : Int) - be
  let holds (r : Nat) : Bool :=
    if 0 ≤ lim then decide (r ^ dim * bm ≤ 2 ^ lim.toNat) else decide (r ^ dim * bm * 2 ^ (-lim).toNat ≤ 1)
  let r := searchBits (powBits + 1) 0 holds
  let exact : Bool := if 0 ≤ lim then r ^ dim * bm = 2 ^ lim.toNat else r ^ dim * bm * 2 ^ (-lim).toNat = 1
  ⟨false, r, -(powBits : Int), !exact⟩

/-- A finite value as the exact number a format's element holds. -/
def exactOf (f : FFmt) (v : Nat) : Exact :=
  match readFloat f v with
  | .fin x => x
  | _ => .zero false

/-- Whether `ROPECFG` is valid (R374). -/
def ropeValid (cfg : Word) : Bool :=
  (match readFloat fmtF32 (bits cfg.toNat 31 0) with
    | .fin x => (Exact.ofInt 1).lt x
    | _ => false)
  && bits cfg.toNat 41 32 % 2 = 0 && decide (2 ≤ bits cfg.toNat 41 32) && decide (bits cfg.toNat 41 32 ≤ 512)
  && bits cfg.toNat 50 42 % 2 = 0

/-- The cosine and sine of a pair, rounded to F32. -/
def ropeAngles (cfg : Word) (i pos : Nat) : FNum × FNum :=
  let n := cfg.toNat
  let w := (roundTo (ropeOmega (exactOf fmtF32 (bits n 31 0)) (bits n 50 42 + i) (bits n 41 32)) fmtF32 0).1
  let o := exactOf fmtF32 w
  let cs := cosSin ⟨false, pos * o.mant, o.exp, false⟩
  (readFloat fmtF32 (roundTo cs.1 fmtF32 0).1, readFloat fmtF32 (roundTo cs.2 fmtF32 0).1)

/-- One pair rotated: both elements and the flags (R375). -/
def ropePair (cfg : Word) (frm w i x0 x1 pos : Nat) : (Nat × Nat) × Flags :=
  let f := sewFmt w
  let n := cfg.toNat
  if !ropeValid cfg || decide (2 ^ 24 ≤ pos) then ((canonicalNaN f, canonicalNaN f), flagNV)
  else if bits n 41 32 ≤ bits n 50 42 + i then ((x0, x1), 0)
  else
    let cs := ropeAngles cfg i pos
    let a := readFloat f x0
    let b := readFloat f x1
    let p0 := fMul a cs.1
    let p1 := fMul b cs.2
    let p2 := fMul a cs.2
    let p3 := fMul b cs.1
    let r0 := roundResult (fAdd p0.1 p1.1.negate frm) f frm
    let r1 := roundResult (fAdd p2.1 p3.1 frm) f frm
    ((r0.1, r1.1), p0.2 ||| p1.2 ||| p2.2 ||| p3.2 ||| r0.2 ||| r1.2)

/-! ### Top-k (R372) -/

/-- Whether one pair of an F32 score and an index ranks before another. -/
def ranksBefore (p q : BitVec 32 × BitVec 32) : Bool :=
  let a := readFloat fmtF32 p.1.toNat
  let b := readFloat fmtF32 q.1.toNat
  if a.isNaN then b.isNaN && p.2.ult q.2
  else if b.isNaN then true
  else b.less a || (a.same b && p.2.ult q.2)

/-- A pair placed in rank order behind its equals. -/
def topkInsert (p : BitVec 32 × BitVec 32) (l : List (BitVec 32 × BitVec 32)) : List (BitVec 32 × BitVec 32) :=
  match l with
  | [] => [p]
  | q :: r => if ranksBefore p q then p :: q :: r else q :: topkInsert p r

/-- A number placed in ascending order behind its equals. -/
def insertAscending (x : Nat) (l : List Nat) : List Nat :=
  match l with
  | [] => [x]
  | y :: r => if x < y then x :: y :: r else y :: insertAscending x r

/-- The indices held, ascending. -/
def topkIndices (l : List (BitVec 32 × BitVec 32)) : List Nat :=
  l.foldl (fun acc p => insertAscending p.2.toNat acc) []

end Sys2Proof.Machine
end

