-- ==== Sys2Proof/Machine/VectorAlu.lean ====
section
/-! DEFINITION. What each vector register instruction computes when its entry executes: the elementwise instructions
(R356, R360-R362, R364, R366), the mask instructions (R363, R365), and the whole instructions (R358, R367-R375). -/

namespace Sys2Proof.Machine

/-! ### Elementwise instructions -/

/-- An elementwise instruction: its registers, its mask field, its shape rule, whether it reads `vb` and the old
destination, and its element result from the entry, the coroutine, the index and the elements A, B and D. -/
structure VecSpec where
  d : BitVec 5
  a : BitVec 5
  b : BitVec 5
  m : BitVec 3
  rule : ShapeRule
  readsA : Bool
  readsB : Bool
  readsD : Bool
  op : VEntry → Coroutine → Nat → Nat → Nat → Nat → Nat × Flags

/-- An element result of integer arithmetic, modulo 2^W, without flags. -/
def intOp (f : Nat → Nat → Nat → Nat → Nat) : VEntry → Coroutine → Nat → Nat → Nat → Nat → Nat × Flags :=
  fun e _ _ a b d => (f e.sew a b d % 2 ^ e.sew, 0)

/-- A signed number modulo 2^W. -/
def wrapInt (w : Nat) (i : Int) : Nat := (i % ((2 ^ w : Nat) : Int)).toNat

/-- An element result of signed arithmetic. -/
def signedOp (f : Nat → Int → Int → Int) : VEntry → Coroutine → Nat → Nat → Nat → Nat → Nat × Flags :=
  fun e _ _ a b _ => (wrapInt e.sew (f e.sew (sxNat a e.sew) (sxNat b e.sew)), 0)

/-- An element result of floating-point arithmetic, rounded once under the captured mode. -/
def floatOp (f : FNum → FNum → FNum → Nat → FNum × Flags) : VEntry → Coroutine → Nat → Nat → Nat → Nat → Nat × Flags :=
  fun e _ _ a b d =>
    roundResult (f (readFloat (sewFmt e.sew) a) (readFloat (sewFmt e.sew) b) (readFloat (sewFmt e.sew) d) e.frm) (sewFmt e.sew) e.frm

/-- A binary elementwise instruction. -/
def binSpec (d a b : BitVec 5) (m : BitVec 3) (rule : ShapeRule)
    (op : VEntry → Coroutine → Nat → Nat → Nat → Nat → Nat × Flags) : Option VecSpec :=
  some ⟨d, a, b, m, rule, true, true, false, op⟩

/-- A binary elementwise instruction that also reads its destination. -/
def accSpec (d a b : BitVec 5) (m : BitVec 3) (rule : ShapeRule)
    (op : VEntry → Coroutine → Nat → Nat → Nat → Nat → Nat × Flags) : Option VecSpec :=
  some ⟨d, a, b, m, rule, true, true, true, op⟩

/-- A unary elementwise instruction. -/
def unSpec (d a : BitVec 5) (m : BitVec 3) (rule : ShapeRule)
    (op : VEntry → Coroutine → Nat → Nat → Nat → Nat → Nat × Flags) : Option VecSpec :=
  some ⟨d, a, a, m, rule, true, false, false, op⟩

/-- `VFSGN`: the magnitude of A with the sign of B; a NaN A gives the canonical NaN (R361). -/
def signInject (w a b : Nat) : Nat × Flags :=
  let f := sewFmt w
  if (readFloat f a).isNaN then (canonicalNaN f, sigFlags [readFloat f a])
  else (a % 2 ^ (w - 1) + b / 2 ^ (w - 1) * 2 ^ (w - 1), 0)

/-- `VFCVT` by its kind (R362). -/
def vectorConvert (k w a frm : Nat) : Nat × Flags :=
  match k with
  | 0 => toFloatFmt (.fin (.ofInt (sxNat a w))) (sewFmt w) frm
  | 1 => toFloatFmt (.fin (.ofInt (a : Int))) (sewFmt w) frm
  | 2 =>
    let r := toIntRange (readFloat (sewFmt w) a) (intLo w true) (intHi w true) frm
    (wrapInt w r.1, r.2)
  | 3 =>
    let r := toIntRange (readFloat (sewFmt w) a) (intLo w false) (intHi w false) frm
    (wrapInt w r.1, r.2)
  | 4 => toFloatFmt (readFloat (sewFmt (w / 2)) (a % 2 ^ (w / 2))) (sewFmt w) frm
  | 5 => toFloatFmt (readFloat (sewFmt w) a) (sewFmt (w / 2)) frm
  | 6 => toFloatFmt (readFloat fmtB16 (a % 65536)) fmtF32 frm
  | _ => toFloatFmt (readFloat fmtF32 a) fmtB16 frm

/-- The elementwise instructions. -/
def vecSpec (i : Instr) : Option VecSpec :=
  match i with
  | .vadd d a b _ _ m => binSpec d a b m .add (intOp (fun _ a b _ => a + b))
  | .vsub d a b _ _ m => binSpec d a b m .add (intOp (fun w a b _ => a + 2 ^ w - b))
  | .vmul d a b _ _ m => binSpec d a b m .mul (intOp (fun _ a b _ => a * b))
  | .vmulh d a b _ _ m => binSpec d a b m .allUniform (signedOp (fun w a b => a * b / ((2 ^ w : Nat) : Int)))
  | .vmac d a b _ _ m => accSpec d a b m .mac (intOp (fun _ a b d => d + a * b))
  | .vmin d a b _ _ m => binSpec d a b m .allUniform (signedOp (fun _ a b => if a < b then a else b))
  | .vmax d a b _ _ m => binSpec d a b m .allUniform (signedOp (fun _ a b => if a < b then b else a))
  | .vminu d a b _ _ m => binSpec d a b m .allUniform (intOp (fun _ a b _ => if a < b then a else b))
  | .vmaxu d a b _ _ m => binSpec d a b m .allUniform (intOp (fun _ a b _ => if a < b then b else a))
  | .vsadd d a b _ _ m => binSpec d a b m .allUniform (signedOp (fun w a b => clampInt (a + b) (intLo w true) (intHi w true)))
  | .vssub d a b _ _ m => binSpec d a b m .allUniform (signedOp (fun w a b => clampInt (a - b) (intLo w true) (intHi w true)))
  | .vabs d a _ m => unSpec d a m .allUniform (signedOp (fun _ a _ => (a.natAbs : Int)))
  | .vand d a b _ _ m => binSpec d a b m .allUniform (intOp (fun _ a b _ => Nat.land a b))
  | .vor d a b _ _ m => binSpec d a b m .allUniform (intOp (fun _ a b _ => Nat.lor a b))
  | .vxor d a b _ _ m => binSpec d a b m .allUniform (intOp (fun _ a b _ => Nat.xor a b))
  | .vsll d a b _ _ m => binSpec d a b m .shift (intOp (fun w a b _ => a * 2 ^ (b % w)))
  | .vsrl d a b _ _ m => binSpec d a b m .allUniform (intOp (fun w a b _ => a / 2 ^ (b % w)))
  | .vsra d a b _ _ m => binSpec d a b m .allUniform
      (fun e _ _ a b _ => (wrapInt e.sew (sxNat a e.sew / ((2 ^ (b % e.sew) : Nat) : Int)), 0))
  | .vmerge d a b _ _ m => binSpec d a b 0 .general
      (fun _ co i a b _ => (if (co.mr m.toNat).getLsbD i then a else b, 0))
  | .vfadd d a b _ _ m => binSpec d a b m .allUniform (floatOp (fun a b _ rm => fAdd a b rm))
  | .vfsub d a b _ _ m => binSpec d a b m .allUniform (floatOp (fun a b _ rm => fAdd a b.negate rm))
  | .vfmul d a b _ _ m => binSpec d a b m .allUniform (floatOp (fun a b _ _ => fMul a b))
  | .vfma d a b _ _ m => accSpec d a b m .allUniform (floatOp (fun a b d rm => fMulAdd a b d rm))
  | .vfnma d a b _ _ m => accSpec d a b m .allUniform (floatOp (fun a b d rm => fMulAdd a.negate b d rm))
  | .vfmin d a b _ _ m => binSpec d a b m .allUniform (floatOp (fun a b _ _ => fMin a b))
  | .vfmax d a b _ _ m => binSpec d a b m .allUniform (floatOp (fun a b _ _ => fMax a b))
  | .vfdiv d a b _ _ m => binSpec d a b m .allUniform (floatOp (fun a b _ _ => fDiv a b))
  | .vfsqrt d a _ m => unSpec d a m .allUniform (floatOp (fun a _ _ _ => fSqrt a))
  | .vfrsq d a _ m => unSpec d a m .allUniform (floatOp (fun a _ _ _ => fRsqrt a))
  | .vfexp2 d a _ m => unSpec d a m .allUniform (floatOp (fun a _ _ _ => fExp2 a))
  | .vfsgn d a b _ _ m => binSpec d a b m .allUniform (fun e _ _ a b _ => signInject e.sew a b)
  | .vfcvt d a _ m k => unSpec d a m .allUniform (fun e _ _ a _ _ => vectorConvert k.toNat e.sew a e.frm)
  | .vmvx d _ m => some ⟨d, d, d, m, .scalar, false, false, false, fun e _ _ _ _ _ => (e.s1.toNat % 2 ^ e.sew, 0)⟩
  | .vid d m => some ⟨d, d, d, m, .index, false, false, false, fun e _ i _ _ _ => (i % 2 ^ e.sew, 0)⟩
  | .vshape d a _ m => unSpec d a m .general (intOp (fun _ a _ _ => a))
  | _ => none

/-- The element results of an elementwise instruction, in order: the elements it does not write keep D. -/
def VecSpec.results (sp : VecSpec) (e : VEntry) (co : Coroutine) : List (Nat × Flags) :=
  let w := e.sew
  (((co.vr sp.a).elems w).zip (((co.vr sp.b).elems w).zip ((co.vr sp.d).elems w))).zipIdx.map (fun p =>
    if e.active co sp.m p.2 then sp.op e co p.2 p.1.1 p.1.2.1 p.1.2.2 else (p.1.2.2, 0))

/-- The shape of an elementwise result (R230, R231). -/
def VecSpec.shape (sp : VecSpec) (e : VEntry) (co : Coroutine) : Shape :=
  if e.full sp.m then
    sp.rule.result ((co.vr sp.a).effective e.sew) (if sp.readsB then (co.vr sp.b).effective e.sew else .uniform)
      (if sp.readsD then (co.vr sp.d).effective e.sew else .uniform)
  else .general

/-- An elementwise instruction executed. -/
def VecSpec.run (sp : VecSpec) (e : VEntry) (co : Coroutine) : Coroutine :=
  let rs := sp.results e co
  (co.setV sp.d (VReg.shaped (sp.shape e co) (bits e.vtype 1 0) e.sew (rs.map (fun r => r.1)))).raise
    (rs.foldl (fun f r => f ||| r.2) 0)

/-! ### Masks (R363, R365) -/

/-- A mask register with the bits of a range replaced. -/
def maskRange (old : BitVec 256) (lo hi : Nat) (f : Nat → Bool) : BitVec 256 :=
  BitVec.ofNat 256 (packElems 1 ((List.range 256).map (fun i => b2n (if lo ≤ i ∧ i < hi then f i else old.getLsbD i))))

/-- A coroutine with the bits of a mask register within an entry's range written. -/
def Coroutine.writeMask (co : Coroutine) (d : BitVec 5) (e : VEntry) (f : Nat → Bool) : Coroutine :=
  co.setM d.toNat (maskRange (co.mr d.toNat) e.vstart e.vl f)

/-- An integer condition by its code (R363). -/
def vectorCond (c w a b : Nat) : Bool :=
  match c with
  | 0 => a = b
  | 1 => a ≠ b
  | 2 => decide (sxNat a w < sxNat b w)
  | 3 => decide (sxNat b w ≤ sxNat a w)
  | 4 => decide (a < b)
  | _ => decide (b ≤ a)

/-- `VFCMP`: the mask bits of its range, with the flags (R363). -/
def Coroutine.floatCompare (co : Coroutine) (e : VEntry) (cond : Nat) (d a b : BitVec 5) : Coroutine :=
  let f := sewFmt e.sew
  let rs := (((co.vr a).elems e.sew).zip ((co.vr b).elems e.sew)).zipIdx.map (fun p =>
    if e.vstart ≤ p.2 ∧ p.2 < e.vl then fCompare cond (readFloat f p.1.1) (readFloat f p.1.2) else (false, 0))
  (co.writeMask d e (fun i => (rs.getD i (false, 0)).1)).raise (rs.foldl (fun fl r => fl ||| r.2) 0)

/-! ### Whole instructions (R358) -/

/-- The active elements of a register, in order, with their indices; `VSTART` counts as 0. -/
def VEntry.actives (e : VEntry) (co : Coroutine) (m : BitVec 3) (v : VReg) : List (Nat × Nat) :=
  ((v.elems e.sew).zipIdx.filter (fun p => VEntry.active { e with vstart := 0 } co m p.2)).map (fun p => (p.2, p.1))

/-- A reduction written into element 0, general (R367). -/
def Coroutine.reduceTo (co : Coroutine) (e : VEntry) (d : BitVec 5) (v : Nat × Flags) : Coroutine :=
  (co.setV d ((co.vr d).setElem 0 e.sew v.1)).raise v.2

/-- An integer reduction. -/
def intReduce (e : VEntry) (co : Coroutine) (d a b : BitVec 5) (m : BitVec 3) (f : Nat → Nat → Nat → Nat) : Coroutine :=
  co.reduceTo e d (((e.actives co m (co.vr a)).foldl (fun acc p => f e.sew acc p.2) ((co.vr b).elem 0 e.sew)) % 2 ^ e.sew, 0)

/-- One level of the pairwise tree (R322). -/
def reduceLevel (f : FFmt) (rm : Nat) (l : List (Option Nat)) : List (Option Nat) × Flags :=
  match l with
  | a :: b :: r =>
    let rest := reduceLevel f rm r
    match a, b with
    | none, b => (b :: rest.1, rest.2)
    | a, none => (a :: rest.1, rest.2)
    | some x, some y =>
      let s := roundResult (fAdd (readFloat f x) (readFloat f y) rm) f rm
      (some s.1 :: rest.1, s.2 ||| rest.2)
  | l => (l, 0)

/-- The tree reduced to its root, level by level. -/
def reduceTree (fuel : Nat) (f : FFmt) (rm : Nat) (l : List (Option Nat)) : Option Nat × Flags :=
  match fuel with
  | 0 => ((l.getD 0 none), 0)
  | k + 1 =>
    if l.length ≤ 1 then (l.getD 0 none, 0)
    else
      let r := reduceLevel f rm l
      let t := reduceTree k f rm r.1
      (t.1, r.2 ||| t.2)

/-- `VFREDSUM` (R322). (DEDUCED, log entry 24.) -/
def floatSum (e : VEntry) (co : Coroutine) (a b : BitVec 5) (m : BitVec 3) : Nat × Flags :=
  let f := sewFmt e.sew
  let n := pow2Above 9 e.vl 1
  let nodes := (((co.vr a).elems e.sew).zipIdx.take n).map (fun p =>
    if VEntry.active { e with vstart := 0 } co m p.2 then some p.1 else none)
  let t := reduceTree 9 f e.frm nodes
  let init := (co.vr b).elem 0 e.sew
  match t.1 with
  | none => (init, t.2)
  | some x =>
    let r := roundResult (fAdd (readFloat f init) (readFloat f x) e.frm) f e.frm
    (r.1, t.2 ||| r.2)

/-- `VFREDMAX` and `VFREDMIN` (R322). (DEDUCED, log entry 24.) -/
def floatExtreme (e : VEntry) (co : Coroutine) (a b : BitVec 5) (m : BitVec 3) (f : FNum → FNum → FNum × Flags) : Nat × Flags :=
  let fm := sewFmt e.sew
  let init := readFloat fm ((co.vr b).elem 0 e.sew)
  let r := (e.actives co m (co.vr a)).foldl (fun (acc : FNum × Flags) p =>
    ((f acc.1 (readFloat fm p.2)).1, acc.2 ||| (f acc.1 (readFloat fm p.2)).2)) (init, sigFlags [init])
  ((roundNum r.1 fm 0).1, r.2)

/-- A permute: each active element from a function of its index that may leave it unchanged; general (R368). -/
def permute (e : VEntry) (co : Coroutine) (d : BitVec 5) (m : BitVec 3) (f : Nat → Option Nat) : Coroutine :=
  co.setV d (.ofElems e.sew (((co.vr d).elems e.sew).zipIdx.map (fun p =>
    if VEntry.active { e with vstart := 0 } co m p.2 then (f p.2).getD p.1 else p.1)))

/-- `VSCAN`: the prefix sums of the active elements. -/
def scanSums (w : Nat) (l : List (Nat × Nat)) (acc : Nat) : AMap Nat :=
  match l with
  | [] => []
  | p :: r => (p.1, (acc + p.2) % 2 ^ w) :: scanSums w r ((acc + p.2) % 2 ^ w)

/-- `VROPE` (R375). -/
def ropeAll (e : VEntry) (co : Coroutine) (d a b : BitVec 5) (m : BitVec 3) : Coroutine :=
  let w := e.sew
  let va := (co.vr a).elems w
  let vb := (co.vr b).elems w
  let rs := (List.range (2048 / w / 2)).map (fun h =>
    let i := 2 * h
    if e.vstart ≤ i ∧ i + 1 < e.vl ∧ (m = 0 ∨ (co.mr m.toNat).getLsbD i) then
      some (ropePair e.rope e.frm w i (va.getD i 0) (va.getD (i + 1) 0) (vb.getD i 0))
    else none)
  (co.setV d (.ofElems w (((co.vr d).elems w).zipIdx.map (fun p =>
    match rs.getD (p.2 / 2) none with
    | some r => if p.2 % 2 = 0 then r.1.1 else r.1.2
    | none => p.1)))).raise (rs.foldl (fun f r => f ||| (match r with | some r => r.2 | none => 0)) 0)

/-- `VTOPK`: the buffer after streaming the active pairs (R372). -/
def topkStream (e : VEntry) (co : Coroutine) (a b : BitVec 5) (m : BitVec 3) : List (BitVec 32 × BitVec 32) :=
  let vb := (co.vr b).elems e.sew
  let ps := (e.actives co m (co.vr a)).map (fun p =>
    (BitVec.ofNat 32 (if e.sew = 16 then (toFloatFmt (readFloat fmtF16 p.2) fmtF32 0).1 else p.2), BitVec.ofNat 32 (vb.getD p.1 0)))
  (ps.foldl (fun l p => topkInsert p l) co.topk).take e.cap

/-- The instructions that are not elementwise and touch registers only. -/
def wholeOp (i : Instr) : Option (VEntry → Coroutine → Coroutine) :=
  match i with
  | .vcmp d a b _ _ o => some (fun e co =>
      let va := (co.vr a).elems e.sew
      let vb := (co.vr b).elems e.sew
      co.writeMask d e (fun i => vectorCond o.toNat e.sew (va.getD i 0) (vb.getD i 0)))
  | .vfcmp d a b _ _ o => some (fun e co => co.floatCompare e o.toNat d a b)
  | .vmand d a b => some (fun e co => co.writeMask d e (fun i => (co.mr a.toNat).getLsbD i && (co.mr b.toNat).getLsbD i))
  | .vmor d a b => some (fun e co => co.writeMask d e (fun i => (co.mr a.toNat).getLsbD i || (co.mr b.toNat).getLsbD i))
  | .vmxor d a b => some (fun e co => co.writeMask d e (fun i => (co.mr a.toNat).getLsbD i ^^ (co.mr b.toNat).getLsbD i))
  | .vmnot d a => some (fun e co => co.writeMask d e (fun i => !(co.mr a.toNat).getLsbD i))
  | .vmpopc d a => some (fun e co =>
      co.setX d (wordOf ((List.range e.vl).filter (fun i => (co.mr a.toNat).getLsbD i)).length))
  | .vmfirst d a => some (fun e co =>
      co.setX d (match leastBelow e.vl (fun i => (co.mr a.toNat).getLsbD i) with
        | some i => wordOf i
        | none => BitVec.allOnes 64))
  | .vmvs d a _ _ => some (fun e co =>
      co.setX d (if e.s2.toNat < vlmaxOf e.vtype then wordOfInt (sxNat ((co.vr a).elem e.s2.toNat e.sew) e.sew) else 0))
  | .vredsum d a b _ _ m => some (fun e co => intReduce e co d a b m (fun _ x y => x + y))
  | .vredmax d a b _ _ m => some (fun e co => intReduce e co d a b m (fun w x y => if sxNat x w < sxNat y w then y else x))
  | .vredmin d a b _ _ m => some (fun e co => intReduce e co d a b m (fun w x y => if sxNat x w < sxNat y w then x else y))
  | .vfredsum d a b _ _ m => some (fun e co => co.reduceTo e d (floatSum e co a b m))
  | .vfredmax d a b _ _ m => some (fun e co => co.reduceTo e d (floatExtreme e co a b m fMax))
  | .vfredmin d a b _ _ m => some (fun e co => co.reduceTo e d (floatExtreme e co a b m fMin))
  | .vslideup d a _ _ m => some (fun e co =>
      let va := (co.vr a).elems e.sew
      permute e co d m (fun i => if e.s2.toNat ≤ i then some (va.getD (i - e.s2.toNat) 0) else none))
  | .vslidedn d a _ _ m => some (fun e co =>
      let va := (co.vr a).elems e.sew
      permute e co d m (fun i => some (if i + e.s2.toNat < vlmaxOf e.vtype then va.getD (i + e.s2.toNat) 0 else 0)))
  | .vgather d a b _ _ m => some (fun e co =>
      let va := (co.vr a).elems e.sew
      let vb := (co.vr b).elems e.sew
      permute e co d m (fun i => some (if vb.getD i 0 < vlmaxOf e.vtype then va.getD (vb.getD i 0) 0 else 0)))
  | .vcompress d a _ m => some (fun e co =>
      let kept := (e.actives co m (co.vr a)).map (fun p => p.2)
      co.setV d (.ofElems e.sew (kept ++ ((co.vr d).elems e.sew).drop kept.length)))
  | .vscan d a _ m => some (fun e co =>
      let sums := scanSums e.sew (e.actives co m (co.vr a)) 0
      permute e co d m (fun i => mget sums i))
  | .vtopki _ => some (fun _ co => { co with topk := [], ku := true })
  | .vtopk a b _ _ m => some (fun e co => { co with topk := topkStream e co a b m })
  | .vtopkr d _ => some (fun e co =>
      let l := topkIndices co.topk
      permute e co d 0 (fun i => some (match l[e.s1.toNat + i]? with
        | some x => x % 2 ^ e.sew
        | none => 2 ^ e.sew - 1)))
  | .vrope d a b _ _ m => some (fun e co => ropeAll e co d a b m)
  | _ => none

/-- Whether an instruction is a whole instruction under `ESTEP.EL` or completes in one step (R278, R358). -/
def isWhole (i : Instr) : Bool :=
  match i with
  | .vredsum _ _ _ _ _ _ => true
  | .vredmax _ _ _ _ _ _ => true
  | .vredmin _ _ _ _ _ _ => true
  | .vfredsum _ _ _ _ _ _ => true
  | .vfredmax _ _ _ _ _ _ => true
  | .vfredmin _ _ _ _ _ _ => true
  | .vslideup _ _ _ _ _ => true
  | .vslidedn _ _ _ _ _ => true
  | .vgather _ _ _ _ _ _ => true
  | .vcompress _ _ _ _ => true
  | .vscan _ _ _ _ => true
  | .vtopki _ => true
  | .vtopk _ _ _ _ _ => true
  | .vtopkr _ _ => true
  | .vmpopc _ _ => true
  | .vmfirst _ _ => true
  | .vmvs _ _ _ _ => true
  | _ => false

/-- A register instruction executed: none where the entry is not one. -/
def pureOp (e : VEntry) (co : Coroutine) : Option Coroutine :=
  match vecSpec e.op with
  | some sp => some (sp.run e co)
  | none =>
    match wholeOp e.op with
    | some f => some (f e co)
    | none => none

/-- The scalar result of an instruction whose result is uniform or affine (R236). -/
def scalarPathSpec (e : VEntry) (co : Coroutine) : Option VecSpec :=
  match vecSpec e.op with
  | some sp => if sp.shape e co = .general then none else some sp
  | none => none

end Sys2Proof.Machine
end

