-- ==== Sys2Proof/Machine/VectorMem.lean ====
section
/-! DEFINITION. What a vector entry does when it accesses memory: loads and stores (R376-R381), KV accesses (R432),
and tile transfers (R382-R384). -/

namespace Sys2Proof.Machine

/-! ### Results -/

/-- Why a vector element is not performed. -/
inductive VWhy where
  /-- misaligned -/
  | align
  /-- not performed by memory -/
  | mem (f : MemFault)
  /-- a KV fault: the fault, the token of a record joined (0 when none), the handle and the position -/
  | kv (f : KvStop) (joined h : Word) (pos : Nat)
  deriving DecidableEq, Repr

/-- A stop at an element: its index, its address, why, and the position of a KV access (R261, R265). -/
structure VStop where
  elem : Nat
  va : Word
  why : VWhy
  pos : Nat
  deriving DecidableEq, Repr

/-- What executing an entry gives: the chip, the coroutine, where it stopped, the length that a `VLDFF` leaves, and the
physical ranges that its elements have written (R187). -/
structure VRun where
  chip : Chip
  co : Coroutine
  stop : Option VStop := none
  newVl : Option Nat := none
  wrote : List (Nat × Nat) := []

/-- What a run of elements gives: the chip, the bytes loaded by element, the physical bytes stored, and where it
stopped. -/
structure ElemRun where
  chip : Chip
  vals : AMap Nat
  wrote : List (Nat × Nat)
  stop : Option VStop

/-! ### Plain accesses (R377-R381) -/

/-- A vector memory instruction: its vector register, the bytes of an element, its mask field, store or load,
fault-only-first, the no-allocate and write-through hints (R208), and the O bit. -/
structure MemSpec where
  r : BitVec 5
  size : Nat
  m : BitVec 3
  store : Bool
  first : Bool
  noFill : Bool
  through : Bool
  ordered : Bool

/-- The vector memory instructions of majors 0x50 and 0x51. -/
def memSpec (i : Instr) : Option MemSpec :=
  match i with
  | .vld d _ h o _ m e => some ⟨d, 2 ^ e.toNat, m, false, false, h = 1, false, o = 1⟩
  | .vlds d _ _ o _ m e => some ⟨d, 2 ^ e.toNat, m, false, false, false, false, o = 1⟩
  | .vldx d _ _ o _ m e => some ⟨d, 2 ^ e.toNat, m, false, false, false, false, o = 1⟩
  | .vldff d _ h o _ m e => some ⟨d, 2 ^ e.toNat, m, false, true, h = 1, false, o = 1⟩
  | .vst d _ h o _ m e => some ⟨d, 2 ^ e.toNat, m, true, false, h = 1, h = 2, o = 1⟩
  | .vsts d _ _ o _ m e => some ⟨d, 2 ^ e.toNat, m, true, false, false, false, o = 1⟩
  | .vstx d _ _ o _ m e => some ⟨d, 2 ^ e.toNat, m, true, false, false, false, o = 1⟩
  | _ => none

/-- The address of an element (R377). -/
def elemAddr (e : VEntry) (co : Coroutine) (size i : Nat) : Word :=
  match e.op with
  | .vlds _ _ _ _ _ _ _ => e.s1 + wordOf i * e.s2
  | .vsts _ _ _ _ _ _ _ => e.s1 + wordOf i * e.s2
  | .vldx _ _ j _ _ _ _ => e.s1 + wordOf ((co.vr j).elem i e.sew)
  | .vstx _ _ j _ _ _ _ => e.s1 + wordOf ((co.vr j).elem i e.sew)
  | _ => e.s1 + wordOf (i * size)

/-- The active elements of an entry from its `VSTART` on. -/
def VEntry.indices (e : VEntry) (co : Coroutine) (m : BitVec 3) : List Nat :=
  (List.range e.vl).filter (fun i => e.active co m i)

/-- One element read at L2. -/
def Chip.loadElem (c : Chip) (a : Agent) (ea size : Nat) (noFill : Bool) : (VWhy ⊕ List Byte) × Chip :=
  if ea % size ≠ 0 then (.inl .align, c)
  else
    match c.xlate a ea .load false with
    | (.inl f, c) => (.inl (.mem f), c)
    | (.inr x, c) =>
      match c.readSound a.spire x size noFill with
      | (none, c) => (.inl (.mem .poison), c)
      | (some bs, c) => (.inr bs, c)

/-- Drop the line of an address from a core's own L1 (R196). -/
def Chip.dropOwnLine (c : Chip) (core asid va : Nat) : Chip :=
  if (c.core core).l1d.isEmpty then c
  else c.modCore core (fun k => { k with l1d := k.l1d.filter (fun l => !(l.asid = asid && l.vline = va / 128)) })

/-- One element written at L2, with the physical address written. Where the elements are not ordered and an earlier one
has written the same bytes, which of them the bytes end with is a free choice (R379). (DEDUCED, log entry 23.) -/
def Chip.storeElem (c : Chip) (core : Nat) (a : Agent) (ea : Nat) (bs : List Byte) (noFill through ordered : Bool)
    (seen : List Nat) : (VWhy ⊕ Nat) × Chip :=
  if ea % bs.length ≠ 0 then (.inl .align, c)
  else
    match c.xlate a ea .store false with
    | (.inl f, c) => (.inl (.mem f), c)
    | (.inr x, c) =>
      let put (c : Chip) : Chip := (c.writeL2 a.spire x bs a.key false through noFill).dropOwnLine core a.asid ea
      if !ordered && x.pol ≠ 3 && seen.contains x.pa then
        (.inr x.pa, if (drawBool c).1 then put (drawBool c).2 else (drawBool c).2)
      else (.inr x.pa, put c)

/-- Whether two addresses lie in one page: the same 2 MiB, or the same 2 GiB leaf. -/
def Chip.samePage (c : Chip) (spire asid va vb : Nat) : Bool :=
  va / 2 ^ 21 = vb / 2 ^ 21 || (va / 2 ^ 31 = vb / 2 ^ 31 &&
    (match mget c.tlb (tlbKey spire asid va) with
      | some t => t.lvl = 2
      | none => false))

/-- Whether a `VLDFF` must not name an element's page: `NS` and another page than that of its first element (R106).
(DEDUCED, log entry 23.) -/
def Chip.avoids (c : Chip) (a : Agent) (va first : Nat) : Bool :=
  !c.samePage a.spire a.asid first va &&
    (match c.probe a.spire a.asid va .load a.sup false with
      | some x => x.ns
      | none => false)

/-- Load elements in order; `first` is the address of the first active element of a `VLDFF`. `skip`: a faulting
element is discarded and the rest goes on (R404). (DEDUCED, log entry 23.) -/
def Chip.loadElems (c : Chip) (a : Agent) (e : VEntry) (co : Coroutine) (sp : MemSpec) (first : Option Nat) (skip : Bool)
    (is : List Nat) : ElemRun :=
  match is with
  | [] => ⟨c, [], [], none⟩
  | i :: r =>
    let ea := (elemAddr e co sp.size i).toNat
    let ns := match first with
      | some f => f ≠ ea && c.avoids a ea f
      | none => false
    if ns then ⟨c, [], [], some ⟨i, wordOf ea, .align, 0⟩⟩
    else
      match c.loadElem a ea sp.size sp.noFill with
      | (.inl why, c') => if skip then Chip.loadElems c' a e co sp first skip r else ⟨c', [], [], some ⟨i, wordOf ea, why, 0⟩⟩
      | (.inr bs, c') =>
        let t := Chip.loadElems c' a e co sp first skip r
        { t with vals := mset t.vals i (leNat bs) }

/-- Store elements; `seen` are the addresses that earlier ones have written. (DEDUCED, log entry 23.) -/
def Chip.storeElems (c : Chip) (core : Nat) (a : Agent) (e : VEntry) (co : Coroutine) (sp : MemSpec) (skip : Bool)
    (seen : List Nat) (is : List Nat) : ElemRun :=
  match is with
  | [] => ⟨c, [], [], none⟩
  | i :: r =>
    let ea := (elemAddr e co sp.size i).toNat
    match c.storeElem core a ea (leBytes sp.size ((co.vr sp.r).elem i e.sew)) sp.noFill sp.through sp.ordered seen with
    | (.inl why, c') => if skip then Chip.storeElems c' core a e co sp skip seen r else ⟨c', [], [], some ⟨i, wordOf ea, why, 0⟩⟩
    | (.inr pa, c') =>
      let t := Chip.storeElems c' core a e co sp skip (pa :: seen) r
      { t with wrote := (pa, sp.size) :: t.wrote }

/-- Whether some physical ranges cover every byte of a line. -/
def coversLine (ws : List (Nat × Nat)) (line : Nat) : Bool :=
  (List.range 128).all (fun o => ws.any (fun v => v.1 ≤ 128 * line + o && 128 * line + o < v.1 + v.2))

/-- Clear the poison of the lines that one instruction's stores have covered, in this run and its earlier ones: `ws` are all
its writes, `new` those of this run (R187). (DEDUCED, log entry 23.) -/
def Chip.clearCovered (c : Chip) (ws new : List (Nat × Nat)) : Chip :=
  new.foldl (fun c w => if c.poisoned (lineOf w.1) && coversLine ws (lineOf w.1) then c.clearPoison (lineOf w.1) else c) c

/-- A register with loaded elements written: general (R230, R231). -/
def VReg.withElems (v : VReg) (w : Nat) (vals : AMap Nat) : VReg :=
  .ofElems w ((v.elems w).zipIdx.map (fun p => match mget vals p.2 with | some x => x % 2 ^ w | none => p.1))

/-- What a run of stores gives: the poison of the lines that the instruction has covered is cleared. -/
def ElemRun.stored (t : ElemRun) (co : Coroutine) (e : VEntry) : VRun :=
  { chip := t.chip.clearCovered (e.wrote ++ t.wrote) t.wrote, co := co, stop := t.stop, wrote := t.wrote }

/-- A coroutine with the elements that a load has committed: the register goes general with the first of them, or where the
load completes (R230, R231). -/
def Coroutine.loaded (co : Coroutine) (d : BitVec 5) (e : VEntry) (t : ElemRun) : Coroutine :=
  if t.vals.isEmpty && t.stop.isSome then co else co.setV d ((co.vr d).withElems e.sew t.vals)

/-- Execute a vector memory entry of a coroutine. -/
def MemSpec.run (sp : MemSpec) (c : Chip) (key : Nat) (co : Coroutine) (e : VEntry) (skip : Bool) : VRun :=
  let a := { co.agent key with asid := e.asid, sup := e.sup }
  let is := e.indices co sp.m
  if sp.store then (c.storeElems (key / 256) a e co sp skip [] is).stored co e
  else
    let first := if sp.first then (is.head?.map (fun i => (elemAddr e co sp.size i).toNat)) else none
    let t := c.loadElems a e co sp first skip is
    let co' := co.loaded sp.r e t
    match t.stop with
    | none => { chip := t.chip, co := co' }
    | some s =>
      if sp.first && is.head? ≠ some s.elem then { chip := t.chip, co := { co' with vl := s.elem }, newVl := some s.elem }
      else { chip := t.chip, co := co', stop := some s }

/-! ### Scale registers (R376) -/

/-- Load scale registers from element `j` on, `n` of them left. -/
def Chip.loadScales (c : Chip) (a : Agent) (e : VEntry) (k : Nat) (skip : Bool) (n j : Nat) (co : Coroutine) :
    Chip × Coroutine × Option VStop :=
  match n with
  | 0 => (c, { co with k := co.kregs, su := true }, none)
  | m + 1 =>
    let ea := (e.s1 + wordOf j * e.s2).toNat
    match c.loadElem a ea 2 false with
    | (.inl why, c') => if skip then Chip.loadScales c' a e k skip m (j + 1) co else (c', co, some ⟨j, wordOf ea, why, 0⟩)
    | (.inr bs, c') => Chip.loadScales c' a e k skip m (j + 1) (co.setK (2 * k + j) (BitVec.ofNat 16 (leNat bs)))

/-- Store scale registers from element `j` on, `n` of them left. -/
def Chip.storeScales (c : Chip) (core : Nat) (a : Agent) (e : VEntry) (k : Nat) (skip : Bool) (n j : Nat) (co : Coroutine) :
    Chip × List (Nat × Nat) × Option VStop :=
  match n with
  | 0 => (c, [], none)
  | m + 1 =>
    let ea := (e.s1 + wordOf j * e.s2).toNat
    match c.storeElem core a ea (leBytes 2 (co.kr (2 * k + j)).toNat) false false true [] with
    | (.inl why, c') => if skip then Chip.storeScales c' core a e k skip m (j + 1) co else (c', [], some ⟨j, wordOf ea, why, 0⟩)
    | (.inr pa, c') =>
      let t := Chip.storeScales c' core a e k skip m (j + 1) co
      (t.1, (pa, 2) :: t.2.1, t.2.2)

/-- Execute `VSCLD` (`load`) or `VSCST` for the first register `k`(2 × `k`). -/
def scaleRun (load : Bool) (k : Nat) (c : Chip) (key : Nat) (co : Coroutine) (e : VEntry) (skip : Bool) : VRun :=
  let a := { co.agent key with asid := e.asid, sup := e.sup }
  let n := Nat.min e.vl (64 - 2 * k) - e.vstart
  if load then
    let r := c.loadScales a e k skip n e.vstart co
    { chip := r.1, co := r.2.1, stop := r.2.2 }
  else
    let r := c.storeScales (key / 256) a e k skip n e.vstart co
    { chip := r.1.clearCovered (e.wrote ++ r.2.1) r.2.1, co := co, stop := r.2.2, wrote := r.2.1 }

/-! ### KV accesses (R432) -/

/-- Load KV elements in order. -/
def Chip.kvLoads (c : Chip) (spire : Nat) (ds : Desc) (frame : Nat) (h : Word) (pos : Nat) (half skip : Bool) (is : List Nat) : ElemRun :=
  match is with
  | [] => ⟨c, [], [], none⟩
  | i :: r =>
    let pa := ds.elemAt frame h pos i half
    if ds.dim ≤ i then
      (if skip then Chip.kvLoads c spire ds frame h pos half skip r
        else ⟨c, [], [], some ⟨i, h, .kv ⟨kvCoord, false⟩ 0 h pos, pos⟩⟩)
    else
      match c.readSound spire (kvXlat pa) ds.es false with
      | (none, c) =>
        (if skip then Chip.kvLoads c spire ds frame h pos half skip r
          else ⟨c, [], [], some ⟨i, wordOf pa, .mem .poison, pos⟩⟩)
      | (some bs, c) =>
        let t := Chip.kvLoads c spire ds frame h pos half skip r
        { t with vals := mset t.vals i (leNat bs) }

/-- Store KV elements in order. -/
def Chip.kvStores (c : Chip) (key : Nat) (ds : Desc) (frame : Nat) (h : Word) (pos : Nat) (half skip : Bool) (v : VReg)
    (is : List Nat) : ElemRun :=
  match is with
  | [] => ⟨c, [], [], none⟩
  | i :: r =>
    let pa := ds.elemAt frame h pos i half
    if ds.dim ≤ i then
      (if skip then Chip.kvStores c key ds frame h pos half skip v r
        else ⟨c, [], [], some ⟨i, h, .kv ⟨kvCoord, false⟩ 0 h pos, pos⟩⟩)
    else
      let c := c.writeL2 (spireOf (key / 256)) (kvXlat pa) (leBytes ds.es (v.elem i (8 * ds.es))) (some key) false false false
      let t := Chip.kvStores c key ds frame h pos half skip v r
      { t with wrote := (pa, ds.es) :: t.wrote }

/-- Execute a KV access: the walk at the first active element, then the elements. -/
def kvRun (d : BitVec 5) (m : BitVec 3) (half store : Bool) (c : Chip) (key : Nat) (co : Coroutine) (e : VEntry) (skip : Bool) : VRun :=
  let h := e.s1
  let pos := e.s2.toNat
  let cl := key / 1024
  match e.indices co m with
  | [] => { chip := c, co := if store then co else co.setV d (co.vr d).expand }
  | i :: r =>
    match (if co.sup then none else c.kvRecordFor cl h pos) with
    | some k =>
      if skip then { chip := c, co := co }
      else { chip := c, co := co, stop := some ⟨i, h, .kv ⟨k.kind, false⟩ (c.tokenOf (spireOfCluster cl) k.fbi) h pos, pos⟩ }
    | none =>
      match c.kvWalk cl h pos e.asid with
      | (.inl f, c) => if skip then { chip := c, co := co } else { chip := c, co := co, stop := some ⟨i, h, .kv f 0 h pos, pos⟩ }
      | (.inr (frame, ds), c) =>
        if store then (c.kvStores key ds frame h pos half skip (co.vr d) (i :: r)).stored co e
        else
          let t := c.kvLoads (spireOf (key / 256)) ds frame h pos half skip (i :: r)
          { chip := t.chip, co := co.loaded d e t, stop := t.stop }

/-! ### Tile transfers (R382-R384) -/

/-- A value whose NaN signals nothing. -/
def FNum.quiet (v : FNum) : FNum := if v.isNaN then .nan false false else v

/-- A scale register's value by the scale kind of a `VTYPE`; a NaN scale raises nothing by itself (R317). -/
def scaleValue (vtype : Nat) (k : BitVec 16) : FNum :=
  if bit vtype 5 then (readFloat fmtB16 k.toNat).quiet
  else if bits k.toNat 15 8 = 255 then .nan false false
  else .fin ⟨false, 1, ((bits k.toNat 15 8 : Nat) : Int) - 127, false⟩

/-- The scale of element `i` under a captured `VTYPE`: 1 where there are no blocks. -/
def scaleOf (vtype : Nat) (ks : Vector (BitVec 16) 64) (i : Nat) : FNum :=
  if blkOf vtype = 0 then .fin (.ofInt 1) else scaleValue vtype (ks.getD (i / 2 ^ blkOf vtype) 0)

/-- Whether a format code is one of the signed integer formats, whose codes are moved sign-extended. -/
def signedCode (f : Nat) : Bool := f = 21 || f = 10 || f = 12 || f = 14 || f = 16

/-- A tile element as it is loaded into an element of `w` bits (R383). -/
def tileLoad (f w code : Nat) (sigma : FNum) : Nat × Flags :=
  match floatFmt f with
  | some ff =>
    let p := fMul (readFloat ff code) sigma
    let r := toFloatFmt p.1 (sewFmt w) 0
    (r.1, p.2 ||| r.2)
  | none => if signedCode f then (wrapInt w (sxNat code (fmtWidth f)), 0) else (code % 2 ^ w, 0)

/-- An element of `w` bits as it is stored into a tile (R383); a NaN keeps its sign for the target rules of R316. -/
def tileStore (f w a : Nat) (sigma : FNum) : Nat × Flags :=
  match floatFmt f with
  | some ff =>
    let v := readFloat (sewFmt w) a
    let p := if v.isNaN then (v, 0) else fDiv v sigma
    let r := toFloatFmt p.1 ff 0
    (r.1, p.2 ||| r.2)
  | none => (a % 2 ^ fmtWidth f, 0)

/-- Operand code of a captured prefix: position a, b or d; 0 without one. -/
def pfxA (p : Option IWord) : Nat := match p with | some w => bits w.toNat 24 20 | none => 0
/-- Code b. -/
def pfxB (p : Option IWord) : Nat := match p with | some w => bits w.toNat 19 15 | none => 0
/-- Code d. -/
def pfxD (p : Option IWord) : Nat := match p with | some w => bits w.toNat 14 10 | none => 0

/-- A code where it is not 0, else another. -/
def orCode (p f : Nat) : Nat := if p = 0 then f else p

/-- Whether the bytes of a tile element touch a poisoned line (R266). -/
def Chip.tilePoison (c : Chip) (base rs w r k : Nat) : Bool := c.anyPoison (base + r * rs + k * w / 8) (elemSpan w k)

/-- A row or column of a tile loaded into a vector register, up to an element in a poisoned line (R266, R382). -/
def tileLoadRun (d : BitVec 5) (t : BitVec 5) (m : BitVec 3) (column : Bool) (c : Chip) (key : Nat) (co : Coroutine) (e : VEntry)
    (skip : Bool) : VRun :=
  let p := co.tbase + t.toNat
  let tl := (c.cluster (key / 1024)).tile p
  let f := orCode (pfxA e.pfx) tl.fmt
  let w := fmtWidth tl.fmt
  let base := tileBase (key / 1024) p
  let at_ := fun i => if column then (i, e.s2.toNat) else (e.s2.toNat, i)
  let is := e.indices co m
  let bad := if skip then none else is.find? (fun i => c.tilePoison base tl.stride w (at_ i).1 (at_ i).2)
  let done := match bad with
    | some b => is.filter (fun i => i < b)
    | none => is
  let rs := done.map (fun i => (i, tileLoad f e.sew (tileElem c.mem base tl.stride w (at_ i).1 (at_ i).2) (scaleOf e.vtype co.kregs i)))
  let stop := bad.map (fun b => (⟨b, wordOf (base + (at_ b).1 * tl.stride + (at_ b).2 * w / 8), .mem .poison, 0⟩ : VStop))
  { chip := c
    co := (co.loaded d e ⟨c, rs.map (fun q => (q.1, q.2.1)), [], stop⟩).raise (rs.foldl (fun fl q => fl ||| q.2.2) 0)
    stop := stop }

/-- A vector register stored into a row of a tile. -/
def tileStoreRun (d : BitVec 5) (t : BitVec 5) (m : BitVec 3) (c : Chip) (key : Nat) (co : Coroutine) (e : VEntry) : VRun :=
  let p := co.tbase + t.toNat
  let tl := (c.cluster (key / 1024)).tile p
  let f := orCode (pfxA e.pfx) tl.fmt
  let base := tileBase (key / 1024) p
  let rs := (e.indices co m).map (fun i => (i, tileStore f e.sew ((co.vr d).elem i e.sew) (scaleOf e.vtype co.kregs i)))
  { chip := { c with mem := rs.foldl (fun mm q => setTileElem mm base tl.stride (fmtWidth tl.fmt) e.s2.toNat q.1 q.2.1) c.mem }
    co := co.raise (rs.foldl (fun fl q => fl ||| q.2.2) 0) }

/-! ### Order against scalar accesses (R107, R195, R196) -/

/-- Whether a vector instruction has its N bit set: no later scalar access is performed before it (R195). -/
def nBit (i : Instr) : Bool :=
  match i with
  | .vld _ _ _ _ n _ _ => n = 1
  | .vlds _ _ _ _ n _ _ => n = 1
  | .vldx _ _ _ _ n _ _ => n = 1
  | .vldff _ _ _ _ n _ _ => n = 1
  | .vst _ _ _ _ n _ _ => n = 1
  | .vsts _ _ _ _ n _ _ => n = 1
  | .vstx _ _ _ _ n _ _ => n = 1
  | .vldkv _ _ _ _ n _ _ => n = 1
  | .vstkv _ _ _ _ n _ _ => n = 1
  | _ => false

/-- Whether a queued instruction accesses an uncached-device page, in any element that its range reaches (R107). The index
register of one that other entries come before is not known yet: it counts as one that does. (DEDUCED, log entry 23.) -/
def Chip.entryDevice (c : Chip) (key : Nat) (co : Coroutine) (e : VEntry) : Bool :=
  let a := { co.agent key with asid := e.asid, sup := e.sup }
  let some_ := fun (l : List Word) (k : Acc) => l.any (fun ea => c.toDevice a ea.toNat k)
  match memSpec e.op with
  | some sp =>
    let known := match e.op with
      | .vldx _ _ _ _ _ _ _ | .vstx _ _ _ _ _ _ _ => ((c.core (key / 256)).vq.filter (fun q => q.slot = key % 256)).head? = some e
      | _ => true
    !known || some_ (((List.range e.vl).filter (fun i => e.vstart ≤ i)).map (elemAddr e co sp.size)) (if sp.store then .store else .load)
  | none =>
    match e.op with
    | .vscld k _ _ =>
      some_ (((List.range (Nat.min e.vl (64 - 2 * k.toNat))).filter (fun j => e.vstart ≤ j)).map (fun j => e.s1 + wordOf j * e.s2)) .load
    | .vscst k _ _ =>
      some_ (((List.range (Nat.min e.vl (64 - 2 * k.toNat))).filter (fun j => e.vstart ≤ j)).map (fun j => e.s1 + wordOf j * e.s2)) .store
    | _ => false

/-- Whether a scalar access waits for a queued vector instruction: one with its N bit set, or one that accesses an
uncached-device page (R195, R196). -/
def Chip.behindN (c : Chip) (key : Nat) : Bool :=
  (c.core (key / 256)).vq.any (fun e => e.slot = key % 256 && (nBit e.op || c.entryDevice key (c.coD key) e))

/-! ### Entries -/

/-- Execute an entry that has no scoreboard wait; a `MOPA` is not one of them. -/
def runEntry (c : Chip) (key : Nat) (co : Coroutine) (e : VEntry) (skip : Bool) : VRun :=
  match pureOp e co with
  | some co' => { chip := c, co := co' }
  | none =>
    match memSpec e.op with
    | some sp => sp.run c key co e skip
    | none =>
      match e.op with
      | .vscld k _ _ => scaleRun true k.toNat c key co e skip
      | .vscst k _ _ => scaleRun false k.toNat c key co e skip
      | .vldkv d _ _ _ _ m h => kvRun d m (h = 1) false c key co e skip
      | .vstkv d _ _ _ _ m h => kvRun d m (h = 1) true c key co e skip
      | .vldt d t _ m => tileLoadRun d t m false c key co e skip
      | .vldtt d t _ m => tileLoadRun d t m true c key co e skip
      | .vstt d t _ m => tileStoreRun d t m c key co e
      | _ => { chip := c, co := co }

end Sys2Proof.Machine
end

