-- ==== Sys2Proof/Machine/ScalarMem.lean ====
section
/-! DEFINITION. Scalar loads and stores (R335-R337), `PREF` (R338), `LDAQ` (R339) and `SDRL` (R340). -/

namespace Sys2Proof.Machine

/-- Whether an access crosses a 2 MiB boundary (R336). -/
def crosses (ea : Word) (n : Nat) : Bool := ea.toNat / 2 ^ 21 ≠ (ea + wordOf (n - 1)).toNat / 2 ^ 21

/-- The trap of a scalar access that is not performed, by cause and `FINFO.ACC` (R261, R262). -/
def scalarTrap (co : Coroutine) (cause : Nat) (ea : Word) (acc : Nat) : Trap :=
  ⟨cause, co.pc, ea, 0, acc, false, 0, 0, 0, 0, 0, co.asid⟩

/-- A plain load of `n` bytes, extended by `ext` (R335-R337). -/
def loadBody (n : Nat) (ext : Nat → Word) (d a : BitVec 5) (i : BitVec 15) : WordBody :=
  fun c key co =>
    let ea := effAddr co a i
    if c.behindN key then .stall
    else if crosses ea n then trapB c key co causeAlign ea
    else
      match c.scalarLoad key co ea.toNat n false with
      | (.wait, _) => .stall
      | (.fail f, c') => faultB c c' key f (scalarTrap co causeLpf ea 2)
      | (.bytes v, c') => .retire (c'.setCo key (co.setX d (ext v)).advance)

/-- A store enters the store buffer and retires (R197). -/
def pushStore (c : Chip) (key : Nat) (co : Coroutine) (ea : Word) (data n : Nat) (release : Bool) (scope : Nat) : Issue :=
  if 32 ≤ (c.core (key / 256)).sb.length then .stall
  else .retire ((c.modCore (key / 256) (fun k => { k with
    sb := k.sb ++ [⟨key % 256, ea.toNat, data % 256 ^ n, n, release, scope, co.asid, co.sup⟩] })).setCo key co.advance)

/-- A plain store of the low `n` bytes of x[d] (R335-R337). -/
def storeBody (n : Nat) (d a : BitVec 5) (i : BitVec 15) : WordBody :=
  fun c key co =>
    let ea := effAddr co a i
    if c.behindN key then .stall
    else if crosses ea n then trapB c key co causeAlign ea
    else pushStore c key co ea (co.xr d).toNat n false 0

/-- `LB`: a sign-extended byte (R335). -/
def execLb (d a : BitVec 5) (i : BitVec 15) (s : State) : Host.Outcome State Fault Refusal :=
  runWord false (loadBody 1 (fun v => wordOfInt (sxNat v 8)) d a i) s

/-- `LBU`: a zero-extended byte (R335). -/
def execLbu (d a : BitVec 5) (i : BitVec 15) (s : State) : Host.Outcome State Fault Refusal :=
  runWord false (loadBody 1 wordOf d a i) s

/-- `LH`: a sign-extended half-word (R335). -/
def execLh (d a : BitVec 5) (i : BitVec 15) (s : State) : Host.Outcome State Fault Refusal :=
  runWord false (loadBody 2 (fun v => wordOfInt (sxNat v 16)) d a i) s

/-- `LHU`: a zero-extended half-word (R335). -/
def execLhu (d a : BitVec 5) (i : BitVec 15) (s : State) : Host.Outcome State Fault Refusal :=
  runWord false (loadBody 2 wordOf d a i) s

/-- `LW`: a sign-extended word (R335). -/
def execLw (d a : BitVec 5) (i : BitVec 15) (s : State) : Host.Outcome State Fault Refusal :=
  runWord false (loadBody 4 (fun v => wordOfInt (sxNat v 32)) d a i) s

/-- `LWU`: a zero-extended word (R335). -/
def execLwu (d a : BitVec 5) (i : BitVec 15) (s : State) : Host.Outcome State Fault Refusal :=
  runWord false (loadBody 4 wordOf d a i) s

/-- `LD`: 8 bytes (R335). -/
def execLd (d a : BitVec 5) (i : BitVec 15) (s : State) : Host.Outcome State Fault Refusal :=
  runWord false (loadBody 8 wordOf d a i) s

/-- `SB`: the low byte of x[d] (R335). -/
def execSb (d a : BitVec 5) (i : BitVec 15) (s : State) : Host.Outcome State Fault Refusal :=
  runWord false (storeBody 1 d a i) s

/-- `SH`: the low half-word of x[d] (R335). -/
def execSh (d a : BitVec 5) (i : BitVec 15) (s : State) : Host.Outcome State Fault Refusal :=
  runWord false (storeBody 2 d a i) s

/-- `SW`: the low word of x[d] (R335). -/
def execSw (d a : BitVec 5) (i : BitVec 15) (s : State) : Host.Outcome State Fault Refusal :=
  runWord false (storeBody 4 d a i) s

/-- `SD`: the 8 bytes of x[d] (R335). -/
def execSd (d a : BitVec 5) (i : BitVec 15) (s : State) : Host.Outcome State Fault Refusal :=
  runWord false (storeBody 8 d a i) s

/-! ### Prefetch -/

/-- The effect of a prefetch: a translation as a read, and the line brought to the slice or the L1, or, for kind 2, an exclusive
copy that nothing has written yet; dropped where R338 drops it. -/
def Chip.prefetch (c : Chip) (key : Nat) (co : Coroutine) (kind ea : Nat) : Chip :=
  match c.xlate (co.agent key) ea .load false with
  | (.inl _, c') => c'
  | (.inr x, c') =>
    let spire := spireOf (key / 256)
    let c' := c'.wakeSpire x.home
    if inWindow (c'.residentPa x.pa) || x.ns || 2 ≤ x.pol then c'
    else if kind = 2 ∧ x.cls = clsPkg ∧ x.home ≠ spire ∧ (c'.probe spire co.asid ea .store co.sup false).isSome then
      c'.lineForWrite spire x (lineOf x.pa) 3 false
    else
      let c' := c'.lineForRead spire x (lineOf x.pa) 3 false
      if kind = 0 ∧ !c'.poisoned (lineOf x.pa) then c'.fillL1 (key / 256) co.asid ea x else c'

/-- `PREF`: asks for a line; no register and no memory contents change (R338). -/
def execPref (k a : BitVec 5) (i : BitVec 15) (s : State) : Host.Outcome State Fault Refusal :=
  runWord false (fun c key co =>
    .retire ((c.prefetch key co k.toNat (effAddr co a i).toNat).setCo key co.advance)) s

/-! ### Acquire loads and release stores -/

/-- The effective address of `LDAQ` and `SDRL`: a 12-bit signed offset (R339). -/
def effAddr12 (co : Coroutine) (a : BitVec 5) (i : BitVec 12) : Word := co.xr a + simm i

/-- `LDAQ`: an acquire load of 8 bytes at a scope (R339). -/
def execLdaq (d a : BitVec 5) (sc : BitVec 3) (i : BitVec 12) (s : State) : Host.Outcome State Fault Refusal :=
  runWord false (fun c key co =>
    let ea := effAddr12 co a i
    let wide := decide (2 ≤ sc.toNat)
    if c.behindN key then .stall
    else if ea.toNat % 8 ≠ 0 then trapB c key co causeAlign ea
    else if wide && (c.buffered (key / 256) (key % 256) co.asid ea.toNat 8).isSome then .stall
    else
      match c.scalarLoad key co ea.toNat 8 wide with
      | (.wait, _) => .stall
      | (.fail f, c') => faultB c c' key f (scalarTrap co causeLpf ea 2)
      | (.bytes v, c') =>
        .retire ((if wide then c'.acquireL1 (key / 256) else c').setCo key (co.setX d (wordOf v)).advance)) s

/-- `SDRL`: a release store of the 8 bytes of x[d] at a scope (R340). At scope 0 it waits in the core for the older
stores; otherwise it is held invisible in the buffer until they are accepted (R198). -/
def execSdrl (d a : BitVec 5) (sc : BitVec 3) (i : BitVec 12) (s : State) : Host.Outcome State Fault Refusal :=
  runWord false (fun c key co =>
    let ea := effAddr12 co a i
    if c.behindN key then .stall
    else if ea.toNat % 8 ≠ 0 then trapB c key co causeAlign ea
    else if sc = 0 ∧ c.storesPending key then .stall
    else pushStore c key co ea (co.xr d).toNat 8 true sc.toNat) s

end Sys2Proof.Machine
end

