-- ==== Sys2Proof/Machine/VectorQueue.lean ====
section
/-! DEFINITION. The queues behind the front end: a buffered store accepted or faulted (R197-R199), and a vector entry
completed, stopped at its trap point, or stepped by element group (R235, R263, R278). -/

namespace Sys2Proof.Machine

/-- The vector registers that an instruction reads or writes (R236). -/
def vectorRegs (i : Instr) : List (BitVec 5) :=
  match i with
  | .vadd d a b _ _ _ => [d, a, b]
  | .vsub d a b _ _ _ => [d, a, b]
  | .vmul d a b _ _ _ => [d, a, b]
  | .vmulh d a b _ _ _ => [d, a, b]
  | .vmac d a b _ _ _ => [d, a, b]
  | .vmin d a b _ _ _ => [d, a, b]
  | .vmax d a b _ _ _ => [d, a, b]
  | .vminu d a b _ _ _ => [d, a, b]
  | .vmaxu d a b _ _ _ => [d, a, b]
  | .vsadd d a b _ _ _ => [d, a, b]
  | .vssub d a b _ _ _ => [d, a, b]
  | .vabs d a _ _ => [d, a]
  | .vand d a b _ _ _ => [d, a, b]
  | .vor d a b _ _ _ => [d, a, b]
  | .vxor d a b _ _ _ => [d, a, b]
  | .vsll d a b _ _ _ => [d, a, b]
  | .vsrl d a b _ _ _ => [d, a, b]
  | .vsra d a b _ _ _ => [d, a, b]
  | .vcmp _ a b _ _ _ => [a, b]
  | .vmerge d a b _ _ _ => [d, a, b]
  | .vredsum d a b _ _ _ => [d, a, b]
  | .vredmax d a b _ _ _ => [d, a, b]
  | .vredmin d a b _ _ _ => [d, a, b]
  | .vslideup d a _ _ _ => [d, a]
  | .vslidedn d a _ _ _ => [d, a]
  | .vgather d a b _ _ _ => [d, a, b]
  | .vcompress d a _ _ => [d, a]
  | .vscan d a _ _ => [d, a]
  | .vtopk a b _ _ _ => [a, b]
  | .vtopkr d _ => [d]
  | .vmvx d _ _ => [d]
  | .vmvs _ a _ _ => [a]
  | .vid d _ => [d]
  | .vshape d a _ _ => [d, a]
  | .vfadd d a b _ _ _ => [d, a, b]
  | .vfsub d a b _ _ _ => [d, a, b]
  | .vfmul d a b _ _ _ => [d, a, b]
  | .vfma d a b _ _ _ => [d, a, b]
  | .vfnma d a b _ _ _ => [d, a, b]
  | .vfmin d a b _ _ _ => [d, a, b]
  | .vfmax d a b _ _ _ => [d, a, b]
  | .vfdiv d a b _ _ _ => [d, a, b]
  | .vfsqrt d a _ _ => [d, a]
  | .vfrsq d a _ _ => [d, a]
  | .vfexp2 d a _ _ => [d, a]
  | .vfsgn d a b _ _ _ => [d, a, b]
  | .vfcmp _ a b _ _ _ => [a, b]
  | .vfcvt d a _ _ _ => [d, a]
  | .vfredsum d a b _ _ _ => [d, a, b]
  | .vfredmax d a b _ _ _ => [d, a, b]
  | .vfredmin d a b _ _ _ => [d, a, b]
  | .vrope d a b _ _ _ => [d, a, b]
  | .vld d _ _ _ _ _ _ => [d]
  | .vlds d _ _ _ _ _ _ => [d]
  | .vldx d _ s _ _ _ _ => [d, s]
  | .vldff d _ _ _ _ _ _ => [d]
  | .vst d _ _ _ _ _ _ => [d]
  | .vsts d _ _ _ _ _ _ => [d]
  | .vstx d _ s _ _ _ _ => [d, s]
  | .vldt d _ _ _ => [d]
  | .vstt d _ _ _ => [d]
  | .vldtt d _ _ _ => [d]
  | .vldkv d _ _ _ _ _ _ => [d]
  | .vstkv d _ _ _ _ _ _ => [d]
  | .mopa _ a b _ _ _ => [a, b]
  | _ => []

/-! ### The store buffer -/

/-- The stores of a coroutine in its core's buffer, oldest first. -/
def Chip.storesOf (c : Chip) (key : Nat) : List Store := (c.core (key / 256)).sb.filter (fun s => s.slot = key % 256)

/-- The vector entries of a coroutine in its core's queue, oldest first. -/
def Chip.entriesOf (c : Chip) (key : Nat) : List VEntry := (c.core (key / 256)).vq.filter (fun e => e.slot = key % 256)

/-- Whether a remote write of a coroutine is unacknowledged (R191, scope 5). -/
def Chip.remoteUnacked (c : Chip) (key : Nat) : Bool :=
  (c.coD key).remote.any (fun id => c.clusters.any (fun e => e.2.netQ.any (fun q => q.cmd.id = id)))

/-- Whether a store waits for earlier stores of its coroutine: for one that shares a byte, a release for all of them, at pod
scope for its remote writes too, and a store to an uncached-device page for those to such pages (R107, R189, R191, R198). -/
def Chip.storeWaits (c : Chip) (key : Nat) (earlier : List Store) (s : Store) : Bool :=
  earlier.any (fun t => s.release || t.overlaps s.slot s.asid s.va s.size)
    || (s.release && s.scope = 5 && c.remoteUnacked key)
    || (!earlier.isEmpty && c.storesDevice (key / 256) s && earlier.any (fun t => c.storesDevice (key / 256) t))

/-- Remove an entry of a core's store buffer. -/
def Chip.dropStore (c : Chip) (core idx : Nat) : Chip := c.modCore core (fun k => { k with sb := dropAt k.sb idx })

/-- A buffered store translated and accepted; a store of an exited coroutine that faults is discarded (R213). Nothing
happens to a store that must wait, or that faults (`STORE_FAULT`). (DESIGN CHOICE, log entry 49.) -/
def Chip.acceptStore (c : Chip) (core idx : Nat) : Chip :=
  match (c.core core).sb[idx]? with
  | none => c
  | some s =>
    let key := coKey core s.slot
    if c.storeWaits key (((c.core core).sb.take idx).filter (fun t => t.slot = s.slot)) s then c
    else
      match c.performStore core (c.coD key) s with
      | (none, c') => (c'.dropStore core idx).settleDue key
      | (some _, c') => if (c.coD key).state = .exited then c'.dropStore core idx else c

/-! ### Trap points with a block (R238, R263) -/

/-- A coroutine's buffered stores leave its core for its pending-store list (R199). -/
def Chip.gatherStores (c : Chip) (key : Nat) : Chip :=
  (c.modCo key (fun co => { co with pend := co.pend ++ c.storesOf key })).modCore (key / 256)
    (fun k => { k with sb := k.sb.filter (fun s => s.slot ≠ key % 256) })

/-- A coroutine's queued entries leave its core for its opaque block; the first has come to element `elem` (R238, R263). -/
def Chip.gatherEntries (c : Chip) (key : Nat) (elem : Nat) : Chip :=
  if (c.entriesOf key).isEmpty then c
  else (c.modCo key (fun co => { co with block := co.block ++ c.entriesOf key, vstart := elem })).modCore (key / 256)
    (fun k => { k with vq := k.vq.filter (fun e => e.slot ≠ key % 256) })

/-- `FINFO.ACC` of a vector instruction (R261). -/
def vectorAcc (i : Instr) : Nat :=
  match i with
  | .vst _ _ _ _ _ _ _ => 6
  | .vsts _ _ _ _ _ _ _ => 6
  | .vstx _ _ _ _ _ _ _ => 6
  | .vscst _ _ _ => 6
  | .vldkv _ _ _ _ _ _ _ => 7
  | .vstkv _ _ _ _ _ _ _ => 8
  | .vldt _ _ _ _ => 9
  | .vldtt _ _ _ _ => 9
  | .vstt _ _ _ _ => 9
  | _ => 5

/-- The trap of a vector element at its trap point (R261, R263, R265). -/
def vectorTrap (co : Coroutine) (e : VEntry) (s : VStop) : Trap :=
  ⟨causeVpf, co.pc, s.va, 0, vectorAcc e.op, true, s.elem, s.pos, wordOf s.pos, e.pc, 0, e.asid⟩

/-- What the oldest entry of a coroutine has written so far is kept with it (R187). -/
def Chip.noteWrites (c : Chip) (key : Nat) (ws : List (Nat × Nat)) : Chip :=
  if ws.isEmpty then c
  else c.modCore (key / 256) (fun k => match k.vq with
    | [] => k
    | e :: r => { k with vq := { e with wrote := e.wrote ++ ws } :: r })

/-- Whether an element stops because its coroutine would travel. -/
def VStop.travels (s : VStop) : Bool :=
  match s.why with
  | .mem f => f.travels
  | _ => false

/-- A trap already taken whose trap point now holds a block (R264). -/
def Due.withBlock (d : Due) (elem : Nat) (vpc : Word) : Due :=
  match d with
  | .trap t flags => .trap { t with vec := true, elem := elem, vpc := vpc } flags
  | .join t => .join { t with vec := true, elem := elem, vpc := vpc }

/-- An entry stops at an element: the lower elements are in `r`, and it and the younger entries leave for the opaque block.
The coroutine takes its trap, joins or hops; where it has taken a trap before, that keeps its cause and the element opens no
record (R263, R264). A hop waits for the older stores (R170). `c` is the chip before the entry ran. -/
def Chip.stopEntry (c : Chip) (key : Nat) (co : Coroutine) (e : VEntry) (r : VRun) (s : VStop) : Chip :=
  match co.due with
  | some d =>
    ((((r.chip.setCo key { r.co with due := some (d.withBlock s.elem e.pc) }).noteWrites key r.wrote).gatherEntries key s.elem).settlePool key
      ((vectorRegs e.op).map BitVec.toNat)).settleDue key
  | none =>
    if s.travels && c.storesPending key then c
    else
      let t := vectorTrap r.co e s
      let c := (((r.chip.setCo key r.co).noteWrites key r.wrote).gatherEntries key s.elem).settlePool key
        ((vectorRegs e.op).map BitVec.toNat)
      match s.why with
      | .align => c.trap key { t with cause := causeAlign }
      | .mem f => c.memTrap key f t
      | .kv f joined h pos => c.kvTrap key f joined h pos t

/-- A buffered store faults, once it is its coroutine's oldest: it and the younger stores leave for the pending-store list,
and the coroutine takes `SPF`, joins, or hops, which waits for its vector queue; where it has taken a trap before, that keeps
its cause and the store opens no record (R170, R199, R264). (DEDUCED, log entry 15.) -/
def Chip.faultStore (c : Chip) (core idx : Nat) : Chip :=
  match (c.core core).sb[idx]? with
  | none => c
  | some s =>
    let key := coKey core s.slot
    if ((c.core core).sb.take idx).any (fun t => t.slot = s.slot) then c
    else
      match c.co key with
      | none => c
      | some co =>
        match c.performStore core co s with
        | (none, _) => c
        | (some f, c') =>
          if co.state = .exited then c'.dropStore core idx
          else if co.state ≠ .running then c
          else if co.due.isSome then (c'.gatherStores key).settleDue key
          else if f.travels && c.vectorPending key then c
          else (c'.gatherStores key).memTrap key f ⟨causeSpf, co.pc, wordOf s.va, 0, 3, false, 0, 0, 0, 0, 0, s.asid⟩

/-! ### The vector command queue -/

/-- Whether an entry is a `MOPA`, which reads its operands and goes on to the matrix queue (R244). -/
def isMopa (i : Instr) : Bool :=
  match i with
  | .mopa _ _ _ _ _ _ => true
  | _ => false

/-- The vector operand of a `MOPA`. -/
def mopaA (i : Instr) : BitVec 5 :=
  match i with
  | .mopa _ a _ _ _ _ => a
  | _ => 0
/-- The other vector operand. -/
def mopaB (i : Instr) : BitVec 5 :=
  match i with
  | .mopa _ _ b _ _ _ => b
  | _ => 0
/-- The mask field of a `MOPA`. -/
def mopaM (i : Instr) : BitVec 3 :=
  match i with
  | .mopa _ _ _ _ _ m => m
  | _ => 0

/-- The matrix-queue entry of a `MOPA` with its operands read in queue order (R244, R422). -/
def MEntry.withOperands (q : MEntry) (co : Coroutine) : MEntry :=
  { q with
    k := co.kregs
    mask := if mopaM q.op = 0 then BitVec.allOnes 256 else co.mr (mopaM q.op).toNat
    va := co.vr (mopaA q.op)
    vb := co.vr (mopaB q.op)
    ready := true }

/-- Remove the oldest entry of a core's vector queue. -/
def Chip.dropEntry (c : Chip) (core : Nat) : Chip := c.modCore core (fun k => { k with vq := k.vq.drop 1 })

/-- Whether an entry's general result is written group by group under `ESTEP.EL` (R278). (DEDUCED, log entry 21.) -/
def VEntry.steps (e : VEntry) (co : Coroutine) : Bool :=
  co.estepEl && co.due.isNone && co.state ≠ .exited && !isWhole e.op && (scalarPathSpec e co).isNone
    && decide (e.vstart + 512 / e.sew < e.vl)

/-- An entry has run: it leaves the queue, its accesses to tiles are performed, and the block pool follows its registers
(R232, R233, R243). -/
def Chip.entryDone (c : Chip) (key : Nat) (e : VEntry) : Chip :=
  ((c.dropEntry (key / 256)).performed (key / 1024) e.seqs).settlePool key ((vectorRegs e.op).map BitVec.toNat)

/-- One element group of an entry retires and the coroutine takes `STEP` at its trap point.
(DEDUCED, log entry 21.) -/
def Chip.stepEntry (c : Chip) (key : Nat) (co : Coroutine) (e : VEntry) : Chip :=
  let n := e.vstart + 512 / e.sew
  let r := runEntry c key co { e with vl := n } false
  match r.stop with
  | some s => c.stopEntry key co e r s
  | none =>
    let d := r.chip.setCo key r.co
    if r.newVl.isSome then (d.entryDone key e).stepTrap key
    else ((d.noteWrites key r.wrote).gatherEntries key n).trap key ⟨causeStep, e.pc, 0, 0, 0, true, 0, 0, 0, e.pc, 0, e.asid⟩

/-- Whether an entry waits for its coroutine's older stores: it and one of them access uncached-device pages (R107).
(DEDUCED, log entry 23.) -/
def Chip.entryWaits (c : Chip) (key : Nat) (co : Coroutine) (e : VEntry) : Bool :=
  c.storesPending key && (c.storesOf key).any (fun s => c.storesDevice (key / 256) s) && c.entryDevice key co e

/-- The oldest entry of a core's vector queue completes, or stops (R235). Nothing happens while the scoreboard holds
it; a `MOPA` reads its operands for its place in the matrix queue. (DEDUCED, log entry 15.) (DEDUCED, log entry 22.)
(DESIGN CHOICE, log entry 49.) -/
def Chip.completeEntry (c : Chip) (core : Nat) : Chip :=
  match (c.core core).vq with
  | [] => c
  | e :: _ =>
    let key := coKey core e.slot
    match c.co key with
    | none => (c.dropEntry core).performed (core / 4) e.seqs
    | some co =>
      if isMopa e.op then
        let c := ((c.dropEntry core).modCore core (fun k => { k with
          mq := k.mq.map (fun q => if q.seqs = e.seqs then q.withOperands co else q) })).settlePool key
            ((vectorRegs e.op).map BitVec.toNat)
        if co.estepEl then c.stepTrap key else c.settleDue key
      else if !(c.cluster (core / 4)).clear e.seqs then c
      else if c.entryWaits key co e then c
      else if e.steps co then c.stepEntry key co e
      else
        let r := runEntry c key co e (co.state = .exited)
        match r.stop with
        | some s => c.stopEntry key co e r s
        | none =>
          let c := ((r.chip.setCo key r.co).entryDone key e).settleDue key
          if co.estepEl && e.op ≠ .fenceVv then c.stepTrap key else c

/-- `VECTOR_ENTRY_COMPLETE`: the oldest entry of a core's vector queue (R235). -/
def execVectorEntryComplete (core : BitVec 9) (s : State) : Host.Outcome State Fault Refusal :=
  onChip (fun c => c.completeEntry core.toNat) s

/-- `STORE_ACCEPT`: an entry of a core's store buffer (R197). -/
def execStoreAccept (core : BitVec 9) (idx : BitVec 5) (s : State) : Host.Outcome State Fault Refusal :=
  onChip (fun c => c.acceptStore core.toNat idx.toNat) s

/-- `STORE_FAULT`: an entry of a core's store buffer faults (R199). -/
def execStoreFault (core : BitVec 9) (idx : BitVec 5) (s : State) : Host.Outcome State Fault Refusal :=
  onChip (fun c => c.faultStore core.toNat idx.toNat) s

end Sys2Proof.Machine
end

