-- ==== Sys2Proof/Machine/Atomic.lean ====
section
/-! DEFINITION. Atomics and reservations (R201, R202, R388-R391): AMOs, `LR`, `SC`, `WAITRS`, and the reservation queue
of a line. -/

namespace Sys2Proof.Machine

/-! ### The operations (R388) -/

/-- The value an AMO writes, by its op code, at width `w`; none when it does not write. -/
def amoNew (op w u v old : Nat) : Option Nat :=
  match op with
  | 0 => some ((old + v) % 2 ^ w)
  | 1 => some (Nat.land old v)
  | 2 => some (Nat.lor old v)
  | 3 => some (Nat.xor old v)
  | 4 => some (if sxNat old w ≤ sxNat v w then old else v)
  | 5 => some (if sxNat old w ≤ sxNat v w then v else old)
  | 6 => some (Nat.min old v)
  | 7 => some (Nat.max old v)
  | 8 => some v
  | 9 => if old = u then some v else none
  | 10 => some (if v ≤ old then 0 else old + 1)
  | _ => if old < u then some (Nat.min (old + v) u) else none

/-- Operand bytes of a width bit. -/
def atomicBytes (wd : BitVec 1) : Nat := if wd = 1 then 8 else 4

/-- What x[d] receives: all of a double word, or a word sign-extended. -/
def atomicResult (wd : BitVec 1) (old : Nat) : Word := if wd = 1 then wordOf old else wordOfInt (sxNat old 32)

/-! ### The line at the head of its queue (R201) -/

/-- Bring a line to its home slice for the head of its reservation queue, with the home-write row of R186; an RO line, which
`LR` alone reads, is cached where it is read (R390). -/
def Chip.openLine (c : Chip) (spire : Nat) (x : Xlat) : Chip :=
  if x.cls = clsRo then c.lineForRead spire x (lineOf x.pa) 3 false
  else (c.wakeSpire x.home).lineForWrite x.home x (lineOf x.pa) 3 false

/-- The old bytes as the head of the queue reads them, at the home slice or, for an uncached page, in memory (R389). -/
def Chip.atomicOld (c : Chip) (spire : Nat) (x : Xlat) (n : Nat) : List Byte × Chip :=
  if 2 ≤ x.pol then c.readL2 x.home x n false
  else ((c.openLine spire x).shownBytes (if x.cls = clsRo then spire else x.home) x.pa n, c.openLine spire x)

/-- Those bytes as an instruction consumes them: none where the line is poisoned (R266). -/
def Chip.atomicRead (c : Chip) (spire : Nat) (x : Xlat) (n : Nat) : Option (List Byte) × Chip :=
  let r := c.atomicOld spire x n
  (if r.2.poisoned (lineOf x.pa) then none else some r.1, r.2)

/-- A core's own L1 line of a name goes: its next load is no older than the atomic (R189). -/
def Chip.dropName (c : Chip) (core asid va : Nat) : Chip :=
  c.modCore core (fun k => { k with l1d := k.l1d.filter (fun l => !(l.asid = asid && l.vline = va / 128)) })

/-- An acquire: at scope 2 or wider the L1 lines that are not RO class go (R192, R194). -/
def Chip.acquireAt (c : Chip) (core : Nat) (aq : Bool) (sc : Nat) : Chip := if aq && decide (2 ≤ sc) then c.acquireL1 core else c

/-- What every atomic does (R389): alignment, the wait for the stores, translation, poison, and `go` on the open line
with the old value. -/
def atomicBody (k : Acc) (wd : BitVec 1) (rl : Bool) (sc : Nat) (a : BitVec 5) (go : Chip → Coroutine → Xlat → Nat → Chip × Coroutine) :
    WordBody :=
  fun c key co =>
    let n := atomicBytes wd
    let ea := co.xr a
    if c.behindN key then .stall
    else if ea.toNat % n ≠ 0 then trapB c key co causeAlign ea
    else if c.storesPending key || (rl && sc = 5 && c.remoteUnacked key) then .stall
    else
      match c.xlate (co.agent key) ea.toNat k false with
      | (.inl f, c') => faultB c c' key f (scalarTrap co causeLpf ea 4)
      | (.inr x, c') =>
        match c'.atomicRead (spireOf (key / 256)) x n with
        | (none, c') => faultB c c' key .poison (scalarTrap co causeLpf ea 4)
        | (some bs, c') =>
          let r := go c' co x (leNat bs)
          .retire ((r.1.dropName (key / 256) co.asid ea.toNat).setCo key r.2.advance)

/-- The write of an atomic, at the moment of its read, by its coroutine. -/
def Chip.atomicWrite (c : Chip) (key : Nat) (x : Xlat) (n v : Nat) : Chip :=
  c.writeL2 x.home x (leBytes n v) (some key) false false false

/-- An AMO (R388, R389). -/
def amoGo (op : Nat) (d a b : BitVec 5) (sc : BitVec 3) (rl aq wd : BitVec 1) : WordBody :=
  fun c key co =>
    atomicBody .amo wd (rl = 1) sc.toNat a (fun c co x old =>
      let w := 8 * atomicBytes wd
      let c := match amoNew op w ((co.xr d).toNat % 2 ^ w) ((co.xr b).toNat % 2 ^ w) old with
        | some v => c.atomicWrite key x (atomicBytes wd) v
        | none => c
      (c.acquireAt (key / 256) (aq = 1) sc.toNat, co.setX d (atomicResult wd old))) c key co

/-- A reservation set with a line added anew, the oldest displaced when four others are held (R202). -/
def reserve (l : List Reserved) (line : Nat) : List Reserved :=
  let l := l.filter (fun r => r.line ≠ line)
  (if 4 ≤ l.length then l.drop (l.length - 3) else l) ++ [⟨line, false⟩]

/-- `LR` (R390). -/
def lrGo (d a : BitVec 5) (sc : BitVec 3) (aq wd : BitVec 1) : WordBody :=
  fun c key co =>
    atomicBody .lr wd false sc.toNat a (fun c co x old =>
      (c.acquireAt (key / 256) (aq = 1) sc.toNat,
        { co.setX d (atomicResult wd old) with resv := reserve co.resv (lineOf x.pa) })) c key co

/-- `SC` (R202, R390). -/
def scGo (d a b : BitVec 5) (sc : BitVec 3) (rl aq wd : BitVec 1) : WordBody :=
  fun c key co =>
    atomicBody .amo wd (rl = 1) sc.toNat a (fun c co x _ =>
      let w := 8 * atomicBytes wd
      if co.resv.any (fun r => r.line = lineOf x.pa && !r.broken) then
        ((c.atomicWrite key x (atomicBytes wd) ((co.xr b).toNat % 2 ^ w)).acquireAt (key / 256) (aq = 1) sc.toNat,
          { co.setX d 0 with resv := [] })
      else (c, { co.setX d 1 with resv := [] })) c key co

/-! ### The reservation queue (R201) -/

/-- The atomic that a core performs when its request is served. -/
def atomicGo (i : Instr) : WordBody :=
  match i with
  | .amoadd d a b s r q w => amoGo 0 d a b s r q w
  | .amoand d a b s r q w => amoGo 1 d a b s r q w
  | .amoor d a b s r q w => amoGo 2 d a b s r q w
  | .amoxor d a b s r q w => amoGo 3 d a b s r q w
  | .amomin d a b s r q w => amoGo 4 d a b s r q w
  | .amomax d a b s r q w => amoGo 5 d a b s r q w
  | .amominu d a b s r q w => amoGo 6 d a b s r q w
  | .amomaxu d a b s r q w => amoGo 7 d a b s r q w
  | .amoswp d a b s r q w => amoGo 8 d a b s r q w
  | .amocas d a b s r q w => amoGo 9 d a b s r q w
  | .amoincw d a b s r q w => amoGo 10 d a b s r q w
  | .amoaddb d a b s r q w => amoGo 11 d a b s r q w
  | .lr d a s q w => lrGo d a s q w
  | .sc d a b s r q w => scGo d a b s r q w
  | _ => fun _ _ _ => .stall

/-- The address register of an atomic, and how it translates. -/
def atomicAddress (i : Instr) : Option (BitVec 5 × Acc) :=
  match i with
  | .amoadd _ a _ _ _ _ _ => some (a, .amo)
  | .amoand _ a _ _ _ _ _ => some (a, .amo)
  | .amoor _ a _ _ _ _ _ => some (a, .amo)
  | .amoxor _ a _ _ _ _ _ => some (a, .amo)
  | .amomin _ a _ _ _ _ _ => some (a, .amo)
  | .amomax _ a _ _ _ _ _ => some (a, .amo)
  | .amominu _ a _ _ _ _ _ => some (a, .amo)
  | .amomaxu _ a _ _ _ _ _ => some (a, .amo)
  | .amoswp _ a _ _ _ _ _ => some (a, .amo)
  | .amocas _ a _ _ _ _ _ => some (a, .amo)
  | .amoincw _ a _ _ _ _ _ => some (a, .amo)
  | .amoaddb _ a _ _ _ _ _ => some (a, .amo)
  | .lr _ a _ _ _ => some (a, .lr)
  | .sc _ a _ _ _ _ _ => some (a, .amo)
  | _ => none

/-- The line whose queue an atomic enters; none where it will trap or hop. -/
def Chip.atomicLine (c : Chip) (key : Nat) (co : Coroutine) (i : Instr) : Option Nat :=
  match atomicAddress i with
  | none => none
  | some p =>
    match (c.xlate (co.agent key) (co.xr p.1).toNat p.2 false).1 with
    | .inr x => some (lineOf x.pa)
    | .inl _ => none

/-- Whether a coroutine has a request in a reservation queue. -/
def Chip.requested (c : Chip) (key : Nat) : Bool :=
  c.resq.any (fun e => e.2.any (fun r => r.core = key / 256 && r.slot = key % 256))

/-- Put a coroutine's request at the end of a line's queue; beyond 64 it waits outside. -/
def Chip.enqueueRequest (c : Chip) (key line : Nat) (i : Instr) : Chip :=
  if 64 ≤ (mgetD c.resq line []).length then c
  else { c with resq := mset c.resq line (mgetD c.resq line [] ++ [⟨key / 256, key % 256, i⟩]) }

/-- An atomic as the front end issues it: served at once where nobody holds its line's queue, and otherwise queued.
(DEDUCED, log entry 27.) -/
def atomicIssue (i : Instr) : WordBody :=
  fun c key co =>
    if c.resq.isEmpty then atomicGo i c key co
    else if c.requested key then .stall
    else
      match c.atomicLine key co i with
      | none => atomicGo i c key co
      | some line =>
        if (mgetD c.resq line []).isEmpty then atomicGo i c key co
        else if c.storesPending key || c.behindN key then .stall
        else .gone (c.enqueueRequest key line i)

/-- The request half of an atomic on its own: its line's queue takes it, to be served by `RESERVATION_GRANT`.
(DEDUCED, log entry 27.) -/
def Chip.requestLine (c : Chip) (key : Nat) (co : Coroutine) (i : Instr) : Chip :=
  if c.requested key || c.storesPending key || c.behindN key then c
  else
    match c.atomicLine key co i with
    | some line => c.enqueueRequest key line i
    | none => c

/-- The queue of a line without its head; an empty queue is not listed. -/
def Chip.popRequest (c : Chip) (line : Nat) : Chip :=
  let q := (mgetD c.resq line []).drop 1
  { c with resq := if q.isEmpty then merase c.resq line else mset c.resq line q }

/-- Serve the head of a line's queue: its core performs its read-modify-write and returns the line (R201).
(DEDUCED, log entry 27.) -/
def Chip.grantReservation (c : Chip) (line : Nat) : Chip :=
  match mgetD c.resq line [] with
  | [] => c
  | r :: _ =>
    let key := coKey r.core r.slot
    let c' := c.popRequest line
    match c.co key with
    | none => c'
    | some co =>
      if co.state ≠ .running then c'
      else
        match atomicGo r.op c' key co with
        | .stall => c
        | .retire c'' => c''.afterRetire key co false
        | .gone c'' => c''

/-- `RESERVATION_GRANT` (R201). -/
def execReservationGrant (line : BitVec 48) (s : State) : Host.Outcome State Fault Refusal :=
  onChip (fun c => c.grantReservation line.toNat) s

/-! ### The instructions -/

/-- `AMOADD`: memory takes old plus x[b]; x[d] takes old (R388, R389). -/
def execAmoadd (d a b : BitVec 5) (sc : BitVec 3) (rl aq wd : BitVec 1) (s : State) : Host.Outcome State Fault Refusal :=
  runWord false (atomicIssue (.amoadd d a b sc rl aq wd)) s

/-- `AMOAND`: memory takes old AND x[b]; x[d] takes old (R388, R389). -/
def execAmoand (d a b : BitVec 5) (sc : BitVec 3) (rl aq wd : BitVec 1) (s : State) : Host.Outcome State Fault Refusal :=
  runWord false (atomicIssue (.amoand d a b sc rl aq wd)) s

/-- `AMOOR`: memory takes old OR x[b]; x[d] takes old (R388, R389). -/
def execAmoor (d a b : BitVec 5) (sc : BitVec 3) (rl aq wd : BitVec 1) (s : State) : Host.Outcome State Fault Refusal :=
  runWord false (atomicIssue (.amoor d a b sc rl aq wd)) s

/-- `AMOXOR`: memory takes old XOR x[b]; x[d] takes old (R388, R389). -/
def execAmoxor (d a b : BitVec 5) (sc : BitVec 3) (rl aq wd : BitVec 1) (s : State) : Host.Outcome State Fault Refusal :=
  runWord false (atomicIssue (.amoxor d a b sc rl aq wd)) s

/-- `AMOMIN`: memory takes the lesser, signed; x[d] takes old (R388, R389). -/
def execAmomin (d a b : BitVec 5) (sc : BitVec 3) (rl aq wd : BitVec 1) (s : State) : Host.Outcome State Fault Refusal :=
  runWord false (atomicIssue (.amomin d a b sc rl aq wd)) s

/-- `AMOMAX`: memory takes the greater, signed; x[d] takes old (R388, R389). -/
def execAmomax (d a b : BitVec 5) (sc : BitVec 3) (rl aq wd : BitVec 1) (s : State) : Host.Outcome State Fault Refusal :=
  runWord false (atomicIssue (.amomax d a b sc rl aq wd)) s

/-- `AMOMINU`: memory takes the lesser, unsigned; x[d] takes old (R388, R389). -/
def execAmominu (d a b : BitVec 5) (sc : BitVec 3) (rl aq wd : BitVec 1) (s : State) : Host.Outcome State Fault Refusal :=
  runWord false (atomicIssue (.amominu d a b sc rl aq wd)) s

/-- `AMOMAXU`: memory takes the greater, unsigned; x[d] takes old (R388, R389). -/
def execAmomaxu (d a b : BitVec 5) (sc : BitVec 3) (rl aq wd : BitVec 1) (s : State) : Host.Outcome State Fault Refusal :=
  runWord false (atomicIssue (.amomaxu d a b sc rl aq wd)) s

/-- `AMOSWP`: memory takes x[b]; x[d] takes old (R388, R389). -/
def execAmoswp (d a b : BitVec 5) (sc : BitVec 3) (rl aq wd : BitVec 1) (s : State) : Host.Outcome State Fault Refusal :=
  runWord false (atomicIssue (.amoswp d a b sc rl aq wd)) s

/-- `AMOCAS`: memory takes x[b] where old equals x[d]; x[d] takes old (R388, R389). -/
def execAmocas (d a b : BitVec 5) (sc : BitVec 3) (rl aq wd : BitVec 1) (s : State) : Host.Outcome State Fault Refusal :=
  runWord false (atomicIssue (.amocas d a b sc rl aq wd)) s

/-- `AMOINCW`: memory takes old plus 1, or 0 from the bound x[b] on; x[d] takes old (R388, R389). -/
def execAmoincw (d a b : BitVec 5) (sc : BitVec 3) (rl aq wd : BitVec 1) (s : State) : Host.Outcome State Fault Refusal :=
  runWord false (atomicIssue (.amoincw d a b sc rl aq wd)) s

/-- `AMOADDB`: memory takes old plus x[b] up to the bound x[d], where old is below it; x[d] takes old (R388, R389). -/
def execAmoaddb (d a b : BitVec 5) (sc : BitVec 3) (rl aq wd : BitVec 1) (s : State) : Host.Outcome State Fault Refusal :=
  runWord false (atomicIssue (.amoaddb d a b sc rl aq wd)) s

/-- `LR`: loads and reserves the line (R390). -/
def execLr (d a : BitVec 5) (sc : BitVec 3) (aq wd : BitVec 1) (s : State) : Host.Outcome State Fault Refusal :=
  runWord false (atomicIssue (.lr d a sc aq wd)) s

/-- `SC`: stores if the reservation holds; x[d] takes 0 on success and 1 on failure (R390). -/
def execSc (d a b : BitVec 5) (sc : BitVec 3) (rl aq wd : BitVec 1) (s : State) : Host.Outcome State Fault Refusal :=
  runWord false (atomicIssue (.sc d a b sc rl aq wd)) s

/-- A coroutine past an instruction that suspends it: the instruction has retired; under `ESTEP.IS` its `STEP` trap is taken
when it runs again (R278). (DEDUCED, log entry 21.) -/
def Coroutine.retiring (co : Coroutine) : Coroutine :=
  { co.advance with nobk := false, due := if co.estepIs then some (.trap (plainTrap causeStep (co.pc + 4) 0) 0) else co.due }

/-- Suspend after the instruction, once the coroutine has drained (R200, R214). (DEDUCED, log entry 11.) -/
def suspendAfter (c : Chip) (key : Nat) (co : Coroutine) (live : Word) (st : CoState) (w : Wait) : Issue :=
  if c.undrained key then .stall else .gone ((c.setCo key co.retiring).suspend key live st w)

/-- `WAITRS`: waits for a write to a reserved line (R391). -/
def execWaitrs (a : BitVec 5) (s : State) : Host.Outcome State Fault Refusal :=
  runWord false (fun c key co =>
    if co.resv.isEmpty || co.resv.any (fun r => r.broken) then .retire (c.setCo key co.advance)
    else suspendAfter c key co (co.xr a) .awaiting .reservation) s

end Sys2Proof.Machine
end

