-- ==== Sys2Proof/Machine/Control.lean ====
section
/-! DEFINITION. Control transfer (R341-R344): jumps, branches and the counted branch. -/

namespace Sys2Proof.Machine

/-- An instruction that changes its coroutine, the program counter included, and retires. -/
def retireTo (f : Coroutine → Coroutine) : WordBody := fun c key co => .retire (c.setCo key (f co))

/-- The target `off` words from the instruction. -/
def branchTarget {w : Nat} (pc : Word) (off : BitVec w) : Word := pc + simm off * 4

/-- A branch condition by its code (R342). -/
def branchTaken (cond : Nat) (a b : Word) : Bool :=
  match cond with
  | 0 => a == b
  | 1 => a != b
  | 2 => a.slt b
  | 3 => !a.slt b
  | 4 => a.ult b
  | _ => !a.ult b

/-- `JMP`: a jump by words (R341). -/
def execJmp (o : BitVec 25) (s : State) : Host.Outcome State Fault Refusal :=
  runWord false (retireTo (fun co => { co with pc := branchTarget co.pc o })) s

/-- `JAL`: a jump by words with the return address in `x1` (R341). -/
def execJal (o : BitVec 25) (s : State) : Host.Outcome State Fault Refusal :=
  runWord false (retireTo (fun co => { co.setX 1 (co.pc + 4) with pc := branchTarget co.pc o })) s

/-- `JALR`: a jump to x[a] plus the immediate, bits 1:0 cleared, with the return address in x[d] (R341). -/
def execJalr (d a : BitVec 5) (i : BitVec 15) (s : State) : Host.Outcome State Fault Refusal :=
  runWord false (retireTo (fun co => { co.setX d (co.pc + 4) with pc := (co.xr a + simm i) &&& ~~~3 })) s

/-- `BC`: a conditional branch (R342). -/
def execBc (a b : BitVec 5) (cond : BitVec 3) (o : BitVec 12) (s : State) : Host.Outcome State Fault Refusal :=
  runWord false (retireTo (fun co =>
    { co with pc := if branchTaken cond.toNat (co.xr a) (co.xr b) then branchTarget co.pc o else co.pc + 4 })) s

/-- `DBNZ`: x[d] less 1, and a branch while it is not 0 (R343). -/
def execDbnz (d : BitVec 5) (o : BitVec 20) (s : State) : Host.Outcome State Fault Refusal :=
  runWord false (retireTo (fun co =>
    { co.setX d (co.xr d - 1) with pc := if co.xr d - 1 ≠ 0 then branchTarget co.pc o else co.pc + 4 })) s

end Sys2Proof.Machine
end

