-- ==== Sys2Proof/Machine/Matrix.lean ====
section
/-! DEFINITION. The arithmetic of the dome: operand elements with their scales and O4 outliers (R317-R319), group sums
(R320, R321), and the effect of each matrix command on its slot (R419-R425). -/

namespace Sys2Proof.Machine

/-! ### Formats -/

/-- Whether a code is an O4 format. -/
def isO4 (f : Nat) : Bool := f = 19 || f = 20

/-- Whether a code is an integer operand format of R308, the O4 formats excluded. -/
def isIntOperand (f : Nat) : Bool := decide (10 ≤ f) && decide (f ≤ 18)

/-- The group length of two operand formats (R320). -/
def groupLength (fa fb : Nat) : Nat :=
  if fa = 1 ∨ fb = 1 then 1
  else if fa = 2 ∨ fb = 2 then 4
  else if 16 ≤ Nat.max (fmtWidth fa) (fmtWidth fb) then 8
  else if 6 ≤ Nat.max (fmtWidth fa) (fmtWidth fb) then 16
  else 32

/-- The largest K of two operand formats (R420). -/
def largestK (fa fb : Nat) : Nat :=
  if 16 ≤ Nat.max (fmtWidth fa) (fmtWidth fb) then 256
  else if 6 ≤ Nat.max (fmtWidth fa) (fmtWidth fb) then 512
  else 1024

/-- The first scale register of operand a (R318). -/
def scaleA (p : Option IWord) : Nat := match p with | some w => 2 * bits w.toNat 9 5 | none => 0
/-- The first scale register of operand b. -/
def scaleB (p : Option IWord) : Nat := match p with | some w => 2 * bits w.toNat 4 0 | none => 32

/-- Whether the scale, O4 and accumulator conditions of two operands hold for a K (R318, R319, R321). -/
def operandsOk (fa fb fmt vtype sa sb k : Nat) : Bool :=
  let b := blkOf vtype
  (b = 0 || (decide (sa + cdiv k (2 ^ b) ≤ 64) && decide (sb + cdiv k (2 ^ b) ≤ 64)))
    && (!(isO4 fa || isO4 fb) || (b ≠ 0 && !bit vtype 5))
    && (fmt ≠ 21 || (isIntOperand fa && isIntOperand fb && b = 0))

/-! ### Operand elements -/

/-- An element's code value times its scale, exactly (R317). (DEDUCED, log entry 24.) -/
def scaledElem (f vtype : Nat) (ks : Vector (BitVec 16) 64) (first k code : Nat) : FNum × Flags :=
  let v := readElem f code
  if blkOf vtype = 0 then v
  else
    let p := fMul v.1 (scaleValue vtype (ks.getD (first + k / 2 ^ blkOf vtype) 0))
    (p.1, v.2 ||| p.2)

/-- The state of reading one O4 block: the values so far, how many outliers, the flags. -/
structure O4State where
  vals : List FNum
  outliers : Nat
  taken : List Nat
  flags : Flags

/-- Read an O4 block's codes from element `j` on (R319). A neighbour that gave its nibble reads 0, and a pair of two
markers reads 0 twice. -/
def readO4 (f8 : FFmt) (codes : List Nat) (s : Nat) (fuel j : Nat) (st : O4State) : O4State :=
  match fuel with
  | 0 => st
  | n + 1 =>
    if st.taken.contains j ∨ codes.getD j 0 ≠ 8 then readO4 f8 codes s n (j + 1) st
    else
      let p := Nat.xor j 1
      let zero : FNum := .fin (.ofInt 0)
      if codes.length ≤ p then
        readO4 f8 codes s n (j + 1) { st with vals := st.vals.set j zero, flags := st.flags ||| flagFE }
      else if codes.getD p 0 = 8 then
        readO4 f8 codes s n (j + 1)
          { st with vals := (st.vals.set j zero).set p zero, taken := p :: st.taken, flags := st.flags ||| flagFE }
      else if st.outliers = 2 then
        readO4 f8 codes s n (j + 1) { st with vals := st.vals.set j zero, flags := st.flags ||| flagFE }
      else
        let tail := if st.outliers = 0 then bits s 3 0 else bits s 7 4
        readO4 f8 codes s n (j + 1)
          { vals := (st.vals.set j (readFloat f8 (codes.getD p 0 * 16 + tail))).set p zero
            outliers := st.outliers + 1, taken := p :: st.taken, flags := st.flags }

/-- The values of one O4 block with its scale applied. -/
def o4Block (f : Nat) (codes : List Nat) (s : BitVec 16) : List FNum × Flags :=
  let r := readO4 (if f = 19 then fmtF8A else fmtF8B) codes s.toNat codes.length 0
    ⟨codes.map (fun c => .fin (.ofInt (sxNat c 4))), 0, [], 0⟩
  let vs := r.vals.map (fun v => fMul v (scaleValue 0 s))
  (vs.map (fun v => v.1), vs.foldl (fun fl v => fl ||| v.2) r.flags)

/-- The blocks of a list of codes, `n` long each; the last may be shorter. -/
def chunks (fuel n : Nat) (l : List Nat) : List (List Nat) :=
  match fuel with
  | 0 => []
  | k + 1 => if l.isEmpty then [] else l.take n :: chunks k n (l.drop n)

/-- The values of an operand's elements along k, with the flags that reading them raises (R317-R319). -/
def operandValues (f vtype : Nat) (ks : Vector (BitVec 16) 64) (first : Nat) (codes : List Nat) : List FNum × Flags :=
  if isO4 f then
    let bs := (chunks codes.length (2 ^ blkOf vtype) codes).zipIdx.map (fun p => o4Block f p.1 (ks.getD (first + p.2) 0))
    (bs.flatMap (fun b => b.1), bs.foldl (fun fl b => fl ||| b.2) 0)
  else
    let vs := codes.zipIdx.map (fun p => scaledElem f vtype ks first p.2 p.1)
    (vs.map (fun v => v.1), vs.foldl (fun fl v => fl ||| v.2) 0)

/-! ### Sums (R320, R321) -/

/-- Whether a value is an infinity of a sign. -/
def isInf (s : Bool) (v : FNum) : Bool :=
  match v with
  | .inf t => s = t
  | _ => false

/-- The exact sum of a group of products. -/
def groupSum (ps : List FNum) : FNum × Flags :=
  if ps.any (isInf false) && ps.any (isInf true) then (.nan false false, flagNV)
  else if ps.any FNum.isNaN then (.nan false false, 0)
  else
    match ps with
    | [] => (.fin (.zero false), 0)
    | p :: r => r.foldl (fun acc q => ((fAdd acc.1 q 0).1, acc.2)) (p, 0)

/-- The exact integer of a finite value, rounded towards zero; sums of integers are exact. -/
def intValue (v : FNum) : Int :=
  match v with
  | .fin x => (roundInt x 1).1
  | _ => 0

/-- One group added to an accumulator element held as its slot's code. (DEDUCED, log entry 24.) (DEDUCED, log entry 29.) -/
def addGroup (fmt : Nat) (acc : Nat) (ps : List FNum) : Nat × Flags :=
  if fmt = 21 then
    let s := sxNat acc 32 + intValue (groupSum ps).1
    let r := clamp32 s
    ((r % 4294967296).toNat, flagIf (r ≠ s) flagOF)
  else
    let f := if fmt = 3 then fmtF16 else fmtF32
    let x := groupSum ps
    let gs := roundNum x.1 fmtF32 0
    let t := fAdd (readFloat f acc) (readFloat fmtF32 gs.1) 0
    let r := roundNum t.1 f 0
    (r.1, x.2 ||| gs.2 ||| t.2 ||| r.2)

/-- The groups of products added in order. -/
def addGroups (fuel fmt g acc : Nat) (ps : List FNum) : Nat × Flags :=
  match fuel with
  | 0 => (acc, 0)
  | n + 1 =>
    if ps.isEmpty then (acc, 0)
    else
      let r := addGroup fmt acc (ps.take g)
      let t := addGroups n fmt g r.1 (ps.drop g)
      (t.1, r.2 ||| t.2)

/-- An accumulator element after the products of a row of A and a column of B. -/
def dotInto (fmt g acc : Nat) (row col : List FNum) : Nat × Flags :=
  let ps := (row.zip col).map (fun p => fMul p.1 p.2)
  let r := addGroups (ps.length + 1) fmt g acc (ps.map (fun p => p.1))
  (r.1, ps.foldl (fun fl p => fl ||| p.2) r.2)

/-! ### Rows, columns and slots -/

/-- The codes of a row of a tile. -/
def rowCodes (m : Memory) (base : Nat) (t : Tile) (r : Nat) : List Nat :=
  (List.range t.cols).map (fun k => tileElem m base t.stride (fmtWidth t.fmt) r k)

/-- The codes of a column of a tile. -/
def colCodes (m : Memory) (base : Nat) (t : Tile) (c : Nat) : List Nat :=
  (List.range t.rows).map (fun k => tileElem m base t.stride (fmtWidth t.fmt) k c)

/-- Memory and flags while a slot is being written. -/
abbrev SlotRun := Memory × Flags

/-- Update one element of a slot by a function of its old code. -/
def updateElem (base fmt r c : Nat) (f : Nat → Nat × Flags) (s : SlotRun) : SlotRun :=
  let v := f (slotElem s.1 base fmt r c)
  (setSlotElem s.1 base fmt r c v.1, s.2 ||| v.2)

/-- The products of rows of A with the columns of B added into rows of a slot. -/
def productInto (base fmt g : Nat) (rows : List (Nat × List FNum)) (cols : List (Nat × List FNum)) (s : SlotRun) : SlotRun :=
  rows.foldl (fun s r => cols.foldl (fun s c => updateElem base fmt r.1 c.1 (fun acc => dotInto fmt g acc r.2 c.2) s) s) s

/-- Rows `r0` to `r0` + `m` - 1 of tile A times tile B, added into a slot of a cluster (R420, R421). -/
def MEntry.product (e : MEntry) (k : Cluster) (cl slot ta tb r0 m : Nat) (s : SlotRun) : SlotRun :=
  let a := k.tile ta
  let b := k.tile tb
  let fa := orCode (pfxA e.pfx) a.fmt
  let fb := orCode (pfxB e.pfx) b.fmt
  let rows := (List.range m).map (fun i =>
    (r0 + i, operandValues fa e.vtype e.k (scaleA e.pfx) (rowCodes s.1 (tileBase cl ta) a (r0 + i))))
  let cols := (List.range b.cols).map (fun c => (c, operandValues fb e.vtype e.k (scaleB e.pfx) (colCodes s.1 (tileBase cl tb) b c)))
  let fl := (rows ++ cols).foldl (fun fl v => fl ||| v.2.2) s.2
  productInto (slotBase cl slot) e.fmt (groupLength fa fb) (rows.map (fun v => (v.1, v.2.1))) (cols.map (fun v => (v.1, v.2.1)))
    (s.1, fl)

/-- The row count of a group of `MSHAPE` (R416). -/
def groupRows (w : Word) (g : Nat) : Nat := bits w.toNat (8 * g + 7) (8 * g)

/-- The first row of a group. -/
def groupFirst (w : Word) (g : Nat) : Nat := ((List.range g).map (groupRows w)).foldl (· + ·) 0

/-- The format of an operand of `MOPA`: its prefix code, or the float format of SEW (R422). -/
def mopaFmt (p vtype : Nat) : Nat := if p ≠ 0 then p else if sewBits vtype = 16 then 3 else 1

/-- `MOPA`: the outer product of two vector registers added into a slot (R422). -/
def MEntry.outer (e : MEntry) (cl slot : Nat) (s : SlotRun) : SlotRun :=
  let w := sewBits e.vtype
  let fa := mopaFmt (pfxA e.pfx) e.vtype
  let fb := mopaFmt (pfxB e.pfx) e.vtype
  let rows := ((List.range e.vl).filter (fun i => e.mask.getLsbD i)).map (fun i =>
    (i, scaledElem fa e.vtype e.k (scaleA e.pfx) i (e.va.elem i w)))
  let cols := (List.range e.vl).map (fun j => (j, scaledElem fb e.vtype e.k (scaleB e.pfx) j (e.vb.elem j w)))
  let fl := if rows.isEmpty then s.2 else (rows ++ cols).foldl (fun fl v => fl ||| v.2.2) s.2
  productInto (slotBase cl slot) e.fmt 1 (rows.map (fun v => (v.1, [v.2.1]))) (cols.map (fun v => (v.1, [v.2.1]))) (s.1, fl)

/-- A slot element's value. -/
def slotValue (fmt v : Nat) : FNum :=
  if fmt = 21 then .fin (.ofInt (sxNat v 32)) else readFloat (if fmt = 3 then fmtF16 else fmtF32) v

/-- The coordinates of an area, row by row. -/
def area (rows cols : Nat) : List (Nat × Nat) := (List.range rows).flatMap (fun r => (List.range cols).map (fun c => (r, c)))

/-- `MDRAIN`: a slot converted into a tile (R425). -/
def MEntry.drain (e : MEntry) (k : Cluster) (cl slot tn : Nat) (s : SlotRun) : SlotRun :=
  let t := k.tile tn
  let f := orCode (pfxD e.pfx) t.fmt
  (area t.rows t.cols).foldl (fun s p =>
    let v := convertElem (slotValue e.fmt (slotElem s.1 (slotBase cl slot) e.fmt p.1 p.2)) f 0
    (setTileElem s.1 (tileBase cl tn) t.stride (fmtWidth t.fmt) p.1 p.2 v.1, s.2 ||| v.2)) s

/-- `MFILL`: a tile converted into a slot (R425). -/
def MEntry.fillSlot (e : MEntry) (k : Cluster) (cl slot tn : Nat) (s : SlotRun) : SlotRun :=
  let t := k.tile tn
  let f := orCode (pfxA e.pfx) t.fmt
  (area t.rows t.cols).foldl (fun s p =>
    updateElem (slotBase cl slot) e.fmt p.1 p.2 (fun _ =>
      let v := readElem f (tileElem s.1 (tileBase cl tn) t.stride (fmtWidth t.fmt) p.1 p.2)
      let r := convertElem v.1 e.fmt 0
      (r.1, v.2 ||| r.2)) s) s

/-! ### Commands -/

/-- The slot operand of a matrix command, if it has one. -/
def matrixSlot (i : Instr) : Option Nat :=
  match i with
  | .mma _ _ s => some s.toNat
  | .mmag _ _ s => some s.toNat
  | .mmrot _ _ s => some s.toNat
  | .macq _ s => some s.toNat
  | .mrel s => some s.toNat
  | .mdrain _ s => some s.toNat
  | .mfill _ s => some s.toNat
  | .mzero s => some s.toNat
  | .mreclaim s => some s.toNat
  | .mstat _ s => some s.toNat
  | .mopa s _ _ _ _ _ => some s.toNat
  | _ => none

/-- The physical slot of an entry. -/
def MEntry.slotNum (e : MEntry) : Nat := e.abase + (matrixSlot e.op).getD 0

/-- Or flags into a slot (R315). -/
def Chip.slotFlags (c : Chip) (cl s : Nat) (f : Flags) : Chip :=
  if f = 0 then c else c.modCluster cl (fun k => k.modSlot s (fun t => { t with flags := t.flags ||| f }))

/-- A product or conversion performed: memory replaced, flags into the slot. -/
def Chip.slotRun (c : Chip) (cl s : Nat) (f : SlotRun → SlotRun) : Chip :=
  let r := f (c.mem, 0)
  Chip.slotFlags { c with mem := r.1 } cl s r.2

/-- A scalar result of a matrix command written when it completes (R418), unless its coroutine has ended. -/
def Chip.lateX (c : Chip) (e : MEntry) (a : BitVec 5) (v : Word) : Chip :=
  c.modCo (coKey e.core e.slot) (fun co => if co.lid = e.lid ∧ co.state ≠ .exited then co.setX a v else co)

/-- What `MSTAT` reports of a slot but for its flags, from what it was in recording order: a slot held then may be orphaned since
(R246, R419). (DEDUCED, log entry 29.) -/
def Slot.stateNow (t : Slot) (w : Nat) : Nat := if w / 64 % 4 ≠ 0 ∧ t.held then w / 256 * 256 + 64 * (if t.orphan then 2 else 1) else w

/-- The effect of a matrix command when the dome has performed it. -/
def Chip.performMatrix (c : Chip) (cl : Nat) (e : MEntry) : Chip :=
  let k := c.cluster cl
  let s := e.slotNum
  match e.op with
  | .mma a b _ => c.slotRun cl s (e.product k cl s (e.tbase + a.toNat) (e.tbase + b.toNat) 0 (k.tile (e.tbase + a.toNat)).rows)
  | .mmrot a b _ => c.slotRun cl s (e.product k cl s (e.tbase + a.toNat) (e.tbase + b.toNat) 0 (k.tile (e.tbase + a.toNat)).rows)
  | .mmag a b _ => c.slotRun cl s (fun r => (List.range 8).foldl (fun r g =>
      if groupRows e.mshape g = 0 then r
      else e.product k cl s (e.tbase + a.toNat) (e.tbase + b.toNat + g) (groupFirst e.mshape g) (groupRows e.mshape g) r) r)
  | .mopa _ _ _ _ _ _ => c.slotRun cl s (e.outer cl s)
  | .mdrain t _ => c.slotRun cl s (e.drain k cl s (e.tbase + t.toNat))
  | .mfill t _ => c.slotRun cl s (e.fillSlot k cl s (e.tbase + t.toNat))
  | .macq a _ =>
    Chip.lateX ({ c with mem := memClear c.mem (slotBase cl s) 0x10000 }.modCluster cl (fun k =>
      k.modSlot s (fun t => { t with flags := 0 }))) e a (wordOf s)
  | .mzero _ => { c with mem := memClear c.mem (slotBase cl s) 0x10000 }
  | .mrel _ => c.scrambleSlot cl s (if e.fmt = 3 then 0x8000 else 0x10000)
  | .mstat a _ => c.lateX e a (wordOf ((k.slot s).flags.toNat + (k.slot s).stateNow e.s2.toNat))
  | _ => c

end Sys2Proof.Machine
end

