-- ==== Sys2Proof/Machine/Engines.lean ====
section
/-! DEFINITION. What every engine command shares: token checks (R393), the issue of an asynchronous command (R410), its
completion (R256, R411), staging registers (R409). -/

namespace Sys2Proof.Machine

/-! ### Staging registers (R409) -/

/-- `ESET`: a staging register takes x[a] (R409). -/
def execEset (a : BitVec 5) (c : BitVec 4) (st : State) : Host.Outcome State Fault Refusal :=
  runWord false (retireCo (fun co => co.setQ c.toNat (co.xr a))) st

/-- `EGET`: x[a] takes a staging register (R409). -/
def execEget (a : BitVec 5) (c : BitVec 4) (st : State) : Host.Outcome State Fault Refusal :=
  runWord false (retireCo (fun co => co.setX a (co.qr c.toNat))) st

/-! ### Tokens as operands (R393) -/

/-- Which beacons an instruction may not name in any mode. -/
inductive TokenUse where
  /-- `AWAIT`, `AWAITQ`, `BREAD` -/
  | wait
  /-- `BSIG` and the completion token of a command -/
  | signal
  /-- `BSET`, `BFREE` -/
  | set
  deriving DecidableEq, Repr

/-- Whether the class check refuses a token (R393 step 2). -/
def tokenRefused (u : TokenUse) (sup : Bool) (i : Nat) : Bool :=
  if !sup && decide (0xFE00 ≤ i) then true
  else
    match u with
    | .wait => false
    | .signal => decide (0xFE00 ≤ i) && decide (i < 0xFF00)
    | .set => decide (0xFE00 ≤ i)

/-- The cause that a token operand traps with; 0 when none. -/
def Chip.tokenCause (c : Chip) (u : TokenUse) (sup : Bool) (t : Word) : Nat :=
  if !c.tokHere t then causeLink
  else if tokenRefused u sup (tokIndex t) then causePriv
  else if !c.tokCurrent t then causeStale
  else 0

/-- The trap of a refused token: `FADDR` is the token, or the instruction word for `PRIV` (R262). -/
def Chip.tokenTrap (c : Chip) (key : Nat) (co : Coroutine) (cause : Nat) (t : Word) (i : Instr) : Issue :=
  if cause = causePriv then trapWord c key co causePriv i else trapB c key co cause t

/-! ### Commands -/

/-- Whether a cluster's clock runs (R12) and its partition is running, so that its engines may start work (R175, R437). -/
def Chip.clusterRuns (c : Chip) (cl : Nat) : Bool :=
  (c.cluster cl).power = 0 && (match c.partOf cl with
    | some p => (c.part p).state = 1
    | none => true)

/-- What a command holds from its issue. -/
def Chip.newCmd (c : Chip) (key : Nat) (co : Coroutine) (tok : Word) : Cmd :=
  ⟨c.nextCmd, key / 256, key % 256, co.lid, tok, co.asid, co.sup, co.solo, 0⟩

/-- The cluster of a command. -/
def Cmd.cluster (q : Cmd) : Nat := clusterOf q.core

/-- A command completes: its token is signalled with its status by its engine, of kind 1 copy, 2 KV or 3 network (R410, R411). -/
def Chip.finish (c : Chip) (kind : Nat) (q : Cmd) (status esrc : Nat) : Chip :=
  c.complete (.engine kind q.cluster) q.tok status esrc

/-- Issue an asynchronous command (R410): the token check, what `late` refuses after it, the release, a command that
moves nothing, a full queue, and the queue. (DEDUCED, log entry 14.) -/
def issueAsync (i : Instr) (tok : Word) (late : Option (Nat × Word)) (nothing full : Chip → Bool) (push : Chip → Cmd → Chip) : WordBody :=
  fun c key co =>
    let cause := if tok = 0 then 0 else c.tokenCause .signal co.sup tok
    if cause ≠ 0 then c.tokenTrap key co cause tok i
    else
      match late with
      | some (cs, fa) => trapB c key co cs fa
      | none =>
        if c.storesPending key then .stall
        else if nothing c then .retire ((c.complete (.core (key / 256)) tok 0 3).setCo key co.advance)
        else if full c then .stall
        else .retire ((push { c with nextCmd := c.nextCmd + 1 } (c.newCmd key co tok)).setCo key co.advance)

/-! ### The end of a copy command (R241, R250, R254) -/

/-- Change a copy command by its number. -/
def Cluster.modCopy (k : Cluster) (id : Nat) (f : CopyCmd → CopyCmd) : Cluster :=
  { k with copyQ := k.copyQ.map (fun q => if q.cmd.id = id then f q else q) }

/-- The recorded accesses of a copy have been performed: they leave every scoreboard, and its counts fall. -/
def Chip.releaseCopy (c : Chip) (q : CopyCmd) : Chip :=
  let c := if q.seqs.isEmpty then c
    else { c with clusters := mmap c.clusters (fun _ k => { k with board := k.board.filter (fun a => !q.seqs.contains a.seq) }) }
  let c := q.fills.foldl (fun c p => c.modTile p.1 p.2 Tile.lessFill) c
  q.drains.foldl (fun c p => c.modTile p.1 p.2 Tile.lessDrain) c

/-- A copy command completes and leaves its queue. -/
def Chip.endCopy (c : Chip) (cl id : Nat) (status : Nat) : Chip :=
  match (c.cluster cl).copyQ.find? (fun q => q.cmd.id = id) with
  | none => c
  | some q =>
    (c.modCluster cl (fun k => { k with copyQ := k.copyQ.filter (fun r => r.cmd.id ≠ id) })).finish 1 q.cmd
      (worse q.cmd.status status) 3

end Sys2Proof.Machine
end

