-- ==== Sys2Proof/Machine/System.lean ====
section
/-! DEFINITION. The CSRs (R297-R299, R345 and the field maps of the chapters), the system instructions (R346-R348),
the fences (R193, R195), the format prefix (R295, R296), and the CSR-write events. -/

namespace Sys2Proof.Machine

/-! ### Which CSRs there are (R297, R298) -/

/-- Whether a number names a CSR. -/
def isCsr (n : Nat) : Bool :=
  n ≤ 0x005 || (0x008 ≤ n && n ≤ 0x00F) || (0x010 ≤ n && n ≤ 0x014) || (0x018 ≤ n && n ≤ 0x01D)
    || n = 0x020 || n = 0x021 || n = 0x030 || n = 0x031 || (0x100 ≤ n && n ≤ 0x119)

/-- Whether a CSR is read-only, in supervisor mode as well. -/
def csrReadOnly (n : Nat) : Bool :=
  n = 0x008 || n = 0x009 || (0x00B ≤ n && n ≤ 0x00D) || (0x010 ≤ n && n ≤ 0x01C)
    || n = 0x020 || n = 0x021 || n = 0x030 || n = 0x031 || (0x117 ≤ n && n ≤ 0x119)

/-- Whether a CSR is a supervisor CSR. -/
def csrSupervisor (n : Nat) : Bool := 0x100 ≤ n && n ≤ 0x1FF

/-- Whether an access waits for the earlier vector instructions of the coroutine (R299). -/
def csrWaits (n : Nat) (write : Bool) : Bool :=
  n = 0x001 || n = 0x008 || n = 0x009 || n = 0x00A || n = 0x00B || (n = 0x002 && write)

/-- The trap of a CSR access, in the order of R298: 0 when none. -/
def csrCause (n : Nat) (write sup : Bool) : Nat :=
  if !isCsr n then causeRsv
  else if !sup && csrSupervisor n then causePriv
  else if write && csrReadOnly n then causeIll
  else 0

/-! ### Shared registers -/

/-- The partition that holds a coroutine's cluster (R174, R268). -/
def Chip.ownPart (c : Chip) (key : Nat) : Option Nat := c.partOf (key / 1024)

/-- The fault queue of a coroutine's partition and spire. -/
def Chip.ownFq (c : Chip) (key : Nat) : FaultQ :=
  match c.ownPart key with
  | some p => c.fq p (spireOf (key / 256))
  | none => FaultQ.reset

/-- Change the fault queue of a coroutine's partition and spire. -/
def Chip.modOwnFq (c : Chip) (key : Nat) (f : FaultQ → FaultQ) : Chip :=
  match c.ownPart key with
  | some p => c.modFq p (spireOf (key / 256)) f
  | none => c

/-- The index of a partition's spire fault beacon (R268). -/
def faultBeaconOf (p : Nat) : Nat := 0xFE00 + p

/-- Set a spire fault beacon's count to `HEAD` - `TAIL` and release its waiters (R268). -/
def Chip.updateFaultBeacon (c : Chip) (p d : Nat) : Chip :=
  if (c.beacon d (faultBeaconOf p)).alloc then
    (c.modBeacon d (faultBeaconOf p) (fun b => { b with count := (c.fq p d).head - (c.fq p d).tail })).releaseWaiters d (faultBeaconOf p)
  else c

/-- `FQTOK` (R268). -/
def Chip.fqToken (c : Chip) (key : Nat) : Word :=
  match c.ownPart key with
  | some p =>
    if (c.beacon (spireOf (key / 256)) (faultBeaconOf p)).alloc then c.tokenOf (spireOf (key / 256)) (faultBeaconOf p) else 0
  | none => 0

/-- `SVCWAYS` of a class: all ones until written (R147). -/
def Chip.waysOf (c : Chip) (cls : Nat) : BitVec 58 := mgetD c.svcways cls (BitVec.allOnes 58)

/-- `SVCBW` of a class: 1 until written (R148). -/
def Chip.bwOf (c : Chip) (cls : Nat) : BitVec 8 := mgetD c.svcbw cls 1

/-- `SVCMAP` of an ASID (R149). -/
def Chip.classOf (c : Chip) (asid : Nat) : BitVec 4 := mgetD c.svcmap asid 0

/-- The selected stall counter; causes 9-15 read zero (R258). (DESIGN CHOICE, log entry 45.) -/
def Chip.stallCount (c : Chip) (key : Nat) : Word :=
  let sel := (c.core (key / 256)).ecsel.toNat
  if 9 ≤ bits sel 6 3 then 0 else mgetD (c.cluster (key / 1024)).ecnt (bits sel 2 0 * 16 + bits sel 6 3) 0

/-- `CYCLE` of a cluster: the cycles while its clock ran (R10). (DEDUCED, log entry 46.) -/
def Chip.cycleOf (c : Chip) (cl : Nat) : Nat := c.cycle - (c.cluster cl).offTime

/-! ### Reading a CSR -/

/-- The value of a CSR as a coroutine reads it. -/
def Chip.csrRead (c : Chip) (key : Nat) (co : Coroutine) (n : Nat) : Word :=
  match n with
  | 0x000 => co.statusWord
  | 0x001 => co.fflags.setWidth 64
  | 0x002 => co.frm.setWidth 64
  | 0x003 => co.dlive
  | 0x004 => co.quantum.setWidth 64
  | 0x005 => wordOf (co.level.toNat + 256 * co.ceil.toNat)
  | 0x008 => wordOf co.vl
  | 0x009 => wordOf co.vtype
  | 0x00A => wordOf co.vstart
  | 0x00B => co.vshapeWord
  | 0x00C => 16
  | 0x00D => 256
  | 0x00E => co.topkn.setWidth 64
  | 0x00F => co.ropecfg
  | 0x010 => wordOf (cidOf key)
  | 0x011 => co.gid.setWidth 64
  | 0x012 => wordOf co.gsize
  | 0x013 => wordOf co.grank
  | 0x014 => wordOf co.lid
  | 0x018 => wordOf co.tbase
  | 0x019 => wordOf co.tcount
  | 0x01A => wordOf co.abase
  | 0x01B => wordOf co.acount
  | 0x01C => 0x10200880
  | 0x01D => co.mshape
  | 0x020 => wordOf (c.cycleOf (key / 1024))
  | 0x021 => wordOf c.time
  | 0x030 => c.version.setWidth 64
  | 0x031 => c.devhash
  | 0x100 => co.epc
  | 0x101 => co.cause.setWidth 64
  | 0x102 => co.faddr
  | 0x103 => co.finfo
  | 0x104 => (c.ownFq key).tvec
  | 0x105 => wordOf (co.asid + 65536 * co.asidSel)
  | 0x106 => if co.asidSel = 0 then 0 else wordOf (mgetD c.roots co.asidSel 0)
  | 0x107 => c.kvbase
  | 0x108 => wordOf (b2n co.estepEl + 2 * b2n co.estepIs)
  | 0x109 => (match c.ownPart key with | some p => (c.part p).bell | none => 0)
  | 0x10A => (c.core (key / 256)).bkpt.getD 0 0
  | 0x10B => (c.core (key / 256)).bkpt.getD 1 0
  | 0x10C => (c.core (key / 256)).bkpt.getD 2 0
  | 0x10D => (c.core (key / 256)).bkpt.getD 3 0
  | 0x10E => 0
  | 0x10F => wordOf co.svcsel
  | 0x110 => (c.waysOf co.svcsel).setWidth 64
  | 0x111 => (c.bwOf co.svcsel).setWidth 64
  | 0x112 => (c.classOf co.asidSel).setWidth 64
  | 0x113 => (c.core (key / 256)).ecsel
  | 0x114 => c.stallCount key
  | 0x115 => wordOf ((c.ownFq key).base + b2n (c.ownFq key).en)
  | 0x116 => (c.ownFq key).head.setWidth 64
  | 0x117 => (c.ownFq key).tail.setWidth 64
  | 0x118 => c.fqToken key
  | _ => wordOf (c.spire (spireOf (key / 256))).spill

/-! ### Writing a CSR -/

/-- Clear the in-use bits of `STATUS` that a write presents, zeroing each kind of register (R218). -/
def Coroutine.clearInUse (co : Coroutine) (w1c : Word) : Coroutine :=
  let co := if w1c.getLsbD 2 then { co with su := false, k := Vector.replicate 64 0 } else co
  let co := if w1c.getLsbD 3 then { co with mu := false, m := Vector.replicate 8 0 } else co
  let co := if w1c.getLsbD 4 then { co with qu := false, q := Vector.replicate 16 0 } else co
  if w1c.getLsbD 5 then { co with ku := false, topk := [] } else co

/-- A write of `STATUS`: `INL` from the value, the in-use bits by what is presented (R217, R218). -/
def writeStatus (co : Coroutine) (v w1c : Word) : Coroutine := { co.clearInUse w1c with inl := (v >>> 16).setWidth 16 }

/-- A write of `PRIO` (R167). -/
def writePrio (co : Coroutine) (v : Word) : Coroutine :=
  if co.sup then { co with level := v.setWidth 2, ceil := (v >>> 8).setWidth 2 }
  else { co with level := if co.ceil.ult (v.setWidth 2) then co.ceil else v.setWidth 2 }

/-- A write of `TOPKN` (R370). -/
def writeTopkn (co : Coroutine) (v : Word) : Coroutine :=
  { co with topkn := if bits v.toNat 7 0 = 0 ∨ 128 < bits v.toNat 7 0 then 128 else BitVec.ofNat 32 (bits v.toNat 7 0) }

/-- A write of `PTBASE`: the root of `ASID.SEL` replaced in every slice and its translations removed (R100). -/
def Chip.writePtbase (c : Chip) (asid : Nat) (v : Word) : Chip :=
  if asid = 0 then c
  else Chip.invalidate { c with roots := mset c.roots asid (bits v.toNat 0 0 + bits v.toNat 47 14 * 2 ^ 14) } 2 asid 0

/-- A write of `XLINV` (R112, R113). -/
def Chip.writeXlinv (c : Chip) (asid : Nat) (v : Word) : Chip := c.invalidate (bits v.toNat 1 0) asid (bits v.toNat 51 21)

/-- A descriptor as a reload reads it, at its home slice: no bytes where its line is poisoned or cannot be read (R124, R131). -/
def Chip.readDesc (c : Chip) (pa : Nat) : List Byte × Chip :=
  if c.tableOk pa then
    let r := c.readSound (hbmHome pa) (identity (hbmHome pa) pa) 64 false
    (r.1.getD [], r.2)
  else ([], c)

/-- One descriptor reloaded; a cleared one is not listed. -/
def Chip.reloadSpace (c : Chip) (base i : Nat) : Chip :=
  let r := c.readDesc (base + 64 * i)
  { r.2 with kvdesc := if r.1 = List.replicate 64 0 then merase r.2.kvdesc i else mset r.2.kvdesc i r.1 }

/-- Reload descriptors from the table and drop the KV-TLB entries of their spaces (R121). -/
def Chip.reloadSpaces (c : Chip) (base : Nat) (p : Nat → Bool) : Chip :=
  let c := ((List.range 256).filter p).foldl (fun c i => c.reloadSpace base i) c
  { c with clusters := mmap c.clusters (fun _ k => { k with kvtlb := k.kvtlb.filter (fun e => !p e.space) }) }

/-- A write of `KVBASE` (R121). -/
def Chip.writeKvbase (c : Chip) (v : Word) : Chip :=
  let n := v.toNat
  let c := { c with kvbase := wordOf (bits n 8 0 + bits n 47 14 * 2 ^ 14) }
  c.reloadSpaces (bits n 47 14 * 2 ^ 14) (fun i => !bit n 8 || i = bits n 7 0)

/-- A write of a partition's bell time (R174). -/
def Chip.writeBell (c : Chip) (p : Nat) (v : Word) : Chip :=
  if (c.part p).state ≠ 1 then c
  else c.modPart p (fun q => { q with
    armed := decide (v ≠ 0)
    bell := if v ≠ 0 ∧ v.toNat < c.time + 2000 then wordOf (c.time + 2000) else v })

/-- A write of `FQHEAD`: accepted when it moves forward over posted entries only (R268). -/
def Chip.writeFqhead (c : Chip) (key : Nat) (v : BitVec 32) : Chip :=
  match c.ownPart key with
  | none => c
  | some p =>
    let d := spireOf (key / 256)
    let q := c.fq p d
    if (v - q.head).toNat ≤ (q.tail - q.head).toNat then
      (c.modFq p d (fun q => { q with head := v })).updateFaultBeacon p d
    else c

/-- Set the stall counter that `ECSEL` selects (R259). -/
def Chip.writeEcnt (c : Chip) (key : Nat) (v : Word) : Chip :=
  let sel := (c.core (key / 256)).ecsel.toNat
  if 9 ≤ bits sel 6 3 then c
  else c.modCluster (key / 1024) (fun k => { k with ecnt := mset k.ecnt (bits sel 2 0 * 16 + bits sel 6 3) v })

/-- A breakpoint register as written: bits 1 and 63:61 are reserved (R279). -/
def breakpointMask : Word := 0x1FFFFFFFFFFFFFFD

/-- Write a breakpoint register of a core. -/
def Chip.writeBkpt (c : Chip) (core i : Nat) (v : Word) : Chip :=
  c.modCore core (fun k => { k with bkpt := k.bkpt.setIfInBounds i (v &&& breakpointMask) })

/-- The effect of writing a CSR: the chip and the coroutine. `v` is the value for RW fields, `w1c` what is presented
to W1C fields. -/
def Chip.csrWrite (c : Chip) (key : Nat) (co : Coroutine) (n : Nat) (v w1c : Word) : Chip × Coroutine :=
  match n with
  | 0x000 => (c, writeStatus co v w1c)
  | 0x001 => (c, { co with fflags := v.setWidth 6 })
  | 0x002 => (c, { co with frm := v.setWidth 3 })
  | 0x003 => (c, { co with dlive := v &&& ~~~1 })
  | 0x004 => (c, { co with quantum := v.setWidth 32 })
  | 0x005 => (c, writePrio co v)
  | 0x00A => (c, { co with vstart := bits v.toNat 8 0 })
  | 0x00E => (c, writeTopkn co v)
  | 0x00F => (c, { co with ropecfg := wordOf (bits v.toNat 50 0) })
  | 0x01D => (c, { co with mshape := v })
  | 0x100 => (c, { co with epc := v })
  | 0x101 => (c, { co with cause := v.setWidth 8 })
  | 0x102 => (c, { co with faddr := v })
  | 0x103 => (c, { co with finfo := v })
  | 0x104 => (c.modOwnFq key (fun q => { q with tvec := wordOf (bits v.toNat 51 2 * 4) }), co)
  | 0x105 => (c, { co with asid := bits v.toNat 7 0, asidSel := bits v.toNat 23 16 })
  | 0x106 => (c.writePtbase co.asidSel v, co)
  | 0x107 => (c.writeKvbase v, co)
  | 0x108 => (c, { co with estepEl := v.getLsbD 0, estepIs := v.getLsbD 1 })
  | 0x109 => ((match c.ownPart key with | some p => c.writeBell p v | none => c), co)
  | 0x10A => (c.writeBkpt (key / 256) 0 v, co)
  | 0x10B => (c.writeBkpt (key / 256) 1 v, co)
  | 0x10C => (c.writeBkpt (key / 256) 2 v, co)
  | 0x10D => (c.writeBkpt (key / 256) 3 v, co)
  | 0x10E => (c.writeXlinv co.asidSel v, co)
  | 0x10F => (c, { co with svcsel := bits v.toNat 3 0 })
  | 0x110 => ({ c with svcways := mset c.svcways co.svcsel (v.setWidth 58) }, co)
  | 0x111 => ({ c with svcbw := mset c.svcbw co.svcsel (v.setWidth 8) }, co)
  | 0x112 => ({ c with svcmap := mset c.svcmap co.asidSel (v.setWidth 4) }, co)
  | 0x113 => (c.modCore (key / 256) (fun k => { k with ecsel := wordOf (bits v.toNat 6 0) }), co)
  | 0x114 => (c.writeEcnt key v, co)
  | 0x115 => (c.modOwnFq key (fun q => { q with en := v.getLsbD 0, base := bits v.toNat 47 14 * 2 ^ 14 }), co)
  | 0x116 => (c.writeFqhead key (v.setWidth 32), co)
  | _ => (c, co)

/-- Whether the write of a CSR waits for older accesses: `PTBASE`, `XLINV` and `KVBASE` are releases (R113, R121). -/
def csrRelease (n : Nat) : Bool := n = 0x106 || n = 0x107 || n = 0x10E

/-- A CSR access: `write` is the value for RW fields and what is presented to W1C fields, of the old value (R345). -/
def csrBody (i : Instr) (n : Nat) (d : BitVec 5) (write : Option (Coroutine → Word → Word × Word)) : WordBody :=
  fun c key co =>
    if csrCause n write.isSome co.sup ≠ 0 then trapWord c key co (csrCause n write.isSome co.sup) i
    else if csrWaits n write.isSome && c.vectorPending key then .stall
    else if write.isSome && csrRelease n && c.undrained key then .stall
    else
      let old := c.csrRead key co n
      match write with
      | none => .retire (c.setCo key (co.setX d old).advance)
      | some f =>
        let w := f co old
        let r := c.csrWrite key co n w.1 w.2
        .retire (r.1.setCo key (r.2.setX d old).advance)

/-- The decode checks of a CSR access that come before the prefix check: the number, and the read-only CSRs of the
mode (R262, R298). -/
def csrPre (n : Nat) (write : Bool) (co : Coroutine) : Option Nat :=
  if csrCause n write co.sup = causeRsv ∨ csrCause n write co.sup = causeIll then some (csrCause n write co.sup) else none

/-- `CSRR`: x[d] takes the CSR (R345). -/
def execCsrr (d : BitVec 5) (n : BitVec 12) (s : State) : Host.Outcome State Fault Refusal :=
  runChecked (csrPre n.toNat false) (.csrr d n) false (csrBody (.csrr d n) n.toNat d none) s

/-- `CSRW`: x[d] takes the old value and the CSR x[a] (R345). -/
def execCsrw (d a : BitVec 5) (n : BitVec 12) (s : State) : Host.Outcome State Fault Refusal :=
  runChecked (csrPre n.toNat true) (.csrw d a n) false
    (csrBody (.csrw d a n) n.toNat d (some (fun co _ => (co.xr a, co.xr a)))) s

/-- `CSRS`: x[d] takes the old value; the bits of x[a] are set unless a is 0 (R345). -/
def execCsrs (d a : BitVec 5) (n : BitVec 12) (s : State) : Host.Outcome State Fault Refusal :=
  runChecked (csrPre n.toNat (a ≠ 0)) (.csrs d a n) false
    (csrBody (.csrs d a n) n.toNat d (if a = 0 then none else some (fun co old => (old ||| co.xr a, co.xr a)))) s

/-- `CSRC`: x[d] takes the old value; the bits of x[a] are cleared unless a is 0 (R345). -/
def execCsrc (d a : BitVec 5) (n : BitVec 12) (s : State) : Host.Outcome State Fault Refusal :=
  runChecked (csrPre n.toNat (a ≠ 0)) (.csrc d a n) false
    (csrBody (.csrc d a n) n.toNat d (if a = 0 then none else some (fun co old => (old &&& ~~~(co.xr a), 0)))) s

/-! ### System instructions -/

/-- A trap after a retired instruction (point A): the instruction retires when the coroutine has drained. -/
def trapA (c : Chip) (key : Nat) (co : Coroutine) (cause : Nat) (faddr : Word) : Issue :=
  c.trapDrained key { co.advance with nobk := false } (plainTrap cause (co.pc + 4) faddr)

/-- `ECALL`: traps `CALL` after the instruction (R346). -/
def execEcall (s : State) : Host.Outcome State Fault Refusal :=
  runWord false (fun c key co => trapA c key co causeCall 0) s

/-- `EBREAK`: traps `BRK` after the instruction, with its own address in `FADDR` (R346). -/
def execEbreak (s : State) : Host.Outcome State Fault Refusal :=
  runWord false (fun c key co => trapA c key co causeBrk co.pc) s

/-- `TRET`: returns from a supervisor coroutine's handler; `PRIV` in user mode (R347). (DEDUCED, log entry 20.) -/
def execTret (s : State) : Host.Outcome State Fault Refusal :=
  runWord false (fun c key co =>
    if !co.sup then trapWord c key co causePriv .tret else .retire (c.returnFromTrap key co)) s

/-- `ISYNC`: the core's L1 instruction lines go, and fetch is under `ASID.CUR` (R348, R99). (DEDUCED, log entry 20.) -/
def execIsync (s : State) : Host.Outcome State Fault Refusal :=
  runWord false (fun c key co =>
    .retire ((c.modCore (key / 256) (fun k => { k with l1i := [] })).setCo key { co.advance with fetchAsid := co.asid })) s

/-- `FENCE.SV`: waits until every earlier scalar store is performed (R195). -/
def execFenceSv (s : State) : Host.Outcome State Fault Refusal :=
  runWord false (fun c key co => if c.storesPending key then .stall else .retire (c.setCo key co.advance)) s

/-- `FENCE.VS`: waits until every earlier vector memory instruction is performed (R195). -/
def execFenceVs (s : State) : Host.Outcome State Fault Refusal :=
  runWord false (fun c key co => if c.vectorPending key then .stall else .retire (c.setCo key co.advance)) s

/-- `FENCE`: with W before it waits for the stores; with R after at scope 2 or wider it
invalidates the L1; with an empty set it does nothing (R193, R386). -/
def execFence (sc : BitVec 3) (pr pw sr sw : BitVec 1) (s : State) : Host.Outcome State Fault Refusal :=
  runWord false (fun c key co =>
    if (pr = 0 ∧ pw = 0) ∨ (sr = 0 ∧ sw = 0) then .retire (c.setCo key co.advance)
    else if pw = 1 ∧ c.storesPending key then .stall
    else if sr = 1 ∧ 2 ≤ sc.toNat then .retire ((c.acquireL1 (key / 256)).setCo key co.advance)
    else .retire (c.setCo key co.advance)) s

/-- `FMT`: a format prefix for the next instruction; behind another prefix it traps `PFX` (R295, R296). -/
def execFmt (a b d k l : BitVec 5) (s : State) : Host.Outcome State Fault Refusal :=
  runWord false (fun c key co =>
    .retire (c.setCo key { co.advance with pp := true, pfx := (encode (.fmt a b d k l)).getD 0 })) s

/-! ### CSR writes as events of their own

Each row is the write step of a supervisor CSR by the coroutine that runs on the current core, as `CSRW` performs it;
nothing happens where no supervisor coroutine runs (where no coroutine runs, for `STATUS` and `PRIO`). -/

/-- The write step of a CSR by the current core's coroutine. A write that is a release is made once its older accesses have been
performed (R113, R121). -/
def Chip.csrEvent (c : Chip) (core n : Nat) (needSup : Bool) (v w1c : Word) : Chip :=
  match c.runningKey core with
  | none => c
  | some key =>
    match c.co key with
    | none => c
    | some co =>
      if (needSup && !co.sup) || (csrRelease n && c.undrained key) then c
      else
        let r := c.csrWrite key co n v w1c
        r.1.setCo key r.2

/-- `PTBASE_WRITE` (R100). -/
def execPtbaseWrite (v : BitVec 64) (s : State) : Host.Outcome State Fault Refusal :=
  onChip (fun c => c.csrEvent s.cur 0x106 true v v) s

/-- `XLINV_PAGE`: operation 0 (R113). -/
def execXlinvPage (v : BitVec 64) (s : State) : Host.Outcome State Fault Refusal :=
  onChip (fun c => c.csrEvent s.cur 0x10E true (v &&& ~~~3) 0) s

/-- `XLINV_REGION`: operation 1 (R113). -/
def execXlinvRegion (v : BitVec 64) (s : State) : Host.Outcome State Fault Refusal :=
  onChip (fun c => c.csrEvent s.cur 0x10E true (v &&& ~~~3 ||| 1) 0) s

/-- `XLINV_ASID`: operation 2 (R113). -/
def execXlinvAsid (v : BitVec 64) (s : State) : Host.Outcome State Fault Refusal :=
  onChip (fun c => c.csrEvent s.cur 0x10E true (v &&& ~~~3 ||| 2) 0) s

/-- `XLINV_ALL`: operation 3 (R113). -/
def execXlinvAll (v : BitVec 64) (s : State) : Host.Outcome State Fault Refusal :=
  onChip (fun c => c.csrEvent s.cur 0x10E true (v ||| 3) 0) s

/-- `KVBASE_RELOAD_ONE`: a write with `ONE` set (R121). -/
def execKvbaseReloadOne (v : BitVec 64) (s : State) : Host.Outcome State Fault Refusal :=
  onChip (fun c => c.csrEvent s.cur 0x107 true (v ||| 0x100) 0) s

/-- `KVBASE_RELOAD_ALL`: a write with `ONE` clear (R121). -/
def execKvbaseReloadAll (v : BitVec 64) (s : State) : Host.Outcome State Fault Refusal :=
  onChip (fun c => c.csrEvent s.cur 0x107 true (v &&& ~~~0x100) 0) s

/-- `SVCWAYS_WRITE` (R147, R150). -/
def execSvcwaysWrite (v : BitVec 64) (s : State) : Host.Outcome State Fault Refusal :=
  onChip (fun c => c.csrEvent s.cur 0x110 true v 0) s

/-- `SVCBW_WRITE` (R148, R150). -/
def execSvcbwWrite (v : BitVec 64) (s : State) : Host.Outcome State Fault Refusal :=
  onChip (fun c => c.csrEvent s.cur 0x111 true v 0) s

/-- `SVCMAP_WRITE` (R149, R150). -/
def execSvcmapWrite (v : BitVec 64) (s : State) : Host.Outcome State Fault Refusal :=
  onChip (fun c => c.csrEvent s.cur 0x112 true v 0) s

/-- `FQHEAD_WRITE` (R268). -/
def execFqheadWrite (v : BitVec 64) (s : State) : Host.Outcome State Fault Refusal :=
  onChip (fun c => c.csrEvent s.cur 0x116 true v 0) s

/-- `STATUS_WRITE`: the in-use bits presented as 1 clear (R218). -/
def execStatusWrite (v : BitVec 64) (s : State) : Host.Outcome State Fault Refusal :=
  onChip (fun c => c.csrEvent s.cur 0x000 false v v) s

/-- `PRIO_WRITE` (R167). -/
def execPrioWrite (v : BitVec 64) (s : State) : Host.Outcome State Fault Refusal :=
  onChip (fun c => c.csrEvent s.cur 0x005 false v 0) s

end Sys2Proof.Machine
end

