-- ==== Sys2Proof/Machine/VectorIssue.lean ====
section
/-! DEFINITION. How vector instructions issue: the checks of the front end (R359, R362, R372, R375, R377), what an
entry captures (R353), the scalar path (R236), the queue (R235); `VSETL`, `VSETLG` and `KVSETRUN`. -/

namespace Sys2Proof.Machine

/-- The floating-point vector instructions, which round under `FRM` (R310, R359). -/
def isVectorFloat (i : Instr) : Bool :=
  match i with
  | .vfadd _ _ _ _ _ _ => true
  | .vfsub _ _ _ _ _ _ => true
  | .vfmul _ _ _ _ _ _ => true
  | .vfma _ _ _ _ _ _ => true
  | .vfnma _ _ _ _ _ _ => true
  | .vfmin _ _ _ _ _ _ => true
  | .vfmax _ _ _ _ _ _ => true
  | .vfdiv _ _ _ _ _ _ => true
  | .vfsqrt _ _ _ _ => true
  | .vfrsq _ _ _ _ => true
  | .vfexp2 _ _ _ _ => true
  | .vfsgn _ _ _ _ _ _ => true
  | .vfcmp _ _ _ _ _ _ => true
  | .vfcvt _ _ _ _ _ => true
  | .vfredsum _ _ _ _ _ _ => true
  | .vfredmax _ _ _ _ _ _ => true
  | .vfredmin _ _ _ _ _ _ => true
  | .vrope _ _ _ _ _ _ => true
  | _ => false

/-- Whether a width condition of an instruction fails at an element width. -/
def widthRefused (i : Instr) (w : Nat) : Bool :=
  match i with
  | .vfcvt _ _ _ _ k => if k.toNat = 4 ∨ k.toNat = 5 then w = 16 else if 6 ≤ k.toNat then w ≠ 32 else false
  | .vrope _ _ _ _ _ _ => w ≠ 16 && w ≠ 32
  | .vtopk _ _ _ _ _ => w ≠ 16 && w ≠ 32
  | i => (match memSpec i with
      | some sp => decide (w < 8 * sp.size)
      | none => false)

/-- The `RSV` checks of a vector instruction against the coroutine's `VTYPE` and `FRM`. -/
def vectorPre (i : Instr) (co : Coroutine) : Option Nat :=
  if widthRefused i (sewBits co.vtype) then some causeRsv
  else if isVectorFloat i && (sewBits co.vtype = 8 || decide (5 ≤ co.frm.toNat)) then some causeRsv
  else none

/-- What a vector instruction captures at issue (R235, R353). -/
def capture (i : Instr) (key : Nat) (co : Coroutine) (s1 s2 : Word) : VEntry where
  op := i
  slot := key % 256
  pc := co.pc
  s1 := s1
  s2 := s2
  vl := co.vl
  vstart := co.vstart
  vtype := co.vtype
  frm := co.frm.toNat
  rope := co.ropecfg
  cap := co.topkn.toNat
  asid := co.asid
  sup := co.sup
  pfx := if co.pp then some co.pfx else none
  seqs := []
  wrote := []

/-- What follows the issue of a vector instruction: `NOBK` and a taken prefix clear; one that is done on the scalar
path takes its `STEP` under `ESTEP.EL` (R278). `co` is the coroutine as the instruction found it. -/
def Chip.vectorIssued (c : Chip) (key : Nat) (co : Coroutine) (done : Bool) : Chip :=
  let c := if co.nobk || co.pp then c.modCo key (fun co => { co with nobk := false, pp := false }) else c
  if done && co.estepEl then c.stepTrap key else c

/-- The coroutine after the issue of a vector instruction: `VSTART` is 0 and it goes on (R353). -/
def Coroutine.vectorNext (co : Coroutine) : Coroutine := { co with vstart := 0, pc := co.pc + 4 }

/-- An entry enters the queue; the front end stalls while the queue is full (R235). -/
def enqueue (c : Chip) (key : Nat) (co co' : Coroutine) (e : VEntry) : Issue :=
  if 32 ≤ (c.core (key / 256)).vq.length then .stall
  else .gone (((c.modCore (key / 256) (fun k => { k with vq := k.vq ++ [e] })).setCo key co').vectorIssued key co false)

/-- Whether no queued entry of a coroutine touches a vector register of an instruction (R236). -/
def Chip.pathFree (c : Chip) (key : Nat) (i : Instr) : Bool :=
  (c.entriesOf key).all (fun e => (vectorRegs e.op).all (fun r => !(vectorRegs i).contains r))

/-- A vector instruction: on the scalar path where its result is uniform or affine, else in the queue. -/
def vectorBody (i : Instr) (s1 s2 : Coroutine → Word) : WordBody :=
  fun c key co =>
    let e := capture i key co (s1 co) (s2 co)
    if c.pathFree key i && (scalarPathSpec e co).isSome then
      .gone (((c.setCo key ((pureOp e co.vectorNext).getD co.vectorNext)).settlePool key ((vectorRegs i).map BitVec.toNat)).vectorIssued
        key co true)
    else enqueue c key co co.vectorNext e

/-- The marker that a `FENCE.VV` leaves in the vector command queue: it has no elements (R387). -/
def fenceEntry (key : Nat) (co : Coroutine) : VEntry := { capture .fenceVv key co 0 0 with vl := 0, vstart := 0 }

/-- `FENCE.VV`: a marker in the vector command queue (R387); since the model performs vector memory instructions in queue order,
none passes it (R195). (DEDUCED, log entry 22.) -/
def execFenceVv (s : State) : Host.Outcome State Fault Refusal :=
  runWord false (fun c key co => enqueue c key co co.advance (fenceEntry key co)) s

/-- Issue a vector instruction. -/
def runVector (i : Instr) (s1 s2 : Coroutine → Word) (s : State) : Host.Outcome State Fault Refusal :=
  runChecked (vectorPre i) i false (vectorBody i s1 s2) s

/-- `VADD`: wrapping sum (R360). -/
def execVadd (d : BitVec 5) (a : BitVec 5) (b : BitVec 5) (c : BitVec 1) (e : BitVec 1) (m : BitVec 3) (st : State) : Host.Outcome State Fault Refusal :=
  runVector (.vadd d a b c e m) (fun _ => 0) (fun _ => 0) st

/-- `VSUB`: wrapping difference (R360). -/
def execVsub (d : BitVec 5) (a : BitVec 5) (b : BitVec 5) (c : BitVec 1) (e : BitVec 1) (m : BitVec 3) (st : State) : Host.Outcome State Fault Refusal :=
  runVector (.vsub d a b c e m) (fun _ => 0) (fun _ => 0) st

/-- `VMUL`: low product (R360). -/
def execVmul (d : BitVec 5) (a : BitVec 5) (b : BitVec 5) (c : BitVec 1) (e : BitVec 1) (m : BitVec 3) (st : State) : Host.Outcome State Fault Refusal :=
  runVector (.vmul d a b c e m) (fun _ => 0) (fun _ => 0) st

/-- `VMULH`: high signed product (R360). -/
def execVmulh (d : BitVec 5) (a : BitVec 5) (b : BitVec 5) (c : BitVec 1) (e : BitVec 1) (m : BitVec 3) (st : State) : Host.Outcome State Fault Refusal :=
  runVector (.vmulh d a b c e m) (fun _ => 0) (fun _ => 0) st

/-- `VMAC`: multiply and accumulate (R360). -/
def execVmac (d : BitVec 5) (a : BitVec 5) (b : BitVec 5) (c : BitVec 1) (e : BitVec 1) (m : BitVec 3) (st : State) : Host.Outcome State Fault Refusal :=
  runVector (.vmac d a b c e m) (fun _ => 0) (fun _ => 0) st

/-- `VMIN`: signed lesser (R360). -/
def execVmin (d : BitVec 5) (a : BitVec 5) (b : BitVec 5) (c : BitVec 1) (e : BitVec 1) (m : BitVec 3) (st : State) : Host.Outcome State Fault Refusal :=
  runVector (.vmin d a b c e m) (fun _ => 0) (fun _ => 0) st

/-- `VMAX`: signed greater (R360). -/
def execVmax (d : BitVec 5) (a : BitVec 5) (b : BitVec 5) (c : BitVec 1) (e : BitVec 1) (m : BitVec 3) (st : State) : Host.Outcome State Fault Refusal :=
  runVector (.vmax d a b c e m) (fun _ => 0) (fun _ => 0) st

/-- `VMINU`: unsigned lesser (R360). -/
def execVminu (d : BitVec 5) (a : BitVec 5) (b : BitVec 5) (c : BitVec 1) (e : BitVec 1) (m : BitVec 3) (st : State) : Host.Outcome State Fault Refusal :=
  runVector (.vminu d a b c e m) (fun _ => 0) (fun _ => 0) st

/-- `VMAXU`: unsigned greater (R360). -/
def execVmaxu (d : BitVec 5) (a : BitVec 5) (b : BitVec 5) (c : BitVec 1) (e : BitVec 1) (m : BitVec 3) (st : State) : Host.Outcome State Fault Refusal :=
  runVector (.vmaxu d a b c e m) (fun _ => 0) (fun _ => 0) st

/-- `VSADD`: saturating signed sum (R360). -/
def execVsadd (d : BitVec 5) (a : BitVec 5) (b : BitVec 5) (c : BitVec 1) (e : BitVec 1) (m : BitVec 3) (st : State) : Host.Outcome State Fault Refusal :=
  runVector (.vsadd d a b c e m) (fun _ => 0) (fun _ => 0) st

/-- `VSSUB`: saturating signed difference (R360). -/
def execVssub (d : BitVec 5) (a : BitVec 5) (b : BitVec 5) (c : BitVec 1) (e : BitVec 1) (m : BitVec 3) (st : State) : Host.Outcome State Fault Refusal :=
  runVector (.vssub d a b c e m) (fun _ => 0) (fun _ => 0) st

/-- `VABS`: magnitude (R360). -/
def execVabs (d : BitVec 5) (a : BitVec 5) (c : BitVec 1) (m : BitVec 3) (st : State) : Host.Outcome State Fault Refusal :=
  runVector (.vabs d a c m) (fun _ => 0) (fun _ => 0) st

/-- `VAND`: bitwise AND (R360). -/
def execVand (d : BitVec 5) (a : BitVec 5) (b : BitVec 5) (c : BitVec 1) (e : BitVec 1) (m : BitVec 3) (st : State) : Host.Outcome State Fault Refusal :=
  runVector (.vand d a b c e m) (fun _ => 0) (fun _ => 0) st

/-- `VOR`: bitwise OR (R360). -/
def execVor (d : BitVec 5) (a : BitVec 5) (b : BitVec 5) (c : BitVec 1) (e : BitVec 1) (m : BitVec 3) (st : State) : Host.Outcome State Fault Refusal :=
  runVector (.vor d a b c e m) (fun _ => 0) (fun _ => 0) st

/-- `VXOR`: bitwise XOR (R360). -/
def execVxor (d : BitVec 5) (a : BitVec 5) (b : BitVec 5) (c : BitVec 1) (e : BitVec 1) (m : BitVec 3) (st : State) : Host.Outcome State Fault Refusal :=
  runVector (.vxor d a b c e m) (fun _ => 0) (fun _ => 0) st

/-- `VSLL`: left shift (R360). -/
def execVsll (d : BitVec 5) (a : BitVec 5) (b : BitVec 5) (c : BitVec 1) (e : BitVec 1) (m : BitVec 3) (st : State) : Host.Outcome State Fault Refusal :=
  runVector (.vsll d a b c e m) (fun _ => 0) (fun _ => 0) st

/-- `VSRL`: right shift filling with zeros (R360). -/
def execVsrl (d : BitVec 5) (a : BitVec 5) (b : BitVec 5) (c : BitVec 1) (e : BitVec 1) (m : BitVec 3) (st : State) : Host.Outcome State Fault Refusal :=
  runVector (.vsrl d a b c e m) (fun _ => 0) (fun _ => 0) st

/-- `VSRA`: right shift filling with the sign (R360). -/
def execVsra (d : BitVec 5) (a : BitVec 5) (b : BitVec 5) (c : BitVec 1) (e : BitVec 1) (m : BitVec 3) (st : State) : Host.Outcome State Fault Refusal :=
  runVector (.vsra d a b c e m) (fun _ => 0) (fun _ => 0) st

/-- `VCMP`: integer compare into a mask (R363). -/
def execVcmp (d : BitVec 5) (a : BitVec 5) (b : BitVec 5) (c : BitVec 1) (e : BitVec 1) (o : BitVec 3) (st : State) : Host.Outcome State Fault Refusal :=
  runVector (.vcmp d a b c e o) (fun _ => 0) (fun _ => 0) st

/-- `VMERGE`: selection by a mask (R364). -/
def execVmerge (d : BitVec 5) (a : BitVec 5) (b : BitVec 5) (c : BitVec 1) (e : BitVec 1) (m : BitVec 3) (st : State) : Host.Outcome State Fault Refusal :=
  runVector (.vmerge d a b c e m) (fun _ => 0) (fun _ => 0) st

/-- `VREDSUM`: integer sum into element 0 (R367). -/
def execVredsum (d : BitVec 5) (a : BitVec 5) (b : BitVec 5) (c : BitVec 1) (e : BitVec 1) (m : BitVec 3) (st : State) : Host.Outcome State Fault Refusal :=
  runVector (.vredsum d a b c e m) (fun _ => 0) (fun _ => 0) st

/-- `VREDMAX`: signed greatest into element 0 (R367). -/
def execVredmax (d : BitVec 5) (a : BitVec 5) (b : BitVec 5) (c : BitVec 1) (e : BitVec 1) (m : BitVec 3) (st : State) : Host.Outcome State Fault Refusal :=
  runVector (.vredmax d a b c e m) (fun _ => 0) (fun _ => 0) st

/-- `VREDMIN`: signed least into element 0 (R367). -/
def execVredmin (d : BitVec 5) (a : BitVec 5) (b : BitVec 5) (c : BitVec 1) (e : BitVec 1) (m : BitVec 3) (st : State) : Host.Outcome State Fault Refusal :=
  runVector (.vredmin d a b c e m) (fun _ => 0) (fun _ => 0) st

/-- `VSLIDEUP`: slide towards higher elements by x[b] (R368). -/
def execVslideup (d : BitVec 5) (a : BitVec 5) (b : BitVec 5) (c : BitVec 1) (m : BitVec 3) (st : State) : Host.Outcome State Fault Refusal :=
  runVector (.vslideup d a b c m) (fun _ => 0) (fun co => co.xr b) st

/-- `VSLIDEDN`: slide towards lower elements by x[b] (R368). -/
def execVslidedn (d : BitVec 5) (a : BitVec 5) (b : BitVec 5) (c : BitVec 1) (m : BitVec 3) (st : State) : Host.Outcome State Fault Refusal :=
  runVector (.vslidedn d a b c m) (fun _ => 0) (fun co => co.xr b) st

/-- `VGATHER`: gather by index (R368). -/
def execVgather (d : BitVec 5) (a : BitVec 5) (b : BitVec 5) (c : BitVec 1) (e : BitVec 1) (m : BitVec 3) (st : State) : Host.Outcome State Fault Refusal :=
  runVector (.vgather d a b c e m) (fun _ => 0) (fun _ => 0) st

/-- `VCOMPRESS`: pack the masked elements (R369). -/
def execVcompress (d : BitVec 5) (a : BitVec 5) (c : BitVec 1) (m : BitVec 3) (st : State) : Host.Outcome State Fault Refusal :=
  runVector (.vcompress d a c m) (fun _ => 0) (fun _ => 0) st

/-- `VSCAN`: inclusive prefix sum (R369). -/
def execVscan (d : BitVec 5) (a : BitVec 5) (c : BitVec 1) (m : BitVec 3) (st : State) : Host.Outcome State Fault Refusal :=
  runVector (.vscan d a c m) (fun _ => 0) (fun _ => 0) st

/-- `VTOPK`: stream pairs into the top-k buffer (R372). (DEDUCED, log entry 22.) -/
def execVtopk (a : BitVec 5) (b : BitVec 5) (c : BitVec 1) (e : BitVec 1) (m : BitVec 3) (st : State) : Host.Outcome State Fault Refusal :=
  runVector (.vtopk a b c e m) (fun _ => 0) (fun _ => 0) st

/-- `VTOPKR`: read the held indices from x[a] on (R373). -/
def execVtopkr (d : BitVec 5) (a : BitVec 5) (st : State) : Host.Outcome State Fault Refusal :=
  runVector (.vtopkr d a) (fun co => co.xr a) (fun _ => 0) st

/-- `VMAND`: mask AND (R365). -/
def execVmand (d : BitVec 5) (a : BitVec 5) (b : BitVec 5) (st : State) : Host.Outcome State Fault Refusal :=
  runVector (.vmand d a b) (fun _ => 0) (fun _ => 0) st

/-- `VMOR`: mask OR (R365). -/
def execVmor (d : BitVec 5) (a : BitVec 5) (b : BitVec 5) (st : State) : Host.Outcome State Fault Refusal :=
  runVector (.vmor d a b) (fun _ => 0) (fun _ => 0) st

/-- `VMXOR`: mask XOR (R365). -/
def execVmxor (d : BitVec 5) (a : BitVec 5) (b : BitVec 5) (st : State) : Host.Outcome State Fault Refusal :=
  runVector (.vmxor d a b) (fun _ => 0) (fun _ => 0) st

/-- `VMNOT`: mask NOT (R365). -/
def execVmnot (d : BitVec 5) (a : BitVec 5) (st : State) : Host.Outcome State Fault Refusal :=
  runVector (.vmnot d a) (fun _ => 0) (fun _ => 0) st

/-- `VMPOPC`: count of set bits into x[d] (R365). -/
def execVmpopc (d : BitVec 5) (a : BitVec 5) (st : State) : Host.Outcome State Fault Refusal :=
  runVector (.vmpopc d a) (fun _ => 0) (fun _ => 0) st

/-- `VMFIRST`: lowest set bit into x[d] (R365). -/
def execVmfirst (d : BitVec 5) (a : BitVec 5) (st : State) : Host.Outcome State Fault Refusal :=
  runVector (.vmfirst d a) (fun _ => 0) (fun _ => 0) st

/-- `VMVX`: broadcast of x[a] (R366). -/
def execVmvx (d : BitVec 5) (a : BitVec 5) (m : BitVec 3) (st : State) : Host.Outcome State Fault Refusal :=
  runVector (.vmvx d a m) (fun co => co.xr a) (fun _ => 0) st

/-- `VMVS`: element x[b] of va into x[d] (R366). -/
def execVmvs (d : BitVec 5) (a : BitVec 5) (b : BitVec 5) (c : BitVec 1) (st : State) : Host.Outcome State Fault Refusal :=
  runVector (.vmvs d a b c) (fun _ => 0) (fun co => co.xr b) st

/-- `VID`: element indices (R366). -/
def execVid (d : BitVec 5) (m : BitVec 3) (st : State) : Host.Outcome State Fault Refusal :=
  runVector (.vid d m) (fun _ => 0) (fun _ => 0) st

/-- `VSHAPE`: copy to a general register (R366). -/
def execVshape (d : BitVec 5) (a : BitVec 5) (c : BitVec 1) (m : BitVec 3) (st : State) : Host.Outcome State Fault Refusal :=
  runVector (.vshape d a c m) (fun _ => 0) (fun _ => 0) st

/-- `VSCLD`: load scale registers (R376). -/
def execVscld (k : BitVec 5) (a : BitVec 5) (b : BitVec 5) (st : State) : Host.Outcome State Fault Refusal :=
  runVector (.vscld k a b) (fun co => co.xr a) (fun co => co.xr b) st

/-- `VSCST`: store scale registers (R376). -/
def execVscst (k : BitVec 5) (a : BitVec 5) (b : BitVec 5) (st : State) : Host.Outcome State Fault Refusal :=
  runVector (.vscst k a b) (fun co => co.xr a) (fun co => co.xr b) st

/-- `VFADD`: floating-point sum (R361). -/
def execVfadd (d : BitVec 5) (a : BitVec 5) (b : BitVec 5) (c : BitVec 1) (e : BitVec 1) (m : BitVec 3) (st : State) : Host.Outcome State Fault Refusal :=
  runVector (.vfadd d a b c e m) (fun _ => 0) (fun _ => 0) st

/-- `VFSUB`: floating-point difference (R361). -/
def execVfsub (d : BitVec 5) (a : BitVec 5) (b : BitVec 5) (c : BitVec 1) (e : BitVec 1) (m : BitVec 3) (st : State) : Host.Outcome State Fault Refusal :=
  runVector (.vfsub d a b c e m) (fun _ => 0) (fun _ => 0) st

/-- `VFMUL`: floating-point product (R361). -/
def execVfmul (d : BitVec 5) (a : BitVec 5) (b : BitVec 5) (c : BitVec 1) (e : BitVec 1) (m : BitVec 3) (st : State) : Host.Outcome State Fault Refusal :=
  runVector (.vfmul d a b c e m) (fun _ => 0) (fun _ => 0) st

/-- `VFMA`: fused A * B + D (R361). -/
def execVfma (d : BitVec 5) (a : BitVec 5) (b : BitVec 5) (c : BitVec 1) (e : BitVec 1) (m : BitVec 3) (st : State) : Host.Outcome State Fault Refusal :=
  runVector (.vfma d a b c e m) (fun _ => 0) (fun _ => 0) st

/-- `VFNMA`: fused D - A * B (R361). -/
def execVfnma (d : BitVec 5) (a : BitVec 5) (b : BitVec 5) (c : BitVec 1) (e : BitVec 1) (m : BitVec 3) (st : State) : Host.Outcome State Fault Refusal :=
  runVector (.vfnma d a b c e m) (fun _ => 0) (fun _ => 0) st

/-- `VFMIN`: lesser number (R361, R313). -/
def execVfmin (d : BitVec 5) (a : BitVec 5) (b : BitVec 5) (c : BitVec 1) (e : BitVec 1) (m : BitVec 3) (st : State) : Host.Outcome State Fault Refusal :=
  runVector (.vfmin d a b c e m) (fun _ => 0) (fun _ => 0) st

/-- `VFMAX`: greater number (R361, R313). -/
def execVfmax (d : BitVec 5) (a : BitVec 5) (b : BitVec 5) (c : BitVec 1) (e : BitVec 1) (m : BitVec 3) (st : State) : Host.Outcome State Fault Refusal :=
  runVector (.vfmax d a b c e m) (fun _ => 0) (fun _ => 0) st

/-- `VFDIV`: quotient (R361). -/
def execVfdiv (d : BitVec 5) (a : BitVec 5) (b : BitVec 5) (c : BitVec 1) (e : BitVec 1) (m : BitVec 3) (st : State) : Host.Outcome State Fault Refusal :=
  runVector (.vfdiv d a b c e m) (fun _ => 0) (fun _ => 0) st

/-- `VFSQRT`: square root (R361). -/
def execVfsqrt (d : BitVec 5) (a : BitVec 5) (c : BitVec 1) (m : BitVec 3) (st : State) : Host.Outcome State Fault Refusal :=
  runVector (.vfsqrt d a c m) (fun _ => 0) (fun _ => 0) st

/-- `VFRSQ`: reciprocal square root (R361). -/
def execVfrsq (d : BitVec 5) (a : BitVec 5) (c : BitVec 1) (m : BitVec 3) (st : State) : Host.Outcome State Fault Refusal :=
  runVector (.vfrsq d a c m) (fun _ => 0) (fun _ => 0) st

/-- `VFEXP2`: 2 to the power A (R361). -/
def execVfexp2 (d : BitVec 5) (a : BitVec 5) (c : BitVec 1) (m : BitVec 3) (st : State) : Host.Outcome State Fault Refusal :=
  runVector (.vfexp2 d a c m) (fun _ => 0) (fun _ => 0) st

/-- `VFSGN`: sign injection (R361). -/
def execVfsgn (d : BitVec 5) (a : BitVec 5) (b : BitVec 5) (c : BitVec 1) (e : BitVec 1) (m : BitVec 3) (st : State) : Host.Outcome State Fault Refusal :=
  runVector (.vfsgn d a b c e m) (fun _ => 0) (fun _ => 0) st

/-- `VFCMP`: floating-point compare into a mask (R363). -/
def execVfcmp (d : BitVec 5) (a : BitVec 5) (b : BitVec 5) (c : BitVec 1) (e : BitVec 1) (o : BitVec 2) (st : State) : Host.Outcome State Fault Refusal :=
  runVector (.vfcmp d a b c e o) (fun _ => 0) (fun _ => 0) st

/-- `VFCVT`: conversion by its kind (R362). -/
def execVfcvt (d : BitVec 5) (a : BitVec 5) (c : BitVec 1) (m : BitVec 3) (k : BitVec 3) (st : State) : Host.Outcome State Fault Refusal :=
  runVector (.vfcvt d a c m k) (fun _ => 0) (fun _ => 0) st

/-- `VFREDSUM`: pairwise-tree sum into element 0 (R322, R367). -/
def execVfredsum (d : BitVec 5) (a : BitVec 5) (b : BitVec 5) (c : BitVec 1) (e : BitVec 1) (m : BitVec 3) (st : State) : Host.Outcome State Fault Refusal :=
  runVector (.vfredsum d a b c e m) (fun _ => 0) (fun _ => 0) st

/-- `VFREDMAX`: greatest number into element 0 (R322, R367). -/
def execVfredmax (d : BitVec 5) (a : BitVec 5) (b : BitVec 5) (c : BitVec 1) (e : BitVec 1) (m : BitVec 3) (st : State) : Host.Outcome State Fault Refusal :=
  runVector (.vfredmax d a b c e m) (fun _ => 0) (fun _ => 0) st

/-- `VFREDMIN`: least number into element 0 (R322, R367). -/
def execVfredmin (d : BitVec 5) (a : BitVec 5) (b : BitVec 5) (c : BitVec 1) (e : BitVec 1) (m : BitVec 3) (st : State) : Host.Outcome State Fault Refusal :=
  runVector (.vfredmin d a b c e m) (fun _ => 0) (fun _ => 0) st

/-- `VROPE`: rotation of element pairs (R375). -/
def execVrope (d : BitVec 5) (a : BitVec 5) (b : BitVec 5) (c : BitVec 1) (e : BitVec 1) (m : BitVec 3) (st : State) : Host.Outcome State Fault Refusal :=
  runVector (.vrope d a b c e m) (fun _ => 0) (fun _ => 0) st

/-- `VLD`: unit-stride load (R377). -/
def execVld (d : BitVec 5) (a : BitVec 5) (h : BitVec 2) (o : BitVec 1) (n : BitVec 1) (m : BitVec 3) (e : BitVec 2) (st : State) : Host.Outcome State Fault Refusal :=
  runVector (.vld d a h o n m e) (fun co => co.xr a) (fun _ => 0) st

/-- `VLDS`: strided load (R377). -/
def execVlds (d : BitVec 5) (a : BitVec 5) (s : BitVec 5) (o : BitVec 1) (n : BitVec 1) (m : BitVec 3) (e : BitVec 2) (st : State) : Host.Outcome State Fault Refusal :=
  runVector (.vlds d a s o n m e) (fun co => co.xr a) (fun co => co.xr s) st

/-- `VLDX`: indexed load (R377). -/
def execVldx (d : BitVec 5) (a : BitVec 5) (s : BitVec 5) (o : BitVec 1) (n : BitVec 1) (m : BitVec 3) (e : BitVec 2) (st : State) : Host.Outcome State Fault Refusal :=
  runVector (.vldx d a s o n m e) (fun co => co.xr a) (fun _ => 0) st

/-- `VLDFF`: fault-only-first load (R381). -/
def execVldff (d : BitVec 5) (a : BitVec 5) (h : BitVec 2) (o : BitVec 1) (n : BitVec 1) (m : BitVec 3) (e : BitVec 2) (st : State) : Host.Outcome State Fault Refusal :=
  runVector (.vldff d a h o n m e) (fun co => co.xr a) (fun _ => 0) st

/-- `VST`: unit-stride store (R377). -/
def execVst (d : BitVec 5) (a : BitVec 5) (h : BitVec 2) (o : BitVec 1) (n : BitVec 1) (m : BitVec 3) (e : BitVec 2) (st : State) : Host.Outcome State Fault Refusal :=
  runVector (.vst d a h o n m e) (fun co => co.xr a) (fun _ => 0) st

/-- `VSTS`: strided store (R377). -/
def execVsts (d : BitVec 5) (a : BitVec 5) (s : BitVec 5) (o : BitVec 1) (n : BitVec 1) (m : BitVec 3) (e : BitVec 2) (st : State) : Host.Outcome State Fault Refusal :=
  runVector (.vsts d a s o n m e) (fun co => co.xr a) (fun co => co.xr s) st

/-- `VSTX`: indexed store (R377). -/
def execVstx (d : BitVec 5) (a : BitVec 5) (s : BitVec 5) (o : BitVec 1) (n : BitVec 1) (m : BitVec 3) (e : BitVec 2) (st : State) : Host.Outcome State Fault Refusal :=
  runVector (.vstx d a s o n m e) (fun co => co.xr a) (fun _ => 0) st

/-- `VTOPKI`: sets `TOPKN.CAP` at issue and empties the top-k buffer in queue order (R371). -/
def execVtopki (a : BitVec 5) (st : State) : Host.Outcome State Fault Refusal :=
  runWord false (fun c key co =>
    enqueue c key co (writeTopkn co (co.xr a)).vectorNext (capture (.vtopki a) key co 0 0)) st

/-! ### Length and type (R354, R355) -/

/-- The least of a requested length and VLMAX. -/
def grantLength (x : Word) (vt : Nat) : Nat := Nat.min x.toNat (vlmaxOf vt)

/-- `VSETL`: sets `VTYPE` and `VL` (R354). -/
def execVsetl (d a : BitVec 5) (t : BitVec 8) (st : State) : Host.Outcome State Fault Refusal :=
  runWord false (retireCo (fun co =>
    { (co.setX d (wordOf (grantLength (co.xr a) t.toNat))) with vtype := t.toNat, vl := grantLength (co.xr a) t.toNat })) st

/-- The length that a gang's grant gives, and the chip with the grant as it then stands (R355). -/
def Chip.grant (c : Chip) (gang : Nat) (x : Word) (vt : Nat) : Nat × Chip :=
  match mget c.gangs gang with
  | none => (grantLength x vt, c)
  | some g =>
    match g.grant with
    | some (sew, req, len) =>
      if sew = vt % 4 ∧ req = x then (len, c)
      else (grantLength x vt, { c with gangs := mset c.gangs gang { g with grant := some (vt % 4, x, grantLength x vt) } })
    | none => (grantLength x vt, { c with gangs := mset c.gangs gang { g with grant := some (vt % 4, x, grantLength x vt) } })

/-- `VSETLG`: sets `VTYPE`, and `VL` by the gang's length grant (R355). -/
def execVsetlg (d a : BitVec 5) (t : BitVec 8) (st : State) : Host.Outcome State Fault Refusal :=
  runWord false (fun c key co =>
    let g := c.grant co.gang (co.xr a) t.toNat
    .retire (g.2.setCo key { (co.setX d (wordOf g.1)) with vtype := t.toNat, vl := g.1 }.advance)) st

/-! ### KV access (R431, R432) -/

/-- The trap of a KV access that is not performed before its instruction. -/
def kvTrapB (co : Coroutine) (h : Word) (acc : Nat) : Trap := ⟨causeKvu, co.pc, h, 0, acc, false, 0, 0, 0, 0, 0, co.asid⟩

/-- A KV fault at point B. -/
def kvFaultB (c' : Chip) (key : Nat) (f : KvStop) (joined h : Word) (pos : Nat) (t : Trap) : Issue :=
  .gone (c'.kvTrap key f joined h pos t)

/-- `KVSETRUN`: the run of contiguous positions of a block from a position on (R431). -/
def execKvsetrun (d a b : BitVec 5) (st : State) : Host.Outcome State Fault Refusal :=
  runWord false (fun c key co =>
    let h := co.xr a
    let p := (co.xr b).toNat
    match (if co.sup then none else c.kvRecordFor (key / 1024) h p) with
    | some r => kvFaultB c key ⟨r.kind, false⟩ (c.tokenOf (spireOf (key / 256)) r.fbi) h p (kvTrapB co h 7)
    | none =>
      match c.kvWalk (key / 1024) h p co.asid with
      | (.inl f, c') => kvFaultB c' key f 0 h p (kvTrapB co h 7)
      | (.inr (_, ds), c') => .retire (c'.setCo key (co.setX d (wordOf (Nat.min (ds.bt - p % ds.bt) (ds.limit - p)))).advance)) st

/-- A KV access issued: `RSV` at B where SEW is not the space's element width, on a descriptor that a walk may use. -/
def kvMoveBody (i : Instr) (a x : BitVec 5) : WordBody :=
  fun c key co =>
    match c.walkDesc (co.xr a) co.asid with
    | .inr ds =>
      if sewBits co.vtype ≠ 8 * ds.es then trapWord c key co causeRsv i
      else enqueue c key co co.vectorNext (capture i key co (co.xr a) (co.xr x))
    | .inl _ => enqueue c key co co.vectorNext (capture i key co (co.xr a) (co.xr x))

/-- `VLDKV`: loads elements of a KV position (R432). -/
def execVldkv (d a s : BitVec 5) (o n : BitVec 1) (m : BitVec 3) (h : BitVec 1) (st : State) : Host.Outcome State Fault Refusal :=
  runWord false (kvMoveBody (.vldkv d a s o n m h) a s) st

/-- `VSTKV`: stores elements of a KV position (R432). -/
def execVstkv (d a s : BitVec 5) (o n : BitVec 1) (m : BitVec 3) (h : BitVec 1) (st : State) : Host.Outcome State Fault Refusal :=
  runWord false (kvMoveBody (.vstkv d a s o n m h) a s) st

/-! ### Tile transfers (R382-R384) -/

/-- Whether an element width serves a tile format (R383). -/
def tileWidthOk (f w : Nat) : Bool :=
  match floatFmt f with
  | some _ => w ≠ 8
  | none => decide (fmtWidth f ≤ w)

/-- The decode check of a tile transfer's prefix: codes b and d must be 0. -/
def tilePre (co : Coroutine) : Option Nat :=
  if co.pp && (pfxB (some co.pfx) ≠ 0 || pfxD (some co.pfx) ≠ 0) then some causeRsv else none

/-- A tile transfer issued: the window check, the tile-wait, the checks against the tile's configuration, and the
access recorded (R239, R227, R383, R384, R243). -/
def tileBody (i : Instr) (t r : BitVec 5) (write column : Bool) : WordBody :=
  fun c key co =>
    let p := co.tbase + t.toNat
    let tl := (c.cluster (key / 1024)).tile p
    let e := capture i key co 0 (co.xr r)
    let f := orCode (pfxA e.pfx) tl.fmt
    let w := sewBits co.vtype
    if co.tcount ≤ t.toNat then trapB c key co causeTwin 0
    else if tl.state ≠ 3 then c.suspendOn key co (.tile p)
    else if fmtWidth f ≠ fmtWidth tl.fmt then trapB c key co causeMgeo 0
    else if !tileWidthOk f w then trapWord c key co causeRsv i
    else if (if column then tl.cols ≤ (co.xr r).toNat ∨ tl.rows < co.vl else tl.rows ≤ (co.xr r).toNat ∨ tl.cols < co.vl) then
      trapB c key co causeMgeo 0
    else if 32 ≤ (c.core (key / 256)).vq.length then .stall
    else
      let q := c.record (key / 1024) p write
      enqueue q.2 key co co.vectorNext { e with seqs := [q.1] }

/-- `VLDT`: a row of a tile into a vector register (R382). -/
def execVldt (d t r : BitVec 5) (m : BitVec 3) (st : State) : Host.Outcome State Fault Refusal :=
  runChecked tilePre (.vldt d t r m) true (tileBody (.vldt d t r m) t r false false) st

/-- `VSTT`: a vector register into a row of a tile (R382). -/
def execVstt (d t r : BitVec 5) (m : BitVec 3) (st : State) : Host.Outcome State Fault Refusal :=
  runChecked tilePre (.vstt d t r m) true (tileBody (.vstt d t r m) t r true false) st

/-- `VLDTT`: a column of a tile into a vector register (R382). -/
def execVldtt (d t r : BitVec 5) (m : BitVec 3) (st : State) : Host.Outcome State Fault Refusal :=
  runChecked tilePre (.vldtt d t r m) true (tileBody (.vldtt d t r m) t r false true) st

end Sys2Proof.Machine
end

