-- ==== Sys2Proof/Machine/Dome.lean ====
section
/-! DEFINITION. Matrix commands: their checks at issue (R417-R425), the matrix queues and the dome (R244), tile
configuration (R414-R416), rotation and swap (R248, R249, R423, R424). -/

namespace Sys2Proof.Machine

/-! ### Geometry (R420-R425) -/

/-- Whether an operand's format code is allowed: the configured width, and not I32. -/
def codeOk (f : Nat) (t : Tile) : Bool := fmtWidth f = fmtWidth t.fmt && f ≠ 21

/-- Whether a product of tiles A and B passes the checks of R420, for M rows. -/
def MEntry.pairOk (e : MEntry) (k : Cluster) (ta tb m : Nat) : Bool :=
  let a := k.tile ta
  let b := k.tile tb
  let fa := orCode (pfxA e.pfx) a.fmt
  let fb := orCode (pfxB e.pfx) b.fmt
  codeOk fa a && codeOk fb b && (pfxD e.pfx = 0 || pfxD e.pfx = e.fmt) && a.cols = b.rows
    && decide (m ≤ 128) && decide (b.cols ≤ 128) && decide (a.cols ≤ largestK fa fb)
    && operandsOk fa fb e.fmt e.vtype (scaleA e.pfx) (scaleB e.pfx) a.cols

/-- The groups of an `MMAG` that have rows. -/
def activeGroups (w : Word) : List Nat := (List.range 8).filter (fun g => groupRows w g ≠ 0)

/-- Whether an operand format of `MOPA` is allowed (R422). -/
def mopaCodeOk (p vtype : Nat) : Bool :=
  if p = 0 then sewBits vtype = 16 || sewBits vtype = 32
  else fmtWidth p = sewBits vtype && p ≠ 21 && !isO4 p

/-- Whether a conversion between a tile and a slot is allowed (R425). -/
def convertOk (f : Nat) (t : Tile) : Bool :=
  decide (t.rows ≤ 128) && decide (t.cols ≤ 128) && !isO4 f && fmtWidth f = fmtWidth t.fmt

/-- The checks of a matrix command against tile configurations and its slot's format, which trap `MGEO`. -/
def MEntry.geometryOk (e : MEntry) (k : Cluster) : Bool :=
  match e.op with
  | .mma a b _ => e.pairOk k (e.tbase + a.toNat) (e.tbase + b.toNat) (k.tile (e.tbase + a.toNat)).rows
  | .mmrot a b _ => e.pairOk k (e.tbase + a.toNat) (e.tbase + b.toNat) (k.tile (e.tbase + a.toNat)).rows
  | .mmag a b _ =>
    decide (groupFirst e.mshape 8 ≤ (k.tile (e.tbase + a.toNat)).rows) && decide (groupFirst e.mshape 8 ≤ 128)
      && (activeGroups e.mshape).all (fun g => e.pairOk k (e.tbase + a.toNat) (e.tbase + b.toNat + g) (groupRows e.mshape g))
  | .mdrain t _ => convertOk (orCode (pfxD e.pfx) (k.tile (e.tbase + t.toNat)).fmt) (k.tile (e.tbase + t.toNat))
  | .mfill t _ => convertOk (orCode (pfxA e.pfx) (k.tile (e.tbase + t.toNat)).fmt) (k.tile (e.tbase + t.toNat))
  | .macq _ _ => e.fmt = 1 || e.fmt = 3 || e.fmt = 21
  | .mopa _ _ _ _ _ _ =>
    mopaCodeOk (pfxA e.pfx) e.vtype && mopaCodeOk (pfxB e.pfx) e.vtype && (pfxD e.pfx = 0 || pfxD e.pfx = e.fmt)
      && decide (e.vl ≤ 128)
      && operandsOk (mopaFmt (pfxA e.pfx) e.vtype) (mopaFmt (pfxB e.pfx) e.vtype) e.fmt e.vtype (scaleA e.pfx) (scaleB e.pfx) e.vl
  | _ => true

/-! ### Rotation groups (R248) -/

/-- Cluster at a row and group column of a cluster's rotation group. -/
def groupCluster (cl row col : Nat) : Nat := cl / 32 * 32 + row % 4 * 8 + cl % 8 / 4 * 4 + col % 4

/-- Row of a cluster. -/
def rowOf (cl : Nat) : Nat := cl % 32 / 8
/-- Column of a cluster in its rotation group. -/
def colOf (cl : Nat) : Nat := cl % 4

/-- The west neighbour. -/
def westOf (cl : Nat) : Nat := groupCluster cl (rowOf cl) (colOf cl + 3)
/-- The north neighbour. -/
def northOf (cl : Nat) : Nat := groupCluster cl (rowOf cl + 3) (colOf cl)
/-- The east neighbour. -/
def eastOf (cl : Nat) : Nat := groupCluster cl (rowOf cl) (colOf cl + 1)
/-- The south neighbour. -/
def southOf (cl : Nat) : Nat := groupCluster cl (rowOf cl + 1) (colOf cl)
/-- The mirror cluster of a swap. -/
def swapOf (cl : Nat) : Nat := groupCluster cl (colOf cl) (rowOf cl)

/-- Whether every link that a rotation or swap uses joins clusters of one partition. -/
def Chip.linksOk (c : Chip) (cl : Nat) (i : Instr) : Bool :=
  match i with
  | .mmrot _ _ _ => [westOf cl, northOf cl, eastOf cl, southOf cl].all (fun n => c.partOf n = c.partOf cl)
  | .mswap _ => c.partOf (swapOf cl) = c.partOf cl
  | _ => true

/-! ### Issue -/

/-- The tiles of its window that a matrix command names (R417, R421). -/
def namedTiles (i : Instr) (mshape : Word) : List Nat :=
  match i with
  | .mma a b _ => [a.toNat, b.toNat]
  | .mmrot a b _ => [a.toNat, b.toNat]
  | .mmag a b _ => a.toNat :: (activeGroups mshape).map (fun g => b.toNat + g)
  | .mswap t => [t.toNat]
  | .mdrain t _ => [t.toNat]
  | .mfill t _ => [t.toNat]
  | _ => []

/-- The accesses that a matrix command records, in order: object and whether it writes. -/
def MEntry.accesses (e : MEntry) : List (Nat × Bool) :=
  let t (n : BitVec 5) : Nat := e.tbase + n.toNat
  let s := slotObj e.slotNum
  match e.op with
  | .mma a b _ => [(t a, false), (t b, false), (s, true)]
  | .mmrot a b _ => [(t a, false), (t b, false), (s, true), (t a, true), (t b, true)]
  | .mmag a b _ => (t a, false) :: (activeGroups e.mshape).map (fun g => (t b + g, false)) ++ [(s, true)]
  | .mswap n => [(t n, false), (t n, true)]
  | .mdrain n _ => [(s, false), (t n, true)]
  | .mfill n _ => [(t n, false), (s, true)]
  | .mstat _ _ => [(s, false)]
  | _ => [(s, true)]

/-- The entry of a matrix command as it issues. -/
def matrixEntry (i : Instr) (key : Nat) (co : Coroutine) (s1 s2 : Word) (fmt : Nat) (pfx : Option IWord) : MEntry where
  op := i
  core := key / 256
  slot := key % 256
  lid := co.lid
  s1 := s1
  s2 := s2
  tbase := co.tbase
  abase := co.abase
  fmt := fmt
  pfx := pfx
  vtype := co.vtype
  vl := co.vl
  mshape := co.mshape
  k := co.kregs
  mask := 0
  va := VReg.zero
  vb := VReg.zero
  seqs := []
  copy := none
  ready := true
  westDone := false
  northDone := false

/-- What `MSTAT` reports of a slot but for its flags (R419). -/
def Slot.statWord (t : Slot) : Nat := (if !t.held then 0 else if t.orphan then 2 else 1) * 64 + t.fmt * 256

/-- The tag that a command leaves in recording order. An orphaned slot is reclaimed when the command is performed. -/
def Slot.afterIssue (t : Slot) (i : Instr) (key lid fmt : Nat) : Slot :=
  match i with
  | .macq _ _ => { t with held := true, orphan := false, core := key / 256, slot := key % 256, lid := lid, ended := false, fmt := fmt }
  | .mrel _ => { t with held := false, orphan := false }
  | _ => t

/-- Whether a command passes its slot's tag in recording order: it waits, traps `MGEO`, or proceeds (R417). -/
inductive SlotCheck where
  | wait | bad | ok
  deriving DecidableEq, Repr

/-- The slot check of a command. -/
def slotCheck (i : Instr) (t : Tag) : SlotCheck :=
  match i, t with
  | .mstat _ _, _ => .ok
  | .macq _ _, .free => .ok
  | _, .own => .ok
  | _, .other => .wait
  | _, .free => .bad

/-- Raise the fill counts of the tiles that a rotation or swap will fill. -/
def Chip.raiseFills (c : Chip) (cl : Nat) (e : MEntry) : Chip :=
  match e.op with
  | .mmrot a b _ => (c.modTile cl (e.tbase + a.toNat) Tile.moreFill).modTile cl (e.tbase + b.toNat) Tile.moreFill
  | .mswap t => c.modTile cl (e.tbase + t.toNat) Tile.moreFill
  | _ => c

/-- Update the tag of a command's slot in recording order, waking the slot's waiters when it becomes free. -/
def Chip.tagIssued (c : Chip) (cl key lid : Nat) (e : MEntry) : Chip :=
  match matrixSlot e.op with
  | none => c
  | some _ =>
    let c := c.modCluster cl (fun k => k.modSlot e.slotNum (fun t => t.afterIssue e.op key lid e.fmt))
    if ((c.cluster cl).slot e.slotNum).held then c else c.wakeSlotWaiters cl e.slotNum

/-- The front end's checks of a matrix command, in the order of R262, then `go` with its entry. `copyIn`: a follow-on,
whose tiles do not tile-wait (R429). (DEDUCED, log entry 29.) -/
def matrixChecks (i : Instr) (copyIn : Bool) (s1 : Word) (pfx : Option IWord) (go : Chip → MEntry → Issue) : WordBody :=
  fun c key co =>
    let cl := key / 1024
    let ts := namedTiles i co.mshape
    let s := co.abase + (matrixSlot i).getD 0
    let sl := (c.cluster cl).slot s
    let fmt := match i with | .macq _ _ => bits s1.toNat 4 0 | _ => sl.fmt
    let e := matrixEntry i key co s1 (wordOf sl.statWord) fmt pfx
    if ts.any (fun t => decide (co.tcount ≤ t)) then trapB c key co causeTwin 0
    else if (matrixSlot i).any (fun t => decide (co.acount ≤ t)) then trapB c key co causeAwin 0
    else
      match (if copyIn then none else c.unreadyTile cl (ts.map (fun t => co.tbase + t))) with
      | some p => c.suspendOn key co (.tile p)
      | none =>
        match (if (matrixSlot i).isSome then slotCheck i (sl.tagFor key co.lid) else .ok) with
        | .wait => c.suspendOn key co (.slot s)
        | .bad => trapB c key co causeMgeo 0
        | .ok => if e.geometryOk (c.cluster cl) && c.linksOk cl i then go c e else trapB c key co causeMgeo 0

/-- Record a command's accesses, update its tag, raise its fill counts: the entry to queue, and the chip. -/
def Chip.recordMatrix (c : Chip) (key : Nat) (co : Coroutine) (e : MEntry) : MEntry × Chip :=
  let cl := key / 1024
  let r := c.recordAll cl e.accesses
  ({ e with seqs := r.1 }, (r.2.tagIssued cl key co.lid e).raiseFills cl e)

/-- A matrix queue with an entry appended. -/
def Chip.pushMatrix (c : Chip) (core : Nat) (e : MEntry) : Chip := c.modCore core (fun k => { k with mq := k.mq ++ [e] })

/-- Whether a command must wait for earlier vector instructions before its scale registers are read. -/
def Chip.scalesWait (c : Chip) (key : Nat) (co : Coroutine) : Bool := blkOf co.vtype ≠ 0 && c.vectorPending key

/-- The prefix that a taker of a coroutine takes. -/
def Coroutine.prefixWord (co : Coroutine) : Option IWord := if co.pp then some co.pfx else none

/-- A matrix command issued into its core's matrix queue (R244, R417). -/
def matrixBody (i : Instr) (s1 : Coroutine → Word) : WordBody :=
  fun c key co =>
    matrixChecks i false (s1 co) co.prefixWord (fun c e =>
      if 16 ≤ (c.core (key / 256)).mq.length || c.scalesWait key co then .stall
      else
        let r := c.recordMatrix key co e
        .retire ((r.2.pushMatrix (key / 256) r.1).setCo key co.advance)) c key co

/-- The decode check of a prefix on `MDRAIN` and `MFILL` (R425). -/
def convertPre (drain : Bool) (co : Coroutine) : Option Nat :=
  if co.pp && (pfxB (some co.pfx) ≠ 0 || (if drain then pfxA (some co.pfx) else pfxD (some co.pfx)) ≠ 0) then some causeRsv else none

/-- `MMA`: a matrix product into a slot (R420). -/
def execMma (a b : BitVec 5) (s : BitVec 4) (st : State) : Host.Outcome State Fault Refusal :=
  runWord true (matrixBody (.mma a b s) (fun _ => 0)) st

/-- `MMAG`: grouped products with ragged row counts (R421). -/
def execMmag (a b : BitVec 5) (s : BitVec 4) (st : State) : Host.Outcome State Fault Refusal :=
  runWord true (matrixBody (.mmag a b s) (fun _ => 0)) st

/-- `MMROT`: a product, then a step of rotation (R423). -/
def execMmrot (a b : BitVec 5) (s : BitVec 4) (st : State) : Host.Outcome State Fault Refusal :=
  runWord true (matrixBody (.mmrot a b s) (fun _ => 0)) st

/-- `MSWAP`: an exchange with the mirror cluster (R424). On the diagonal it completes with no effect. -/
def execMswap (t : BitVec 5) (st : State) : Host.Outcome State Fault Refusal :=
  runWord false (fun c key co =>
    if swapOf (key / 1024) = key / 1024 then
      matrixChecks (.mswap t) false 0 none (fun c _ => .retire (c.setCo key co.advance)) c key co
    else matrixBody (.mswap t) (fun _ => 0) c key co) st

/-- `MACQ`: takes a slot (R418). -/
def execMacq (a : BitVec 5) (s : BitVec 4) (st : State) : Host.Outcome State Fault Refusal :=
  runWord false (matrixBody (.macq a s) (fun co => co.xr a)) st

/-- `MREL`: frees a slot (R419). -/
def execMrel (s : BitVec 4) (st : State) : Host.Outcome State Fault Refusal := runWord false (matrixBody (.mrel s) (fun _ => 0)) st

/-- `MDRAIN`: a slot converted into a tile (R425). -/
def execMdrain (t : BitVec 5) (s : BitVec 4) (st : State) : Host.Outcome State Fault Refusal :=
  runChecked (convertPre true) (.mdrain t s) true (matrixBody (.mdrain t s) (fun _ => 0)) st

/-- `MFILL`: a tile converted into a slot (R425). -/
def execMfill (t : BitVec 5) (s : BitVec 4) (st : State) : Host.Outcome State Fault Refusal :=
  runChecked (convertPre false) (.mfill t s) true (matrixBody (.mfill t s) (fun _ => 0)) st

/-- `MZERO`: zeroes a slot (R419). -/
def execMzero (s : BitVec 4) (st : State) : Host.Outcome State Fault Refusal := runWord false (matrixBody (.mzero s) (fun _ => 0)) st

/-- `MRECLAIM`: holds an orphaned slot of one's own again (R419). -/
def execMreclaim (s : BitVec 4) (st : State) : Host.Outcome State Fault Refusal :=
  runWord false (matrixBody (.mreclaim s) (fun _ => 0)) st

/-- `MSTAT`: a slot's flags, state and format (R419). -/
def execMstat (a : BitVec 5) (s : BitVec 4) (st : State) : Host.Outcome State Fault Refusal :=
  runWord false (matrixBody (.mstat a s) (fun _ => 0)) st

/-- `MOPA`: the outer product of two vector registers, whose operands are read in queue order (R244, R422). -/
def execMopa (s : BitVec 4) (a b : BitVec 5) (c e : BitVec 1) (m : BitVec 3) (st : State) : Host.Outcome State Fault Refusal :=
  let i : Instr := .mopa s a b c e m
  runWord true (fun c key co =>
    matrixChecks i false 0 co.prefixWord (fun c e =>
      if 16 ≤ (c.core (key / 256)).mq.length || 32 ≤ (c.core (key / 256)).vq.length then .stall
      else
        let r := c.recordMatrix key co e
        enqueue (r.2.pushMatrix (key / 256) { r.1 with ready := false }) key co co.vectorNext
          { capture i key co 0 0 with seqs := r.1.seqs }) c key co) st

/-! ### Tile configuration (R414-R416) -/

/-- Whether a configuration word is allowed (R414). -/
def configOk (w : Word) : Bool :=
  let n := w.toNat
  decide (1 ≤ bits n 4 0) && decide (bits n 4 0 ≤ 20) && bits n 7 5 = 0 && decide (1 ≤ bits n 16 8) && decide (bits n 16 8 ≤ 256)
    && bits n 19 17 = 0 && decide (1 ≤ bits n 32 20) && decide (bits n 32 20 ≤ 4096) && bits n 63 33 = 0
    && decide (bits n 16 8 * rowStride (bits n 32 20) (fmtWidth (bits n 4 0)) ≤ 65536)

/-- `TCFG`: configures a tile, in queue order (R414). -/
def execTcfg (a b : BitVec 5) (st : State) : Host.Outcome State Fault Refusal :=
  runWord false (fun c key co =>
    let n := bits (co.xr a).toNat 4 0
    if co.tcount ≤ n then trapB c key co causeTwin 0
    else if !configOk (co.xr b) then trapB c key co causeMgeo 0
    else if 16 ≤ (c.core (key / 256)).mq.length then .stall
    else
      let r := c.record (key / 1024) (co.tbase + n) true
      .retire ((r.2.pushMatrix (key / 256)
        { matrixEntry (.tcfg a b) key co (wordOf (co.tbase + n)) (co.xr b) 0 none with seqs := [r.1] }).setCo key co.advance)) st

/-- The word that `TSTATE` reports (R415). -/
def Tile.stateWord (t : Tile) : Word :=
  wordOf ((if t.configured then t.fmt + t.rows * 2 ^ 8 + t.cols * 2 ^ 20 else 0) + t.fill % 2 ^ 15 * 2 ^ 33 + t.state * 2 ^ 62)

/-- `TSTATE`: a snapshot of a tile's configuration and state (R415). -/
def execTstate (a t : BitVec 5) (st : State) : Host.Outcome State Fault Refusal :=
  runWord false (fun c key co =>
    if co.tcount ≤ t.toNat then trapB c key co causeTwin 0
    else .retire (c.setCo key (co.setX a ((c.cluster (key / 1024)).tile (co.tbase + t.toNat)).stateWord).advance)) st

/-- `MSHAPE`: writes the group row counts and returns their sum (R416). -/
def execMshape (a b : BitVec 5) (st : State) : Host.Outcome State Fault Refusal :=
  runWord false (retireCo (fun co => { (co.setX a (wordOf (groupFirst (co.xr b) 8))) with mshape := co.xr b })) st

/-! ### The matrix queues and the dome (R244) -/

/-- Whether an entry is a `TCFG`. -/
def isTcfg (i : Instr) : Bool :=
  match i with
  | .tcfg _ _ => true
  | _ => false

/-- Whether an entry is an `MSWAP`. -/
def isMswap (i : Instr) : Bool :=
  match i with
  | .mswap _ => true
  | _ => false

/-- Whether an entry is an `MMROT`. -/
def isMmrot (i : Instr) : Bool :=
  match i with
  | .mmrot _ _ _ => true
  | _ => false

/-- Whether the copy of a follow-on has completed. -/
def Cluster.copyMoved (k : Cluster) (id : Nat) : Bool := k.copyQ.all (fun q => q.cmd.id ≠ id || q.moved)

/-- Whether the head of a core's matrix queue may start in the dome. -/
def Chip.domeReady (c : Chip) (core : Nat) : Bool :=
  let k := c.cluster (core / 4)
  match (c.core core).mq with
  | [] => false
  | e :: _ =>
    e.ready && !isTcfg e.op && (isMswap e.op || k.clear e.seqs) && (match e.copy with | some id => k.copyMoved id | none => true)

/-- The core that the dome serves next: round robin from the one after the core last served. -/
def Chip.domeNext (c : Chip) (cl : Nat) : Option Nat :=
  ((List.range 4).map (fun i => 4 * cl + ((c.cluster cl).lastCore + 1 + i) % 4)).find? c.domeReady

/-- Take the head of a core's matrix queue. -/
def Chip.popMatrix (c : Chip) (core : Nat) : Chip :=
  (c.modCore core (fun k => { k with mq := k.mq.drop 1 })).modCluster (core / 4) (fun k => { k with lastCore := core % 4 })

/-- A command of a slot's holder that names it while it is orphaned reclaims it first (R246). -/
def Chip.reclaim (c : Chip) (cl : Nat) (e : MEntry) : Chip :=
  match e.op with
  | .mstat _ _ => c
  | _ =>
    if (matrixSlot e.op).isNone then c
    else c.modCluster cl (fun k => k.modSlot e.slotNum (fun t =>
      if t.core = e.core ∧ t.slot = e.slot ∧ t.lid = e.lid then { t with orphan := false } else t))

/-- Start an entry: an `MSWAP` goes to its move phase, a follow-on is checked again and completes with `MGEO` where it
fails (R429), the rest occupies the dome. -/
def Chip.startMatrix (c : Chip) (core : Nat) (e : MEntry) : Chip :=
  let cl := core / 4
  let c := (c.popMatrix core).reclaim cl e
  if isMswap e.op then c.modCluster cl (fun k => { k with moves := k.moves ++ [e] })
  else
    match e.copy with
    | some id =>
      if e.geometryOk (c.cluster cl) && (namedTiles e.op e.mshape).all (fun t => ((c.cluster cl).tile (e.tbase + t)).configured) then
        c.modCluster cl (fun k => { k with dome := some e })
      else ((c.performed cl e.seqs).endCopy cl id 5).sweepSlots cl
    | none => c.modCluster cl (fun k => { k with dome := some e })

/-- The dome, idle, takes its next command. -/
def Chip.domeStart (c : Chip) (cl : Nat) : Chip :=
  if (c.cluster cl).dome.isSome || !c.clusterRuns cl then c
  else
    match c.domeNext cl with
    | none => c
    | some core =>
      match (c.core core).mq with
      | [] => c
      | e :: _ => c.startMatrix core e

/-- The dome's command ends: its effect, its accesses performed; an `MMROT` enters its move phase, a follow-on
completes its copy command. -/
def Chip.domeComplete (c : Chip) (cl : Nat) : Chip :=
  match (c.cluster cl).dome with
  | none => c
  | some e =>
    let c := (c.performMatrix cl e).modCluster cl (fun k => { k with dome := none })
    let c := if isMmrot e.op then (c.performed cl ((e.seqs.drop 2).take 1)).modCluster cl (fun k => { k with moves := k.moves ++ [e] })
      else c.performed cl e.seqs
    (match e.copy with
      | some id => c.endCopy cl id 0
      | none => c).sweepSlots cl

/-- `DOME_COMMAND_START` (R244). -/
def execDomeCommandStart (cluster : BitVec 7) (s : State) : Host.Outcome State Fault Refusal :=
  onChip (fun c => c.domeStart cluster.toNat) s

/-- `DOME_COMMAND_COMPLETE` (R244). -/
def execDomeCommandComplete (cluster : BitVec 7) (s : State) : Host.Outcome State Fault Refusal :=
  onChip (fun c => c.domeComplete cluster.toNat) s

/-- The head of a core's matrix queue is a `TCFG` that may be performed: the tile is configured (R414). -/
def Chip.tileConfigure (c : Chip) (core : Nat) : Chip :=
  let cl := core / 4
  match (c.core core).mq with
  | [] => c
  | e :: _ =>
    let t := (c.cluster cl).tile e.s1.toNat
    if isTcfg e.op && (c.cluster cl).clear e.seqs && (t.state = 0 || t.state = 3) && c.clusterRuns cl then
      (((c.modCore core (fun k => { k with mq := k.mq.drop 1 })).performed cl e.seqs).modTile cl e.s1.toNat (fun t =>
        { t with fmt := bits e.s2.toNat 4 0, rows := bits e.s2.toNat 16 8, cols := bits e.s2.toNat 32 20, configured := true })).sweepSlots cl
    else c

/-- `TILE_CONFIGURE` (R242, R414). -/
def execTileConfigure (core : BitVec 9) (s : State) : Host.Outcome State Fault Refusal :=
  onChip (fun c => c.tileConfigure core.toNat) s

/-- A follow-on at the head of a core's matrix queue whose copy has completed, and that the dome serves next, starts. -/
def Chip.followOnStart (c : Chip) (core : Nat) : Chip :=
  match (c.core core).mq with
  | [] => c
  | e :: _ => if e.copy.isSome && c.domeNext (core / 4) = some core then c.domeStart (core / 4) else c

/-- `FOLLOW_ON_START` (R254, R429). -/
def execFollowOnStart (core : BitVec 9) (s : State) : Host.Outcome State Fault Refusal :=
  onChip (fun c => c.followOnStart core.toNat) s

/-! ### Moves (R249, R423, R424) -/

/-- The first `MMROT` in a cluster's move phase whose move of a direction has not landed. -/
def Cluster.rotating (k : Cluster) (north : Bool) : Option MEntry :=
  k.moves.find? (fun e => isMmrot e.op && !(if north then e.northDone else e.westDone))

/-- The physical tile that an `MMROT` moves in a direction. -/
def MEntry.movedTile (e : MEntry) (north : Bool) : Nat :=
  match e.op with
  | .mmrot a b _ => e.tbase + (if north then b.toNat else a.toNat)
  | _ => 0

/-- The recorded accesses of an `MMROT` for a direction: its read, and the write by the incoming move. -/
def MEntry.moveSeqs (e : MEntry) (north : Bool) : List Nat :=
  if north then [e.seqs.getD 1 0, e.seqs.getD 4 0] else [e.seqs.getD 0 0, e.seqs.getD 3 0]

/-- The clusters of a ring, from one on. -/
def ringOf (cl : Nat) (north : Bool) : List Nat :=
  if north then [cl, northOf cl, northOf (northOf cl), northOf (northOf (northOf cl))]
  else [cl, westOf cl, westOf (westOf cl), westOf (westOf (westOf cl))]

/-- Whether a cluster's move may take part in the ring's step. -/
def Cluster.moveReady (k : Cluster) (north : Bool) : Bool :=
  match k.rotating north with
  | some e => k.clearFor e.seqs (e.moveSeqs north)
  | none => false

/-- The fill count of a tile that a command has filled falls, unless the tile has been given out anew (R241). -/
def Chip.filled (c : Chip) (cl : Nat) (e : MEntry) (tile : Nat) : Chip :=
  if e.forgotten.contains tile then c else c.modTile cl tile Tile.lessFill

/-- One landing: the contents that a neighbour sent, written at a cluster; the cluster's own move of that direction is
done. -/
def Chip.land (c : Chip) (cl : Nat) (north : Bool) (tile : Nat) (data : List Byte) : Chip :=
  match (c.cluster cl).rotating north with
  | none => c
  | some e =>
    let id := e.seqs
    let c := { c with mem := memWriteBytes c.mem (tileBase cl tile) data }
    let c := c.modCluster cl (fun k => { k with
      moves := (k.moves.map (fun m => if m.seqs = id then
        (if north then { m with northDone := true } else { m with westDone := true }) else m)).filter
          (fun m => !(isMmrot m.op && m.westDone && m.northDone)) })
    (c.performed cl (e.moveSeqs north)).filled cl e (e.movedTile north)

/-- Free the slots, on several clusters, of ended holders that have no matrix command left (R246). -/
def Chip.sweepAll (c : Chip) (cls : List Nat) : Chip := cls.foldl Chip.sweepSlots c

/-- A ring's moves, made in one step from the contents before it, while the partition runs (R437). (DEDUCED, log entry 29.) -/
def Chip.rotate (c : Chip) (cl : Nat) (north : Bool) : Chip :=
  let ring := ringOf cl north
  if ring.all (fun k => (c.cluster k).moveReady north && c.clusterRuns k) then
    ((ring.map (fun k =>
      let t := match (c.cluster k).rotating north with | some e => e.movedTile north | none => 0
      (if north then northOf k else westOf k, t, memReadBytes c.mem (tileBase k t) 0x10000))).foldl
        (fun c p => c.land p.1 north p.2.1 p.2.2) c).sweepAll ring
  else c

/-- `ROTATION_LANDING` (R249, R423). -/
def execRotationLanding (cluster : BitVec 7) (north : Bool) (s : State) : Host.Outcome State Fault Refusal :=
  onChip (fun c => c.rotate cluster.toNat north) s

/-- The physical tile of an `MSWAP`. -/
def MEntry.swapTile (e : MEntry) : Nat :=
  match e.op with
  | .mswap t => e.tbase + t.toNat
  | _ => 0

/-- The first `MSWAP` of a tile in a cluster's move phase that may be performed. -/
def Cluster.swapping (k : Cluster) (t : Nat) : Option MEntry :=
  match k.moves.find? (fun e => isMswap e.op && e.swapTile = t) with
  | some e => if k.clear e.seqs then some e else none
  | none => none

/-- An `MSWAP` completed at its cluster. -/
def Chip.endSwap (c : Chip) (cl : Nat) (e : MEntry) (data : List Byte) : Chip :=
  let c := { c with mem := memWriteBytes c.mem (tileBase cl e.swapTile) data }
  ((c.modCluster cl (fun k => { k with moves := k.moves.filter (fun m => m.seqs ≠ e.seqs) })).performed cl e.seqs).filled cl e
    e.swapTile

/-- The first exchange that a cluster and its mirror may make, while the partition runs (R437). (DEDUCED, log entry 29.) -/
def Chip.exchange (c : Chip) (cl : Nat) : Chip :=
  let m := swapOf cl
  match (c.cluster cl).moves.find? (fun e => isMswap e.op
      && ((c.cluster cl).swapping e.swapTile).isSome && ((c.cluster m).swapping e.swapTile).isSome) with
  | none => c
  | some e =>
    match (c.cluster cl).swapping e.swapTile, (c.cluster m).swapping e.swapTile with
    | some a, some b =>
      if !c.clusterRuns cl || !c.clusterRuns m then c else
      let da := memReadBytes c.mem (tileBase cl e.swapTile) 0x10000
      let db := memReadBytes c.mem (tileBase m e.swapTile) 0x10000
      ((c.endSwap cl a db).endSwap m b da).sweepAll [cl, m]
    | _, _ => c

/-- `SWAP_EXCHANGE` (R424). -/
def execSwapExchange (cluster : BitVec 7) (s : State) : Host.Outcome State Fault Refusal :=
  onChip (fun c => c.exchange cluster.toNat) s

end Sys2Proof.Machine
end

