-- ==== Sys2Proof/Machine/CopyEngine.lean ====
section
/-! DEFINITION. The copy engine (R250-R254, R426-R430): the issue of copy commands with their recorded accesses, the
pieces they move, `PUBLISH` (R206), and the in-array stripes of `ROWCOPY` and `ROWFILL` (R33-R37). -/

namespace Sys2Proof.Machine

/-! ### Commands as data -/

/-- Operation numbers of the copy commands (R426). -/
def opCpy2d : Nat := 1
/-- `CPYF` -/
def opCpyf : Nat := 2
/-- `CPYSH` -/
def opCpysh : Nat := 3
/-- `PUBLISH` -/
def opPublish : Nat := 4
/-- `CPYMM` -/
def opCpymm : Nat := 5
/-- `ROWCOPY` -/
def opRowcopy : Nat := 6
/-- `ROWFILL` -/
def opRowfill : Nat := 7

/-- Whether a command moves stripes. -/
def CopyCmd.stripes (q : CopyCmd) : Bool := q.op = opRowcopy || q.op = opRowfill

/-- Whether a command reads a source in memory. -/
def CopyCmd.hasSource (q : CopyCmd) : Bool := !(q.op = opCpyf || q.op = opPublish || q.op = opRowfill)

/-- How many units a command has to perform: bytes, or 64 row pairs a stripe, or one flip. -/
def CopyCmd.total (q : CopyCmd) : Nat := if q.stripes then 64 * q.n else q.n * q.h

/-- Destination address of the byte at an offset (R427). -/
def CopyCmd.dstAt (q : CopyCmd) (off : Nat) : Nat := (q.dst + off / q.n * q.ds.toNat + off % q.n) % 2 ^ 64

/-- Source address of the byte at an offset (R427). -/
def CopyCmd.srcAt (q : CopyCmd) (off : Nat) : Nat := (q.src + off / q.n * q.ss.toNat + off % q.n) % 2 ^ 64

/-- Whether a piece starts at an offset: no piece crosses a line at either end, or a row. -/
def CopyCmd.startsAt (q : CopyCmd) (off : Nat) : Bool :=
  q.stripes || off % q.n = 0 || q.dstAt off % 128 = 0 || (q.hasSource && q.srcAt off % 128 = 0)

/-- Length of the piece that starts at an offset. -/
def CopyCmd.pieceLen (q : CopyCmd) (off : Nat) : Nat :=
  if q.stripes ∨ q.op = opPublish then 1
  else
    let l := Nat.min (q.n - off % q.n) (128 - q.dstAt off % 128)
    if q.hasSource then Nat.min l (128 - q.srcAt off % 128) else l

/-- A command whose contiguous part takes in the pieces done ahead of it. -/
def CopyCmd.settle (fuel : Nat) (q : CopyCmd) : CopyCmd :=
  match fuel with
  | 0 => q
  | f + 1 =>
    if q.ahead.contains q.next then
      CopyCmd.settle f { q with ahead := q.ahead.filter (fun o => o ≠ q.next), next := q.next + q.pieceLen q.next }
    else q

/-- A command with every done piece taken in. -/
def CopyCmd.settled (q : CopyCmd) : CopyCmd := q.settle q.ahead.length

/-- Whether all pieces of a settled command are done. -/
def CopyCmd.finished (q : CopyCmd) : Bool := decide (q.total ≤ q.next)

/-- Whether the piece at an offset may run: it is one, not done, and not stalled. -/
def CopyCmd.mayRun (q : CopyCmd) (off : Nat) : Bool :=
  decide (q.next ≤ off) && decide (off < q.total) && q.startsAt off && !q.ahead.contains off
    && !(q.stalled.any (fun p => p.1 = off))

/-- A command whose piece at an offset is done, with a status. -/
def CopyCmd.did (q : CopyCmd) (off status : Nat) : CopyCmd :=
  { q with ahead := off :: q.ahead, cmd := { q.cmd with status := worse q.cmd.status status } }.settle (q.ahead.length + 1)

/-! ### Recorded accesses (R250) -/

/-- The scoreboard object of a cluster at a physical address. -/
def objectAt (pa : Nat) : Option (Nat × Nat) :=
  match place pa with
  | .tile cl => some (cl, pa % 0x1000000 / 0x10000)
  | .slot cl => some (cl, slotObj ((pa % 0x1000000 - 0x400000) / 0x10000))
  | _ => none

/-- The objects that physical bytes touch. -/
def objectsIn (pa n : Nat) : List (Nat × Nat) :=
  (List.range ((pa + n - 1) / 0x10000 + 1 - pa / 0x10000)).filterMap (fun i => objectAt ((pa / 0x10000 + i) * 0x10000))

/-- The parts of a range of `n` bytes, not 0, in its pages. -/
def pageParts (va n : Nat) : List (Nat × Nat) :=
  (List.range ((va % 2 ^ 21 + n - 1) / 2 ^ 21 + 1)).map (fun j =>
    let lo := if j = 0 then va else (va / 2 ^ 21 + j) * 2 ^ 21
    let hi := Nat.min (va + n) ((va / 2 ^ 21 + j + 1) * 2 ^ 21)
    (lo % 2 ^ 64, hi - lo))

/-- The objects that a range touches, as probes at acceptance show it. -/
def Chip.touched (c : Chip) (a : Agent) (va n : Nat) (k : Acc) (back : Bool) : List (Nat × Nat) :=
  if n = 0 then []
  else (pageParts va n).flatMap (fun p =>
    match c.probe a.spire a.asid p.1 k a.sup back with
    | some x => if inWindow x.pa then objectsIn x.pa p.2 else []
    | none => [])

/-- The rows of a command: destination, source, and length. -/
def CopyCmd.rows (q : CopyCmd) : List (Nat × Nat × Nat) :=
  if q.op = opPublish then []
  else if q.stripes then [(q.dst, q.src, q.n * 0x20000)]
  else (List.range q.h).map (fun r => ((q.dst + r * q.ds.toNat) % 2 ^ 64, (q.src + r * q.ss.toNat) % 2 ^ 64, q.n))

/-- The tile and slot accesses of a command: cluster, object, whether it writes. -/
def Chip.copyAccesses (c : Chip) (q : CopyCmd) : List (Nat × Nat × Bool) :=
  let a := q.cmd.agent
  let reads := if q.hasSource then (q.rows.flatMap (fun r => c.touched a r.2.1 r.2.2 .load false)).eraseDups else []
  let writes := (q.rows.flatMap (fun r => c.touched a r.1 r.2.2 .store (q.op = opCpysh))).eraseDups
  reads.map (fun o => (o.1, o.2, false)) ++ writes.map (fun o => (o.1, o.2, true))

/-- Record accesses of several clusters in order. -/
def Chip.recordWide (c : Chip) (l : List (Nat × Nat × Bool)) : List Nat × Chip :=
  match l with
  | [] => ([], c)
  | p :: r =>
    let q := c.record p.1 p.2.1 p.2.2
    let t := Chip.recordWide q.2 r
    (q.1 :: t.1, t.2)

/-- The tiles among accesses of a kind. -/
def tilesOf (l : List (Nat × Nat × Bool)) (write : Bool) : List (Nat × Nat) :=
  (l.filter (fun p => p.2.2 = write && decide (p.2.1 < 32))).map (fun p => (p.1, p.2.1))

/-- Accept a command: its accesses are recorded, its counts raised, and it enters the copy queue. -/
def Chip.acceptCopy (c : Chip) (q : CopyCmd) : Chip :=
  let acc := c.copyAccesses q
  let fills := tilesOf acc true
  let drains := tilesOf acc false
  let r := c.recordWide acc
  let c := fills.foldl (fun c p => c.modTile p.1 p.2 Tile.moreFill) r.2
  let c := drains.foldl (fun c p => c.modTile p.1 p.2 Tile.moreDrain) c
  c.modCluster q.cmd.cluster (fun k => { k with copyQ := k.copyQ ++ [{ q with seqs := r.1, fills := fills, drains := drains }] })

/-! ### Issue (R410, R426) -/

/-- A copy command of a coroutine. -/
def copyCmd (op : Nat) (a b : BitVec 5) (co : Coroutine) (cmd : Cmd) : CopyCmd where
  cmd := cmd
  op := op
  dst := (co.xr a).toNat
  src := (co.xr b).toNat
  n := if op = opPublish then 1
    else if op = opRowcopy ∨ op = opRowfill then bits (co.qr 0).toNat 15 0 else bits (co.qr 0).toNat 47 0
  h := if op = opCpy2d then bits (co.qr 2).toNat 31 0 else 1
  ds := co.qr 3
  ss := co.qr 4
  next := 0
  ahead := []
  stalled := []
  seqs := []
  fills := []
  drains := []
  follow := op = opCpymm
  moved := false
  recalled := []
  dests := []

/-- Whether the copy queue of a core's cluster is full. -/
def Chip.copyFull (c : Chip) (cl : Nat) : Bool := decide (64 ≤ (c.cluster cl).copyQ.length)

/-- The command as its operands give it, before it has a number. -/
def copyDraft (op : Nat) (a b : BitVec 5) (co : Coroutine) : CopyCmd := copyCmd op a b co ⟨0, 0, 0, 0, 0, 0, false, false, 0⟩

/-- The address of a stripe command that is not aligned to a stripe (R430). -/
def misaligned (op : Nat) (a b : BitVec 5) (co : Coroutine) : Option (Nat × Word) :=
  if (op = opRowcopy ∨ op = opRowfill) ∧ bits (co.xr a).toNat 16 0 ≠ 0 then some (causeAlign, co.xr a)
  else if op = opRowcopy ∧ bits (co.xr b).toNat 16 0 ≠ 0 then some (causeAlign, co.xr b)
  else none

/-- A copy command without a follow-on. -/
def copyBody (i : Instr) (op : Nat) (a b : BitVec 5) : WordBody :=
  fun c key co =>
    issueAsync i (co.qr 1) (misaligned op a b co)
      (fun _ => (copyDraft op a b co).total = 0)
      (fun c => c.copyFull (key / 1024))
      (fun c q => c.acceptCopy (copyCmd op a b co q)) c key co

/-- `CPY`: copies bytes (R427). -/
def execCpy (a b : BitVec 5) (s : State) : Host.Outcome State Fault Refusal :=
  runWord false (copyBody (.cpy a b) 0 a b) s

/-- `CPY2D`: copies rows (R427). -/
def execCpy2d (a b : BitVec 5) (s : State) : Host.Outcome State Fault Refusal :=
  runWord false (copyBody (.cpy2d a b) opCpy2d a b) s

/-- `CPYF`: fills with a pattern (R427). -/
def execCpyf (a b : BitVec 5) (s : State) : Host.Outcome State Fault Refusal :=
  runWord false (copyBody (.cpyf a b) opCpyf a b) s

/-- `CPYSH`: copies into the back frame of a shadow pair (R428). -/
def execCpysh (a b : BitVec 5) (s : State) : Host.Outcome State Fault Refusal :=
  runWord false (copyBody (.cpysh a b) opCpysh a b) s

/-- `PUBLISH`: exchanges the frames of a shadow pair (R428). -/
def execPublish (a : BitVec 5) (s : State) : Host.Outcome State Fault Refusal :=
  runWord false (copyBody (.publish a) opPublish a 0) s

/-- `ROWCOPY`: copies stripes in the array (R430). -/
def execRowcopy (a b : BitVec 5) (s : State) : Host.Outcome State Fault Refusal :=
  runWord false (copyBody (.rowcopy a b) opRowcopy a b) s

/-- `ROWFILL`: fills stripes in the array (R430). -/
def execRowfill (a b : BitVec 5) (s : State) : Host.Outcome State Fault Refusal :=
  runWord false (copyBody (.rowfill a b) opRowfill a b) s

/-- A follow-on word (R429): the command, whether a prefix may stand before it, and its prefix. -/
def followOn (q2 : Word) : Option (Instr × Option IWord) :=
  let p := BitVec.ofNat 32 (bits q2.toNat 63 32)
  let pfx : Option (Option IWord) :=
    if p = 0 then some none
    else match decode p with
      | .ok (.fmt _ _ _ _ _) => some (some p)
      | _ => none
  match pfx, decode (BitVec.ofNat 32 (bits q2.toNat 31 0)) with
  | some p, .ok (.mma a b s) => some (.mma a b s, p)
  | some p, .ok (.mmag a b s) => some (.mmag a b s, p)
  | some p, .ok (.mfill t s) => if pfxB p ≠ 0 ∨ pfxD p ≠ 0 then none else some (.mfill t s, p)
  | _, _ => none

/-- `CPYMM`: a copy with a follow-on matrix command (R429). (DEDUCED, log entry 30.) -/
def execCpymm (a b : BitVec 5) (s : State) : Host.Outcome State Fault Refusal :=
  runWord false (fun c key co =>
    match followOn (co.qr 2) with
    | none => trapWord c key co causeRsv (.cpymm a b)
    | some f =>
      matrixChecks f.1 true 0 f.2 (fun c e =>
        issueAsync (.cpymm a b) (co.qr 1) none (fun _ => false)
          (fun c => c.copyFull (key / 1024) || decide (16 ≤ (c.core (key / 256)).mq.length) || c.scalesWait key co)
          (fun c q =>
            let r := (c.acceptCopy (copyCmd opCpymm a b co q)).recordMatrix key co { e with copy := some q.id }
            r.2.pushMatrix (key / 256) r.1) c key co) c key co) s

/-! ### Completion -/

/-- A command whose pieces are all done: its accesses are performed; the L1 data lines of the stripes that it has written are
invalidated (R33 phase 3); a `CPYMM` waits for its follow-on, any other completes. -/
def Chip.copyDone (c : Chip) (cl : Nat) (q : CopyCmd) : Chip :=
  let c := c.releaseCopy q
  let c := if q.dests.isEmpty then c else c.dropL1Data (fun l => q.dests.contains (l / 1024))
  if q.follow then c.modCluster cl (fun k => k.modCopy q.cmd.id (fun _ => { q with moved := true, seqs := [], fills := [], drains := [] }))
  else (c.modCluster cl (fun k => k.modCopy q.cmd.id (fun _ => q))).endCopy cl q.cmd.id 0

/-- Put a command back after a piece, completing it after the last. -/
def Chip.putCommand (c : Chip) (cl : Nat) (q : CopyCmd) : Chip :=
  if q.finished then c.copyDone cl q else c.modCluster cl (fun k => k.modCopy q.cmd.id (fun _ => q))

/-- A piece whose translation is refused (R251, R412): it stalls on a record's token, or fails with `FAULT`; while no
fault beacon is free nothing changes but what the translation left. -/
def Chip.copyFault (c : Chip) (cl : Nat) (q : CopyCmd) (off va : Nat) (f : MemFault) : Chip :=
  match f with
  | .kind k =>
    let r := c.engineFault q.cmd.agent cl 5 va k
    if r.1 = 0 then r.2 else r.2.modCluster cl (fun m => m.modCopy q.cmd.id (fun _ => { q with stalled := q.stalled ++ [(off, r.1)] }))
  | .joined tok _ => c.modCluster cl (fun m => m.modCopy q.cmd.id (fun _ => { q with stalled := q.stalled ++ [(off, tok)] }))
  | _ => c.putCommand cl (q.did off 1)

/-! ### Pieces -/

/-- Whether a command's recorded access to the object at a physical address may be performed (R243). An access that was
not recorded at acceptance is not ordered. -/
def Chip.mayTouch (c : Chip) (q : CopyCmd) (pa : Nat) (write : Bool) : Bool :=
  match objectAt pa with
  | none => true
  | some o =>
    let k := c.cluster o.1
    k.clearFor q.seqs ((k.board.filter (fun a => q.seqs.contains a.seq && a.obj = o.2 && a.write = write)).map (fun a => a.seq))

/-- The bytes of a `CPYF` pattern at an address (R427). -/
def patternBytes (pat va n : Nat) : List Byte := (List.range n).map (fun i => BitVec.ofNat 8 (pat / 256 ^ ((va + i) % 8)))

/-- Write a piece at its destination: poisoned data leaves its line poisoned (R187, R251). -/
def Chip.landPiece (c : Chip) (spire : Nat) (x : Xlat) (vs : List Byte) (bad : Bool) : Chip :=
  let c := c.writeL2 spire x vs none true false false
  if bad then c.poisonLine (lineOf x.pa) else c

/-- The write half of a piece. -/
def Chip.pieceWrite (c c0 : Chip) (cl : Nat) (q : CopyCmd) (off : Nat) (vs : List Byte) (bad : Bool) : Chip :=
  let a := q.cmd.agent
  match c.xlate a (q.dstAt off) .store (q.op = opCpysh) with
  | (.inl f, c) => c.copyFault cl q off (q.dstAt off) f
  | (.inr x, c) =>
    if q.op = opCpysh ∧ !x.sp then c.putCommand cl (q.did off 3)
    else if !c.mayTouch q x.pa true then c0
    else (c.landPiece a.spire x vs bad).putCommand cl (q.did off (if bad then 2 else 0))

/-- One piece of a byte copy: read, then written. -/
def Chip.bytePiece (c : Chip) (cl : Nat) (q : CopyCmd) (off : Nat) : Chip :=
  let a := q.cmd.agent
  let n := q.pieceLen off
  if q.hasSource then
    match c.xlate a (q.srcAt off) .load false with
    | (.inl f, c') => c'.copyFault cl q off (q.srcAt off) f
    | (.inr x, c') =>
      if !c'.mayTouch q x.pa false then c
      else
        let r := c'.readL2 a.spire x n false
        r.2.pieceWrite c cl q off r.1 (r.2.poisoned (lineOf x.pa))
  else c.pieceWrite c cl q off (patternBytes q.src (q.dstAt off) n) false

/-! ### `PUBLISH` (R206, R253) -/

/-- Whether a `CPYSH` that has not completed writes a shadow pair, the pair named by frame number over 2. -/
def Chip.shadowBusy (c : Chip) (pair : Nat) : Bool :=
  c.clusters.any (fun e => e.2.copyQ.any (fun q => q.op = opCpysh && q.rows.any (fun r => (pageParts r.1 r.2.2).any (fun p =>
    match c.probe q.cmd.agent.spire q.cmd.agent.asid p.1 .store q.cmd.agent.sup true with
    | some x => x.sp && x.pa / 2 ^ 22 = pair
    | none => false))))

/-- A leaf with `FACE` inverted. (DEDUCED, log entry 12.) -/
def flipFace (e : Nat) : Nat := setBits e 50 50 (1 - bits e 50 50)

/-- The flip and the clean-up of R206: the leaf at `ea`, which a write by another observer reaches (R202), every entry of it,
and the names and L1 lines of the pair's lines. -/
def Chip.flipPair (c : Chip) (spire ea pair : Nat) : Chip :=
  let r := c.readL2 spire (identity spire ea) 8 false
  let c := (r.2.writeTable spire ea (flipFace (leNat r.1))).breakReservations (lineOf ea) none
  let c := { c with
    tlb := mmap c.tlb (fun _ t => if t.ea = ea then { t with leaf := flipFace t.leaf } else t)
    copies := mmap c.copies (fun k p => if k / 4 / 2 ^ 15 = pair then { p with name := none } else p) }
  (c.dropL1Data (fun l => l / 2 ^ 15 = pair)).dropL1Instr (fun l => l / 2 ^ 15 = pair)

/-- The one piece of a `PUBLISH`. (DEDUCED, log entry 30.) -/
def Chip.publishPiece (c : Chip) (cl : Nat) (q : CopyCmd) : Chip :=
  let a := q.cmd.agent
  match c.xlate a q.dst .store false with
  | (.inl f, c') => c'.copyFault cl q 0 q.dst f
  | (.inr x, c') =>
    if !x.sp then c'.putCommand cl (q.did 0 3)
    else if c'.shadowBusy (x.pa / 2 ^ 22) then c
    else (c'.flipPair a.spire x.ent.ea (x.pa / 2 ^ 22)).putCommand cl (q.did 0 0)

/-- The commands of a copy queue that make progress, at most 16 at once: those with no stalled piece first, since a stalled one
holds up no other (R250, R251). One whose pieces are all done waits for its follow-on and moves nothing.
(DEDUCED, log entry 30.) -/
def Cluster.progressing (k : Cluster) : List CopyCmd :=
  ((k.copyQ.filter (fun q => !q.moved && q.stalled.isEmpty)) ++ (k.copyQ.filter (fun q => !q.moved && !q.stalled.isEmpty))).take 16

/-- Perform a piece of the copy command at an index among those that make progress. (DEDUCED, log entry 30.) -/
def Chip.copyPiece (c : Chip) (cl idx off : Nat) : Chip :=
  if !c.clusterRuns cl then c
  else
    match (c.cluster cl).progressing[idx]? with
    | none => c
    | some q0 =>
      let q := q0.settled
      if q.finished then c.copyDone cl q
      else if q.stripes ∨ !q.mayRun off then c
      else if q.op = opPublish then c.publishPiece cl q
      else c.bytePiece cl q off

/-- `COPY_PIECE` (R250, R251). -/
def execCopyPiece (cluster : BitVec 7) (idx : BitVec 4) (off : BitVec 80) (s : State) : Host.Outcome State Fault Refusal :=
  onChip (fun c => c.copyPiece cluster.toNat idx.toNat off.toNat) s

/-! ### In-array stripes (R33-R37, R430) -/

/-- The addresses of a stripe's 16 lines of a channel (R26). -/
def channelLines (base chan : Nat) : List Nat :=
  ((List.range 1024).map (fun i => base + 128 * i)).filter (fun a => (rose a).1 = chan)

/-- Recall a line to U: its compass word read, resolved where that is needed, and every copy of it gone (R33 phase 1, R187). -/
def Chip.recallLine (c : Chip) (line : Nat) : Chip := (c.soundWord line (hbmHome (line * 128))).recallToU line

/-- Recall the lines of a stripe. -/
def Chip.recallStripe (c : Chip) (base : Nat) : Chip :=
  (List.range 1024).foldl (fun c i => c.recallLine (lineOf base + i)) c

/-- Write a destination line in DRAM: every copy of it gone, the compass word in U with the poison given, what is latent in it,
reservations broken (R33, R35, R36). -/
def Chip.stripeLine (c : Chip) (a : Nat) (vs : List Byte) (poison : Bool) (l : Latent) : Chip :=
  let c := c.recallLine (lineOf a)
  let c := c.placeAll a vs (fun d b v => d.placeUncached b v false)
  ((c.setCompass (lineOf a) (if poison then 0x40 else 0)).setLatent (lineOf a) l).breakReservations (lineOf a) none

/-- Whether the row of a channel at an address has been replaced by a spare row at channel repair (R34). -/
def spareAt (pa : Nat) : Bool := Config.spareRow (hbmHome pa * 64 + (rose pa).1) (dramBank pa) (dramRow pa)

/-- Whether the row pair of a channel, with a line of each row given, is copied in the array (R34). -/
def inArray (src dst : Nat) : Bool :=
  hbmHome src = hbmHome dst && dramBank src = dramBank dst && dramSubarray src = dramSubarray dst && !spareAt src && !spareAt dst

/-- Copy one line of a stripe: the data and the poison of the source as they stand now. In the array the source's latent errors
go with its check bits; the fallback finds them (R35, R37). -/
def Chip.copyLine (c : Chip) (src dst : Nat) (array : Bool) : Chip :=
  let c := c.recallLine (lineOf src)
  let c := if array then c else c.readSectors (lineOf src) 3
  c.stripeLine dst ((List.range 128).map (fun i => c.dramByte (src + i))) (c.poisoned (lineOf src))
    (if array then c.latentOf (lineOf src) else Latent.none)

/-- Copy the row pair of a channel of the destination, line by line. -/
def Chip.copyRowPair (c : Chip) (src dst chan : Nat) : Chip :=
  (channelLines dst chan).foldl (fun c a => c.copyLine (src + (a - dst)) a (inArray (src + (a - dst)) a)) c

/-- Fill a channel's row of a stripe with a pattern. -/
def Chip.fillRow (c : Chip) (dst pat chan : Nat) : Chip :=
  (channelLines dst chan).foldl (fun c a => c.stripeLine a (patternBytes pat 0 128) false Latent.none) c

/-- Whether a source line of a row pair is poisoned. -/
def Chip.rowPoisoned (c : Chip) (src dst chan : Nat) : Bool :=
  (channelLines dst chan).any (fun a => c.poisoned (lineOf (src + (a - dst))))

/-- The lines of a stripe command's stripe recalled, once (R33 phase 1). -/
def Chip.recallOnce (c : Chip) (q : CopyCmd) (stripe : Nat) (src : Option Nat) (dst : Nat) : Chip :=
  if q.recalled.contains stripe then c
  else
    match src with
    | none => c.recallStripe dst
    | some s => (c.recallStripe s).recallStripe dst

/-- The row of a stripe written: filled, or copied from `src`; where that is the destination itself, memory is left as it is
after the recall (R33). -/
def Chip.rowMove (c : Chip) (cl : Nat) (q : CopyCmd) (unit : Nat) (src : Option Nat) (dst : Nat) : Chip :=
  let chan := unit % 64
  let c := c.recallOnce q (unit / 64) src dst
  let q := { q with recalled := unit / 64 :: q.recalled.filter (fun k => k ≠ unit / 64) }
  if src = some dst then c.putCommand cl (q.did unit 0)
  else
    let q := { q with dests := dst / 0x20000 :: q.dests.filter (fun k => k ≠ dst / 0x20000) }
    match src with
    | none => (c.fillRow dst q.src chan).putCommand cl (q.did unit 0)
    | some s =>
      let c := c.copyRowPair s dst chan
      c.putCommand cl (q.did unit (if c.rowPoisoned s dst chan then 2 else 0))

/-- A destination stripe translated as a write, then its row moved. -/
def Chip.rowWrite (c : Chip) (cl : Nat) (q : CopyCmd) (unit : Nat) (src : Option Nat) : Chip :=
  let va := (q.dst + unit / 64 * 0x20000) % 2 ^ 64
  match c.xlate q.cmd.agent va .store false with
  | (.inl f, c) => c.copyFault cl q unit va f
  | (.inr x, c) =>
    if place x.pa ≠ .hbm ∨ src.any (fun s => place s ≠ .hbm) then c.putCommand cl (q.did unit 4)
    else (c.wakeSpire x.home).rowMove cl q unit src x.pa

/-- One row pair of a stripe command: the source stripe translated as a read, the destination as a write.
(DEDUCED, log entry 30.) -/
def Chip.rowPair (c : Chip) (cl idx stripe chan : Nat) : Chip :=
  if !c.clusterRuns cl then c
  else
    match (c.cluster cl).progressing[idx]? with
    | none => c
    | some q0 =>
      let q := q0.settled
      let unit := 64 * stripe + chan
      if q.finished then c.copyDone cl q
      else if !q.stripes || !q.mayRun unit then c
      else if q.op = opRowfill then c.rowWrite cl q unit none
      else
        let va := (q.src + stripe * 0x20000) % 2 ^ 64
        match c.xlate q.cmd.agent va .load false with
        | (.inl f, c) => c.copyFault cl q unit va f
        | (.inr x, c) => c.rowWrite cl q unit (some x.pa)

/-- `ROW_PAIR_COPY` (R34-R37). -/
def execRowPairCopy (cluster : BitVec 7) (idx : BitVec 4) (stripe : BitVec 16) (chan : BitVec 6) (s : State) :
    Host.Outcome State Fault Refusal :=
  onChip (fun c => c.rowPair cluster.toNat idx.toNat stripe.toNat chan.toNat) s

end Sys2Proof.Machine
end

