-- ==== Sys2Proof/Machine/Coroutines.lean ====
section
/-! DEFINITION. Beacons as instructions (R392-R398), waiting and yielding (R400, R401), barriers (R402), spawning, exiting
and moving (R168-R171, R403-R405), supervisor control (R406-R408), the scheduling of a core (R165, R166), the arrival of
messages (R170, R225) and the posting of fault-queue entries (R267). -/

namespace Sys2Proof.Machine

/-! ### Beacons (R392-R398) -/

/-- `BEACON`: allocates the lowest free beacon of the caller's spire; 0 when none is free (R395). -/
def execBeacon (d a : BitVec 5) (s : State) : Host.Outcome State Fault Refusal :=
  runWord false (fun c key co =>
    let sp := spireOf (key / 256)
    match c.freeBeacon sp with
    | none => .retire (c.setCo key (co.setX d 0).advance)
    | some i =>
      let c := c.modBeacon sp i (fun b => b.allocate ((co.xr a).setWidth 32))
      .retire (c.setCo key (co.setX d (c.tokenOf sp i)).advance)) s

/-- A token operand checked (R393), then `go`. -/
def withToken (i : Instr) (u : TokenUse) (t : Coroutine → Word) (go : WordBody) : WordBody :=
  fun c key co =>
    let cause := c.tokenCause u co.sup (t co)
    if cause ≠ 0 then c.tokenTrap key co cause (t co) i else go c key co

/-- `BFREE`: frees a beacon; its waiters become stale (R396). -/
def execBfree (a : BitVec 5) (s : State) : Host.Outcome State Fault Refusal :=
  runWord false (withToken (.bfree a) .set (fun co => co.xr a) (fun c key co =>
    .retire ((c.setCo key co.advance).freeBeaconAt (tokDie (co.xr a)) (tokIndex (co.xr a))))) s

/-- Where a beacon signal is counted: by the issuing core for its launch, when the beacon is on another spire (R172). -/
def signalCount (key : Nat) (co : Coroutine) (t : Word) : Option (Nat × Nat) :=
  if tokDie t = spireOf (key / 256) then none else some (key / 256, co.lid)

/-- Count a message sent for a launch at a core (R172). -/
def Chip.countSent (c : Chip) (core lid : Nat) : Chip :=
  c.modLaunch lid (fun l => { l with sent := mset l.sent core (mgetD l.sent core 0 + 1) })

/-- Count a message received for a launch at a core (R172). -/
def Chip.countRecv (c : Chip) (core lid : Nat) : Chip :=
  c.modLaunch lid (fun l => { l with recv := mset l.recv core (mgetD l.recv core 0 + 1) })

/-- The counter of a signal at its sending. -/
def Chip.countSignal (c : Chip) (n : Option (Nat × Nat)) : Chip :=
  match n with
  | some p => c.countSent p.1 p.2
  | none => c

/-- A release, then a message to a beacon's slice (R397). -/
def signalBody (i : Instr) (u : TokenUse) (a : BitVec 5) (m : Coroutine → Option (Nat × Nat) → Msg) : WordBody :=
  withToken i u (fun co => co.xr a) (fun c key co =>
    if c.storesPending key then .stall
    else
      let n := signalCount key co (co.xr a)
      .retire (((c.countSignal n).send (.core (key / 256)) none (m co n)).setCo key co.advance))

/-- `BSET`: sets a beacon's count and clears its error (R397). -/
def execBset (a b : BitVec 5) (s : State) : Host.Outcome State Fault Refusal :=
  runWord false (signalBody (.bset a b) .set a (fun co n => .setCount (co.xr a) ((co.xr b).setWidth 32) n)) s

/-- `BSIG`: decrements a beacon's count (R397). -/
def execBsig (a b : BitVec 5) (s : State) : Host.Outcome State Fault Refusal :=
  runWord false (signalBody (.bsig a b) .signal a (fun co n => .signal (co.xr a) ((co.xr b).setWidth 32).toInt 0 0 n)) s

/-- What `BREAD` reports (R398). -/
def Beacon.word (b : Beacon) : Word :=
  wordOf (b.count.toNat + 2 ^ 32 * b.ecount.toNat + 2 ^ 48 * b.err.toNat + 2 ^ 56 * (b.esrc.toNat % 4))

/-- `BREAD`: reads a beacon (R398). -/
def execBread (d a : BitVec 5) (s : State) : Host.Outcome State Fault Refusal :=
  runWord false (withToken (.bread d a) .wait (fun co => co.xr a) (fun c key co =>
    .retire (c.setCo key (co.setX d (c.tokBeacon (co.xr a)).word).advance))) s

/-! ### Waiting and yielding (R400, R401) -/

/-- A wait on a token below a threshold: an acquire on going on, and on resuming (R400). (DEDUCED, log entry 26.) -/
def awaitBody (i : Instr) (t : Coroutine → Word) (th : Coroutine → BitVec 32) (live : Coroutine → Word) : WordBody :=
  withToken i .wait t (fun c key co =>
    if c.storesPending key then .stall
    else if (c.tokBeacon (t co)).count.slt (th co) then .retire ((c.acquireL1 (key / 256)).setCo key co.advance)
    else suspendAfter c key { co with fresh := true } (live co) .awaiting (.beacon (t co) (th co)))

/-- `AWAIT`: token x[a], threshold x[d], live mask x[b] (R400). -/
def execAwait (d a b : BitVec 5) (s : State) : Host.Outcome State Fault Refusal :=
  runWord false (awaitBody (.await d a b) (fun co => co.xr a) (fun co => (co.xr d).setWidth 32) (fun co => co.xr b)) s

/-- `AWAITQ`: token q[d], threshold x[b], live mask x[a] (R400). -/
def execAwaitq (d a b : BitVec 5) (s : State) : Host.Outcome State Fault Refusal :=
  runWord false (awaitBody (.awaitq d a b) (fun co => co.qr d.toNat) (fun co => (co.xr b).setWidth 32) (fun co => co.xr a)) s

/-- `YIELD`: ready again at once, with live mask x[a] (R401). -/
def execYield (a : BitVec 5) (s : State) : Host.Outcome State Fault Refusal :=
  runWord false (fun c key co => suspendAfter c key co (co.xr a) .ready .none) s

/-! ### Barriers (R402) -/

/-- Whether every other needed member of a gang awaits at its barrier. -/
def Chip.lastAtBarrier (c : Chip) (key gang : Nat) : Bool :=
  !c.memberAway gang && (c.cos.filter (fun e => e.1 ≠ key && e.2.gang = gang && e.2.state ≠ .exited)).all
    (fun e => e.2.isWaiting && e.2.wait = .barrier)

/-- `GBAR`: a barrier of the gang, a release and an acquire at cluster scope (R402). -/
def execGbar (a : BitVec 5) (s : State) : Host.Outcome State Fault Refusal :=
  runWord false (fun c key co =>
    if c.storesPending key then .stall
    else if co.gid = 0xFFFF ∨ co.gsize ≤ 1 then .retire ((c.acquireL1 (key / 256)).setCo key co.advance)
    else if c.lastAtBarrier key co.gang then
      .retire (((c.wakeAll (fun _ m => m.gang = co.gang && m.wait = .barrier)).acquireL1 (key / 256)).setCo key co.advance)
    else suspendAfter c key { co with fresh := true } (co.xr a) .awaiting .barrier) s

/-! ### Target words (R168, R169) -/

/-- Insert by a measure, before the first greater one. -/
def insertBy (f : Nat → Nat) (x : Nat) (l : List Nat) : List Nat :=
  match l with
  | [] => [x]
  | y :: r => if f x < f y then x :: y :: r else y :: insertBy f x r

/-- Sort by a measure; equals keep their order. -/
def sortBy (f : Nat → Nat) (l : List Nat) : List Nat := l.foldl (fun m x => insertBy f x m) []

/-- The clusters of a partition on a spire, lowest first. -/
def Chip.partClusters (c : Chip) (p d : Nat) : List Nat :=
  ((List.range 32).map (fun i => 32 * d + i)).filter (fun cl => (c.part p).clus.getLsbD cl)

/-- The cores of a cluster in order of fewest ready and running coroutines. -/
def Chip.coreOrder (c : Chip) (cl : Nat) : List Nat := sortBy c.busyOn ((List.range 4).map (fun i => 4 * cl + i))

/-- The cores that a target word names, in the order in which they are tried (R169). -/
def Chip.targetCores (c : Chip) (p own : Nat) (w : Word) : List Nat :=
  match bits w.toNat 1 0 with
  | 0 => [4 * bits w.toNat 8 2 + bits w.toNat 10 9]
  | 1 => c.coreOrder (bits w.toNat 8 2)
  | 2 => (sortBy c.liveOn (c.partClusters p (bits w.toNat 12 11))).flatMap c.coreOrder
  | _ => c.coreOrder own

/-- Whether a target word is refused: a reserved bit, or a place outside the partition (R168, R403). -/
def Chip.targetBad (c : Chip) (p : Nat) (w : Word) : Bool :=
  bits w.toNat 63 13 ≠ 0
    || (bits w.toNat 1 0 ≤ 1 && !(c.part p).clus.getLsbD (bits w.toNat 8 2))
    || (bits w.toNat 1 0 = 2 && (c.partClusters p (bits w.toNat 12 11)).isEmpty)

/-- The first core of a list with a free identifier, and that identifier. -/
def Chip.reserveOn (c : Chip) (cores : List Nat) : Option (Nat × Nat) :=
  cores.findSome? (fun k => (c.freeSlot k).map (fun s => (k, s)))

/-- The partition of a coroutine's cluster; the numbers run to 127. -/
def Chip.partNum (c : Chip) (key : Nat) : Nat := (c.partOf (key / 1024)).getD 128

/-! ### Spawning (R169, R403) -/

/-- A child as it is sent (R169). -/
def childOf (co : Coroutine) (pc : Word) (gang : Nat) (same : Bool) : Coroutine :=
  { Coroutine.blank with
    pc := pc, sup := co.sup, asid := co.asid, asidSel := co.asidSel, fetchAsid := co.asid
    level := co.level, ceil := co.ceil, quantum := co.quantum
    dlive := co.dlive, lid := co.lid, gang := gang
    x := Vector.ofFn (fun i : Fin 32 => if 10 ≤ i.val ∧ i.val ≤ 13 then co.x[i.val]'(i.isLt) else 0)
    tbase := if same then co.tbase else 0, tcount := if same then co.tcount else 0
    abase := if same then co.abase else 0, acount := if same then co.acount else 0 }

/-- The gang whose windows a gang uses: its own, or its parent's. -/
def Chip.windowGang (c : Chip) (g : Nat) : Nat :=
  match mget c.gangs g with
  | some e => e.parent.getD g
  | none => g

/-- Send a child to a reserved identifier; it is a gang of its own (R162, R169, R172). -/
def Chip.sendChild (c : Chip) (key : Nat) (co : Coroutine) (pc : Word) (core slot : Nat) : Chip :=
  let same := decide (core / 4 = key / 1024)
  let ch := childOf co pc c.nextGang same
  let g : Gang := ⟨co.lid, 0xFFFF, core / 4, ch.tbase, ch.tcount, ch.abase, ch.acount,
    if same && !(co.tcount = 0 && co.acount = 0) then some (c.windowGang co.gang) else none, none⟩
  let c := { c with gangs := mset c.gangs c.nextGang g, nextGang := c.nextGang + 1 }
  (c.countSent (key / 256) co.lid).send (.core (key / 256)) (c.partOf (core / 4)) (.spawn core slot ch)

/-- `SPAWN`: a child on a chosen core, or inline when no candidate has a free identifier (R403). -/
def execSpawn (d a b : BitVec 5) (s : State) : Host.Outcome State Fault Refusal :=
  runWord false (fun c key co =>
    let w := co.xr a
    let pc := co.xr b
    let p := c.partNum key
    if c.targetBad p w then trapB c key co causeSpawn w
    else if pc.toNat % 4 ≠ 0 then trapB c key co causeAlign pc
    else if c.storesPending key then .stall
    else
      match c.reserveOn (c.targetCores p (key / 1024) w) with
      | some t =>
        .retire ((c.sendChild key co pc t.1 t.2).setCo key (co.setX d (wordOf (cidOf (coKey t.1 t.2) + 2 ^ 63))).advance)
      | none =>
        .retire (c.setCo key { (co.setX d 0).setX 1 (co.pc + 4) with
          inl := if co.inl = BitVec.allOnes 16 then co.inl else co.inl + 1, pc := pc })) s

/-- `EXIT`: the end of an inline child, or of the coroutine (R404). (DEDUCED, log entry 47.) -/
def execExit (s : State) : Host.Outcome State Fault Refusal :=
  runWord false (fun c key co =>
    if co.inl ≠ 0 then .retire (c.setCo key { co with inl := co.inl - 1, pc := co.xr 1 &&& ~~~3 })
    else .gone (c.exitCo key)) s

/-! ### Moving (R405) -/

/-- A coroutine's slot tags and matrix commands take its new identifier on the same cluster. -/
def Chip.retag (c : Chip) (key core slot lid : Nat) : Chip :=
  let mine (e : MEntry) : Bool := e.core = key / 256 && e.slot = key % 256 && e.lid = lid
  let move (e : MEntry) : MEntry := if mine e then { e with core := core, slot := slot } else e
  let c := c.modCluster (key / 1024) (fun k => { k with
    slots := mmap k.slots (fun _ t =>
      if t.held && t.core = key / 256 && t.slot = key % 256 && t.lid = lid && !t.ended then { t with core := core, slot := slot } else t)
    dome := k.dome.map move
    moves := k.moves.map move })
  (List.range 4).foldl (fun c i => c.modCore (key / 1024 * 4 + i) (fun k => { k with mq := k.mq.map move })) c

/-- A coroutine leaves for a reserved identifier (R405). (DEDUCED, log entry 47.) -/
def Chip.sendMove (c : Chip) (key : Nat) (co : Coroutine) (live : Word) (core slot : Nat) : Chip :=
  let m := { co.retiring.keepLive live with state := .ready, resv := [], fresh := true }
  let c := ({ c with cos := merase c.cos key }.stopRunning key).freeBlocks key
  let c := if core / 4 = key / 1024 then c.retag key core slot co.lid else c
  (c.countSent (key / 256) co.lid).send (.core (key / 256)) (c.partOf (core / 4)) (.migrate core slot m)

/-- Whether a target word is refused to a coroutine that is not solo: another cluster (R405). -/
def farTarget (key : Nat) (w : Word) : Bool :=
  bits w.toNat 1 0 = 2 || (bits w.toNat 1 0 ≤ 1 && bits w.toNat 8 2 ≠ key / 1024)

/-- `MIGRATE`: moves the coroutine to a chosen core (R405). -/
def execMigrate (a b : BitVec 5) (s : State) : Host.Outcome State Fault Refusal :=
  runWord false (fun c key co =>
    let w := co.xr a
    let p := c.partNum key
    if c.targetBad p w || (!co.solo && farTarget key w) then trapB c key co causeSpawn w
    else
      match c.reserveOn (c.targetCores p (key / 1024) w) with
      | none => .retire (c.setCo key { co.advance with resv := [] })
      | some t =>
        if t.1 = key / 256 then .retire (c.setCo key { co.advance with resv := [] })
        else if c.undrained key then .stall
        else .gone (c.sendMove key co (co.xr b) t.1 t.2)) s

/-! ### Supervisor control (R406-R408) -/

/-- The checks of a coroutine word, the release, then `act` on the coroutine it names (R406). -/
def controlBody (i : Instr) (a : BitVec 5) (act : Chip → Nat → Coroutine → Chip) : WordBody :=
  fun c key co =>
    let w := (co.xr a).toNat
    let k := bits w 16 0
    if !co.sup then trapWord c key co causePriv i
    else if bits w 31 17 ≠ 0 ∨ !(c.part (c.partNum key)).clus.getLsbD (k / 1024) ∨ (k = key ∧ bits w 63 32 = co.lid) then
      trapB c key co causeSpawn (co.xr a)
    else if c.storesPending key then .stall
    else
      let c := c.setCo key co.advance
      match c.co k with
      | none => .retire c
      | some t => .retire (if t.lid = bits w 63 32 then act c k t else c)

/-- `CRESUME`: resumes a faulted coroutine (R271, R407). -/
def execCresume (a : BitVec 5) (s : State) : Host.Outcome State Fault Refusal :=
  runWord false (controlBody (.cresume a) a (fun c k _ => c.resumeCo k)) s

/-- `CKILL`: ends a ready, running, awaiting or faulted coroutine (R408). -/
def execCkill (a : BitVec 5) (s : State) : Host.Outcome State Fault Refusal :=
  runWord false (controlBody (.ckill a) a (fun c k t =>
    if t.state = .parked ∨ t.state = .exited then c else c.endCo k 8)) s

/-! ### Scheduling of a core (R165, R166) -/

/-- The level of a ready coroutine at a time, aging included (R165). (DEDUCED, log entry 34.) (DEDUCED, log entry 48.) -/
def Coroutine.levelAt (co : Coroutine) (now : Nat) : Nat :=
  if co.sup then 4 else Nat.min 3 (co.level.toNat + (now - co.rtime - 1) / 65536)

/-- Whether one ready coroutine is chosen before another: level, then ready time, then identifier. -/
def before (now : Nat) (a b : Nat × Coroutine) : Bool :=
  decide (b.2.levelAt now < a.2.levelAt now)
    || (a.2.levelAt now = b.2.levelAt now && (decide (a.2.rtime < b.2.rtime) || (a.2.rtime = b.2.rtime && decide (a.1 < b.1))))

/-- The ready coroutines of a core. -/
def Chip.readyOn (c : Chip) (core : Nat) : List (Nat × Coroutine) :=
  c.cos.filter (fun e => e.1 / 256 = core && e.2.state = .ready)

/-- The ready coroutine that a core dispatches next (R165). -/
def Chip.bestReady (c : Chip) (core : Nat) : Option Nat :=
  ((c.readyOn core).foldl (fun m e => match m with
    | none => some e
    | some b => if before c.time e b then some e else some b) none).map (fun e => e.1)

/-- A core that runs nothing dispatches, while its partition runs. (DEDUCED, log entry 26.) (DEDUCED, log entry 48.) -/
def Chip.dispatch (c : Chip) (core : Nat) : Chip :=
  if (c.core core).running.isSome || !c.clusterRuns (core / 4) then c
  else
    match c.bestReady core with
    | none => c
    | some key => c.dispatchCo core (key % 256)

/-- `DISPATCH` (R165). -/
def execDispatch (core : BitVec 9) (s : State) : Host.Outcome State Fault Refusal :=
  onChip (fun c => c.dispatch core.toNat) s

/-- Whether a running coroutine gives way: its quantum has expired with an equal or higher level ready, or a supervisor
coroutine is ready while a user coroutine runs (R166). -/
def Chip.givesWay (c : Chip) (key : Nat) (co : Coroutine) : Bool :=
  let own := if co.sup then 4 else co.level.toNat
  (co.quantum ≠ 0 && decide (co.quantum.toNat ≤ c.time - (c.core (key / 256)).dispatched)
      && (c.readyOn (key / 256)).any (fun e => decide (own ≤ e.2.levelAt c.time)))
    || (!co.sup && (c.readyOn (key / 256)).any (fun e => e.2.sup))

/-- The implicit yield of the coroutine that runs on a core, at an instruction boundary, once it has drained.
(DEDUCED, log entry 48.) -/
def Chip.quantumExpiry (c : Chip) (core : Nat) : Chip :=
  match c.runningKey core with
  | none => c
  | some key =>
    match c.co key with
    | none => c
    | some co =>
      if c.givesWay key co && c.clusterRuns (core / 4) && co.due.isNone && !c.undrained key then
        c.suspend key co.dlive .ready .none
      else c

/-- `QUANTUM_EXPIRY`: quantum expiry and supervisor pre-emption (R166). -/
def execQuantumExpiry (core : BitVec 9) (s : State) : Host.Outcome State Fault Refusal :=
  onChip (fun c => c.quantumExpiry core.toNat) s

/-! ### Messages (R153, R170, R225) -/

/-- The messages without one. -/
def Chip.dropMsg (c : Chip) (i : Nat) : Chip := { c with msgs := dropAt c.msgs i }

/-- Whether a message can be delivered: not in a drop-off buffer, its partition running (R176). -/
def Chip.deliverable (c : Chip) (f : Flying) : Bool :=
  !f.dropped && (match f.part with | some p => (c.part p).state = 1 | none => true)

/-- Where a message goes: a core, the router of a travelled line, or a beacon's slice (R136, R138, R151). -/
def Msg.dest (m : Msg) : Nat × Nat × Nat :=
  match m with
  | .signal tok _ _ _ _ => (0, tokDie tok, (rose (64 * tokIndex tok)).1)
  | .setCount tok _ _ => (0, tokDie tok, (rose (64 * tokIndex tok)).1)
  | .spawn core _ _ => (1, core, 0)
  | .migrate core _ _ => (1, core, 0)
  | .hop spire line _ => (2, spire, (rose (128 * line)).1 / 2)

/-- Whether no earlier message of the same source to the same destination is still under way (R155). -/
def Chip.arrived (c : Chip) (i : Nat) (f : Flying) : Bool :=
  f.waiting
    || !((c.msgs.take i).any (fun g => g.src = f.src && g.msg.dest = f.msg.dest && !g.dropped && !g.waiting))

/-- Place a coroutine at an identifier: ready now, its record in the core's context cache (R169, R170, R222). -/
def Chip.placeCo (c : Chip) (core slot : Nat) (co : Coroutine) : Chip :=
  let c := { c with gangs := match mget c.gangs co.gang with
    | some g => mset c.gangs co.gang { g with cluster := core / 4 }
    | none => c.gangs }
  ((c.setCo (coKey core slot) { co with state := .ready, rtime := c.time }).keepRecord (coKey core slot)).countRecv core co.lid

/-- A spawned child arrives. (DEDUCED, log entry 47.) -/
def Chip.spawnPlace (c : Chip) (i : Nat) : Chip :=
  match c.msgs[i]? with
  | some f =>
    match f.msg with
    | .spawn core slot co => if c.deliverable f && c.arrived i f then (c.dropMsg i).placeCo core slot co else c
    | _ => c
  | none => c

/-- `SPAWN_PLACE` (R169). -/
def execSpawnPlace (msg : BitVec 16) (s : State) : Host.Outcome State Fault Refusal :=
  onChip (fun c => c.spawnPlace msg.toNat) s

/-- A migrating coroutine arrives; a gang member that left its gang's barrier needs no release here.
(DEDUCED, log entry 47.) -/
def Chip.migratePlace (c : Chip) (i : Nat) : Chip :=
  match c.msgs[i]? with
  | some f =>
    match f.msg with
    | .migrate core slot co => if c.deliverable f && c.arrived i f then (c.dropMsg i).placeCo core slot co else c
    | _ => c
  | none => c

/-- `MIGRATE_PLACE` (R405). -/
def execMigratePlace (msg : BitVec 16) (s : State) : Host.Outcome State Fault Refusal :=
  onChip (fun c => c.migratePlace msg.toNat) s

/-- The distance of two numbers. -/
def dist (a b : Nat) : Nat := (a - b) + (b - a)

/-- The clusters of a partition on a spire by their routers' distance from a line's slice (R151, R170). -/
def Chip.nearest (c : Chip) (p d line : Nat) : List Nat :=
  let r := (rose (line * 128)).1 / 2
  sortBy (fun cl => dist (cl % 32 / 8) (r / 8) + dist (cl % 8) (r % 8)) (c.partClusters p d)

/-- Whether a hop context waits in a spire's spill region for an identifier of a partition. -/
def hopWaiting (l : List Flying) (p : Option Nat) (spire : Nat) : Bool :=
  l.any (fun f => f.waiting && f.part = p && (match f.msg with | .hop d _ _ => d = spire | _ => false))

/-- The bytes that a message with its context takes up outside the network. -/
def Msg.room (m : Msg) : Nat :=
  match m with
  | .spawn _ _ co => 32 + 64 * co.units
  | .hop _ _ co => 32 + 64 * co.units
  | .migrate _ _ co => 32 + 64 * co.units
  | _ => 128

/-- Write a waiting hop context or a spilled message into the final 64 MiB of a spire's context spill region (R171, R176, R222). The
layout there and the place are not given, so both are free. (DESIGN CHOICE, log entry 32.) -/
def Chip.writeAside (c : Chip) (spire : Nat) (m : Msg) : Chip :=
  let at_ := (c.spire spire).spill + 0x20000000 + (Config.freeWord c.free).toNat % 4096 * 16384
  Chip.homePut { c with free := c.free + 1 + m.room } (linePieces 128 at_ m.room) (freeBytes (c.free + 1) m.room) spillWays

/-- A hopping coroutine that finds no identifier waits at the end of its spire's list. -/
def Chip.waitAside (c : Chip) (i : Nat) (f : Flying) (d : Nat) : Chip :=
  if f.waiting then c
  else Chip.writeAside { c.dropMsg i with msgs := dropAt c.msgs i ++ [{ f with waiting := true }] } d f.msg

/-- A hopping coroutine arrives: placed on the nearest cluster with a free identifier, or left waiting in arrival order
(R170, R171). (DEDUCED, log entry 32.) -/
def Chip.hopPlace (c : Chip) (i : Nat) : Chip :=
  match c.msgs[i]? with
  | some f =>
    match f.msg, f.part with
    | .hop d line co, some p =>
      if !c.deliverable f || !c.arrived i f then c
      else if hopWaiting (if f.waiting then c.msgs.take i else c.msgs) f.part d then c.waitAside i f d
      else
        match c.reserveOn ((c.nearest p d line).flatMap c.coreOrder) with
        | none => c.waitAside i f d
        | some t => (c.dropMsg i).placeCo t.1 t.2 co
    | _, _ => c
  | none => c

/-- `TRAVEL_HOP_PLACE` (R170). -/
def execTravelHopPlace (msg : BitVec 16) (s : State) : Host.Outcome State Fault Refusal :=
  onChip (fun c => c.hopPlace msg.toNat) s

/-- A beacon signal acknowledged at its issuing core (R172). -/
def Chip.countAck (c : Chip) (n : Option (Nat × Nat)) : Chip :=
  match n with
  | some p => c.countRecv p.1 p.2
  | none => c

/-- A signal or a count arrives at its beacon's slice. -/
def Chip.signalApply (c : Chip) (i : Nat) : Chip :=
  match c.msgs[i]? with
  | some f =>
    if !c.arrived i f then c
    else
      match f.msg with
      | .signal tok dec st src n => ((c.dropMsg i).applySignal tok dec st src false).countAck n
      | .setCount tok v n => ((c.dropMsg i).applySet tok v).countAck n
      | _ => c
  | none => c

/-- `BEACON_SIGNAL_APPLY` (R225, R394). -/
def execBeaconSignalApply (msg : BitVec 16) (s : State) : Host.Outcome State Fault Refusal :=
  onChip (fun c => c.signalApply msg.toNat) s

/-! ### The end of a coroutine (R162, R213) -/

/-- Whether a gang has a member that has not exited, placed or under way. -/
def Chip.hasMember (c : Chip) (g : Nat) : Bool :=
  c.cos.any (fun e => e.2.gang = g && e.2.state ≠ .exited)
    || c.msgs.any (fun f => match f.msg with
      | .spawn _ _ co => co.gang = g
      | .hop _ _ co => co.gang = g
      | .migrate _ _ co => co.gang = g
      | _ => false)

/-- Whether a gang is live: a member, or a child that inherited its windows, has not exited (R162). -/
def Chip.gangLive (c : Chip) (g : Nat) : Bool :=
  c.hasMember g || c.gangs.any (fun e => e.2.parent = some g && c.hasMember e.1)

/-- Forget a gang that is not live. -/
def Chip.sweepGang (c : Chip) (g : Nat) : Chip := if c.gangLive g then c else { c with gangs := merase c.gangs g }

/-- Whether an exited coroutine has nothing left on its core (R213). -/
def Chip.mayFree (c : Chip) (key : Nat) : Bool := !c.undrained key && !c.requested key

/-- An exited coroutine's identifier becomes free. (DEDUCED, log entry 47.) -/
def Chip.freeCo (c : Chip) (key : Nat) : Chip :=
  match c.co key with
  | none => c
  | some co =>
    if co.state = .exited && c.mayFree key then
      let c := { c with cos := merase c.cos key }
      (c.sweepGang co.gang).sweepGang (c.windowGang co.gang)
    else c

/-- `COROUTINE_FREE` (R213). -/
def execCoroutineFree (core : BitVec 9) (slot : BitVec 8) (s : State) : Host.Outcome State Fault Refusal :=
  onChip (fun c => c.freeCo (coKey core.toNat slot.toNat)) s

/-! ### Posting fault-queue entries (R267, R268) -/

/-- The 64 bytes of an entry (R267). -/
def FqEntry.bytes (e : FqEntry) (time : Nat) : List Byte :=
  leBytes 1 e.cause ++ leBytes 1 e.flags ++ leBytes 6 0 ++ leBytes 8 e.who.toNat ++ leBytes 8 e.epc.toNat
    ++ leBytes 8 e.faddr.toNat ++ leBytes 8 e.finfo.toNat ++ leBytes 8 e.token.toNat ++ leBytes 8 time ++ leBytes 8 0

/-- Write bytes at a physical HBM4E address of one line, at its home slice, as the device does. -/
def Chip.deviceWrite (c : Chip) (pa : Nat) (vs : List Byte) : Chip :=
  if c.tableOk pa then c.writeL2 (hbmHome pa) (identity (hbmHome pa) pa) vs none false false false else c

/-- Post the first waiting entry of a fault queue, if there is room. -/
def Chip.postEntry (c : Chip) (p d : Nat) : Chip :=
  let q := c.fq p d
  match q.waiting with
  | [] => c
  | e :: r =>
    if q.en && decide ((q.tail - q.head).toNat < 256) then
      let c := c.deviceWrite (q.base + 64 * (q.tail.toNat % 256)) (e.bytes c.time)
      (c.modFq p d (fun q => { q with waiting := r, tail := q.tail + 1 })).updateFaultBeacon p d
    else c

/-- `FAULT_QUEUE_POST` (R267, R268). -/
def execFaultQueuePost (p : BitVec 7) (d : BitVec 2) (s : State) : Host.Outcome State Fault Refusal :=
  onChip (fun c => c.postEntry p.toNat d.toNat) s

end Sys2Proof.Machine
end

