-- ==== Sys2Proof/Machine/Errors.lean ====
section
/-! DEFINITION. Memory errors: the fault-address queues (R41-R44), scrubbing (R32, R42), the CXL ports (R40), frame
retirement (R45-R47), and the coherence transactions of a slice as events of their own (R185, R186). -/

namespace Sys2Proof.Machine

/-! ### The fault-address queues -/

/-- Place an entry; a 257th is dropped and counted (R41, R43). -/
def Faq.place (f : Faq) (line : Nat) (kind sect port time : Nat) : Faq :=
  if f.entries.length < 256 then
    { f with entries := f.entries ++ [(BitVec.ofNat 32 line, BitVec.ofNat 8 (kind + 16 * sect + 32 * port), BitVec.ofNat 64 time)] }
  else { f with ovf := true, dropped := Nat.min 0xFFFF (f.dropped + 1) }

/-- Place an entry on a spire; an uncorrectable one makes the pilot post an event (R41, R90). That an entry which is dropped
posts its event too, and that one of kind 5 counts as uncorrectable, are the model's choices. (DESIGN CHOICE, log entry 41.) -/
def placeError (d line kind sect port : Nat) (s : State) : State :=
  let k := { s.keep with faqs := s.keep.faqs.setIfInBounds d ((s.keep.faqs.getD d ⟨[], false, 0⟩).place line kind sect port s.chip.time) }
  { s with keep := k, chip := if kind = 1 then s.chip else s.chip.post ⟨0x0010, d, wordOf d, 0, none⟩ }

/-- What the controllers and slices have reported goes to the fault-address queues, in detection order (R41). -/
def settleErrors (s : State) : State :=
  s.chip.found.foldl (fun s e => placeError e.spire e.line e.kind e.sect e.port s) { s with chip := { s.chip with found := [] } }

/-- `FAQ_POP`: writing 1 discards the head entry (R44). -/
def Keep.popError (k : Keep) (d : Nat) (v : BitVec 32) : Keep :=
  if v.getLsbD 0 then
    { k with faqs := k.faqs.setIfInBounds d (let f := k.faqs.getD d ⟨[], false, 0⟩; { f with entries := f.entries.drop 1 }) }
  else k

/-- `FAQ_POP` (R44). -/
def execFaqPop (d : BitVec 2) (v : BitVec 32) (s : State) : Host.Outcome State Fault Refusal :=
  onState (fun s => { s with keep := s.keep.popError d.toNat v }) s

/-! ### Errors in DRAM and scrubbing (R28, R32, R42)

An upset of a line: 0 none; 1, 2 and 3 that many symbols of a sector, three standing for more than can be corrected; 4 and
above an uncorrectable compass word. It stays until the line is next read from DRAM or written there. -/

/-- A DRAM line goes wrong. (DESIGN CHOICE, log entry 50.) -/
def Chip.upset (c : Chip) (line found sect : Nat) : Chip :=
  if place (line * 128) ≠ .hbm ∨ found = 0 then c
  else
    let l := c.latentOf line
    c.setLatent line (if 4 ≤ found then { l with w := 3 } else l.setSector sect (BitVec.ofNat 2 (Nat.max (l.sector sect).toNat found)))

/-- The scrubber reads a line of its channel, data and compass word: what can be corrected is rewritten, and what cannot poisons
the line. That an unreadable compass word is reported as kind 3, and not as kind 4, is the model's choice (R32, R42, R44).
(DESIGN CHOICE, log entry 41.) -/
def Chip.scrubLine (c : Chip) (line : Nat) : Chip :=
  let home := hbmHome (line * 128)
  let c := (c.readSector line 0 true).readSector line 1 true
  let w := (c.latentOf line).w
  if w = 0 then c
  else
    let c := c.setLatent line { c.latentOf line with w := 0 }
    if w = 3 then (c.poisonRow line home).report ⟨home, bits (line * 128) 38 7, 3, 0, 0⟩ else c

/-- The scrubber reads an HBM4E line, in which an upset may have come to be. (DEDUCED, log entry 41.) -/
def scrub (line found sect : Nat) (s : State) : State :=
  if place (line * 128) ≠ .hbm then s
  else settleErrors { s with chip := (s.chip.upset line found sect).scrubLine line }

/-- `PATROL_SCRUB` (R32, R42). -/
def execPatrolScrub (line : BitVec 48) (found : BitVec 3) (sect : BitVec 1) (s : State) : Host.Outcome State Fault Refusal :=
  onState (fun s => if s.keep.power.halted then s else scrub line.toNat found.toNat sect.toNat s) s

/-! ### CXL ports (R40) -/

/-- The port of a CXL address, and whether the address lies in a populated window. -/
def cxlPort (pa : Nat) : Option Nat :=
  match place pa with
  | .cxl p => some p
  | _ => none

/-- A spire's slice reads a CXL line (R39). -/
def Chip.cxlFill (c : Chip) (spire line : Nat) : Chip :=
  let c := if (c.copyAt spire line).isSome then c else c.newCopy spire line .home (c.classWays 0)
  c.fillSectors spire line spire 3

/-- A CXL device returns a line as poisoned from now on, and a spire's slice reads it (R38, R40). (DEDUCED, log entry 41.) -/
def Chip.cxlReturns (c : Chip) (spire line : Nat) : Chip :=
  (if c.links.cxlBad.contains line then c
    else { c with links := { c.links with cxlBad := c.links.cxlBad ++ [line] } }).cxlFill spire line

/-- A CXL.mem request has no completion for 1 ms: its line is held poisoned, with an entry of kind 5. The spire whose
slice made the request is free. (DEDUCED, log entry 41.) -/
def cxlPoison (pa : Nat) (s : State) : State :=
  match cxlPort pa with
  | none => s
  | some p =>
    let d := (Config.freeWord s.chip.free).toNat % 4
    let c := Chip.cxlFill { s.chip with free := s.chip.free + 1 } d (lineOf pa)
    let c := c.modCopy d (lineOf pa) (fun q => { q with poison := true })
    settleErrors { s with chip := if s.chip.links.cxlBad.contains (lineOf pa) then c else c.report ⟨d, bits pa 40 9, 5, 0, p⟩ }

/-- `CXL_TIMEOUT` (R40). -/
def execCxlTimeout (pa : BitVec 48) (s : State) : Host.Outcome State Fault Refusal :=
  onState (fun s => if s.keep.power.halted then s else cxlPoison pa.toNat s) s

/-- A CXL port goes down while running: later translations to its window fault as unmapped (R40, R103). -/
def Chip.portDown (c : Chip) (port : Nat) : Chip :=
  { c with links := { c.links with cxlDown := c.links.cxlDown ||| BitVec.ofNat 4 (2 ^ port) } }

/-- `CXL_PORT_DOWN` (R40). In the model an access completes in the step that makes it, so none is outstanding. -/
def execCxlPortDown (port : BitVec 2) (s : State) : Host.Outcome State Fault Refusal :=
  onChip (fun c => c.portDown port.toNat) s

/-! ### Frame retirement (R45-R47) -/

/-- Whether a line lies in a frame. -/
def inFrame (line f : Nat) : Bool := line / 16384 = f

/-- The lines of a frame for which a slice or a compass word holds anything. -/
def Chip.touchedLines (c : Chip) (f : Nat) : List Nat :=
  (List.append (c.compass.map Prod.fst ++ c.combiner.flatMap (fun e => e.2.map Prod.fst))
    (List.append ((c.copies.map Prod.fst).map (fun k => k / 4)) ((c.dramOld.map Prod.fst).map lineOf))).filter (fun l => inFrame l f)

/-- Whether a TLB entry's frame is a frame; both frames of a shadow pair count. -/
def TlbEntry.names (t : TlbEntry) (key f : Nat) : Bool :=
  frameOf (leafPa t.leaf t.lvl (key % 2 ^ 31 * 2 ^ 21) false) = f || (bit t.leaf 14 && frameOf (leafPa t.leaf t.lvl (key % 2 ^ 31 * 2 ^ 21) true) = f)

/-- The ASID and 2 MiB page of every entry whose frame is a frame, as slices hold them and as lines name them (R110, R119). -/
def Chip.entriesOfFrame (c : Chip) (f : Nat) : List (Nat × Nat) :=
  (c.tlb.filter (fun e => e.2.names e.1 f)).map (fun e => (e.1 / 2 ^ 31 % 256, e.1 % 2 ^ 31))
    ++ (c.copies.filterMap (fun e => e.2.name)).filterMap (fun n =>
      if n.ent.names (tlbKey 0 n.asid (n.vline * 128)) f then some (n.asid, tlbKey 0 n.asid (n.vline * 128) % 2 ^ 31) else none)

/-- Steps 1 and 2 of a retirement: lines recalled and written back, every copy and L1 line invalidated, and the effect of `XLINV`
for every entry of the frame (R47, R119). -/
def Chip.clearFrame (c : Chip) (f : Nat) : Chip :=
  let c := (c.touchedLines f).foldl (fun c l => c.recallToU l) c
  let c := (c.entriesOfFrame f).foldl (fun c p => c.invalidate 0 p.1 p.2) c
  (c.dropL1Data (fun l => inFrame l f)).dropL1Instr (fun l => inFrame l f)

/-- Whether a frame holds a beacon table or lies in a context spill region, where boot has placed one (R46). -/
def Chip.reserved (c : Chip) (f : Nat) : Bool :=
  (List.range 4).any (fun d =>
    (c.spire d).frames.contains f || (decide ((c.spire d).spill ≠ 0) && decide (frameOf (c.spire d).spill ≤ f)
      && decide (f < frameOf (c.spire d).spill + 288)))

/-- The outcome of a retirement (R46). (DEDUCED, log entry 41.) -/
def retireStatus (s : State) (f : Nat) : Nat :=
  if s.keep.store.badPages.contains f then 1
  else if s.chip.reserved f then 3
  else if 4096 ≤ s.keep.store.badPages.length then 2
  else 0

/-- The frames of the non-volatile list with one more, while there is room. -/
def addBadPage (l : List Nat) (f : Nat) : List Nat := if l.length < 4096 then l ++ [f] else l

/-- A write of `MEM_RETIRE` (R46, R47). (DEDUCED, log entry 41.) -/
def retireFrame (v : BitVec 32) (s : State) : State :=
  if s.keep.retire.busy then s
  else
    let f := v.toNat % 2 ^ 18
    let st := retireStatus s f
    { s with
      chip := if st = 0 ∨ st = 2 then
          let c := s.chip.clearFrame f
          { c with retired := if c.retired.contains f then c.retired else c.retired ++ [f] }
        else s.chip
      keep := { s.keep with
        store := { s.keep.store with badPages := if st = 0 ∨ st = 3 then addBadPage s.keep.store.badPages f else s.keep.store.badPages }
        retire := { s.keep.retire with status := st, busy := true, frame := f } } }

/-- `MEM_RETIRE` (R47). -/
def execMemRetire (v : BitVec 32) (s : State) : Host.Outcome State Fault Refusal :=
  onState (fun s => if s.keep.power.halted then s else retireFrame v s) s

/-- The last step of a retirement is done: `BUSY` clears and the event is posted (R47, R90). (DEDUCED, log entry 41.) -/
def retireDone (s : State) : State :=
  if s.keep.retire.busy then
    { s with
      keep := { s.keep with retire := { s.keep.retire with busy := false } }
      chip := s.chip.post ⟨0x0011, 4, wordOf s.keep.retire.frame,
        wordOf (s.keep.retire.status + 2 ^ 16 * s.keep.store.badPages.length), none⟩ }
  else s

/-- `MEM_RETIRE_DONE` (R47). -/
def execMemRetireDone (s : State) : Host.Outcome State Fault Refusal := onState retireDone s

/-! ### Transactions of a slice (R39, R185, R186)

Kinds: 0 home read, 1 home write, 2 remote read, 3 remote write, 4 recall to U, 5 cleaning of the home slice's copy, for an
HBM4E line; 6 the read of a CXL line by a spire's slice, 7 such a read whose device returns the line as poisoned. -/

/-- One transaction on a line: of the table of R186 on an HBM4E line, an unreadable or malformed word resolved first (R187). A
home slice refuses a line of a retired frame (R45). -/
def Chip.transaction (c : Chip) (kind spire line : Nat) : Chip :=
  match place (line * 128) with
  | .cxl _ => if kind = 6 then c.cxlFill spire line else if kind = 7 then c.cxlReturns spire line else c
  | .hbm =>
    if c.isRetired (line * 128) then c
    else
      let h := hbmHome (line * 128)
      let ways := c.classWays 0
      let c := (c.wakeSpire h).soundWord line h
      (match kind with
        | 0 => c.homeRead line h ways
        | 1 => c.homeWrite line h ways 3
        | 2 => if spire = h ∨ (c.copyAt spire line).isSome then c else c.remoteRead line h spire ways
        | 3 => if spire = h ∨ (c.copyAt spire line).any (fun p => p.mode = .exclusive) then c else c.remoteWrite line h spire ways 3
        | 4 => c.recallToU line
        | 5 => c.cleanHome line h
        | _ => c)
  | _ => c

/-- `HOME_SLICE_TRANSACTION` (R186). (DEDUCED, log entry 42.) -/
def execHomeSliceTransaction (kind : BitVec 3) (spire : BitVec 2) (line : BitVec 48) (s : State) : Host.Outcome State Fault Refusal :=
  onState (fun s => if s.keep.power.halted then s
    else settleErrors { s with chip := s.chip.transaction kind.toNat spire.toNat line.toNat }) s

/-- `REMOTE_DROP`: a slice drops its copy of a line; dirty sectors go to the home slice, or to DRAM from the home slice itself
(R140, R185). -/
def execRemoteDrop (spire : BitVec 2) (line : BitVec 48) (s : State) : Host.Outcome State Fault Refusal :=
  onChip (fun c => c.evict spire.toNat line.toNat) s

end Sys2Proof.Machine
end

