-- ==== Sys2Proof/Machine/Launch.lean ====
section
/-! DEFINITION. Launches: the taking of records (R79-R83), the start phase (R81, R86, R87), admission and placement
(R160-R162), and their end (R82, R172, R173, R404). -/

namespace Sys2Proof.Machine

/-! ### The end of a launch (R82) -/

/-- What the device remembers of a record for its end. -/
structure EndInfo where
  lid : Nat
  status : Nat
  queue : Nat
  tag : Word
  done : Word
  irq : BitVec 16
  source : Nat
  deriving DecidableEq, Repr

/-- The MSI-X vector that an `IRQ` field asks for (R80, R82). -/
def irqVector (irq : BitVec 16) : Option Nat := if irq.getLsbD 15 then some (bits irq.toNat 10 0) else none

/-- The steps of a launch's end: `DONE` signalled with the status, then the event, which carries the vector (R82). -/
def Chip.announce (c : Chip) (e : EndInfo) : Chip :=
  (c.applySignal e.done 1 e.status 2 false).post
    ⟨0x0002, e.source, wordOf (e.lid + 2 ^ 32 * e.status + 2 ^ 40 * e.queue), e.tag, irqVector e.irq⟩

/-- The spire of a partition's lowest-numbered cluster, the root of its sweeps (R82, R173). -/
def Chip.rootSpire (c : Chip) (p : Nat) : Nat :=
  match leastBelow 128 (fun i => (c.part p).clus.getLsbD i) with
  | some cl => spireOfCluster cl
  | none => 0

/-- Where a launch's end event comes from (R82). -/
def Chip.endSource (c : Chip) (l : Launch) : Nat := if l.phase = .admitted then c.rootSpire l.part else 4

/-- A launch ends with a status. (DESIGN CHOICE, log entry 36.) -/
def Chip.endLaunch (c : Chip) (lid status : Nat) : Chip :=
  match c.launch lid with
  | none => c
  | some l =>
    Chip.announce { c with launches := merase c.launches lid } ⟨lid, status, l.queue, l.tag, l.done, l.irq, c.endSource l⟩

/-! ### Records (R80) -/

/-- A field of a record. -/
def recField (bs : List Byte) (o n : Nat) : Nat := leNat ((bs.drop o).take n)

/-- The record at the head of a queue (R77). -/
def Keep.headRecord (k : Keep) (q : Nat) : List Byte :=
  memReadBytes k.queueMem (q * 0x40000 + (k.hqs.getD q ⟨false, false, 0, 0⟩).head * 0x100) 256

/-- Whether a queue has a record to be taken (R79). -/
def Hq.waits (h : Hq) : Bool := h.en && h.head ≠ h.tail

/-- The queue whose turn it is: round robin from the one after the last served (R79). -/
def Keep.nextQueue (k : Keep) : Option Nat :=
  ((List.range 64).map (fun i => (k.turn + i) % 64)).find? (fun q => (k.hqs.getD q ⟨false, false, 0, 0⟩).waits)

/-- The queue moves past the record taken, and the turn passes on (R79). -/
def Keep.passRecord (k : Keep) (q : Nat) : Keep :=
  { k with
    turn := (q + 1) % 64
    hqs := k.hqs.setIfInBounds q (let h := k.hqs.getD q ⟨false, false, 0, 0⟩; { h with head := (h.head + 1) % 1024 }) }

/-- Whether a token names this node and a current generation. -/
def Chip.goodToken (c : Chip) (t : Word) : Bool := c.tokHere t && c.tokCurrent t

/-- The wait tokens that a launch record uses (R80). -/
def recWaits (bs : List Byte) : List Word := (List.range (recField bs 0x0E 1)).map (fun i => wordOf (recField bs (0x30 + 8 * i) 8))

/-- The shape check of a launch record (R81). -/
def recShapeOk (bs : List Byte) : Bool :=
  decide (1 ≤ recField bs 0x04 2) && decide (1 ≤ recField bs 0x06 1) && decide (recField bs 0x06 1 ≤ 16)
    && decide (recField bs 0x09 1 ≤ 32) && decide (recField bs 0x08 1 + recField bs 0x09 1 ≤ 32)
    && decide (recField bs 0x0B 1 ≤ 16) && decide (recField bs 0x0A 1 + recField bs 0x0B 1 ≤ 16)
    && recField bs 0x10 8 % 4 = 0 && recField bs 0x18 8 % 256 = 0 && recField bs 0x20 8 % 8 = 0
    && recField bs 0x28 4 % 8 = 0 && decide (recField bs 0x28 4 ≤ 65536)

/-- The status of the taking phase: 0 when every check passes, else that of the first that fails (R81). -/
def Chip.takingStatus (c : Chip) (bs : List Byte) : Nat :=
  let p := c.part (recField bs 2 1 % 128)
  if recField bs 0 1 ≠ 1 ∨ recField bs 1 1 ≠ 1 then 1
  else if !p.en || recField bs 3 1 = 0 || !p.asids.getLsbD (recField bs 3 1) then 2
  else if !recShapeOk bs then 3
  else if 4 < recField bs 0x0E 1 ∨ !((recWaits bs).all c.goodToken) ∨ !c.goodToken (wordOf (recField bs 0x50 8)) then 4
  else 0

/-- The first launch id from `n` on that is not 0 and that no live launch holds (R82). -/
def freeLid (fuel n : Nat) (m : AMap Launch) : Nat :=
  match fuel with
  | 0 => n
  | f + 1 =>
    let n := n % 2 ^ 32
    if n = 0 ∨ (mget m n).isSome then freeLid f (n + 1) m else n

/-- The launch that a record describes. -/
def launchOf (bs : List Byte) (q : Nat) (waits : List Word) : Launch where
  part := recField bs 2 1 % 128
  asid := recField bs 3 1
  gangs := recField bs 0x04 2
  gsize := recField bs 0x06 1
  prio := recField bs 0x07 1 % 4
  tbase := recField bs 0x08 1
  tcount := recField bs 0x09 1
  abase := recField bs 0x0A 1
  acount := recField bs 0x0B 1
  irq := BitVec.ofNat 16 (recField bs 0x0C 2)
  entry := wordOf (recField bs 0x10 8)
  code := wordOf (recField bs 0x18 8)
  args := wordOf (recField bs 0x20 8)
  arglen := recField bs 0x28 4
  waits := waits
  done := wordOf (recField bs 0x50 8)
  tag := wordOf (recField bs 0x58 8)
  queue := q
  phase := .waiting
  order := 0
  slot := 0
  placed := 0
  live := 0
  status := 0
  sent := []
  recv := []
  last := none

/-- A record of kind other than 2 is taken: rejected with its status, or a launch with an id (R81, R82).
(DESIGN CHOICE, log entry 2.) (DEDUCED, log entry 33.) -/
def Chip.takeLaunch (c : Chip) (q : Nat) (bs : List Byte) : Chip :=
  let st := c.takingStatus bs
  let tag := wordOf (recField bs 0x58 8)
  if st = 1 then c.post ⟨0x0002, 4, wordOf (2 ^ 32 + 2 ^ 40 * q), tag, none⟩
  else if st ≠ 0 then
    c.announce ⟨0, st, q, tag, wordOf (recField bs 0x50 8), BitVec.ofNat 16 (recField bs 0x0C 2), 4⟩
  else
    let lid := freeLid (c.launches.length + 2) c.nextLid c.launches
    let waits := (recWaits bs).filter (fun t => decide (0 < (c.tokBeacon t).count.toInt))
    { c with launches := mset c.launches lid (launchOf bs q waits), nextLid := (lid + 1) % 2 ^ 32 }

/-- The keep takes the record at a queue's head when it is that queue's turn. (DEDUCED, log entry 33.) -/
def takeRecord (q : Nat) (wanted : List Byte → Bool) (take : Chip → List Byte → Chip) (s : State) : State :=
  if s.keep.power.halted || !s.keep.boot.ready || s.keep.nextQueue ≠ some q then s
  else
    let bs := s.keep.headRecord q
    if wanted bs then { s with keep := s.keep.passRecord q, chip := take s.chip bs } else s

/-- `LAUNCH_RECORD`: the device takes a record that is no signal record (R79-R82). -/
def execLaunchRecord (q : BitVec 6) (s : State) : Host.Outcome State Fault Refusal :=
  onState (takeRecord q.toNat (fun bs => recField bs 0 1 ≠ 2) (fun c bs => c.takeLaunch q.toNat bs)) s

/-- A signal record is taken: `COUNT` is signalled to `TOKEN` as a release at package scope (R80, R83). -/
def Chip.takeSignal (c : Chip) (q : Nat) (bs : List Byte) : Chip :=
  let tok := wordOf (recField bs 0x08 8)
  let bad (st : Nat) : Chip := c.post ⟨0x0003, 4, wordOf (2 ^ 32 * st + 2 ^ 40 * q), wordOf (recField bs 0x58 8), none⟩
  if recField bs 1 1 ≠ 1 then bad 1
  else if !c.goodToken tok then bad 4
  else if recField bs 2 2 = 0 then c
  else c.applySignal tok (recField bs 2 2) 0 0 true

/-- `SIGNAL_RECORD`: the device takes a signal record (R83). -/
def execSignalRecord (q : BitVec 6) (s : State) : Host.Outcome State Fault Refusal :=
  onState (takeRecord q.toNat (fun bs => recField bs 0 1 = 2) (fun c bs => c.takeSignal q.toNat bs)) s

/-! ### The start phase (R81, R86, R87) -/

/-- The agent of the start phase: an engine access in the launch's address space, in supervisor mode, from the root
spire of its partition. -/
def Chip.startAgent (c : Chip) (l : Launch) : Agent := engineAgent (c.rootSpire l.part) l.asid true

/-- Bytes of the code object; nothing where an access faults or meets poison. -/
def Chip.codeBytes (c : Chip) (a : Agent) (va n : Nat) : Option (List Byte) × Chip :=
  match c.load a (va % 2 ^ 64) n .load false with
  | (.inl _, c) => (none, c)
  | (.inr bs, c) => (some bs, c)

/-- `n` table entries of 32 bytes from an address, unless one cannot be read. -/
def Chip.codeTable (c : Chip) (a : Agent) (va n : Nat) : Option (List (List Byte)) × Chip :=
  match n with
  | 0 => (some [], c)
  | k + 1 =>
    match c.codeBytes a va 32 with
    | (none, c) => (none, c)
    | (some bs, c) =>
      match Chip.codeTable c a (va + 32) k with
      | (none, c) => (none, c)
      | (some r, c) => (some (bs :: r), c)

/-- The one section of a type, if there is exactly one. -/
def soleSection (l : List (List Byte)) (t : Nat) : Option (List Byte) :=
  match l.filter (fun s => recField s 0 1 = t) with
  | [s] => some s
  | _ => none

/-- Whether a launch meets a kernel (R87); `text` is the native text section. -/
def Launch.meets (l : Launch) (text k : List Byte) : Bool :=
  l.entry.toNat = (l.code.toNat + recField text 8 8 + recField k 0 8) % 2 ^ 64
    && (recField k 8 1 = 0 || recField k 8 1 = l.gsize) && decide (recField k 9 1 ≤ l.tcount)
    && decide (recField k 10 1 ≤ l.acount) && decide (8 * recField k 12 2 ≤ l.arglen)

/-- The start checks: a status, or the live mask of the kernel. (DEDUCED, log entry 33.) -/
def Chip.startChecks (c : Chip) (l : Launch) : (Nat ⊕ Word) × Chip :=
  let a := c.startAgent l
  let base := l.code.toNat
  match c.codeBytes a base 64 with
  | (none, c) => (.inl 5, c)
  | (some h, c) =>
    if recField h 0 4 ≠ 0x4A424F4C ∨ recField h 4 2 ≠ 1 ∨ recField h 6 2 = 0 ∨ 64 < recField h 6 2
        ∨ recField h 8 8 ≠ c.devhash.toNat then (.inl 5, c)
    else
      match c.codeTable a (base + 64) (recField h 6 2) with
      | (none, c) => (.inl 5, c)
      | (some ss, c) =>
        match soleSection ss 1, soleSection ss 5 with
        | some text, some tab =>
          (match c.codeTable a (base + recField tab 8 8) (recField tab 16 8 / 32) with
            | (none, c) => (.inl 5, c)
            | (some ks, c) =>
              match ks.find? (l.meets text) with
              | none => (.inl 6, c)
              | some k => (.inr (wordOf (recField k 16 8)), c))
        | _, _ => (.inl 5, c)

/-- A launch whose waits are over is checked; it goes on to wait for admission, or ends with its status. A wait token
that is stale before its count reached 0 ends it with `TOKEN`. -/
def Chip.startLaunch (c : Chip) (lid : Nat) : Chip :=
  match c.launch lid with
  | none => c
  | some l =>
    if l.phase ≠ .waiting then c
    else if l.waits.any (fun t => !c.goodToken t) then c.endLaunch lid 4
    else if !l.waits.isEmpty then c
    else
      match c.startChecks l with
      | (.inl st, c) => c.endLaunch lid st
      | (.inr live, c) =>
        { c.modLaunch lid (fun l => { l with phase := .started, live := live, order := c.nextOrder }) with nextOrder := c.nextOrder + 1 }

/-- `LAUNCH_START` (R81). -/
def execLaunchStart (lid : BitVec 32) (s : State) : Host.Outcome State Fault Refusal :=
  onChip (fun c => c.startLaunch lid.toNat) s

/-! ### Admission (R160) -/

/-- The admitted launches of a partition. -/
def Chip.admitted (c : Chip) (p : Nat) : AMap Launch := c.launches.filter (fun e => e.2.part = p && e.2.phase = .admitted)

/-- The launch of a partition that waits first for admission. -/
def Chip.firstStarted (c : Chip) (p : Nat) : Option Nat :=
  (leastBy (fun e => e.2.order) (c.launches.filter (fun e => e.2.part = p && e.2.phase = .started))).map (fun e => e.1)

/-- The first waiting launch of a running partition takes the lowest free launch slot. (DEDUCED, log entry 33.) -/
def Chip.admitNext (c : Chip) (p : Nat) : Chip :=
  if (c.part p).state ≠ 1 then c
  else
    match c.firstStarted p, leastBelow 64 (fun i => (c.admitted p).all (fun e => e.2.slot ≠ i)) with
    | some lid, some slot =>
      c.modLaunch lid (fun l => { l with phase := .admitted, slot := slot, placed := 0, sent := [], recv := [], last := none })
    | _, _ => c

/-- `LAUNCH_ADMIT` (R160). -/
def execLaunchAdmit (p : BitVec 7) (s : State) : Host.Outcome State Fault Refusal :=
  onChip (fun c => c.admitNext p.toNat) s

/-! ### Placement (R161, R162, R84) -/

/-- Whether two windows share an entry; an empty one conflicts with nothing. -/
def windowsMeet (b1 n1 b2 n2 : Nat) : Bool := n1 ≠ 0 && n2 ≠ 0 && decide (b1 < b2 + n2) && decide (b2 < b1 + n1)

/-- Whether a cluster fits a launch's next gang (R161). -/
def Chip.fits (c : Chip) (l : Launch) (cl : Nat) : Bool :=
  c.gangs.all (fun e => e.2.cluster ≠ cl || !c.gangLive e.1
      || !(windowsMeet l.tbase l.tcount e.2.tbase e.2.tcount || windowsMeet l.abase l.acount e.2.abase e.2.acount))
    && (List.range 4).all (fun k => decide (((List.range l.gsize).filter (fun r => r % 4 = k)).length ≤ c.freeSlots (4 * cl + k)))

/-- The cluster that a launch's next gang goes to: of those that fit, the one of fewest live coroutines. -/
def Chip.gangCluster (c : Chip) (l : Launch) : Option Nat :=
  leastBy c.liveOn (((List.range 128).filter (fun cl => (c.part l.part).clus.getLsbD cl && !c.clmask.getLsbD cl)).filter (c.fits l))

/-- A member of a gang as it is placed (R84, R162, R163). -/
def memberOf (l : Launch) (lid gid rank gang : Nat) : Coroutine :=
  { Coroutine.blank with
    pc := l.entry, asid := l.asid, asidSel := 0, fetchAsid := l.asid
    level := BitVec.ofNat 2 l.prio, ceil := BitVec.ofNat 2 l.prio, dlive := l.live &&& ~~~1
    lid := lid, gid := BitVec.ofNat 16 gid, gsize := l.gsize, grank := rank, gang := gang
    x := ((Coroutine.blank.x.setIfInBounds 10 l.args).setIfInBounds 11 (wordOf (gid * 65536 + rank))).setIfInBounds 12 (wordOf lid)
    tbase := l.tbase, tcount := l.tcount, abase := l.abase, acount := l.acount }

/-- A copy command that a gang which has ended left running no longer counts at tiles that are given out anew (R162, R241). -/
def CopyCmd.forgetTiles (q : CopyCmd) (cl base n : Nat) : CopyCmd :=
  let gone (p : Nat × Nat) : Bool := p.1 = cl && decide (base ≤ p.2) && decide (p.2 < base + n)
  { q with fills := q.fills.filter (fun p => !gone p), drains := q.drains.filter (fun p => !gone p) }

/-- A rotation or swap of such a gang likewise. -/
def MEntry.forgetTiles (e : MEntry) (base n : Nat) : MEntry :=
  { e with forgotten := e.forgotten ++ ((List.range n).map (fun i => base + i)).filter (fun t => !e.forgotten.contains t) }

/-- Zero a cluster's tile window: contents zero and so without poison, state empty, whatever an ended gang's transfers still do
there (R162, R241). (DEDUCED, log entry 29.) -/
def Chip.clearTiles (c : Chip) (cl base n : Nat) : Chip :=
  if n = 0 then c
  else
    let c := { c with
      mem := memClear c.mem (tileBase cl base) (n * 0x10000)
      compass := c.compass.filter (fun e => !(tileBase cl base ≤ e.1 * 128 && e.1 * 128 < tileBase cl base + n * 0x10000))
      clusters := mmap c.clusters (fun _ k => { k with copyQ := k.copyQ.map (fun q => CopyCmd.forgetTiles q cl base n) }) }
    let c := c.modCluster cl (fun k => { k with
      tiles := k.tiles.filter (fun e => !(base ≤ e.1 && e.1 < base + n))
      moves := k.moves.map (fun e => e.forgetTiles base n), dome := k.dome.map (fun e => e.forgetTiles base n) })
    (List.range 4).foldl (fun c i => if (c.core (4 * cl + i)).mq.isEmpty then c
      else c.modCore (4 * cl + i) (fun k => { k with mq := k.mq.map (fun e => e.forgetTiles base n) })) c

/-- Place one member on the lowest free identifier of its core. -/
def Chip.placeMember (c : Chip) (l : Launch) (lid gid gang cl rank : Nat) : Chip :=
  let core := 4 * cl + rank % 4
  match c.freeSlot core with
  | none => c
  | some slot => (c.setCo (coKey core slot) { memberOf l lid gid rank gang with rtime := c.time }).keepRecord (coKey core slot)

/-- Place a launch's next gang on a cluster. -/
def Chip.placeGang (c : Chip) (l : Launch) (lid cl : Nat) : Chip :=
  let g := c.nextGang
  let c := { c with
    gangs := mset c.gangs g ⟨lid, BitVec.ofNat 16 l.placed, cl, l.tbase, l.tcount, l.abase, l.acount, none, none⟩
    nextGang := g + 1 }
  let c := c.clearTiles cl l.tbase l.tcount
  ((List.range l.gsize).foldl (fun c r => c.placeMember l lid l.placed g cl r) c).modLaunch lid (fun l => { l with placed := l.placed + 1 })

/-- Whether an earlier-admitted launch of the partition has a gang that could be placed now (R161). -/
def Chip.earlierFits (c : Chip) (l : Launch) : Bool :=
  (c.admitted l.part).any (fun e => decide (e.2.order < l.order) && decide (e.2.placed < e.2.gangs) && (c.gangCluster e.2).isSome)

/-- A launch's next gang is placed, if its partition runs and a cluster fits. -/
def Chip.gangPlace (c : Chip) (lid : Nat) : Chip :=
  match c.launch lid with
  | none => c
  | some l =>
    if l.phase ≠ .admitted ∨ (c.part l.part).state ≠ 1 ∨ l.gangs ≤ l.placed ∨ c.earlierFits l then c
    else
      match c.gangCluster l with
      | none => c
      | some cl => c.placeGang l lid cl

/-- `GANG_PLACE` (R161). -/
def execGangPlace (lid : BitVec 32) (s : State) : Host.Outcome State Fault Refusal :=
  onChip (fun c => c.gangPlace lid.toNat) s

/-! ### Termination (R172, R173) -/

/-- The commands of a cluster that a launch's coroutines issued and that have not completed. -/
def Cluster.commandsOf (k : Cluster) (lid : Nat) : Nat :=
  (k.copyQ.filter (fun q => q.cmd.lid = lid)).length + (k.kvQ.filter (fun q => q.cmd.lid = lid)).length
    + (k.netQ.filter (fun q => q.cmd.lid = lid)).length

/-- The sum of a launch's `LIVE` counters (R172). (DEDUCED, log entry 32.) -/
def Chip.liveCount (c : Chip) (lid : Nat) : Nat :=
  mcount c.cos (fun _ co => co.lid = lid && co.isLive) + (c.clusters.map (fun e => e.2.commandsOf lid)).foldl (· + ·) 0

/-- The sum of a launch's counters of one kind. -/
def countSum (m : AMap Nat) : Nat := (m.map (fun e => e.2)).foldl (· + ·) 0

/-- What a sweep samples of a launch (R173). -/
def Chip.sample (c : Chip) (lid : Nat) (l : Launch) : Sweep :=
  ⟨c.liveCount lid = 0 && l.placed = l.gangs, countSum l.sent, countSum l.recv⟩

/-- Whether a sweep and the one before it end a launch. (DESIGN CHOICE, log entry 36.) -/
def Sweep.ends (w : Sweep) (last : Option Sweep) : Bool :=
  match last with
  | none => false
  | some v => v.flag && w.flag && w.sent = w.recv && w = v

/-- Whether a launch has exited coroutines that are not yet free: its `DONE` waits for them (R404). -/
def Chip.exitedLeft (c : Chip) (lid : Nat) : Bool := c.cos.any (fun e => e.2.lid = lid && e.2.state = .exited)

/-- A sweep of one launch. (DEDUCED, log entry 32.) (DESIGN CHOICE, log entry 36.) -/
def Chip.sweepLaunch (c : Chip) (lid : Nat) : Chip :=
  match c.launch lid with
  | none => c
  | some l =>
    let w := c.sample lid l
    if w.ends l.last && !c.exitedLeft lid then c.endLaunch lid l.status
    else c.modLaunch lid (fun l => { l with last := some w })

/-- A sweep of a running partition's launches, by launch slot. (DESIGN CHOICE, log entry 36.) -/
def Chip.sweep (c : Chip) (p : Nat) : Chip :=
  if (c.part p).state ≠ 1 then c
  else (sortBy (fun lid => match c.launch lid with | some l => l.slot | none => 0) ((c.admitted p).map (fun e => e.1))).foldl
    Chip.sweepLaunch c

/-- `TERMINATION_SWEEP` (R173). -/
def execTerminationSweep (p : BitVec 7) (s : State) : Host.Outcome State Fault Refusal :=
  onChip (fun c => c.sweep p.toNat) s

end Sys2Proof.Machine
end

