-- ==== Sys2Proof/Machine/Pilot.lean ====
section
/-! DEFINITION. The pilot: events accepted, written to the ring and signalled by MSI-X (R82, R89-R91, R455), and the
event-queue registers. -/

namespace Sys2Proof.Machine

/-! ### MSI-X (R49, R455) -/

/-- An entry of the MSI-X table; its mask bit, vector control bit 0, is set at reset (PRESUMED: PCI Express).
(PRESUMED, log entry 9.) -/
def Keep.msixEntry (k : Keep) (v : Nat) : BitVec 128 := mgetD k.msix v (BitVec.ofNat 128 (2 ^ 96))

/-- Whether a vector is masked. (PRESUMED, log entry 9.) -/
def Keep.masked (k : Keep) (v : Nat) : Bool := (k.msixEntry v).getLsbD 96

/-- Send an MSI-X vector, or leave it pending while it is masked. (PRESUMED, log entry 9.) -/
def Keep.sendMsix (k : Keep) (v : Nat) : Keep :=
  if k.masked v then { k with pba := k.pba ||| BitVec.ofNat 2048 (2 ^ v) } else { k with sentIrqs := k.sentIrqs ++ [v] }

/-- Write four bytes of the MSI-X table; a pending vector that becomes unmasked is sent. (PRESUMED, log entry 9.) -/
def Keep.writeMsix (k : Keep) (v o : Nat) (w : BitVec 32) : Keep :=
  let e := (k.msixEntry v).toNat
  let k := { k with msix := mset k.msix v (BitVec.ofNat 128 (setBits e (8 * o + 31) (8 * o) w.toNat)) }
  if k.pba.getLsbD v && !k.masked v then
    { k with pba := k.pba &&& ~~~(BitVec.ofNat 2048 (2 ^ v)), sentIrqs := k.sentIrqs ++ [v] }
  else k

/-! ### The ring (R89-R91) -/

/-- The 32 bytes of an entry (R90). -/
def PEvent.bytes (e : PEvent) (phase : Bool) (seq : BitVec 32) (time : Nat) : List Byte :=
  leBytes 2 e.type ++ leBytes 1 e.source ++ leBytes 1 (b2n phase) ++ leBytes 4 seq.toNat ++ leBytes 8 time
    ++ leBytes 8 e.d0.toNat ++ leBytes 8 e.d1.toNat

/-- Whether an event of a type is dropped when the pilot's own buffer is full (R91). -/
def droppable (t : Nat) : Bool := t = 0x0001 || t = 0x0010 || t = 0x0011 || t = 0x0020 || t = 0x0021

/-- The entries of the ring. -/
def Pilot.size (p : Pilot) : Nat := 2 ^ p.log2n

/-- The entries that the host has not consumed. -/
def Pilot.unconsumed (p : Pilot) : Nat := (p.tail.toNat + p.size - p.head.toNat % p.size) % p.size

/-- Whether the pilot may write an entry. -/
def Pilot.room (p : Pilot) : Bool := p.en && decide (p.unconsumed < p.size - 1)

/-- Send the event vector once enough entries are unsignalled (R89). -/
def Keep.signalEvents (k : Keep) : Keep :=
  if Nat.max 1 k.pilot.irqCount.toNat ≤ k.pilot.unsignalled then
    { k with pilot := { k.pilot with unsignalled := 0 } }.sendMsix k.pilot.vec.toNat
  else k

/-- Write one accepted event to the ring, then signal it, then send its own vector (R82, R91).
(DESIGN CHOICE, log entry 44.) -/
def Keep.writeEvent (k : Keep) (e : PEvent) (accepted now : Nat) : Keep :=
  let p := k.pilot
  let k := { k with
    hostMem := memWriteBytes k.hostMem (p.base.toNat / 4096 * 4096 + 32 * p.tail.toNat) (e.bytes p.phase p.seq accepted)
    pilot := { p with
      tail := BitVec.ofNat 16 ((p.tail.toNat + 1) % p.size)
      phase := if p.tail.toNat + 1 = p.size then !p.phase else p.phase
      seq := p.seq + 1
      unsignalled := p.unsignalled + 1
      since := if p.unsignalled = 0 then now else p.since } }
  match e.irq with
  | some v => k.signalEvents.sendMsix v
  | none => k.signalEvents

/-- Write the buffered events, then the held ones, while the ring has room. -/
def Keep.pump (fuel : Nat) (now : Nat) (k : Keep) : Keep :=
  match fuel with
  | 0 => k
  | f + 1 =>
    if !k.pilot.room then k
    else
      match k.pilot.buffer, k.pilot.held with
      | (e, t) :: r, _ => Keep.pump f now ({ k with pilot := { k.pilot with buffer := r } }.writeEvent e t now)
      | [], e :: r => Keep.pump f now ({ k with pilot := { k.pilot with held := r } }.writeEvent e now now)
      | [], [] => k

/-- Everything that waits is written as far as there is room. -/
def Keep.drainEvents (k : Keep) (now : Nat) : Keep := k.pump (k.pilot.buffer.length + k.pilot.held.length) now

/-- While the ring is disabled the pilot takes an event into its buffer; when that is full it drops an event whose state
stays readable and leaves any other with its source (R91). -/
def Pilot.bufferEvent (p : Pilot) (e : PEvent) (now : Nat) : Pilot :=
  if p.buffer.length < 1024 ∧ p.held = [] then { p with buffer := p.buffer ++ [(e, now)] }
  else if droppable e.type then { p with lost := if p.lost = BitVec.allOnes 16 then p.lost else p.lost + 1 }
  else { p with held := p.held ++ [e] }

/-- A source raises an event. -/
def Keep.raise (k : Keep) (e : PEvent) (now : Nat) : Keep :=
  if k.pilot.en then { k with pilot := { k.pilot with held := k.pilot.held ++ [e] } }.drainEvents now
  else { k with pilot := k.pilot.bufferEvent e now }

/-- The held events enter the buffer of a pilot whose ring has been disabled. (DESIGN CHOICE, log entry 44.) -/
def Pilot.rebuffer (p : Pilot) (now : Nat) : Pilot := p.held.foldl (fun p e => p.bufferEvent e now) { p with held := [] }

/-- The events that the chip has raised reach the pilot. (DESIGN CHOICE, log entry 44.) -/
def State.postEvents (s : State) : State :=
  if s.chip.outbox = [] then s
  else { s with
    keep := s.chip.outbox.foldl (fun k e => k.raise e s.chip.time) s.keep
    chip := { s.chip with outbox := [] } }

/-! ### The event-queue registers (R89) -/

/-- A write of `EVQ_CTL`. -/
def Keep.writeEvqCtl (k : Keep) (v : BitVec 32) (now : Nat) : Keep :=
  let p := { k.pilot with vec := BitVec.ofNat 11 (bits v.toNat 26 16) }
  let n := bits v.toNat 5 1
  if p.en then
    if bit v.toNat 0 then { k with pilot := p }
    else { k with pilot := { p with en := false, log2n := n }.rebuffer now }
  else if bit v.toNat 0 && decide (8 ≤ n) && decide (n ≤ 16) then
    { k with pilot := { p with en := true, log2n := n, head := 0, tail := 0, phase := true, seq := 1, unsignalled := 0 } }.drainEvents now
  else { k with pilot := { p with log2n := n } }

/-- `EVQ_CTL_WRITE` (R89). -/
def execEvqCtlWrite (v : BitVec 32) (s : State) : Host.Outcome State Fault Refusal :=
  onState (fun s => { s with keep := s.keep.writeEvqCtl v s.chip.time }) s

/-- A write of `EVQ_HEAD`: entries become free and the pilot goes on (R91). -/
def Keep.writeEvqHead (k : Keep) (v : BitVec 32) (now : Nat) : Keep :=
  { k with pilot := { k.pilot with head := v.setWidth 16 } }.drainEvents now

/-- `EVQ_HEAD_WRITE` (R89, R91). -/
def execEvqHeadWrite (v : BitVec 32) (s : State) : Host.Outcome State Fault Refusal :=
  onState (fun s => { s with keep := s.keep.writeEvqHead v s.chip.time }) s

/-- The event timer: `USEC` microseconds with an entry unsignalled (R89). -/
def Keep.irqTimer (k : Keep) (now : Nat) : Keep :=
  if k.pilot.usec ≠ 0 ∧ 0 < k.pilot.unsignalled ∧ 1000 * k.pilot.usec.toNat ≤ now - k.pilot.since then
    { k with pilot := { k.pilot with unsignalled := 0 } }.sendMsix k.pilot.vec.toNat
  else k

/-- `EVQ_IRQ_TIMER` (R89). -/
def execEvqIrqTimer (s : State) : Host.Outcome State Fault Refusal :=
  onState (fun s => { s with keep := s.keep.irqTimer s.chip.time }) s

end Sys2Proof.Machine
end

