-- ==== Sys2Proof/Machine/Firmware.lean ====
section
/-! DEFINITION. The lantern: boot (R15-R18, R88, R92, R93, R95, R138, R269), staging of images (R93-R95), attestation and
the identity certificate (R96). What boot trains or measures outside the model is `Config.bootPasses`, by boot number and
error code. -/

namespace Sys2Proof.Machine

/-! ### Signed images and records (R15, R16, R92, R93) -/

/-- Whether a signature over bytes verifies under a stored public key whose digest is that of a fuse (R92). -/
def Store2.verifies (s : Store2) (fuse bs sig : List Byte) : Bool :=
  s.keys.any (fun k => sha384 k = fuse && Config.ecdsaVerify sig (sha384 bs) k)

/-- Whether an image's signature verifies under the vendor key (R93). -/
def Store2.signed (s : Store2) (img : List Byte) : Bool :=
  s.verifies s.vendor (img.take (img.length - 96)) (img.drop (img.length - 96))

/-- Whether an image is one of a kind: its magic, kind and length (R93). -/
def imageOf (kind : Nat) (img : List Byte) : Bool :=
  decide (160 ≤ img.length) && recField img 0 4 = 0x57464C4F && recField img 4 1 = kind && recField img 0x10 8 = img.length

/-- `VER` of an image. -/
def imageVer (img : List Byte) : Nat := recField img 8 4
/-- `SVN` of an image. -/
def imageSvn (img : List Byte) : Nat := recField img 12 4

/-- The image that a boot stage takes: of the slots that verify, the one with the larger `VER` (R95). -/
def Store2.pickImage (s : Store2) (kind : Nat) (slots : List (List Byte)) : Option (List Byte) :=
  (slots.filter (fun i => imageOf kind i && s.signed i)).foldl (fun m i => match m with
    | none => some i
    | some j => if imageVer j < imageVer i then some i else some j) none

/-- The digest of the key that verifies configuration records: the owner's, or the vendor's while that is unprogrammed (R92). -/
def Store2.configKey (s : Store2) : List Byte := if s.owner = [] then s.vendor else s.owner

/-- Whether a configuration record is valid (R15, R16). -/
def Store2.configValid (s : Store2) (r : List Byte) : Bool :=
  r.length = 512 && recField r 0 4 = 0x4C434B50 && recField r 4 2 = 1 && decide (1000 ≤ recField r 0x10 4)
    && s.verifies s.configKey (r.take 0x1A0) (r.drop 0x1A0)

/-- The valid configuration record with the larger `SEQ`; of two with the same, the first slot's, which is the model's choice
(R15). (DESIGN CHOICE, log entry 40.) -/
def pickConfig (s : Store2) : Option (List Byte) :=
  (s.config.filter s.configValid).foldl (fun m i => match m with
    | none => some i
    | some j => if recField j 8 8 < recField i 8 8 then some i else some j) none

/-! ### The device description (R88) -/

/-- The 16 bytes of the canonical device description. -/
def deviceDescription (version : Nat) (ucode : BitVec 32) : List Byte :=
  leBytes 1 (version / 2 ^ 24) ++ leBytes 1 (version / 2 ^ 16) ++ leBytes 2 16 ++ leBytes 2 256 ++ leBytes 2 0x0880
    ++ leBytes 1 32 ++ leBytes 1 16 ++ leBytes 1 4 ++ leBytes 1 0 ++ leBytes 4 ucode.toNat

/-- `DEVHASH`: the first eight bytes of the digest, byte 0 highest. -/
def deviceHash (version : Nat) (ucode : BitVec 32) : Word := wordOf (beNat ((sha384 (deviceDescription version ucode)).take 8))

/-! ### Boot (R17) -/

/-- Whether a spill region may start at a frame: 288 frames of the spire, none retired, none of its beacon table (R269). -/
def spillFits (retired : List Nat) (d f : Nat) : Bool :=
  decide (65536 * d ≤ f) && decide (f + 288 ≤ 65536 * (d + 1)) && retired.all (fun r => decide (r < f) || decide (f + 288 ≤ r))

/-- The first frame of a spire's spill region: the lantern's choice where it is allowed, else the lowest allowed. -/
def spillChoice (retired : List Nat) (boot d : Nat) : Option Nat :=
  if spillFits retired d (Config.spillFrame boot d) then some (Config.spillFrame boot d)
  else (leastBelow 65249 (fun i => spillFits retired d (65536 * d + i))).map (fun i => 65536 * d + i)

/-- Whether a frame may hold half of a spire's beacon table (R45, R138). -/
def beaconFits (retired : List Nat) (d spill f : Nat) : Bool :=
  decide (65536 * d ≤ f) && decide (f < 65536 * (d + 1)) && !retired.contains f && (decide (f < spill) || decide (spill + 288 ≤ f))

/-- The two frames of a spire's beacon table: the lantern's choice where it is allowed, else the lowest allowed. -/
def beaconChoice (retired : List Nat) (boot d spill : Nat) : Option (List Nat) :=
  let a := Config.beaconFrame boot d
  let b := Config.beaconFrame boot (4 + d)
  if beaconFits retired d spill a && beaconFits retired d spill b && a ≠ b then some [a, b]
  else
    match leastBelow 65536 (fun i => beaconFits retired d spill (65536 * d + i)) with
    | none => none
    | some i =>
      match leastBelow 65536 (fun j => i < j && beaconFits retired d spill (65536 * d + j)) with
      | none => none
      | some j => some [65536 * d + i, 65536 * d + j]

/-- Place a spire's regions and clear them (R17 stage 6, R138, R269). -/
def Chip.placeRegions (c : Chip) (boot d : Nat) : Option Chip :=
  match spillChoice c.retired boot d with
  | none => none
  | some f =>
    match beaconChoice c.retired boot d f with
    | none => none
    | some fs =>
      some (Chip.modSpire { c with mem := memClear c.mem (f * 2 ^ 21) (288 * 2 ^ 21) } d
        (fun s => { s with beacons := [], recs := [], spill := f * 2 ^ 21, frames := fs }))

/-- Place the regions of the spires from `d` on. -/
def Chip.placeAllRegions (c : Chip) (boot : Nat) (ds : List Nat) : Option Chip :=
  match ds with
  | [] => some c
  | d :: r =>
    match c.placeRegions boot d with
    | none => none
    | some c => Chip.placeAllRegions c boot r

/-- The state with a boot stage begun. -/
def atStage (n : Nat) (s : State) : State := { s with keep := { s.keep with boot := { s.keep.boot with stage := BitVec.ofNat 8 n } } }

/-- Boot stops with an error: the lantern halts and the spires stay unpowered, so that nothing outside the keep runs, while the
control BAR is served (R17). -/
def bootFails (e : Nat) (s : State) : State :=
  { s with keep := { s.keep with
    boot := { s.keep.boot with err := BitVec.ofNat 8 e }, power := { s.keep.power with halted := true } } }

/-- Whether the lantern has halted in a boot that failed (R17). -/
def Keep.lanternHalted (k : Keep) : Bool := decide (k.boot.err ≠ 0)

/-- Whether what lies outside the model lets a stage pass. (DESIGN CHOICE, log entry 8.) (DESIGN CHOICE, log entry 40.) -/
def stagePasses (s : State) (e : Nat) : Bool := Config.bootPasses s.keep.boot.count e

/-- Stages 0x07 and 0x08: ports trained, `READY`, the device-ready event. -/
def bootLinks (s : State) : State :=
  let s := atStage 7 s
  if !stagePasses s 0x71 then bootFails 0x71 s
  else
    let up (i : Nat) : Bool := Config.bootPasses s.keep.boot.count (0x700 + i)
    let s := { s with chip := { s.chip with links := { s.chip.links with
      ual := Vector.ofFn (fun i : Fin 8 => { s.chip.links.ual[i.val]'(i.isLt) with up := up i.val, width := if up i.val then 4 else 0 })
      ue := Vector.ofFn (fun i : Fin 4 => { s.chip.links.ue[i.val]'(i.isLt) with up := up (8 + i.val) })
      cxlDown := BitVec.ofNat 4 (((List.range 4).map (fun i => if up (12 + i) then 0 else 2 ^ i)).foldl (· + ·) 0) } } }
    let s := atStage 8 s
    { s with
      keep := { s.keep with boot := { s.keep.boot with ready := true } }
      chip := s.chip.post ⟨0x0001, 4, s.chip.version.setWidth 64, s.chip.devhash, none⟩ }

/-- Stages 0x05 and 0x06: microcode and `DEVHASH`; beacon tables, spill regions and compass bits cleared, the save key. -/
def bootSpires (uc : List Byte) (s : State) : State :=
  let s := atStage 5 s
  if !stagePasses s 0x51 then bootFails 0x51 s
  else
    let s := { s with chip := { s.chip with
      version := BitVec.ofNat 32 (imageVer uc)
      devhash := deviceHash (imageVer uc) (Config.microcodeSet uc)
      clusters := ((List.range 128).filter (fun i => s.chip.clmask.getLsbD i)).foldl
        (fun m i => mset m i { mgetD m i Cluster.reset with power := 2 }) s.chip.clusters } }
    let s := atStage 6 s
    match (if stagePasses s 0x61 then Chip.placeAllRegions { s.chip with compass := [], combiner := [] } s.keep.boot.count [0, 1, 2, 3] else none) with
    | none => bootFails 0x61 s
    | some c => bootLinks { s with chip := { c with saveKey := Config.saveKey s.keep.boot.count } }

/-- Stages 0x03 and 0x04: the configuration record, the channels and the bad-page list. (DESIGN CHOICE, log entry 40.) -/
def bootMemory (uc : List Byte) (s : State) : State :=
  let s := atStage 3 s
  match pickConfig s.keep.store with
  | none => bootFails 0x31 s
  | some r =>
    let s := { s with
      keep := { s.keep with boot := { s.keep.boot with
        plimit := Nat.min 2000 (recField r 0x10 4), dieWarn := recField r 0x14 2, hbmWarn := recField r 0x16 2
        cfgSeq := wordOf (recField r 8 8), cfgRecord := r } }
      chip := { s.chip with clmask := BitVec.ofNat 128 (recField r 0x18 16) } }
    let s := atStage 4 s
    if !stagePasses s 0x41 then bootFails 0x41 s
    else if !stagePasses s 0x42 then bootFails 0x42 s
    else bootSpires uc { s with chip := { s.chip with retired := s.keep.store.badPages } }

/-- Stages 0x01 and 0x02: lantern firmware and microcode. -/
def bootImages (s : State) : State :=
  let s := atStage 1 s
  match s.keep.store.pickImage 1 s.keep.store.fw with
  | none => bootFails 0x11 s
  | some fw =>
    let s := atStage 2 { s with keep := { s.keep with
      boot := { s.keep.boot with fwImage := fw }, store := { s.keep.store with fwSvn := imageSvn fw } } }
    match s.keep.store.pickImage 2 s.keep.store.uc with
    | none => bootFails 0x21 s
    | some uc =>
      bootMemory uc { s with keep := { s.keep with
        boot := { s.keep.boot with ucImage := uc }, store := { s.keep.store with ucSvn := imageSvn uc } } }

/-- The lantern runs the boot stages. -/
def bootNow (s : State) : State :=
  bootImages { s with keep := { s.keep with boot := { s.keep.boot with started := true, count := s.keep.boot.count + 1 } } }

/-- A package that has not been booted boots. (DESIGN CHOICE, log entry 2.) (DESIGN CHOICE, log entry 8.)
(DESIGN CHOICE, log entry 40.) -/
def powerGood (s : State) : State := if s.keep.boot.started then s else bootNow s

/-- A cold reset: every register at its reset value. The fuses and the non-volatile store keep their contents, and so does what
is not the package's: host memory, what the host and the links have been sent, and the bookkeeping of the model (numbers that never
come again, images that the part has signed). (DESIGN CHOICE, log entry 40.) -/
def coldReset (s : State) : State :=
  { State.reset with
    agenda := s.agenda, cur := s.cur
    keep := { Keep.reset with
      store := s.keep.store, hostMem := s.keep.hostMem, sentIrqs := s.keep.sentIrqs
      boot := { Keep.reset.boot with count := s.keep.boot.count } }
    chip := { Chip.reset with
      free := s.chip.free, archive := s.chip.archive, nextGang := s.chip.nextGang, nextOrder := s.chip.nextOrder
      nextCmd := s.chip.nextCmd, nextSeq := s.chip.nextSeq, uses := s.chip.uses
      links := { Links.reset with cxlBad := s.chip.links.cxlBad, wire := s.chip.links.wire } } }

/-- Power-good comes to a package: one that has run before starts again from a cold reset, with the images staged since
(R6, R17, R95). -/
def powerCycle (s : State) : State := bootNow (if s.keep.boot.started then coldReset s else s)

/-- `POWER_GOOD` (R17). -/
def execPowerGood (s : State) : Host.Outcome State Fault Refusal := onState powerCycle s

/-! ### Firmware commands (R94-R96) -/

/-- The buffer address of a command: 4 KiB aligned (R94). -/
def Fw.buffer (f : Fw) : Nat := f.addr.toNat / 4096 * 4096

/-- A command starts, with the result that it will report. -/
def Keep.startCommand (k : Keep) (op result : Nat) : Keep := { k with fw := { k.fw with busy := true, op := op, pending := result } }

/-- The result of the checks of a staged image (R95): 0 done, 1 bad signature, 2 rollback, 3 bad kind or version, 5 bad
length. (DESIGN CHOICE, log entry 40.) -/
def stageResult (s : State) (img : List Byte) : Nat :=
  let kind := recField img 4 1
  let v := imageVer img
  let run := s.chip.version.toNat
  if img.length < 160 ∨ recField img 0x10 8 ≠ img.length then 5
  else if !s.keep.store.signed img then 1
  else if recField img 0 4 ≠ 0x57464C4F ∨ (kind ≠ 1 ∧ kind ≠ 2) then 3
  else if imageSvn img < (if kind = 1 then s.keep.store.fwSvn else s.keep.store.ucSvn) then 2
  else if kind = 2 ∧ (v / 2 ^ 24 ≠ run / 2 ^ 24 ∨ v / 2 ^ 16 % 256 < run / 2 ^ 16 % 256) then 3
  else 0

/-- Write an image to the inactive one of two slots: the one that the boot did not take. -/
def stageInto (slots : List (List Byte)) (active img : List Byte) : List (List Byte) :=
  if slots.getD 0 [] = active then [slots.getD 0 [], img] else [img, slots.getD 1 []]

/-- Operation 1: an image is read by DMA, checked and staged; it takes effect at the next cold reset. Whether the DMA fails
is the outside world's. (DESIGN CHOICE, log entry 40.) -/
def stageImage (s : State) : State :=
  if s.keep.fw.busy || s.keep.lanternHalted then s
  else if 2 ^ 26 < s.keep.fw.len.toNat then { s with keep := s.keep.startCommand 1 5 }
  else if Config.freeBool s.chip.free then
    { s with keep := s.keep.startCommand 1 4, chip := { s.chip with free := s.chip.free + 1 } }
  else
    let img := memReadBytes s.keep.hostMem s.keep.fw.buffer s.keep.fw.len.toNat
    let r := stageResult s img
    let st := s.keep.store
    let st := if r ≠ 0 then st
      else if recField img 4 1 = 1 then { st with fw := stageInto st.fw s.keep.boot.fwImage img }
      else { st with uc := stageInto st.uc s.keep.boot.ucImage img }
    { s with keep := { s.keep with store := st }.startCommand 1 r, chip := { s.chip with free := s.chip.free + 1 } }

/-- `FW_STAGE_IMAGE` (R94, R95). -/
def execFwStageImage (s : State) : Host.Outcome State Fault Refusal := onState stageImage s

/-- The report up to its signature (R96). -/
def reportHead (s : State) (nonce : List Byte) : List Byte :=
  leBytes 4 0x54414C4F ++ leBytes 4 s.chip.version.toNat ++ leBytes 8 s.chip.devhash.toNat ++ nonce
    ++ sha384 s.keep.boot.fwImage ++ sha384 s.keep.boot.ucImage ++ sha384 s.keep.boot.cfgRecord
    ++ leBytes 8 s.keep.boot.cfgSeq.toNat ++ leBytes 4 (imageSvn s.keep.boot.fwImage) ++ leBytes 4 (imageSvn s.keep.boot.ucImage)

/-- The 96 bytes of a signature by the identity key over bytes (R96, R277). -/
def signature (n : Nat) (bs : List Byte) : List Byte :=
  let s := Config.ecdsaSign n (sha384 bs)
  (s ++ List.replicate 96 0).take 96

/-- Operation 3: the attestation report replaces the nonce. (DESIGN CHOICE, log entry 40.) -/
def attest (s : State) : State :=
  if s.keep.fw.busy || s.keep.lanternHalted then s
  else if Config.freeBool s.chip.free then
    { s with keep := s.keep.startCommand 3 4, chip := { s.chip with free := s.chip.free + 1 } }
  else
    let h := reportHead s (memReadBytes s.keep.hostMem s.keep.fw.buffer 48)
    { s with
      keep := { s.keep with
        hostMem := memWriteBytes s.keep.hostMem s.keep.fw.buffer (h ++ signature s.chip.free h) }.startCommand 3 0
      chip := { s.chip with free := s.chip.free + 1 } }

/-- `FW_ATTEST` (R94, R96). -/
def execFwAttest (s : State) : Host.Outcome State Fault Refusal := onState attest s

/-- The identity certificate: at most 2,048 bytes (R96). -/
def identityCertificate : List Byte := Config.certificate.take 2048

/-- Operation 4: the certificate goes to the buffer and its length to `FW_LEN`. (DESIGN CHOICE, log entry 40.) -/
def readCert (s : State) : State :=
  if s.keep.fw.busy || s.keep.lanternHalted then s
  else if Config.freeBool s.chip.free then
    { s with keep := s.keep.startCommand 4 4, chip := { s.chip with free := s.chip.free + 1 } }
  else
    { s with
      keep := { s.keep with
        hostMem := memWriteBytes s.keep.hostMem s.keep.fw.buffer identityCertificate
        fw := { s.keep.fw with len := BitVec.ofNat 32 identityCertificate.length } }.startCommand 4 0
      chip := { s.chip with free := s.chip.free + 1 } }

/-- `FW_READ_CERT` (R94, R96). -/
def execFwReadCert (s : State) : Host.Outcome State Fault Refusal := onState readCert s

/-- A running command finishes (R94). -/
def Keep.endCommand (k : Keep) : Keep :=
  if k.fw.busy then { k with fw := { k.fw with busy := false, result := k.fw.pending } } else k

/-- `FW_COMMAND_DONE` (R94). -/
def execFwCommandDone (s : State) : Host.Outcome State Fault Refusal :=
  onState (fun s => { s with keep := s.keep.endCommand }) s

end Sys2Proof.Machine
end

