-- ==== Sys2Proof/Machine/Power.lean ====
section
/-! DEFINITION. Power and thermal management: the power level and the thermal levels (R11, R21-R24), and the power states
of clusters, spires and the package (R12-R14, R19, R20). Units are numbered 0-127 clusters, 128-131 spires, 132 the package. -/

namespace Sys2Proof.Machine

/-! ### Levels (R11, R22, R24) -/

/-- The sensors of a group: the spires and the keep, or the stacks (R23). -/
def Power.group (p : Power) (mem : Bool) : List Sensor := if mem then p.sensors.toList.drop 5 else p.sensors.toList.take 5

/-- The throttle level that the three levels and the trips give (R24). -/
def Power.throttleOf (p : Power) : Nat :=
  if p.sensors.toList.any (fun s => s.tripped) then 15 else Nat.min 15 (p.level + p.die + p.hbm)

/-- The levels taken into `PKG_THROTTLE.LEVEL`. -/
def Power.refresh (p : Power) : Power := { p with throttle := p.throttleOf }

/-- A thermal level at a window's end: up while a sensor of its group is warm, else down (R24). -/
def nextThermal (l : Nat) (warm : Bool) : Nat := if warm then Nat.min 15 (l + 1) else l - 1

/-- The power level and its count of low windows at a window's end (R11). (DEDUCED, log entry 39.) -/
def nextPower (level under mw plimit : Nat) : Nat × Nat :=
  if 1000 * plimit < mw then (Nat.min 15 (level + 1), 0)
  else if 100 * mw < 95 * (1000 * plimit) then (if under + 1 = 10 then (level - 1, 0) else (level, under + 1))
  else (level, 0)

/-- The end of a 1 ms window. -/
def Power.window (p : Power) (mw : BitVec 32) (plimit : Nat) : Power :=
  let n := nextPower p.level p.under mw.toNat plimit
  { p with
    mw := mw, level := n.1, under := n.2
    die := nextThermal p.die ((p.group false).any (fun s => s.warm))
    hbm := nextThermal p.hbm ((p.group true).any (fun s => s.warm)) }.refresh

/-- `POWER_WINDOW` (R11, R24). -/
def execPowerWindow (mw : BitVec 32) (s : State) : Host.Outcome State Fault Refusal :=
  onState (fun s => { s with keep := { s.keep with power := s.keep.power.window mw s.keep.boot.plimit } }) s

/-! ### Sensors (R23, R24) -/

/-- The warning temperature of a sensor, in 0.125 °C (R16, R24). -/
def Boot.warnAt (b : Boot) (n : Nat) : Int := 8 * (if n < 5 then (b.dieWarn : Int) else (b.hbmWarn : Int))

/-- The trip temperature of a sensor, in 0.125 °C (R24). -/
def tripAt (n : Nat) : Int := if n < 5 then 880 else 800

/-- A sensor reads a temperature: it becomes warm or tripped on reaching a threshold, and stops being so below (R24). -/
def Sensor.read (s : Sensor) (temp : BitVec 16) (warn trip : Int) (now : Nat) : Sensor :=
  let t := temp.toInt
  let s := { s with temp := temp }
  let s := if !s.warm && decide (warn ≤ t) then { s with warn := true, warm := true }
    else if s.warm && decide (t ≤ warn - 40) then { s with warm := false } else s
  let s := { s with stayed := s.stayed && decide (trip ≤ t) }
  if !s.tripped && decide (trip ≤ t) then { s with trip := true, tripped := true, tripAt := now, stayed := true }
  else if s.tripped && decide (t < warn) then { s with tripped := false } else s

/-- Change a sensor; there are 13. -/
def Power.modSensor (p : Power) (n : Nat) (f : Sensor → Sensor) : Power :=
  { p with sensors := Vector.ofFn (fun i : Fin 13 => if i.val = n then f (p.sensors[i.val]'(i.isLt)) else p.sensors[i.val]'(i.isLt)) }

/-- A sensor. -/
def Power.sensor (p : Power) (n : Nat) : Sensor := p.sensors.getD n Sensor.reset

/-- A sensor's reading taken where it is of the kind that the event names. -/
def readSensor (n : Nat) (temp : BitVec 16) (kind : Int → Int → Int → Bool) (s : State) : State :=
  let w := s.keep.boot.warnAt n
  if n < 13 && kind temp.toInt w (tripAt n) then
    { s with keep := { s.keep with power := (s.keep.power.modSensor n (fun x => x.read temp w (tripAt n) s.chip.time)).refresh } }
  else s

/-- `THERMAL_WARN`: a reading at or above the warning temperature (R24). -/
def execThermalWarn (n : BitVec 4) (temp : BitVec 16) (s : State) : Host.Outcome State Fault Refusal :=
  onState (readSensor n.toNat temp (fun t w _ => decide (w ≤ t))) s

/-- `THERMAL_TRIP`: a reading at or above the trip temperature (R24). -/
def execThermalTrip (n : BitVec 4) (temp : BitVec 16) (s : State) : Host.Outcome State Fault Refusal :=
  onState (readSensor n.toNat temp (fun t _ tr => decide (tr ≤ t))) s

/-- `THERMAL_COOL`: a reading below the warning temperature (R24). -/
def execThermalCool (n : BitVec 4) (temp : BitVec 16) (s : State) : Host.Outcome State Fault Refusal :=
  onState (readSensor n.toNat temp (fun t w _ => decide (t < w))) s

/-- Whether a sensor tripped 100 ms ago and has not been below its trip temperature since (R24). (DEDUCED, log entry 39.) -/
def Power.mustStop (p : Power) (n now : Nat) : Bool :=
  n < 13 && (p.sensor n).tripped && (p.sensor n).stayed && decide (100000000 ≤ now - (p.sensor n).tripAt)

/-- The clocks outside the keep stop; the sensor is recorded (R24). -/
def shutDown (n : Nat) (s : State) : State :=
  if s.keep.power.mustStop n s.chip.time && !s.keep.power.halted then
    { s with
      keep := { s.keep with power := { s.keep.power with halted := true }, store := { s.keep.store with shutdown := some n } }
      chip := s.chip.post ⟨0x0030, 4, wordOf n, (s.keep.power.sensor n).temp.setWidth 64, none⟩ }
  else s

/-- `THERMAL_SHUTDOWN` (R24). (DEDUCED, log entry 39.) -/
def execThermalShutdown (n : BitVec 4) (s : State) : Host.Outcome State Fault Refusal := onState (shutDown n.toNat) s

/-! ### Power states (R12-R14) -/

/-- The exit latency of a power state in microseconds (R12). -/
def exitLatency (st : Nat) : Nat :=
  match st with
  | 0 => 0
  | 1 => 2
  | 2 => 40
  | 3 => 1000
  | _ => 20000

/-- Whether a cluster is idle; a drop-off message counts for the cluster whose router holds it (R12, R176). -/
def Chip.idle (c : Chip) (cl : Nat) : Bool :=
  let k := c.cluster cl
  (List.range 4).all (fun i => c.busyOn (4 * cl + i) = 0 && (c.core (4 * cl + i)).vq.isEmpty && (c.core (4 * cl + i)).mq.isEmpty)
    && k.dome.isNone && k.moves.isEmpty && k.copyQ.isEmpty && k.kvQ.isEmpty
    && !(c.msgs.any (fun f => f.dropped && !f.spilled && f.router = cl))

/-- The greatest tolerance written for any partition. -/
def Chip.maxTol (c : Chip) : Nat := (c.parts.map (fun e => e.2.tol.toNat)).foldl Nat.max 0

/-- The tolerance that governs a cluster (R13). (DEDUCED, log entry 39.) -/
def Chip.clusterTol (c : Chip) (cl : Nat) : Nat :=
  match c.partOf cl with
  | some p => (c.part p).tol.toNat
  | none => c.maxTol

/-- The smallest tolerance of the enabled partitions that a test names; the greatest written when there is none.
(DEDUCED, log entry 39.) -/
def Chip.minTol (c : Chip) (f : Partition → Bool) : Nat :=
  match leastBy id ((c.parts.filter (fun e => e.2.en && f e.2)).map (fun e => e.2.tol.toNat)) with
  | some t => t
  | none => c.maxTol

/-- The tolerance that governs a spire (R13). -/
def Chip.spireTol (c : Chip) (d : Nat) : Nat := c.minTol (fun p => (List.range 32).any (fun i => p.clus.getLsbD (32 * d + i)))

/-- The tolerance that governs the package (R13). -/
def Chip.packageTol (c : Chip) : Nat := c.minTol (fun _ => true)

/-- A cluster goes to a power state: its clock stops, and a power-gate discards its L1 contents (R10, R12). The per-core state that
the table does not name as retained (breakpoints, `ECSEL`, `ECNT`, the KV-TLB) is kept, which is the model's choice.
(DESIGN CHOICE, log entry 39.) -/
def Chip.gate (c : Chip) (cl st : Nat) : Chip :=
  let c := c.modCluster cl (fun k => { k with power := st, offSince := if k.power = 0 then c.cycle else k.offSince })
  if 2 ≤ st then
    { c with cores := mmap c.cores (fun i k => if i / 4 = cl then { k with l1d := [], l1i := [] } else k) }
  else c

/-- A cluster is back in state 0, unless the configuration record disables it (R14, R15). -/
def Chip.ungate (c : Chip) (cl : Nat) : Chip :=
  if (c.cluster cl).power = 0 ∨ c.clmask.getLsbD cl then c
  else c.modCluster cl (fun k => { k with power := 0, offTime := k.offTime + (c.cycle - k.offSince) })

/-- The state that an idle cluster is held at (R13). -/
def Chip.clusterState (c : Chip) (cl : Nat) : Nat := if 40 ≤ c.clusterTol cl then 2 else if 2 ≤ c.clusterTol cl then 1 else 0

/-- Whether a spire may be idle. -/
def Chip.spireIdle (c : Chip) (d : Nat) : Bool := (List.range 32).all (fun i => c.idle (32 * d + i))

/-- An idle unit enters the state that its governing tolerance allows. -/
def enterState (u : Nat) (s : State) : State :=
  let c := s.chip
  if u < 128 then
    if c.idle u && decide ((c.cluster u).power < c.clusterState u) then { s with chip := c.gate u (c.clusterState u) } else s
  else if u < 132 then
    if c.spireIdle (u - 128) && decide (1000 ≤ c.spireTol (u - 128)) then
      { s with chip := ((List.range 32).foldl (fun c i => c.gate (32 * (u - 128) + i) 2) c).modSpire (u - 128) (fun x => { x with power := 3 }) }
    else s
  else if u = 132 && (List.range 4).all (fun d => c.spireIdle d && (c.spire d).power = 3) && decide (20000 ≤ c.packageTol) then
    { s with keep := { s.keep with power := { s.keep.power with package := 4 } } }
  else s

/-- `POWER_STATE_ENTER` (R13). -/
def execPowerStateEnter (u : BitVec 8) (s : State) : Host.Outcome State Fault Refusal :=
  onState (fun s => if s.keep.power.halted then s else enterState u.toNat s) s

/-- A cluster returns to state 0 with the spire that holds it (R14). -/
def Chip.wakeCluster (c : Chip) (cl : Nat) : Chip := (c.wakeSpire (spireOfCluster cl)).ungate cl

/-- Wake every cluster and spire whose exit latency is above its governing tolerance (R13, R14). -/
def Chip.wakeIntolerant (c : Chip) : Chip :=
  let c := (List.range 4).foldl (fun c d => if c.spireTol d < exitLatency (c.spire d).power then c.wakeSpire d else c) c
  c.clusters.foldl (fun d e =>
    if d.clusterTol e.1 < exitLatency (d.cluster e.1).power then d.wakeCluster e.1 else d) c

/-- The package leaves standby when one of its spires is awake, or its governing tolerance is too small (R12-R14). -/
def settlePower (s : State) : State :=
  if s.keep.power.package = 0 then s
  else if s.chip.packageTol < exitLatency s.keep.power.package ∨ (List.range 4).any (fun d => (s.chip.spire d).power ≠ 3) then
    { s with keep := { s.keep with power := { s.keep.power with package := 0 } } }
  else s

/-- Whether something on its way is aimed at a cluster: a spawned or migrating coroutine (R14). -/
def Chip.aimedAt (c : Chip) (cl : Nat) : Bool :=
  c.msgs.any (fun f => !f.dropped && (match f.msg with
    | .spawn core _ _ => core / 4 = cl
    | .migrate core _ _ => core / 4 = cl
    | _ => false))

/-- Whether a travel hop is aimed at a spire (R14). -/
def Chip.hopsTo (c : Chip) (d : Nat) : Bool :=
  c.msgs.any (fun f => !f.dropped && (match f.msg with
    | .hop spire _ _ => spire = d
    | _ => false))

/-- Whether one of the events of R14 has happened to a cluster: a coroutine on it is ready or runs, one is aimed at it, or its
tolerance is below its exit latency. -/
def Chip.clusterWakes (c : Chip) (cl : Nat) : Bool :=
  (List.range 4).any (fun i => decide (0 < c.busyOn (4 * cl + i))) || c.aimedAt cl
    || decide (c.clusterTol cl < exitLatency (c.cluster cl).power)

/-- Whether one of those events has happened to a spire, or to a cluster of it. -/
def Chip.spireWakes (c : Chip) (d : Nat) : Bool :=
  c.hopsTo d || decide (c.spireTol d < exitLatency (c.spire d).power) || (List.range 32).any (fun i => c.clusterWakes (32 * d + i))

/-- A unit returns to state 0, and those that hold it, when an event of R14 has happened to it; accesses wake a spire themselves.
(DEDUCED, log entry 39.) -/
def wakeUnit (u : Nat) (s : State) : State :=
  if u < 128 then (if s.chip.clusterWakes u then settlePower { s with chip := s.chip.wakeCluster u } else s)
  else if u < 132 then (if s.chip.spireWakes (u - 128) then settlePower { s with chip := s.chip.wakeSpire (u - 128) } else s)
  else if (List.range 4).any (fun d => s.chip.spireWakes d) then
    { s with keep := { s.keep with power := { s.keep.power with package := 0 } } }
  else settlePower s

/-- `UNIT_WAKE` (R14). -/
def execUnitWake (u : BitVec 8) (s : State) : Host.Outcome State Fault Refusal :=
  onState (fun s => if s.keep.power.halted then s else wakeUnit u.toNat s) s

/-- A write of `PART_PWRTOL` (R13, R19); once the clocks have stopped it changes the register only (R24). -/
def writeTolerance (p : Nat) (v : BitVec 32) (s : State) : State :=
  let s := { s with chip := s.chip.modPart p (fun q => { q with tol := v.setWidth 24 }) }
  if s.keep.power.halted then s else settlePower { s with chip := s.chip.wakeIntolerant }

/-- `PART_PWRTOL_WRITE` (R13, R14). -/
def execPartPwrtolWrite (p : BitVec 7) (v : BitVec 32) (s : State) : Host.Outcome State Fault Refusal :=
  onState (writeTolerance p.toNat v) s

end Sys2Proof.Machine
end

