-- ==== Sys2Proof/Machine/Partition.lean ====
section
/-! DEFINITION. Partitions: enabling and disabling (R156-R159, R268), bell time (R174-R178, R247, R437), and function-level
reset (R97). -/

namespace Sys2Proof.Machine

/-! ### Who belongs to a partition -/

/-- Whether a cluster is in a partition's mask. -/
def Chip.inPart (c : Chip) (p cl : Nat) : Bool := (c.part p).clus.getLsbD cl

/-- The clusters of a partition, lowest first. -/
def Chip.clustersOf (c : Chip) (p : Nat) : List Nat := (List.range 128).filter (c.inPart p)

/-- The cores of a partition. -/
def Chip.coresOf (c : Chip) (p : Nat) : List Nat := (c.clustersOf p).flatMap (fun cl => (List.range 4).map (fun i => 4 * cl + i))

/-- The keys of a partition's coroutines. -/
def Chip.keysOf (c : Chip) (p : Nat) : List Nat := (c.cos.map (fun e => e.1)).filter (fun k => c.inPart p (k / 1024))

/-- The spires on which a partition has clusters. -/
def Chip.spiresOf (c : Chip) (p : Nat) : List Nat := (List.range 4).filter (fun d => !(c.partClusters p d).isEmpty)

/-- The launches of a partition. -/
def Chip.launchesOf (c : Chip) (p : Nat) : List Nat := (c.launches.filter (fun e => e.2.part = p)).map (fun e => e.1)

/-- A refused write of `EN` or `OP` (R158). (DEDUCED, log entry 34.) -/
def Chip.refuse (c : Chip) (p : Nat) : Chip := c.modPart p (fun q => { q with err := true })

/-! ### Enabling (R158, R159, R268) -/

/-- Whether a mask shares a cluster with another enabled partition. -/
def Chip.sharesCluster (c : Chip) (p : Nat) : Bool :=
  c.parts.any (fun e => e.1 ≠ p && e.2.en && decide (e.2.clus &&& (c.part p).clus ≠ 0))

/-- A supervisor coroutine as it starts (R84, R159). (DEDUCED, log entry 34.) -/
def supervisorOf (p d gang : Nat) (entry : Word) : Coroutine :=
  { Coroutine.blank with
    sup := true, pc := entry &&& ~~~3, dlive := ~~~1, gang := gang
    x := (Coroutine.blank.x.setIfInBounds 10 (wordOf p)).setIfInBounds 11 (wordOf d) }

/-- Start a partition's supervisor coroutine on a spire. (DEDUCED, log entry 34.) -/
def Chip.startSupervisor (c : Chip) (p d : Nat) : Chip :=
  match c.partClusters p d with
  | [] => c
  | cl :: _ =>
    match c.freeSlot (4 * cl) with
    | none => c
    | some slot =>
      let g := c.nextGang
      (Chip.setCo { c with gangs := mset c.gangs g ⟨0, 0xFFFF, cl, 0, 0, 0, 0, none, none⟩, nextGang := g + 1 }
        (coKey (4 * cl) slot) { supervisorOf p d g (c.part p).sventry with rtime := c.time }).keepRecord (coKey (4 * cl) slot)

/-- Enable a partition. A bell time that has passed while it was disabled does not come again (R175); a unit whose tolerance has
become too small wakes (R13). (DESIGN CHOICE, log entry 2.) (DEDUCED, log entry 34.) -/
def Chip.enable (c : Chip) (p : Nat) : Chip :=
  if (c.part p).en then c
  else if (c.part p).clus = 0 || c.sharesCluster p || decide ((c.part p).clus &&& c.clmask ≠ 0) then c.refuse p
  else
    let c := c.modPart p (fun q => { q with
      en := true, state := 1, unserved := decide (q.sventry = 0), armed := decide (c.time < q.bell.toNat) })
    let c := (c.spiresOf p).foldl (fun c d => c.modBeacon d (faultBeaconOf p) (fun b => b.allocate 0)) c
    let c := if (c.part p).unserved then c else (c.spiresOf p).foldl (fun c d => c.startSupervisor p d) c
    c.wakeIntolerant

/-- `PART_ENABLE` (R158). -/
def execPartEnable (p : BitVec 7) (s : State) : Host.Outcome State Fault Refusal :=
  onState (fun s => if s.keep.power.halted then s else settlePower { s with chip := s.chip.enable p.toNat }) s

/-! ### Draining a core

Stores and vector entries already issued are performed or fault (R175, R213). -/

/-- Whether a core's oldest vector entry is a KV access of a coroutine that goes on: its walk is abandoned at bell time, and the
access replays on resume (R135). (DEDUCED, log entry 35.) -/
def Chip.walkLeft (c : Chip) (core : Nat) : Bool :=
  match (c.core core).vq with
  | [] => false
  | e :: _ => vectorAcc e.op = 7 || vectorAcc e.op = 8

/-- Complete a core's oldest vector entry, but for a walk that is abandoned. -/
def Chip.drainEntry (c : Chip) (core : Nat) : Chip :=
  match (c.core core).vq with
  | [] => c
  | e :: _ => if c.walkLeft core && (c.coD (coKey core e.slot)).state ≠ .exited then c else c.completeEntry core

/-- One store or vector entry of a core. -/
def Chip.drainOne (c : Chip) (core : Nat) : Chip :=
  let a := c.acceptStore core 0
  if (a.core core).sb.length < (c.core core).sb.length then a
  else
    let b := c.drainEntry core
    if (b.core core).vq.length < (c.core core).vq.length then b else c.faultStore core 0

/-- Every store and vector entry of a core that needs nothing from outside it: a queue holds 32 of each. -/
def Chip.drainCore (c : Chip) (core : Nat) : Chip := (List.range 66).foldl (fun c _ => c.drainOne core) c

/-! ### Disabling (R158, R270, R408) -/

/-- Whether a copy or network command of a cluster is stalled on a fault record. -/
def Cluster.stalled (k : Cluster) : Bool := k.copyQ.any (fun q => !q.stalled.isEmpty) || k.netQ.any (fun q => !q.stalled.isEmpty)

/-- Whether a partition holds a fault that only a disable can end (R158). -/
def Chip.stuckFault (c : Chip) (p : Nat) : Bool :=
  ((c.part p).unserved && ((c.keysOf p).any (fun k => (c.coD k).state = .faulted) || (c.clustersOf p).any (fun cl => (c.cluster cl).stalled)))
    || (c.keysOf p).any (fun k => (c.coD k).state = .faulted && (c.coD k).sup)

/-- Whether a partition may be disabled. -/
def Chip.mayDisable (c : Chip) (p : Nat) : Bool :=
  (c.part p).state = 5 || ((c.part p).state = 1 && ((c.launchesOf p).isEmpty || c.stuckFault p))

/-- A copy command's stalled pieces, for launches that a test names, fail (R158, R412). -/
def CopyCmd.abandonAll (q : CopyCmd) (p : Nat → Bool) : CopyCmd :=
  if p q.cmd.lid then (q.stalled.map (fun s => s.2)).foldl (fun q t => q.unstall t true) q else q

/-- A network command's stalled pieces likewise. -/
def NetCmd.abandonAll (q : NetCmd) (p : Nat → Bool) : NetCmd :=
  if p q.cmd.lid then (q.stalled.map (fun s => s.2)).foldl (fun q t => q.unstall t true) q else q

/-- Every engine piece stalled for the launches that a test names fails. -/
def Chip.abandonFor (c : Chip) (p : Nat → Bool) : Chip :=
  { c with clusters := mmap c.clusters (fun _ k => { k with
      copyQ := k.copyQ.map (fun q => q.abandonAll p)
      netQ := k.netQ.map (fun q => q.abandonAll p) }) }

/-- Whether a message carries a coroutine. -/
def Msg.carries (m : Msg) : Bool :=
  match m with
  | .spawn _ _ _ => true
  | .hop _ _ _ => true
  | .migrate _ _ _ => true
  | _ => false

/-- Whether a message is a spawn, hop or move bound for a partition (R175). -/
def Flying.boundFor (f : Flying) (p : Nat) : Bool := f.part = some p && f.msg.carries

/-- End coroutines, let their cores drain, and free their identifiers. (DEDUCED, log entry 35.) -/
def Chip.endAll (c : Chip) (keys cores : List Nat) (status : Nat) : Chip :=
  let c := keys.foldl (fun c k => c.endCo k status) c
  let c := cores.foldl (fun c k => c.drainCore k) c
  keys.foldl (fun c k => c.freeCo k) c

/-- Free a partition's spire fault beacons (R268). -/
def Chip.freeFaultBeacons (c : Chip) (p : Nat) : Chip :=
  (List.range 4).foldl (fun c d => if (c.beacon d (faultBeaconOf p)).alloc then c.freeBeaconAt d (faultBeaconOf p) else c) c

/-- Disable a partition. (DEDUCED, log entry 35.) -/
def Chip.disable (c : Chip) (p : Nat) : Chip :=
  if !(c.part p).en then c
  else if !c.mayDisable p then c.refuse p
  else
    let ls := c.launchesOf p
    let c := if (c.part p).state = 5 then c
      else
        let c := { c with msgs := c.msgs.filter (fun f => !f.boundFor p) }
        (c.endAll (c.keysOf p) (c.coresOf p) 8).abandonFor (fun l => ls.contains l)
    let c := ls.foldl (fun c l => c.endLaunch l 8) c
    let c := c.freeFaultBeacons p
    c.modPart p (fun q => { q with en := false, state := 0, image := none })

/-- `PART_DISABLE` (R158). -/
def execPartDisable (p : BitVec 7) (s : State) : Host.Outcome State Fault Refusal := onChip (fun c => c.disable p.toNat) s

/-! ### Bell time (R174-R177) -/

/-- `PART_BELL_WRITE` (R174). -/
def execPartBellWrite (p : BitVec 7) (v : BitVec 64) (s : State) : Host.Outcome State Fault Refusal :=
  onChip (fun c => c.writeBell p.toNat v) s

/-- The stores and vector entries of a coroutine that have not been performed leave its core with it (R175, R199, R238). -/
def Chip.gatherRest (c : Chip) (key : Nat) : Chip :=
  let elem := match c.entriesOf key with
    | [] => 0
    | e :: _ => e.vstart
  let again := (c.coD key).hact && (c.coD key).pend.isEmpty && (c.coD key).block.isEmpty
  ((c.gatherStores key).gatherEntries key elem).modCo key (fun co => { co with again := again })

/-- The running coroutine of a core drains, gathers what it has left, and stops at its trap point under `DLIVE`; one that has
taken a trap records it there (R175, R238, R264). (DEDUCED, log entry 35.) -/
def Chip.stopCore (c : Chip) (core : Nat) : Chip :=
  let c := c.drainCore core
  match c.runningKey core with
  | none => c
  | some key =>
    let c := c.gatherRest key
    match c.co key with
    | none => c
    | some co =>
      if co.due.isSome then c.settleDue key
      else (c.modCo key (fun co => { co with trapped := co.trapped || !co.pend.isEmpty, resv := [], fresh := true })).suspend key co.dlive
        .ready .none

/-- A coroutine becomes parked and keeps its prior state; a wait on a reservation is over (R175, R177, R202). -/
def Coroutine.park (co : Coroutine) (now : Nat) : Coroutine :=
  if co.state = .exited ∨ co.state = .parked then co
  else if co.state = .awaiting ∧ co.wait = .reservation then
    { co with state := .parked, prior := .ready, wait := .none, rtime := now, resv := [] }
  else { co with state := .parked, prior := co.state, resv := [] }

/-- The command in progress in a cluster's dome completes; its slot, if it is still held, is orphaned (R247). -/
def Chip.stopDome (c : Chip) (cl : Nat) : Chip :=
  match (c.cluster cl).dome with
  | none => c
  | some e =>
    let c := c.domeComplete cl
    match matrixSlot e.op with
    | none => c
    | some _ => c.modCluster cl (fun k => k.modSlot e.slotNum (fun t => if t.held then { t with orphan := true } else t))

/-- A spawn, hop or move on its way to a partition leaves the network at the router where it is, which is free: into that router's
drop-off buffer of 64 messages, or through its slices into the spill region of its spire (R175, R176). A hop that waits for an
identifier has left the network before. (DEDUCED, log entry 35.) -/
def Chip.dropOff (c : Chip) (p i : Nat) : Chip :=
  match c.msgs[i]? with
  | none => c
  | some f =>
    if !f.boundFor p || f.waiting then c
    else
      let r := (Config.freeWord c.free).toNat % 128
      let full := decide (64 ≤ (c.msgs.filter (fun g => g.dropped && !g.spilled && g.router = r)).length)
      let c := { c with free := c.free + 1, msgs := c.msgs.set i { f with dropped := true, router := r, spilled := full } }
      if full then c.writeAside (spireOfCluster r) f.msg else c

/-- Every part of a partition reaches its stop point, and its messages enter the drop-off buffers.
(DEDUCED, log entry 35.) -/
def Chip.ring (c : Chip) (p : Nat) : Chip :=
  if (c.part p).en && (c.part p).state = 1 && (c.part p).armed && decide ((c.part p).bell.toNat ≤ c.time) then
    let c := c.modPart p (fun q => { q with state := 2, stopAt := c.time, armed := false })
    let c := (c.coresOf p).foldl (fun c k => c.stopCore k) c
    let c := { c with cos := mmap c.cos (fun k co => if c.inPart p (k / 1024) then co.park c.time else co) }
    let c := (c.clustersOf p).foldl (fun c cl => c.stopDome cl) c
    (List.range c.msgs.length).foldl (fun c i => c.dropOff p i) c
  else c

/-- Every partition whose bell time has come stops (R175). -/
def Chip.ringDue (c : Chip) : Chip := c.parts.foldl (fun c e => c.ring e.1) c

/-- `BELL_TIME` (R175). -/
def execBellTime (p : BitVec 7) (s : State) : Host.Outcome State Fault Refusal := onChip (fun c => c.ring p.toNat) s

/-! ### The size of a save image (R274, R275) -/

/-- A length in whole 64-byte units. -/
def units64 (n : Nat) : Nat := cdiv n 64 * 64

/-- The length of a coroutine's record (R221). -/
def Chip.recordLen (c : Chip) (co : Coroutine) : Nat := (co.recordBytes c.version 0).length

/-- The sections of a partition's save image in order, with their bodies' lengths: one of type 1 for each identifier in
use, of types 2 to 4 for each cluster, one of type 5. -/
def Chip.sectionList (c : Chip) (p : Nat) : List (Nat × Nat × Nat) :=
  (c.keysOf p).map (fun k => (1, k, units64 (c.recordLen (c.coD k))))
    ++ (c.clustersOf p).flatMap (fun cl => [2, 3, 4].map (fun t => (t, cl, 64 * Config.bodyUnits t)))
    ++ [(5, p, 64 * Config.bodyUnits 5)]

/-- The sections placed one after another from an offset, each behind its 32-byte header. -/
def placeSects (off : Nat) (l : List (Nat × Nat × Nat)) : List Sect :=
  match l with
  | [] => []
  | (t, w, n) :: r => ⟨t, w, off, n⟩ :: placeSects (off + 32 + n) r

/-- The bytes that sections take from an offset on. -/
def sectsEnd (off : Nat) (l : List (Nat × Nat × Nat)) : Nat := (l.map (fun s => 32 + s.2.2)).foldl (· + ·) off

/-- `PART_SAVELEN` (R157, R275). -/
def Chip.saveLen (c : Chip) (p : Nat) : Nat := sectsEnd 256 (c.sectionList p)

/-- Signal a partition's `PART_STOPTOK` (R157). -/
def Chip.signalStop (c : Chip) (p : Nat) : Chip := c.complete .keep (c.part p).stoptok 0 0

/-- Whether a cluster has a network piece that has been sent and has neither completed nor stalled on a fault (R437). -/
def Cluster.sending (k : Cluster) : Bool :=
  k.netQ.any (fun q => q.flight.any (fun f => !(q.stalled.any (fun t => t.1 = f.off))))

/-- Whether every part of a stopping partition has finished: what has been sent to other packages is what can remain (R175,
R437). -/
def Chip.stopReady (c : Chip) (p : Nat) : Bool := (c.clustersOf p).all (fun cl => !(c.cluster cl).sending)

/-- A stop is complete. -/
def Chip.stopDone (c : Chip) (p : Nat) : Chip :=
  if (c.part p).state = 2 && c.stopReady p then
    (c.modPart p (fun q => { q with state := 3, bell := 0, savelen := wordOf (c.saveLen p) })).signalStop p
  else c

/-- `PART_STOP_COMPLETE` (R175). -/
def execPartStopComplete (p : BitVec 7) (s : State) : Host.Outcome State Fault Refusal := onChip (fun c => c.stopDone p.toNat) s

/-! ### Resuming (R178) -/

/-- A parked coroutine returns to its prior state; a ready time is advanced by the length of the stop. -/
def Coroutine.unpark (co : Coroutine) (stop : Nat) : Coroutine :=
  if co.state ≠ .parked then co
  else { co with state := co.prior, prior := .ready, rtime := if co.prior = .ready then co.rtime + stop else co.rtime }

/-- Resume a stopped partition. (DEDUCED, log entry 35.) -/
def Chip.resume (c : Chip) (p : Nat) : Chip :=
  if (c.part p).state ≠ 3 then c.refuse p
  else
    let stop := c.time - (c.part p).stopAt
    let c := { c with
      msgs := c.msgs.map (fun (f : Flying) => if f.boundFor p then { f with dropped := false, spilled := false } else f)
      cos := mmap c.cos (fun k co => if c.inPart p (k / 1024) then co.unpark stop else co) }
    c.modPart p (fun q => { q with state := 1 })

/-- `PART_RESUME` (R178). -/
def execPartResume (p : BitVec 7) (s : State) : Host.Outcome State Fault Refusal := onChip (fun c => c.resume p.toNat) s

/-! ### Function-level reset (R97) -/

/-- The commands of a cluster that run on after a function-level reset: those that have begun. A follow-on that has not started is
a queued command, and so is a copy that only waits for it. (DEDUCED, log entry 38.) -/
def Cluster.begun (k : Cluster) : Cluster :=
  { k with
    copyQ := (k.copyQ.filter (fun q => !q.moved && (q.next ≠ 0 || !q.ahead.isEmpty || !q.stalled.isEmpty))).map
      (fun q => { q with follow := false })
    kvQ := []
    netQ := k.netQ.filter (fun q => q.next ≠ 0 || !q.flight.isEmpty || !q.stalled.isEmpty) }

/-- The stalled pieces of a cluster are tried again. -/
def Cluster.retryAll (k : Cluster) : Cluster :=
  { k with
    copyQ := k.copyQ.map (fun q => (q.stalled.map (fun s => s.2)).foldl (fun q t => q.unstall t false) q)
    netQ := k.netQ.map (fun q => (q.stalled.map (fun s => s.2)).foldl (fun q t => q.unstall t false) q) }

/-- The rotations of a cluster whose move of a direction has not landed. -/
def Cluster.pendingMoves (k : Cluster) (north : Bool) : List MEntry :=
  k.moves.filter (fun e => isMmrot e.op && !(if north then e.northDone else e.westDone))

/-- Whether every cluster of the ring still has a move to make with a rotation's (R249). -/
def Chip.ringHas (c : Chip) (cl : Nat) (north : Bool) (e : MEntry) : Bool :=
  (ringOf cl north).all (fun k =>
    decide ((((c.cluster cl).pendingMoves north).takeWhile (fun m => m.seqs ≠ e.seqs)).length < ((c.cluster k).pendingMoves north).length))

/-- A command in its move phase as a function-level reset leaves it: a move whose counterpart at another cluster was still queued,
and so is gone, is given up; the others are made. (DEDUCED, log entry 38.) -/
def Chip.strand (c : Chip) (cl : Nat) (e : MEntry) : Option MEntry :=
  if isMmrot e.op then
    let w := e.westDone || !c.ringHas cl false e
    let n := e.northDone || !c.ringHas cl true e
    if w && n then none else some { e with westDone := w, northDone := n }
  else if (c.cluster (swapOf cl)).moves.any (fun m => isMswap m.op && m.swapTile = e.swapTile) then some e else none

/-- The recorded accesses of a command in its move phase that are still to be performed. -/
def MEntry.leftSeqs (e : MEntry) : List Nat :=
  if isMmrot e.op then (if e.westDone then [] else e.moveSeqs false) ++ (if e.northDone then [] else e.moveSeqs true) else e.seqs

/-- Free every slot of a cluster; their contents are undefined (R97, R246). -/
def Chip.freeSlotsOf (c : Chip) (cl : Nat) : Chip :=
  (List.range 16).foldl (fun c s =>
    if ((c.cluster cl).slot s).held then
      (c.modCluster cl (fun k => k.modSlot s (fun t => { t with held := false, orphan := false, ended := false }))).scrambleSlot cl s 0x10000
    else c) c

/-- Queued engine commands go and the running ones finish, at every cluster: the dome's at once, moves, copies and network pieces
as they go on. Accesses that nothing will perform any more leave the scoreboards (R97). -/
def Chip.resetEngines (c : Chip) : Chip :=
  let c := { c with cores := mmap c.cores (fun _ k => { k with mq := [] }) }
  let cls := c.clusters.map (fun e => e.1)
  let c := cls.foldl (fun c cl => c.domeComplete cl) c
  let c := { c with clusters := mmap c.clusters (fun cl k => { k.begun.retryAll with moves := k.moves.filterMap (fun e => c.strand cl e), kvrecs := [] }) }
  let left := c.clusters.flatMap (fun e => e.2.copyQ.flatMap (fun q => q.seqs) ++ e.2.moves.flatMap MEntry.leftSeqs)
  let c := { c with clusters := mmap c.clusters (fun _ k => { k with board := k.board.filter (fun a => left.contains a.seq) }) }
  cls.foldl (fun c cl => c.freeSlotsOf cl) c

/-- A partition after a function-level reset: only the tolerance, which is the package block's, stays. -/
def Partition.cleared (q : Partition) : Partition := { Partition.reset with tol := q.tol }

/-- The 576 MiB from an address on cleared, at the slices and in DRAM. -/
def Chip.clearSpill (c : Chip) (base : Nat) : Chip :=
  if base = 0 then c
  else
    let c := (List.range 288).foldl (fun c i => (c.touchedLines (frameOf base + i)).foldl (fun c l => c.recallToU l) c) c
    let inside (a : Nat) : Bool := decide (base ≤ a) && decide (a < base + 288 * 2 ^ 21)
    { c with
      mem := memClear c.mem base (288 * 2 ^ 21)
      dramOld := c.dramOld.filter (fun e => !inside e.1)
      compass := c.compass.filter (fun e => !inside (e.1 * 128))
      combiner := mmap c.combiner (fun _ l => l.filter (fun e => !inside (e.1 * 128)))
      latent := c.latent.filter (fun e => !inside (e.1 * 128)) }

/-- A spire's beacon table and spill region cleared. -/
def Chip.clearSpire (c : Chip) (d : Nat) : Chip :=
  (c.clearSpill (c.spire d).spill).modSpire d (fun s => { s with beacons := [], recs := [] })

/-- The chip's part of a function-level reset. (DEDUCED, log entry 38.) -/
def Chip.functionReset (c : Chip) : Chip :=
  let c := { c with launches := [], msgs := [] }
  let c := (c.cos.map (fun e => e.1)).foldl (fun c k => c.endCo k 8) c
  let c := (c.cores.map (fun e => e.1)).foldl (fun c k => c.drainCore k) c
  let c := { c with
    cos := [], gangs := [], resq := [], msgs := []
    cores := mmap c.cores (fun _ k => { k with running := none, sb := [], vq := [], pool := [] })
    parts := mmap c.parts (fun _ q => q.cleared)
    links := { c.links with windows := [] } }
  (List.range 4).foldl (fun c d => c.clearSpire d) c.resetEngines

/-- The keep's part: the registers of R78, R89 and R94 and the MSI-X table at their reset values. The events that sources held go
into the pilot's buffer, as whenever the ring is disabled (R91). -/
def Keep.functionReset (k : Keep) (now : Nat) : Keep :=
  { k with
    hqs := Keep.reset.hqs, turn := 0, msix := [], pba := 0, fw := Keep.reset.fw
    pilot := { Keep.reset.pilot with buffer := k.pilot.buffer, held := k.pilot.held }.rebuffer now }

/-- `FUNCTION_LEVEL_RESET` (R97). (DEDUCED, log entry 38.) -/
def execFunctionLevelReset (s : State) : Host.Outcome State Fault Refusal :=
  onState (fun s => { s with
    keep := s.keep.functionReset s.chip.time
    chip := if s.keep.power.halted then s.chip else s.chip.functionReset }) s

end Sys2Proof.Machine
end

