-- ==== Sys2Proof/Machine/Save.lean ====
section
/-! DEFINITION. Save images (R179, R274-R277): saving, restoring, sealing and adopting a partition. The spec gives no layout
for the bodies of sections of types 2 to 5: their bytes are free values, and what they stand for is kept in the partition
and, by the digest of the sections, in the archive. -/

namespace Sys2Proof.Machine

/-! ### Bytes of an image -/

/-- The pieces of bytes at a physical address, line by line. -/
def imagePieces (pa n : Nat) : List (Nat × Nat) := linePieces (n / 128 + 2) pa n

/-- Pieces of an image written through their home slices; what lies outside live HBM4E is refused (R45). -/
def Chip.imagePut (c : Chip) (ps : List (Nat × Nat)) (bs : List Byte) : Chip :=
  match ps with
  | [] => c
  | p :: r => Chip.imagePut (if c.tableOk p.1 then c.homePut [p] (bs.take p.2) (c.classWays 0) else c) r (bs.drop p.2)

/-- Bytes at a physical HBM4E address, as the device writes an image. -/
def Chip.imageWrite (c : Chip) (pa : Nat) (bs : List Byte) : Chip := c.imagePut (imagePieces pa bs.length) bs

/-- Bytes of an image read through their home slices; none where a slice refuses (R45). -/
def Chip.imageGet (c : Chip) (pa n : Nat) : Option (List Byte) × Chip :=
  if (imagePieces pa n).all (fun p => c.tableOk p.1) then
    let r := c.homeGet (imagePieces pa n) (c.classWays 0)
    (some r.1, r.2)
  else (none, c)

/-- Such bytes where they can be read; none are read otherwise. -/
def Chip.imageBytes (c : Chip) (pa n : Nat) : List Byte × Chip :=
  match c.imageGet pa n with
  | (some bs, c) => (bs, c)
  | (none, c) => ([], c)

/-- `PLACE` of a cluster's sections (R274). -/
def Chip.placeByte (c : Chip) (cl : Nat) : Nat := spireOfCluster cl + 4 * c.ordinal cl

/-- `FEAT` of a cluster's state: bit 5 when matrix commands are queued (R274). -/
def Chip.clusterFeat (c : Chip) (cl : Nat) : Nat := if (List.range 4).any (fun i => !(c.core (4 * cl + i)).mq.isEmpty) then 32 else 0

/-- The bytes of a section. -/
def Chip.sectBytes (c : Chip) (s : Sect) : List Byte :=
  if s.type = 1 then c.recordSection s.who (c.coD s.who)
  else
    sectionBytes c.saveKey
      (sectionHead s.type (if s.type = 5 then 0 else c.placeByte s.who) 0 0 c.version (if s.type = 2 then c.clusterFeat s.who else 0) s.len)
      (freeBytes c.free s.len)

/-- The 256-byte header of an image that is not sealed; its `DIGEST` and `SIG` are free (R275). -/
def Chip.imageHead (c : Chip) (p len n : Nat) : List Byte :=
  leBytes 4 0x49564153 ++ leBytes 4 c.version.toNat ++ leBytes 8 c.devhash.toNat ++ leBytes 8 len ++ leBytes 4 n ++ leBytes 4 0
    ++ (List.range 4).flatMap (fun d => leBytes 2 (c.partClusters p d).length) ++ leBytes 1 p ++ leBytes 7 0
    ++ freeBytes c.free 144 ++ List.replicate 64 0

/-- Whether an address lies in a cluster's window (R25). -/
def inClusterWindow (a cl : Nat) : Bool := decide (0x800000000000 + cl * 0x1000000 ≤ a) && decide (a < 0x800000000000 + (cl + 1) * 0x1000000)

/-- What an image of a partition stands for. -/
def Chip.imageOf (c : Chip) (p : Nat) (sects : List Sect) : Image where
  cos := c.cos.filter (fun e => c.inPart p (e.1 / 1024))
  gangs := c.gangs.filter (fun e => c.inPart p e.2.cluster)
  clusters := (c.clustersOf p).map (fun cl => (cl, c.cluster cl))
  window := c.mem.filter (fun e => inWindow e.1 && (c.clustersOf p).any (inClusterWindow e.1))
  mqs := (c.coresOf p).map (fun k => (k, (c.core k).mq))
  msgs := c.msgs.filter (fun f => f.boundFor p)
  launches := c.launches.filter (fun e => e.2.part = p)
  fqs := (c.part p).fqs
  sects := sects

/-- A cluster that a save has freed keeps its counters and its clock. -/
def Cluster.freed (k : Cluster) : Cluster :=
  { Cluster.reset with ecnt := k.ecnt, lastCore := k.lastCore, power := k.power, offTime := k.offTime, offSince := k.offSince }

/-- The key under which a fault record remembers an opener that is saved. -/
def savedKey (p key : Nat) : Nat := 131072 * (p + 1) + key

/-- Free the clusters of a partition: coroutines, gangs, messages, queues and slots go (R179). -/
def Chip.freeClusters (c : Chip) (p : Nat) : Chip :=
  let cls := c.clustersOf p
  let c := { c with
    cos := c.cos.filter (fun e => !c.inPart p (e.1 / 1024))
    gangs := c.gangs.filter (fun e => !c.inPart p e.2.cluster)
    msgs := c.msgs.filter (fun f => !f.boundFor p)
    cores := mmap c.cores (fun k q => if c.inPart p (k / 4) then { q with mq := [], sb := [], vq := [], running := none, pool := [] } else q)
    spires := c.spires.map (fun s => { s with recs := s.recs.map (fun r => match r.opener with
      | some k => if k < 131072 && c.inPart p (k / 1024) then { r with opener := some (savedKey p k) } else r
      | none => r) }) }
  let c := cls.foldl (fun c cl => c.freeSlotsOf cl) c
  cls.foldl (fun c cl => c.modCluster cl Cluster.freed) c

/-! ### Saving (R179) -/

/-- `PART_CTL.OP` 2: accepted in state 3 with a save address. (DESIGN CHOICE, log entry 37.) -/
def Chip.save (c : Chip) (p : Nat) : Chip :=
  if (c.part p).state = 3 ∧ (c.part p).save ≠ 0 then c.modPart p (fun q => { q with state := 4, pendingOp := 2 })
  else c.refuse p

/-- `PART_SAVE` (R179). -/
def execPartSave (p : BitVec 7) (s : State) : Host.Outcome State Fault Refusal := onChip (fun c => c.save p.toNat) s

/-- Where a partition's save area lies (R157). -/
def Chip.saveArea (c : Chip) (p : Nat) : Nat := (c.part p).save.toNat / 4096 * 4096

/-- The bytes of sections, after one another, drawing free values as they go. -/
def Chip.writeSects (c : Chip) (base : Nat) (l : List Sect) : Chip :=
  match l with
  | [] => c
  | s :: r => Chip.writeSects { c.imageWrite (base + s.off) (c.sectBytes s) with free := c.free + s.len + 1 } base r

/-- The digest of an image's sections (R275). -/
def Chip.imageDigest (c : Chip) (base len : Nat) : List Byte × Chip :=
  let r := c.imageBytes (base + 256) (len - 256)
  (sha384 r.1, r.2)

/-- The records of a partition that lie in spill slots are read back with their tags checked, and so is what a supervisor has
written in one: R276 exempts only the read of `CRESUME`. (DEDUCED, log entry 37.) -/
def Chip.readBack (c : Chip) (p : Nat) : Chip :=
  let keys := (c.keysOf p).filter (fun k => (c.coD k).evicted)
  let c := keys.foldl (fun c k => c.withRecord k (fun c co => c.setCo k co)) c
  (c.keysOf p).foldl (fun c k => c.freeCo k) c

/-- The image is written, the clusters are freed, and the partition is saved. (DESIGN CHOICE, log entry 37.) -/
def Chip.saveDone (c : Chip) (p : Nat) : Chip :=
  let c := c.readBack p
  let sects := placeSects 256 (c.sectionList p)
  let len := c.saveLen p
  let base := c.saveArea p
  let img := c.imageOf p sects
  let c := c.writeSects base sects
  let c := { c.imageWrite base (c.imageHead p len sects.length) with free := c.free + 144 }
  let r := c.imageDigest base len
  let c := { r.2 with archive := r.2.archive ++ [Archived.mk r.1 [] [] img] }
  ((c.freeClusters p).modPart p (fun q => { q with state := 5, pendingOp := 0, savelen := wordOf len, image := some img })).signalStop p

/-! ### Restoring (R179, R275, R276) -/

/-- Whether the new mask has as many clusters on every spire as an image (R179). -/
def Chip.sameCounts (c : Chip) (p : Nat) (img : Image) : Bool :=
  (List.range 4).all (fun d => (img.clusters.filter (fun e => spireOfCluster e.1 = d)).length = (c.partClusters p d).length)

/-- The image that the save area holds, as far as the part knows it; else the one the partition saved last. -/
def Chip.imageAt (c : Chip) (p : Nat) : Option Image × Chip :=
  let r := c.imageDigest (c.saveArea p) (c.part p).savelen.toNat
  (match c.archive.find? (fun a => a.digest = r.1) with
    | some a => some a.image
    | none => (c.part p).image, r.2)

/-- Whether a header allows a restore: magic, length, and a writer of the running major version (R275). -/
def headerOk (h : List Byte) (len : Nat) (version : BitVec 32) : Bool :=
  decide (256 ≤ h.length) && recNat h 0 4 = 0x49564153 && recNat h 0x10 8 = len && recNat h 7 1 = version.toNat / 2 ^ 24

/-- `PART_CTL.OP` 3: accepted in state 5 for a mask of the same counts of free clusters, an image header that is right and a
writer of the running major version. (DESIGN CHOICE, log entry 37.) -/
def Chip.restore (c : Chip) (p : Nat) : Chip :=
  match c.imageAt p with
  | (none, c) => c.refuse p
  | (some img, c) =>
    let h := c.imageBytes (c.saveArea p) 256
    let c := h.2
    if (c.part p).state = 5 && c.sameCounts p img && !c.sharesCluster p && (c.part p).clus &&& c.clmask = 0
        && headerOk h.1 (c.part p).savelen.toNat c.version then
      c.modPart p (fun q => { q with state := 6, pendingOp := 3 })
    else c.refuse p

/-- `PART_RESTORE` (R179). -/
def execPartRestore (p : BitVec 7) (s : State) : Host.Outcome State Fault Refusal := onChip (fun c => c.restore p.toNat) s

/-- The new number of a saved cluster: the clusters of each spire keep their order (R179). -/
def Chip.newCluster (c : Chip) (p : Nat) (img : Image) (cl : Nat) : Nat :=
  let d := spireOfCluster cl
  let k := (img.clusters.filter (fun e => spireOfCluster e.1 = d && e.1 < cl)).length
  (c.partClusters p d).getD k cl

/-- A key, core or window address in its new cluster. -/
def moveKey (f : Nat → Nat) (key : Nat) : Nat := f (key / 1024) * 1024 + key % 1024
/-- A core. -/
def moveCore (f : Nat → Nat) (core : Nat) : Nat := f (core / 4) * 4 + core % 4
/-- A window address. -/
def moveAddr (f : Nat → Nat) (a : Nat) : Nat := 0x800000000000 + f ((a - 0x800000000000) / 0x1000000) * 0x1000000 + a % 0x1000000

/-- A command in its new cluster. -/
def Cmd.moved (q : Cmd) (f : Nat → Nat) : Cmd := { q with core := moveCore f q.core }
/-- A matrix command in its new cluster. -/
def MEntry.movedTo (e : MEntry) (f : Nat → Nat) : MEntry := { e with core := moveCore f e.core }

/-- A cluster's state in its new place: tags, commands and records are rewritten (R247). -/
def Cluster.movedTo (k : Cluster) (f : Nat → Nat) : Cluster :=
  let pair (t : Nat × Nat) : Nat × Nat := (f t.1, t.2)
  { k with
    slots := mmap k.slots (fun _ t => { t with core := moveCore f t.core })
    moves := k.moves.map (fun e => e.movedTo f)
    copyQ := k.copyQ.map (fun q => { q with cmd := q.cmd.moved f, fills := q.fills.map pair, drains := q.drains.map pair })
    kvQ := k.kvQ.map (fun q => { q with cmd := q.cmd.moved f })
    netQ := k.netQ.map (fun q => { q with cmd := q.cmd.moved f })
    kvrecs := k.kvrecs.map (fun r => { r with opener := r.opener.map (moveKey f) }) }

/-- A source in its new cluster. -/
def Source.movedTo (s : Source) (f : Nat → Nat) : Source :=
  match s with
  | .core k => .core (moveCore f k)
  | .engine kind cl => .engine kind (f cl)
  | .links => .links
  | .keep => .keep

/-- A message to its new core. -/
def Flying.movedTo (m : Flying) (f : Nat → Nat) : Flying :=
  let m := { m with src := m.src.movedTo f }
  match m.msg with
  | .spawn core slot co => { m with msg := .spawn (moveCore f core) slot co }
  | .migrate core slot co => { m with msg := .migrate (moveCore f core) slot co }
  | _ => m

/-- A cluster that takes a saved one's state keeps its own counters and clock. -/
def Cluster.taking (k m : Cluster) : Cluster :=
  { m with ecnt := k.ecnt, lastCore := k.lastCore, power := k.power, offTime := k.offTime, offSince := k.offSince }

/-- A fault record whose opener comes back under a new key. -/
def FaultRec.reopened (r : FaultRec) (p : Nat) (f : Nat → Nat) : FaultRec :=
  match r.opener with
  | some k => if savedKey p 0 ≤ k ∧ k < savedKey (p + 1) 0 then { r with opener := some (moveKey f (k % 131072)) } else r
  | none => r

/-- A fault queue whose CSRs a restore brings back (R268, R272). -/
def FaultQ.restored (q a : FaultQ) : FaultQ := { q with en := a.en, base := a.base, head := a.head, tail := a.tail, tvec := a.tvec }

/-- A restored coroutine drops the L1 lines of its new core before it goes on there (R194). -/
def Coroutine.arriving (co : Coroutine) : Coroutine := { co with fresh := true, evicted := false }

/-- A restored record has its place: a faulted coroutine's in its new spill slot, where its supervisor finds it, any other in the
context cache of its core (R179, R222, R271). -/
def Chip.placeRecord (c : Chip) (key : Nat) : Chip :=
  if (c.coD key).state = .parked ∧ (c.coD key).prior = .faulted then c.spillRecord key else c.keepRecord key

/-- Put an image's state back. -/
def Chip.putImage (c : Chip) (p : Nat) (img : Image) : Chip :=
  let f := c.newCluster p img
  let c := img.cos.foldl (fun (c : Chip) e => c.setCo (moveKey f e.1) e.2.arriving) c
  let c := { c with
    gangs := img.gangs.foldl (fun m e => mset m e.1 { e.2 with cluster := f e.2.cluster }) c.gangs
    msgs := c.msgs ++ img.msgs.map (fun m => m.movedTo f)
    spires := c.spires.map (fun s => { s with recs := s.recs.map (fun r => r.reopened p f) }) }
  let c := img.clusters.foldl (fun (c : Chip) e => c.modCluster (f e.1) (fun k => k.taking (e.2.movedTo f))) c
  let c := img.mqs.foldl (fun (c : Chip) e => c.modCore (moveCore f e.1) (fun k => { k with mq := e.2.map (fun q => q.movedTo f) })) c
  let rest := c.mem.filter (fun e => !(inWindow e.1 && (c.clustersOf p).any (inClusterWindow e.1)))
  let c := { c with mem := img.window.foldl (fun (m : Memory) (e : Host.Cell) => memWrite m (moveAddr f e.1) e.2) rest }
  c.modPart p (fun q => { q with fqs := q.fqs.zipWith FaultQ.restored img.fqs })

/-- What is wrong with a section in memory: 0, or the cause with which it kills (R276). A read that a home slice refuses counts as
one that fails. (DEDUCED, log entry 37.) -/
def Chip.sectCause (c : Chip) (base : Nat) (s : Sect) : Nat × Chip :=
  match c.imageGet (base + s.off) (32 + s.len) with
  | (none, c) => (causePoison, c)
  | (some bs, c) =>
    (if c.anyPoison (base + s.off) (32 + s.len) then causePoison else if c.tagRight bs then 0 else causeInteg, c)

/-- The sections that are wrong, with their causes. -/
def Chip.badSects (c : Chip) (base : Nat) (l : List Sect) : List (Sect × Nat) × Chip :=
  match l with
  | [] => ([], c)
  | s :: r =>
    let q := c.sectCause base s
    let t := Chip.badSects q.2 base r
    (if q.1 = 0 then t.1 else (s, q.1) :: t.1, t.2)

/-- Whether a section's `FEAT` names a bit that the device does not hold: bit 5 only from a writer of the running major and
minor version (R274, R275). -/
def Chip.featLacks (c : Chip) (base : Nat) (s : Sect) : Bool :=
  let h := (c.imageBytes (base + s.off) 32).1
  decide (128 ≤ recNat h 8 4) || (bit (recNat h 8 4) 5 && recNat h 4 4 / 65536 ≠ c.version.toNat / 65536)

/-- A coroutine whose record cannot be restored: every register zero, cause `FEAT`, `EPC` where it was saved, `FADDR` its section
(R262, R275). -/
def featCoroutine (co : Coroutine) (at_ : Nat) : Coroutine :=
  { co.keepLive 0 with
    m := Vector.replicate 8 0, k := Vector.replicate 64 0, q := Vector.replicate 16 0, topk := []
    su := false, mu := false, qu := false, ku := false
    state := .parked, wait := .none
    cause := BitVec.ofNat 8 causeFeat, epc := co.pc, faddr := wordOf at_, finfo := 0, token := 0, posx := 0, vpc := 0
    pend := [], block := [], resv := [], due := none }

/-- A coroutine becomes faulted with `FEAT`: its record, and notice of it, as of any that traps (R267, R273, R275). -/
def Chip.featFault (c : Chip) (key at_ : Nat) : Chip :=
  match c.co key with
  | none => c
  | some co => if co.state = .exited then c else c.becomeFaulted key (featCoroutine co at_) 0

/-- Coroutines with commands in a cluster's matrix queues become faulted with `FEAT`, and the queues are lost (R275). -/
def Chip.dropQueues (c : Chip) (cl at_ : Nat) : Chip :=
  let owners := ((List.range 4).flatMap (fun i => (c.core (4 * cl + i)).mq.map (fun e => coKey e.core e.slot))).eraseDups
  let c := owners.foldl (fun c k => c.featFault k at_) c
  (List.range 4).foldl (fun c i => c.modCore (4 * cl + i) (fun k => { k with mq := [] })) c

/-- The feature check of a section. -/
def Chip.featSect (c : Chip) (base : Nat) (f : Nat → Nat) (s : Sect) : Chip :=
  if !c.featLacks base s then c
  else if s.type = 1 then c.featFault (moveKey f s.who) (base + s.off)
  else if s.type = 2 then c.dropQueues (f s.who) (base + s.off)
  else c

/-- Kill the gangs that a test names, each with an entry for its first member (R276). -/
def Chip.killGangs (c : Chip) (cause : Nat) (faddr : Word) (t : Nat → Gang → Bool) : Chip :=
  ((c.gangs.filter (fun e => t e.1 e.2)).map (fun e => e.1)).foldl (fun c g =>
    match mfind c.cos (fun _ co => co.gang = g && co.state ≠ .exited) with
    | some e => c.killConcerned e.1 cause faddr
    | none => c) c

/-- The launch of the coroutine that a message carries. -/
def Msg.lidOf (m : Msg) : Option Nat :=
  match m with
  | .spawn _ _ co => some co.lid
  | .hop _ _ co => some co.lid
  | .migrate _ _ co => some co.lid
  | _ => none

/-- The cluster in whose section a message lies: that of its core, or for a hop the lowest of the partition on its spire. -/
def Chip.msgCluster (c : Chip) (p : Nat) (m : Msg) : Option Nat :=
  match m with
  | .spawn core _ _ => some (core / 4)
  | .migrate core _ _ => some (core / 4)
  | .hop d _ _ => (c.partClusters p d).head?
  | _ => none

/-- Messages that cannot be trusted go: their coroutines end there. -/
def Chip.dropMessages (c : Chip) (p cl : Nat) : Chip :=
  let gone := c.msgs.filter (fun m => m.boundFor p && c.msgCluster p m.msg = some cl)
  let c := { c with msgs := c.msgs.filter (fun m => !(m.boundFor p && c.msgCluster p m.msg = some cl)) }
  gone.foldl (fun c m => match m.msg.lidOf with
    | some l => (c.countRecv (4 * cl) l).blame l 7
    | none => c) c

/-- The effect of a section that is wrong (R276). -/
def Chip.killSect (c : Chip) (p cause base : Nat) (f : Nat → Nat) (s : Sect) : Chip :=
  let fa := wordOf (base + s.off)
  match s.type with
  | 1 => c.killConcerned (moveKey f s.who) cause fa
  | 2 => c.killGangs cause fa (fun _ g => g.cluster = f s.who)
  | 3 =>
    let ls := (c.msgs.filter (fun m => m.boundFor p && c.msgCluster p m.msg = some (f s.who))).filterMap (fun m => m.msg.lidOf)
    (c.killGangs cause fa (fun _ g => ls.contains g.lid)).dropMessages p (f s.who)
  | _ =>
    let ls := c.launchesOf p
    ls.foldl (fun c l => c.blame l 7) (c.killGangs cause fa (fun _ g => ls.contains g.lid))

/-- A restored waiter whose beacon has moved on while it was saved: satisfied, or stale (R177, R226). -/
def Chip.recheck (c : Chip) (key : Nat) : Chip :=
  match c.co key with
  | none => c
  | some co =>
    if !co.isWaiting then c
    else
      match co.wait with
      | .beacon t th =>
        if c.tokCurrent t then
          (if (c.tokBeacon t).count.slt th then c.setCo key (co.wake c.time) else c)
        else if 0xFF00 ≤ tokIndex t then c.setCo key (co.wake c.time)
        else c.staleWaiter key t
      | .freeBeacon => if (c.freeFaultBeacon (spireOf (key / 256))).isSome then c.setCo key (co.wake c.time) else c
      | _ => c

/-- A restore is done: the image's state is back, its sections have been checked, and the partition is stopped. -/
def Chip.restoreDone (c : Chip) (p : Nat) : Chip :=
  match c.imageAt p with
  | (none, c) => c
  | (some img, c) =>
    let f := c.newCluster p img
    let base := c.saveArea p
    let r := c.badSects base img.sects
    let bad := r.1
    let c := r.2.putImage p img
    let c := { c with cos := mmap c.cos (fun k co => if c.inPart p (k / 1024) then co.park c.time else co) }
    let c := (c.keysOf p).foldl (fun c k => c.placeRecord k) c
    let c := (img.sects.filter (fun s => !(bad.any (fun e => e.1 = s)))).foldl (fun c s => c.featSect base f s) c
    let c := bad.foldl (fun c e => c.killSect p e.2 base f e.1) c
    let c := (c.keysOf p).foldl (fun c k => c.recheck k) c
    (c.modPart p (fun q => { q with state := 3, pendingOp := 0, image := none })).signalStop p

/-- A save or a restore finishes. -/
def Chip.opDone (c : Chip) (p : Nat) : Chip :=
  if (c.part p).state = 4 ∧ (c.part p).pendingOp = 2 then c.saveDone p
  else if (c.part p).state = 6 ∧ (c.part p).pendingOp = 3 then c.restoreDone p
  else c

/-- `PART_OP_COMPLETE` (R179). -/
def execPartOpComplete (p : BitVec 7) (s : State) : Host.Outcome State Fault Refusal := onChip (fun c => c.opDone p.toNat) s

/-! ### Sealing and adopting (R277) -/

/-- Whether a list of sections is right, each read and its tag checked (R277). -/
def Chip.allRight (c : Chip) (base : Nat) (l : List Sect) : Bool × Chip :=
  let r := c.badSects base l
  (r.1.isEmpty, r.2)

/-- Seal the saved image: every tag checked, then `SEALED`, `DIGEST` and `SIG` written. (DESIGN CHOICE, log entry 37.) -/
def Chip.seal (c : Chip) (p : Nat) : Chip :=
  let base := c.saveArea p
  let len := (c.part p).savelen.toNat
  match c.imageAt p with
  | (none, c) => c.refuse p
  | (some img, c) =>
    let r := c.allRight base img.sects
    let c := r.2
    if (c.part p).state ≠ 5 || !r.1 then c.refuse p
    else
      let dig := c.imageDigest base len
      let c := (dig.2.imageWrite (base + 0x1C) [1]).imageWrite (base + 0x30) dig.1
      let h := c.imageBytes base 96
      let sig := signature h.2.free h.1
      let c := { h.2.imageWrite (base + 0x60) sig with
        free := c.free + 1, archive := c.archive ++ [Archived.mk dig.1 (sha384 h.1) sig img] }
      c.signalStop p

/-- `PART_SEAL` (R277). -/
def execPartSeal (p : BitVec 7) (s : State) : Host.Outcome State Fault Refusal := onChip (fun c => c.seal p.toNat) s

/-! #### Images that the part has not written in this run

The bytes of a context record have a layout, so a coroutine is what its record says. What a section of another type describes
cannot be read from its bytes, since the spec gives them no layout: tiles are free, and the rest is empty.
(DESIGN CHOICE, log entry 37.) -/

/-- A state code of a record (R211). -/
def CoState.ofCode (n : Nat) : CoState :=
  if n = 2 then .running else if n = 3 then .awaiting else if n = 4 then .faulted else if n = 5 then .parked
  else if n = 6 then .exited else .ready

/-- The wait that a record describes (R219, R220). -/
def recWait (bs : List Byte) : Wait :=
  match recNat bs 0x36 1 / 64 with
  | 0 => .none
  | 1 => .beacon (wordOf (recNat bs 0x38 8)) (BitVec.ofNat 32 (recNat bs 0x68 4))
  | 2 => .tile (recNat bs 0x38 8)
  | _ => .barrier

/-- A coroutine as its record alone gives it. -/
def recCoroutine (bs : List Byte) (slot : Nat) : Coroutine :=
  { Coroutine.blank.fromRecord bs slot with
    state := .parked, prior := CoState.ofCode (recNat bs 0x36 1 / 8 % 8), wait := recWait bs
    rtime := recNat bs 0x70 8, trapped := bit (recNat bs 0x08 8) 7 }

/-- The sections of an image from an offset on, clusters numbered by their ordinal on their spire. -/
def sectsAt (fuel off : Nat) (bs : List Byte) : List Sect :=
  match fuel with
  | 0 => []
  | f + 1 =>
    let cl := 32 * (recNat bs (off + 1) 1 % 4) + recNat bs (off + 1) 1 / 4 % 32
    let who := if recNat bs off 1 = 1 then coKey (4 * cl + recNat bs (off + 2) 1 % 4) (recNat bs (off + 3) 1) else cl
    ⟨recNat bs off 1, who, off, recNat bs (off + 0x10) 8⟩ :: sectsAt f (off + 32 + recNat bs (off + 0x10) 8) bs

/-- The coroutines of an image by its bytes, each in a gang of its own. -/
def recCoroutines (bs : List Byte) (gang : Nat) (l : List Sect) : List (Nat × Coroutine) :=
  (l.filter (fun s => s.type = 1)).zipIdx.map (fun e =>
    (e.1.who, { recCoroutine (bs.drop (e.1.off + 32)) (e.1.who % 256) with gang := gang + e.2 }))

/-- What the bytes of an image stand for. -/
def Chip.readImage (c : Chip) (bs : List Byte) : Image :=
  let sects := sectsAt (recNat bs 0x18 4) 256 bs
  let cls := (sects.filter (fun s => s.type = 2)).map (fun s => s.who)
  let cos := recCoroutines bs c.nextGang sects
  { cos := cos.foldl (fun m e => mset m e.1 e.2) []
    gangs := cos.map (fun e => (e.2.gang, ⟨0, 0xFFFF, e.1 / 1024, 0, 0, 0, 0, none, none⟩))
    clusters := cls.foldl (fun m cl => mset m cl Cluster.reset) []
    window := cls.zipIdx.foldl (fun m e => memWriteBytes m (tileBase e.1 0) (freeBytes (c.free + e.2 * 0x200000) 0x200000)) []
    mqs := [], msgs := [], launches := []
    fqs := Vector.replicate 4 FaultQ.reset
    sects := sects }

/-- Whether a signature over a sealed header is this part's: one that it made, or one that its identity key verifies (R277). -/
def Chip.sigRight (c : Chip) (head sig : List Byte) : Bool :=
  c.archive.any (fun a => a.sig ≠ [] && a.sig = sig && a.head = sha384 head) || Config.ecdsaVerify sig (sha384 head) Config.identityKey

/-- The sealed image that the save area holds, if its digest and its signature by this part are right. -/
def Chip.sealedAt (c : Chip) (p : Nat) : Option Image × Chip :=
  let base := c.saveArea p
  let h := c.imageBytes base 256
  let r := h.2.imageBytes (base + 256) (recNat h.1 0x10 8 - 256)
  let dig := sha384 r.1
  if h.1.length < 256 ∨ recNat h.1 0x1C 1 ≠ 1 ∨ (h.1.drop 0x30).take 48 ≠ dig ∨ !c.sigRight (h.1.take 96) ((h.1.drop 0x60).take 96) then
    (none, r.2)
  else
    (match c.archive.find? (fun a => a.digest = dig) with
      | some a => some a.image
      | none => some (c.readImage (h.1 ++ r.1)), r.2)

/-- A section's tag written anew under the current save key. -/
def Chip.retagSect (c : Chip) (base : Nat) (s : Sect) : Chip :=
  let r := c.imageBytes (base + s.off) (32 + s.len)
  r.2.imageWrite (base + s.off + 24) (leBytes 8 (sectionTag c.saveKey (r.1.take 24 ++ r.1.drop 32)))

/-- Adopt a sealed image into a running partition without launches. (DESIGN CHOICE, log entry 37.) -/
def Chip.adopt (c : Chip) (p : Nat) : Chip :=
  let base := c.saveArea p
  match c.sealedAt p with
  | (none, c) => c.refuse p
  | (some img, c) =>
    if (c.part p).state ≠ 1 || !(c.launchesOf p).isEmpty then c.refuse p
    else
      let h := c.imageBytes base 256
      let c := img.sects.foldl (fun c s => c.retagSect base s) h.2
      let c := { c with msgs := c.msgs.filter (fun f => !f.boundFor p) }
      let c := (c.endAll (c.keysOf p) (c.coresOf p) 8).freeClusters p
      let c := { c with
        nextGang := c.nextGang + img.gangs.length
        free := c.free + img.clusters.length * 0x200000
        launches := img.launches.foldl (fun (m : AMap Launch) (e : Nat × Launch) =>
          if (mget m e.1).isSome then m else mset m e.1 { e.2 with part := p }) c.launches }
      (c.modPart p (fun q => { q with
        state := 5, savelen := wordOf (recNat h.1 0x10 8), image := some img, stopAt := c.time })).signalStop p

/-- `PART_ADOPT` (R277). -/
def execPartAdopt (p : BitVec 7) (s : State) : Host.Outcome State Fault Refusal := onChip (fun c => c.adopt p.toNat) s

end Sys2Proof.Machine
end

