-- ==== Sys2Proof/Machine/HostPort.lean ====
section
/-! DEFINITION. The host port: the control BAR's registers (R49-R57, R64, R70-R74, R78, R79, R89, R94, R157, R455) and the
on-chip window (R53). A write to a register that has behaviour of its own is that behaviour. -/

namespace Sys2Proof.Machine

/-! ### Halves of 64-bit registers -/

/-- A 64-bit register with one of its halves written. -/
def withHalf (old : Word) (high : Bool) (v : BitVec 32) : Word :=
  wordOf (if high then old.toNat % 2 ^ 32 + v.toNat * 2 ^ 32 else old.toNat / 2 ^ 32 * 2 ^ 32 + v.toNat)

/-- Change the keep. -/
def onKeep (f : Keep → Keep) (s : State) : State := { s with keep := f s.keep }

/-- Change the chip. -/
def onChipPart (f : Chip → Chip) (s : State) : State := { s with chip := f s.chip }

/-- Change the links. -/
def onLinks (f : Links → Links) (s : State) : State := { s with chip := { s.chip with links := f s.chip.links } }

/-! ### Host launch queues (R78, R79) -/

/-- A write of `HQ_CFG`. -/
def Hq.writeCfg (h : Hq) (v : BitVec 32) : Hq :=
  let en := v.getLsbD 0
  let h := { h with err := h.err && !v.getLsbD 1 }
  if en && !h.en then { h with en := true, head := 0, tail := 0 } else { h with en := en }

/-- A doorbell write: accepted when it adds records or none, else ignored with `ERR` (R79). -/
def Hq.writeTail (h : Hq) (v : BitVec 32) : Hq :=
  let t := v.toNat % 1024
  let u := (h.tail + 1024 - h.head) % 1024
  let n := (t + 1024 - h.head) % 1024
  if h.en && decide (u ≤ n) then { h with tail := t } else { h with err := true }

/-- Change a host launch queue. -/
def Keep.modHq (k : Keep) (q : Nat) (f : Hq → Hq) : Keep :=
  { k with hqs := k.hqs.setIfInBounds q (f (k.hqs.getD q ⟨false, false, 0, 0⟩)) }

/-- `HQ_CFG_WRITE` (R78). -/
def execHqCfgWrite (q : BitVec 6) (v : BitVec 32) (s : State) : Host.Outcome State Fault Refusal :=
  onState (onKeep (fun k => k.modHq q.toNat (fun h => h.writeCfg v))) s

/-- `HQ_TAIL_WRITE` (R79). -/
def execHqTailWrite (q : BitVec 6) (v : BitVec 32) (s : State) : Host.Outcome State Fault Refusal :=
  onState (onKeep (fun k => k.modHq q.toNat (fun h => h.writeTail v))) s

/-! ### Links (R54, R56, R57, R64, R70-R74) -/

/-- A write of `UAL_NODE`: ignored while any launch is live (R54, R70). That a launch which has been taken and only waits is live in
this sense is the model's choice. (DESIGN CHOICE, log entry 31.) -/
def Chip.writeNode (c : Chip) (v : BitVec 32) : Chip :=
  if c.launches.isEmpty then { c with links := { c.links with id := v.setWidth 10, valid := v.getLsbD 16 } } else c

/-- `UAL_NODE_WRITE` (R54). -/
def execUalNodeWrite (v : BitVec 32) (s : State) : Host.Outcome State Fault Refusal :=
  onChip (fun c => c.writeNode v) s

/-- A node map entry: identifier *n*, not valid, until written (R73). -/
def Links.mapEntry (l : Links) (n : Nat) : BitVec 10 × Bool := mgetD l.map n (BitVec.ofNat 10 n, false)

/-- A write of a node map entry; what it replaces is remembered with the time (R56). A second write within 10 µs of a first leaves only
what it has replaced itself, which is the model's choice. (DESIGN CHOICE, log entry 31.) -/
def Chip.writeMap (c : Chip) (n : Nat) (v : BitVec 32) : Chip :=
  let old := c.links.mapEntry n
  { c with links := { c.links with
      mapOld := mset c.links.mapOld n (c.time, old.1, old.2)
      map := mset c.links.map n (v.setWidth 10, v.getLsbD 15) } }

/-- `UAL_MAP_WRITE` (R56, R73). -/
def execUalMapWrite (n : BitVec 10) (v : BitVec 32) (s : State) : Host.Outcome State Fault Refusal :=
  onChip (fun c => c.writeMap n.toNat v) s

/-- The bytes of an export window entry (R57). -/
def Window.word (w : Window) : Nat :=
  w.base + w.len * 2 ^ 64 + w.asid * 2 ^ 128 + w.perm.toNat * 2 ^ 136 + w.die * 2 ^ 144 + w.key * 2 ^ 160

/-- An export window entry from its bytes; reserved fields read zero. -/
def windowOfWord (n : Nat) : Window :=
  ⟨bits n 51 0, bits n 104 64, bits n 135 128, BitVec.ofNat 8 (Nat.land (bits n 143 136) 0x87), bits n 145 144, bits n 183 160⟩

/-- Write four bytes of an export window entry. -/
def Links.writeWindow (l : Links) (i o : Nat) (v : BitVec 32) : Links :=
  { l with windows := mset l.windows i (windowOfWord (setBits (mgetD l.windows i ⟨0, 0, 0, 0, 0, 0⟩).word (8 * o + 31) (8 * o) v.toNat)) }

/-- The bytes of an endpoint table entry (R64). -/
def Endpoint.word (e : Endpoint) : Nat := e.addr.toNat + e.job.toNat * 2 ^ 128 + e.ep.toNat * 2 ^ 160

/-- An endpoint table entry from its bytes. -/
def endpointOfWord (n : Nat) : Endpoint :=
  ⟨BitVec.ofNat 128 n, BitVec.ofNat 32 (Nat.land (bits n 159 128) 0x80FFFFFF), BitVec.ofNat 32 (bits n 191 160)⟩

/-- Write four bytes of an endpoint table entry. -/
def Links.writeEndpoint (l : Links) (i o : Nat) (v : BitVec 32) : Links :=
  { l with endpoints := mset l.endpoints i (endpointOfWord (setBits (mgetD l.endpoints i ⟨0, 0, 0⟩).word (8 * o + 31) (8 * o) v.toNat)) }

/-- A write of the link-status block. -/
def writeLink (o : Nat) (v : BitVec 32) (s : State) : State :=
  match o with
  | 0x00 => onChipPart (fun c => c.writeNode v) s
  | 0x04 => onLinks (fun l => { l with tmo := v.setWidth 24 }) s
  | 0x60 => onLinks (fun l => { l with master := v.getLsbD 0, locked := if v.getLsbD 0 then true else l.locked }) s
  | _ => s

/-! ### The identification, package and memory-error blocks (R19, R23, R43, R46, R94) -/

/-- A firmware command; other values are ignored (R94). -/
def writeFwCmd (v : BitVec 32) (s : State) : State :=
  match v.toNat % 8 with
  | 1 => stageImage s
  | 3 => attest s
  | 4 => readCert s
  | _ => s

/-- A write of the identification block. -/
def writeIdent (o : Nat) (v : BitVec 32) (s : State) : State :=
  match o with
  | 0x100 => onKeep (fun k => { k with fw := { k.fw with addr := withHalf k.fw.addr false v } }) s
  | 0x104 => onKeep (fun k => { k with fw := { k.fw with addr := withHalf k.fw.addr true v } }) s
  | 0x108 => onKeep (fun k => { k with fw := { k.fw with len := v } }) s
  | 0x10C => writeFwCmd v s
  | _ => s

/-- A write of a `THERM` register clears its sticky bits (R23). -/
def Sensor.clear (x : Sensor) (v : BitVec 32) : Sensor :=
  { x with warn := x.warn && !v.getLsbD 16, trip := x.trip && !v.getLsbD 17 }

/-- A write of the package block. -/
def writePackage (o : Nat) (v : BitVec 32) (s : State) : State :=
  if 0x100 ≤ o ∧ o < 0x300 then writeTolerance ((o - 0x100) / 4) v s
  else if 0x520 ≤ o ∧ o < 0x554 then
    onKeep (fun k => { k with power := k.power.modSensor ((o - 0x520) / 4) (fun x => x.clear v) }) s
  else s

/-- A write of `FAQ_STAT` (R43). -/
def Keep.clearOvf (k : Keep) (d : Nat) (v : BitVec 32) : Keep :=
  { k with faqs := k.faqs.setIfInBounds d (let f := k.faqs.getD d ⟨[], false, 0⟩; { f with ovf := f.ovf && !v.getLsbD 9 }) }

/-- A write of the memory-error block. -/
def writeMemory (o : Nat) (v : BitVec 32) (s : State) : State :=
  if o < 0x80 ∧ o % 0x20 = 0 then onKeep (fun k => k.clearOvf (o / 0x20) v) s
  else if o < 0x80 ∧ o % 0x20 = 4 then onKeep (fun k => k.popError (o / 0x20) v) s
  else if o = 0x100 then (if s.keep.power.halted then s else retireFrame v s)
  else if o = 0x108 then onKeep (fun k => { k with retire := { k.retire with index := v.setWidth 12 } }) s
  else s

/-! ### Event-queue and partition registers (R89, R157, R158) -/

/-- A write of the event-queue block. -/
def writeEvents (o : Nat) (v : BitVec 32) (s : State) : State :=
  let now := s.chip.time
  match o with
  | 0x00 => onKeep (fun k => { k with pilot := { k.pilot with base := withHalf k.pilot.base false v } }) s
  | 0x04 => onKeep (fun k => { k with pilot := { k.pilot with base := withHalf k.pilot.base true v } }) s
  | 0x08 => onKeep (fun k => k.writeEvqCtl v now) s
  | 0x10 => onKeep (fun k => k.writeEvqHead v now) s
  | 0x18 => onKeep (fun k => { k with pilot := { k.pilot with irqCount := v.setWidth 8, usec := BitVec.ofNat 16 (bits v.toNat 23 8) } }) s
  | 0x1C => onKeep (fun k => { k with pilot := { k.pilot with lost := v.setWidth 16 } }) s
  | _ => s

/-- The operation of a `PART_CTL` write (R157). -/
def Chip.partOp (c : Chip) (p op : Nat) : Chip :=
  match op with
  | 1 => c.resume p
  | 2 => c.save p
  | 3 => c.restore p
  | 4 => c.seal p
  | 5 => c.adopt p
  | _ => c

/-- A write of `PART_CTL`: `ERR`, then `EN`, then `OP` (R157, R158). -/
def Chip.writePartCtl (c : Chip) (p : Nat) (v : BitVec 32) : Chip :=
  let c := if v.getLsbD 7 then c.modPart p (fun q => { q with err := false }) else c
  let c := if v.getLsbD 0 && !(c.part p).en then c.enable p
    else if !v.getLsbD 0 && (c.part p).en then c.disable p else c
  c.partOp p (bits v.toNat 6 4)

/-- Whether a partition's cluster mask may be written. -/
def Partition.maskOpen (q : Partition) : Bool := !q.en || q.state = 5

/-- Whether `PART_SVENTRY` and `PART_SAVE` may be written. -/
def Partition.placeOpen (q : Partition) : Bool := !q.en || q.state = 3 || q.state = 5

/-- A 64-bit register of a partition by its offset; `none` where there is none that software writes. -/
def Partition.reg64 (q : Partition) (o : Nat) : Option Word :=
  match o with
  | 0x08 => some (wordOf (q.clus.toNat % 2 ^ 64))
  | 0x10 => some (wordOf (q.clus.toNat / 2 ^ 64))
  | 0x18 => some (wordOf (bits q.asids.toNat 63 0))
  | 0x20 => some (wordOf (bits q.asids.toNat 127 64))
  | 0x28 => some (wordOf (bits q.asids.toNat 191 128))
  | 0x30 => some (wordOf (bits q.asids.toNat 255 192))
  | 0x38 => some q.sventry
  | 0x40 => some q.bell
  | 0x48 => some q.save
  | 0x58 => some q.stoptok
  | _ => none

/-- Write a 64-bit register of a partition (R158, R174); a new mask changes which tolerance governs its units (R13). -/
def Chip.writePart64 (c : Chip) (p o : Nat) (v : Word) : Chip :=
  let q := c.part p
  let n := v.toNat
  match o with
  | 0x08 => if q.maskOpen then
      (c.modPart p (fun q => { q with clus := BitVec.ofNat 128 (setBits q.clus.toNat 63 0 n) })).wakeIntolerant else c
  | 0x10 => if q.maskOpen then
      (c.modPart p (fun q => { q with clus := BitVec.ofNat 128 (setBits q.clus.toNat 127 64 n) })).wakeIntolerant else c
  | 0x18 => c.modPart p (fun q => { q with asids := BitVec.ofNat 256 (setBits q.asids.toNat 63 0 (n / 2 * 2)) })
  | 0x20 => c.modPart p (fun q => { q with asids := BitVec.ofNat 256 (setBits q.asids.toNat 127 64 n) })
  | 0x28 => c.modPart p (fun q => { q with asids := BitVec.ofNat 256 (setBits q.asids.toNat 191 128 n) })
  | 0x30 => c.modPart p (fun q => { q with asids := BitVec.ofNat 256 (setBits q.asids.toNat 255 192 n) })
  | 0x38 => if q.placeOpen then c.modPart p (fun q => { q with sventry := v }) else c
  | 0x40 => c.writeBell p v
  | 0x48 => if q.placeOpen then c.modPart p (fun q => { q with save := v }) else c
  | 0x58 => c.modPart p (fun q => { q with stoptok := v })
  | _ => c

/-- A four-byte write in a partition's block. -/
def Chip.writePart32 (c : Chip) (p o : Nat) (v : BitVec 32) : Chip :=
  if o = 0 then c.writePartCtl p v
  else
    match (c.part p).reg64 (o / 8 * 8) with
    | some w => c.writePart64 p (o / 8 * 8) (withHalf w (o % 8 = 4) v)
    | none => c

/-! ### The control BAR (R51, R52) -/

/-- A four-byte write to the control BAR. (DEDUCED, log entry 43.) -/
def write32 (o : Nat) (v : BitVec 32) (s : State) : State :=
  if o < 0x1000 then writeIdent o v s
  else if o < 0x2000 then writePackage (o - 0x1000) v s
  else if o < 0x3000 then writeMemory (o - 0x2000) v s
  else if o < 0x4000 then writeLink (o - 0x3000) v s
  else if 0x10000 ≤ o ∧ o < 0x11000 then onChipPart (fun c => c.writeMap ((o - 0x10000) / 4) v) s
  else if 0x20000 ≤ o ∧ o < 0x22000 then onLinks (fun l => l.writeWindow ((o - 0x20000) / 32) (o % 32) v) s
  else if 0x40000 ≤ o ∧ o < 0x60000 then onLinks (fun l => l.writeEndpoint ((o - 0x40000) / 32) (o % 32) v) s
  else if 0x100000 ≤ o ∧ o < 0x101000 ∧ o % 0x40 = 0 then onKeep (fun k => k.modHq ((o - 0x100000) / 0x40) (fun h => h.writeCfg v)) s
  else if 0x100000 ≤ o ∧ o < 0x101000 ∧ o % 0x40 = 4 then onKeep (fun k => k.modHq ((o - 0x100000) / 0x40) (fun h => h.writeTail v)) s
  else if 0x110000 ≤ o ∧ o < 0x110020 then writeEvents (o - 0x110000) v s
  else if 0x120000 ≤ o ∧ o < 0x124000 then onChipPart (fun c => c.writePart32 ((o - 0x120000) / 0x80) (o % 0x80) v) s
  else if 0x300000 ≤ o ∧ o < 0x308000 then onKeep (fun k => k.writeMsix ((o - 0x300000) / 16) (o % 16) v) s
  else s

/-- Whether a block permits 8-byte accesses (R52, R57, R89, R94, R157, R455). -/
def permitsWide (o : Nat) : Bool :=
  o = 0x100 || (0x20000 ≤ o && o < 0x22000) || (0x110000 ≤ o && o < 0x110020) || (0x120000 ≤ o && o < 0x124000)
    || (0x300000 ≤ o && o < 0x308100)

/-- An eight-byte write: a partition's 64-bit register is written whole, any other pair low half first.
(DEDUCED, log entry 43.) -/
def write64 (o : Nat) (v : BitVec 64) (s : State) : State :=
  if 0x120000 ≤ o ∧ o < 0x124000 ∧ ((s.chip.part ((o - 0x120000) / 0x80)).reg64 (o % 0x80)).isSome then
    onChipPart (fun c => c.writePart64 ((o - 0x120000) / 0x80) (o % 0x80) v) s
  else write32 (o + 4) ((v >>> 32).setWidth 32) (write32 o (v.setWidth 32) s)

/-- A write to the control BAR by its width; one of another width or alignment has no effect (R52). (DEDUCED, log entry 43.) -/
def writeBar (o : Nat) (wide : Bool) (v : BitVec 64) (s : State) : State :=
  if wide then (if o % 8 = 0 && permitsWide o then write64 o v s else s)
  else if o % 4 = 0 then write32 o (v.setWidth 32) s
  else s

/-- A host write to the control BAR. Once the clocks outside the keep have stopped, or a boot has failed, it changes the keep's
registers only (R17, R24); a tolerance is one of the package block's. (DEDUCED, log entry 43.) -/
def hostWrite (o : Nat) (wide : Bool) (v : BitVec 64) (s : State) : State :=
  let t := writeBar o wide v s
  if s.keep.power.halted ∧ !(0x1000 ≤ o ∧ o < 0x2000) then { t with chip := { s.chip with free := t.chip.free } } else t

/-- `CONTROL_REGISTER_WRITE` (R6, R51, R52). -/
def execControlRegisterWrite (off : BitVec 22) (wide : Bool) (v : BitVec 64) (s : State) : Host.Outcome State Fault Refusal :=
  onState (hostWrite off.toNat wide v) s

/-! ### What the control BAR reads (R5, R6, R18-R23, R43, R44, R46, R57, R64, R70-R75, R78, R89, R94, R157, R455)

A read of the control BAR changes nothing, so it is a function of the state. Reserved and write-only fields read zero. -/

/-- A flag at a bit's place. -/
def flagAt (b : Bool) (i : Nat) : Nat := b2n b * 2 ^ i

/-- The identification block (R75, R94). -/
def State.readIdent (s : State) (o : Nat) : Nat :=
  match o with
  | 0x000 => 0x0A71 + Config.stepping.toNat * 2 ^ 16
  | 0x004 => s.chip.version.toNat
  | 0x008 => s.chip.devhash.toNat % 2 ^ 32
  | 0x00C => s.chip.devhash.toNat / 2 ^ 32
  | 0x100 => s.keep.fw.addr.toNat % 2 ^ 32
  | 0x104 => s.keep.fw.addr.toNat / 2 ^ 32
  | 0x108 => s.keep.fw.len.toNat
  | 0x110 => flagAt s.keep.fw.busy 0 + s.keep.fw.result * 2
  | _ => 0

/-- `PKG_BOOT` (R18). -/
def Boot.word (b : Boot) : Nat := b.stage.toNat + b.err.toNat * 2 ^ 8 + flagAt b.ready 16

/-- `PKG_THROTTLE` (R22). -/
def Power.throttleWord (p : Power) : Nat :=
  p.throttle + flagAt (p.level ≠ 0) 4
    + flagAt (p.die ≠ 0 || (p.sensors.toList.take 5).any (fun x => x.tripped)) 5
    + flagAt (p.hbm ≠ 0 || (p.sensors.toList.drop 5).any (fun x => x.tripped)) 6

/-- A `THERM` register (R23). -/
def Sensor.word (x : Sensor) : Nat := x.temp.toNat + flagAt x.warn 16 + flagAt x.trip 17

/-- `CLUS_PWR` of a cluster (R20). For a cluster of an idle spire, or of a package in standby, `STATE` shows 2, which is the model's
choice: codes 3 and 4 are the spire's and the package's own (R12). (DESIGN CHOICE, log entry 39.) -/
def Chip.clusterPower (c : Chip) (n : Nat) : Nat := (c.cluster n).power + flagAt (!c.clmask.getLsbD n) 3

/-- The package block. -/
def State.readPackage (s : State) (o : Nat) : Nat :=
  if o = 0 then s.keep.boot.word
  else if 0x100 ≤ o ∧ o < 0x300 then (s.chip.part ((o - 0x100) / 4)).tol.toNat
  else if 0x300 ≤ o ∧ o < 0x500 then s.chip.clusterPower ((o - 0x300) / 4)
  else if o = 0x500 then s.keep.power.mw.toNat
  else if o = 0x504 then s.keep.power.throttleWord
  else if 0x520 ≤ o ∧ o < 0x554 then (s.keep.power.sensors.getD ((o - 0x520) / 4) Sensor.reset).word
  else 0

/-- `FAQ_STAT`, `FAQ_POP` and the head entry of a fault-address queue (R43, R44). -/
def Faq.read (f : Faq) (o : Nat) : Nat :=
  match o, f.entries with
  | 0x00, l => l.length + flagAt f.ovf 9 + f.dropped * 2 ^ 16
  | 0x08, e :: _ => e.1.toNat
  | 0x0C, e :: _ => e.2.1.toNat
  | 0x10, e :: _ => e.2.2.toNat % 2 ^ 32
  | 0x14, e :: _ => e.2.2.toNat / 2 ^ 32
  | _, _ => 0

/-- The memory-error block (R43, R44, R46). -/
def Keep.readMemory (k : Keep) (o : Nat) : Nat :=
  if o < 0x80 then (k.faqs.getD (o / 0x20) ⟨[], false, 0⟩).read (o % 0x20)
  else if o = 0x104 then k.retire.status + flagAt k.retire.busy 3 + k.store.badPages.length * 2 ^ 16
  else if o = 0x108 then k.retire.index.toNat + (k.store.badPages[k.retire.index.toNat]?).getD 0 * 2 ^ 12
  else 0

/-- A port register (R72). -/
def Port.word (p : Port) : Nat := flagAt p.up 0 + p.width * 2 + p.events.toNat * 2 ^ 16

/-- The link-status block (R70-R72, R74). -/
def Links.read (l : Links) (o : Nat) : Nat :=
  if o = 0 then l.id.toNat + flagAt l.valid 16
  else if o = 4 then l.tmo.toNat
  else if 0x10 ≤ o ∧ o < 0x30 then (l.ual.getD ((o - 0x10) / 4) ⟨false, 0, 0⟩).word
  else if 0x40 ≤ o ∧ o < 0x50 then { l.ue.getD ((o - 0x40) / 4) ⟨false, 0, 0⟩ with width := 0 }.word
  else if o = 0x60 then flagAt l.master 0 + flagAt (l.locked || l.master) 1 + l.err.toNat * 2 ^ 16
  else 0

/-- Four bytes of a number held as a table entry. -/
def word32At (n o : Nat) : Nat := n / 2 ^ (8 * o) % 2 ^ 32

/-- The registers of a host launch queue (R78). -/
def Hq.read (h : Hq) (o : Nat) : Nat :=
  match o with
  | 0 => flagAt h.en 0 + flagAt h.err 1
  | 4 => h.tail
  | 8 => h.head
  | _ => 0

/-- The event-queue block (R89). -/
def Pilot.read (p : Pilot) (o : Nat) : Nat :=
  match o with
  | 0x00 => p.base.toNat % 2 ^ 32
  | 0x04 => p.base.toNat / 2 ^ 32
  | 0x08 => flagAt p.en 0 + p.log2n * 2 + p.vec.toNat * 2 ^ 16
  | 0x10 => p.head.toNat
  | 0x14 => p.tail.toNat
  | 0x18 => p.irqCount.toNat + p.usec.toNat * 2 ^ 8
  | 0x1C => p.lost.toNat
  | _ => 0

/-- Four bytes of a partition's block (R157). -/
def Partition.read (q : Partition) (o : Nat) : Nat :=
  if o = 0 then flagAt q.en 0 + q.state * 2 + flagAt q.err 7
  else if o / 8 = 10 then word32At q.savelen.toNat (o % 8)
  else
    match q.reg64 (o / 8 * 8) with
    | some w => word32At w.toNat (o % 8)
    | none => 0

/-- A four-byte read of the control BAR; an offset that no chapter assigns reads zero. -/
def State.read32 (s : State) (o : Nat) : Nat :=
  if o < 0x1000 then s.readIdent o
  else if o < 0x2000 then s.readPackage (o - 0x1000)
  else if o < 0x3000 then s.keep.readMemory (o - 0x2000)
  else if o < 0x4000 then s.chip.links.read (o - 0x3000)
  else if 0x10000 ≤ o ∧ o < 0x11000 then
    (s.chip.links.mapEntry ((o - 0x10000) / 4)).1.toNat + flagAt (s.chip.links.mapEntry ((o - 0x10000) / 4)).2 15
  else if 0x20000 ≤ o ∧ o < 0x22000 then
    word32At (mgetD s.chip.links.windows ((o - 0x20000) / 32) ⟨0, 0, 0, 0, 0, 0⟩).word (o % 32)
  else if 0x40000 ≤ o ∧ o < 0x60000 then word32At (mgetD s.chip.links.endpoints ((o - 0x40000) / 32) ⟨0, 0, 0⟩).word (o % 32)
  else if 0x100000 ≤ o ∧ o < 0x101000 then (s.keep.hqs.getD ((o - 0x100000) / 0x40) ⟨false, false, 0, 0⟩).read (o % 0x40)
  else if 0x110000 ≤ o ∧ o < 0x110020 then s.keep.pilot.read (o - 0x110000)
  else if 0x120000 ≤ o ∧ o < 0x124000 then (s.chip.part ((o - 0x120000) / 0x80)).read (o % 0x80)
  else if 0x300000 ≤ o ∧ o < 0x308000 then word32At (s.keep.msixEntry ((o - 0x300000) / 16)).toNat (o % 16)
  else if 0x308000 ≤ o ∧ o < 0x308100 then word32At s.keep.pba.toNat (o - 0x308000)
  else 0

/-- A host read of the control BAR; one of another width or alignment returns zero (R52). (DEDUCED, log entry 43.) -/
def hostRead (s : State) (o : Nat) (wide : Bool) : BitVec 64 :=
  if wide then (if o % 8 = 0 && permitsWide o then wordOf (s.read32 o + s.read32 (o + 4) * 2 ^ 32) else 0)
  else if o % 4 = 0 then wordOf (s.read32 o)
  else 0

/-! ### The on-chip window (R50, R53) -/

/-- What the host gets from an access: data, or Unsupported Request. -/
def Keep.reply (k : Keep) (v : List Byte) (ur : Bool) : Keep := { k with hostReads := v, hostUr := ur }

/-- The cluster of a window place. -/
def Place.clusterOf (p : Place) : Option Nat :=
  match p with
  | .tile cl => some cl
  | .slot cl => some cl
  | _ => none

/-- What a host access reaches wakes: a cluster, or the spire of a beacon table (R14). -/
def Chip.wakeWindow (c : Chip) (pa : Nat) : Chip :=
  match (place pa).clusterOf with
  | some cl => c.wakeCluster cl
  | none => c.wakeSpire (frameHome pa 0)

/-- A host access of `n` bytes through the window: performed whole, or not at all when any byte lies in a hole. (DEDUCED, log entry 43.) -/
def windowTouch (write : Bool) (off n : Nat) (v : List Byte) (s : State) : State :=
  let pa := 0x800000000000 + off
  if !s.keep.boot.ready then onKeep (fun k => k.reply (List.replicate (if write then 0 else n) 0) false) s
  else if (List.range n).any (fun i => place (pa + i) = .hole) then onKeep (fun k => k.reply [] true) s
  else
    let c := s.chip.wakeWindow pa
    if write then
      { s with
        keep := s.keep.reply [] false
        chip := c.writeL2 0 (identity 0 pa) ((v ++ List.replicate n 0).take n) none false false false }
    else { s with keep := s.keep.reply (c.readL2 0 (identity 0 pa) n false).1 false, chip := (c.readL2 0 (identity 0 pa) n false).2 }

/-- The bytes that one access may name: a payload of 512 for a write, a request of 4,096 for a read (R49). -/
def windowMax (write : Bool) : Nat := if write then 512 else 4096

/-- `WINDOW_ACCESS` (R53). -/
def execWindowAccess (write : Bool) (off : BitVec 33) (size : BitVec 13) (v : List (BitVec 8)) (s : State) :
    Host.Outcome State Fault Refusal :=
  onState (fun s =>
    if size.toNat = 0 ∨ windowMax write < size.toNat ∨ s.keep.power.halted then s else windowTouch write off.toNat size.toNat v s) s

end Sys2Proof.Machine
end

