-- ==== Sys2Proof/Machine/KvCommands.lean ====
section
/-! DEFINITION. The KV table commands (R126, R127, R129, R130, R133, R433, R434): the free ring, insertion, removal and
pinning, versions, the synchronous commands and the queue of asynchronous ones. -/

namespace Sys2Proof.Machine

/-- Write a little-endian table field of `n` bytes at a physical address, as an astrolabe does (R124). -/
def Chip.kvPut (c : Chip) (pa n v : Nat) : Chip :=
  if c.tableOk pa then c.writeL2 (hbmHome pa) (kvXlat pa) (leBytes n v) none false false false else c

/-! ### The free ring (R130) -/

/-- The counts of a ring: frames taken, frames returned. -/
def Chip.ringHeader (c : Chip) (d : Desc) : Option (Nat × Nat) × Chip :=
  let r := c.kvRead d.free 8
  (r.1.map (fun v => (bits v 31 0, bits v 63 32)), r.2)

/-- How many frames a ring holds. -/
def ringHolds (h : Nat × Nat) : Nat := (h.2 + 2 ^ 32 - h.1) % 2 ^ 32

/-- Address of ring entry `i`. -/
def Desc.ringEntry (d : Desc) (i : Nat) : Nat := d.free + 64 + 4 * (i % 2 ^ d.freelog)

/-- Take a frame: none where the ring cannot be read, `some none` where it is empty. -/
def Chip.ringTake (c : Chip) (d : Desc) : Option (Option Nat) × Chip :=
  match c.ringHeader d with
  | (none, c) => (none, c)
  | (some h, c) =>
    if ringHolds h = 0 then (some none, c)
    else
      match c.kvRead (d.ringEntry h.1) 4 with
      | (none, c) => (none, c)
      | (some f, c) => (some (some f), c.kvPut d.free 4 ((h.1 + 1) % 2 ^ 32))

/-- Whether a ring has room for `n` more frames, by its header: none where an entry to be written is not in live HBM4E. -/
def Chip.ringRoom (c : Chip) (d : Desc) (h : Nat × Nat) (n : Nat) : Option Bool :=
  if 2 ^ d.freelog < n + ringHolds h then some false
  else if (List.range n).all (fun i => c.tableOk (d.ringEntry (h.2 + i))) then some true else none

/-- Frames written into a ring, one after another; its header says there is room. -/
def Chip.ringPut (c : Chip) (d : Desc) (tail : Nat) (fs : List Nat) : Chip :=
  match fs with
  | [] => c
  | f :: r => Chip.ringPut ((c.kvPut (d.ringEntry tail) 4 f).kvPut (d.free + 4) 4 ((tail + 1) % 2 ^ 32)) d (tail + 1) r

/-- Return frames: none, with nothing changed, where the ring cannot be read or written; whether there was room for all. -/
def Chip.ringReturn (c : Chip) (d : Desc) (fs : List Nat) : Option Bool × Chip :=
  match c.ringHeader d with
  | (none, c) => (none, c)
  | (some h, c) =>
    match c.ringRoom d h fs.length with
    | some true => (some true, c.ringPut d h.2 fs)
    | r => (r, c)

/-! ### Invalidation and open records (R133) -/

/-- Drop the KV-TLB entries of a sequence of a space, of one layer and block or of all. -/
def Chip.kvForget (c : Chip) (space seq : Nat) (key : Option (Nat × Nat)) : Chip :=
  { c with clusters := mmap c.clusters (fun _ k => { k with kvtlb := k.kvtlb.filter (fun e =>
    !(e.space = space && e.seq = seq && (match key with | none => true | some p => e.layer = p.1 && e.blk = p.2))) }) }

/-- Signal the open KV records that a command has mapped, at every astrolabe. -/
def Chip.signalMapped (c : Chip) (p : KvRec → Bool) : Chip :=
  (c.clusters.flatMap (fun e => (e.2.kvrecs.filter p).map (fun r => c.tokenOf (spireOfCluster e.1) r.fbi))).foldl
    (fun c t => c.applySignal t 1 0 0 false) c

/-- The dense steps with open records for a sequence's block that name a version slot, as the slots stand (R126). -/
def stepNames (vs : List Version) (n idx : Nat) : Bool :=
  match namedVersion vs n with
  | some v => v.idx = idx
  | none => false

/-- Whether a record is for a block that a command has just mapped: in a dense space, for the steps that name the version
slot `idx` among the versions as they now are (R133). -/
def mappedBy (d : Desc) (space seq layer blk idx : Nat) (vs : List Version) (r : KvRec) : Bool :=
  r.space = space && (match r.key with
    | some k => k.1 = seq && k.2.1 = layer && k.2.2.1 = blk && (d.pooled || stepNames vs k.2.2.2 idx)
    | none => false)

/-! ### Pooled tables (R129) -/

/-- A hash entry's number with the fields of a key written: valid, no pins, no tombstone; its `NEXT` stays. -/
def hashFill (v seq layer blk frame : Nat) : Nat :=
  seq + layer * 2 ^ 24 + blk * 2 ^ 32 + 2 ^ 63 + frame * 2 ^ 64 + bits v 127 96 * 2 ^ 96

/-- The first of the eight probed entries that is not valid: its address and number; `some none` where all are valid. -/
def Chip.freeProbe (c : Chip) (d : Desc) (n h i : Nat) : Option (Option (Nat × Nat)) × Chip :=
  match n with
  | 0 => (some none, c)
  | k + 1 =>
    match c.kvRead (d.table + 16 * ((h + i) % 2 ^ d.hlog)) 16 with
    | (none, c) => (none, c)
    | (some v, c) =>
      if bit v 63 then Chip.freeProbe c d k h (i + 1) else (some (some (d.table + 16 * ((h + i) % 2 ^ d.hlog), v)), c)

/-- Write a hash entry. -/
def Chip.putHash (c : Chip) (pa v : Nat) : Chip := c.kvPut pa 16 v

/-- Insert into the overflow pool: the head of the unused chain goes onto the chain of entry `h`. -/
def Chip.insertOverflow (c : Chip) (d : Desc) (h seq layer blk frame : Nat) : Nat × Chip :=
  match c.kvRead d.ovf 16 with
  | (none, c) => (20, c)
  | (some u, c) =>
    match c.kvRead (d.table + 16 * h) 16 with
    | (none, c) => (20, c)
    | (some t, c) =>
      let e := bits u 127 96
      if e = 0 then (10, c)
      else if d.ovfcap ≤ e ∨ d.ovfcap ≤ bits t 127 96 then (20, c)
      else
        match c.kvRead (d.ovf + 16 * e) 16 with
        | (none, c) => (20, c)
        | (some v, c) =>
          if d.ovfcap ≤ bits v 127 96 then (20, c)
          else
            let c := c.putHash d.ovf (setBits u 127 96 (bits v 127 96))
            let c := c.putHash (d.ovf + 16 * e) (hashFill (setBits v 127 96 (bits t 127 96)) seq layer blk frame)
            (0, c.putHash (d.table + 16 * h) (setBits t 127 96 e))

/-- An insertion (R129): its status, and the chip. -/
def Chip.kvInsert (c : Chip) (d : Desc) (seq layer blk frame : Nat) : Nat × Chip :=
  let h := kvHome seq layer blk d.hlog
  match c.lookup d seq layer blk with
  | (.bad, c) => (20, c)
  | (.found _ _ _, c) => (7, c)
  | (.miss, c) =>
    match c.freeProbe d 8 h 0 with
    | (none, c) => (20, c)
    | (some (some p), c) => (0, c.putHash p.1 (hashFill p.2 seq layer blk frame))
    | (some none, c) => c.insertOverflow d h seq layer blk frame

/-- Unlink an overflow entry from the link that leads to it, and push it onto the unused chain (R129). -/
def Chip.unlinkOverflow (c : Chip) (d : Desc) (pa link v : Nat) : Nat × Chip :=
  match c.kvRead d.ovf 16 with
  | (none, c) => (20, c)
  | (some u, c) =>
    match c.kvRead link 16 with
    | (none, c) => (20, c)
    | (some l, c) =>
      if d.ovfcap ≤ bits u 127 96 ∨ d.ovfcap ≤ bits v 127 96 then (20, c)
      else
        let c := c.putHash link (setBits l 127 96 (bits v 127 96))
        let c := c.putHash pa (setBits (setBits v 63 63 0) 127 96 (bits u 127 96))
        (0, c.kvPut (d.ovf + 12) 4 ((pa - d.ovf) / 16))

/-- A removal (R129). -/
def Chip.kvRemove (c : Chip) (d : Desc) (seq layer blk : Nat) : Nat × Chip :=
  match c.lookup d seq layer blk with
  | (.bad, c) => (20, c)
  | (.miss, c) => (8, c)
  | (.found pa link v, c) =>
    if bits v 60 53 ≠ 0 then (9, c)
    else
      match link with
      | none => (0, c.putHash pa (setBits (setBits v 63 63 0) 61 61 1))
      | some l => c.unlinkOverflow d pa l v

/-- A pin count one more or one less (R129). -/
def Chip.kvPinBy (c : Chip) (d : Desc) (seq layer blk : Nat) (up : Bool) : Nat × Chip :=
  match c.lookup d seq layer blk with
  | (.bad, c) => (20, c)
  | (.miss, c) => (8, c)
  | (.found pa _ v, c) =>
    let n := bits v 60 53
    if up then (if n = 255 then (9, c) else (0, c.putHash pa (setBits v 60 53 (n + 1))))
    else if n = 0 then (9, c) else (0, c.putHash pa (setBits v 60 53 (n - 1)))

/-! ### Dense versions (R126, R127) -/

/-- The named version's slot for a handle with all versions, or the status. -/
def Chip.handleVersion (c : Chip) (d : Desc) (h : Word) : (Nat ⊕ (Version × List Version)) × Chip :=
  match c.chartVersions d (hdlSeq h) with
  | (none, c) => (.inl 20, c)
  | (some vs, c) =>
    match namedVersion vs (hdlStep h) with
    | none => (.inl 18, c)
    | some v => (.inr (v, vs), c)

/-- Entries of a chart. -/
def Desc.entries (d : Desc) : Nat := d.layers * d.nb

/-- The frame numbers of a chart from entry `i` on, `n` of them; none where one cannot be read. -/
def Chip.chartFrames (c : Chip) (chart n i : Nat) : Option (List Nat) × Chip :=
  match n with
  | 0 => (some [], c)
  | k + 1 =>
    match c.kvRead (chart + 8 * i) 8 with
    | (none, c) => (none, c)
    | (some e, c) =>
      let t := Chip.chartFrames c chart k (i + 1)
      (t.1.map (fun l => e % 2 ^ 32 :: l), t.2)

/-- Fill a free slot's chart with frames, without `OWN`, and make the version live (R127). -/
def Chip.putVersion (c : Chip) (d : Desc) (h : Word) (v : Version) (vs : List Version) (chart : Nat) (fs : List Nat) : Chip :=
  let c := fs.zipIdx.foldl (fun c p => c.kvPut (chart + 8 * p.2) 8 p.1) c
  let c := c.kvPut (d.slotAt (hdlSeq h) v.idx) 16 (hdlStep h + 2 ^ 16 + chart * 2 ^ 64)
  let c := c.kvForget (hdlSpace h) (hdlSeq h) none
  let now := vs.map (fun w => if w.idx = v.idx then ⟨v.idx, hdlStep h, true, chart⟩ else w)
  c.signalMapped (fun r => fs.zipIdx.any (fun p => p.1 ≠ 0
    && mappedBy d (hdlSpace h) (hdlSeq h) (p.2 / d.nb) (p.2 % d.nb) v.idx now r))

/-- `KVVER`: a new version with a zero chart or a copy (R127). -/
def Chip.kvVersion (c : Chip) (d : Desc) (h : Word) (chart : Nat) (copy : Bool) : Nat × Chip :=
  match c.chartVersions d (hdlSeq h) with
  | (none, c) => (20, c)
  | (some vs, c) =>
    if vs.any (fun v => v.live && v.step = hdlStep h) then (7, c)
    else
      match vs.find? (fun v => !v.live) with
      | none => (11, c)
      | some v =>
        match (if copy then (namedVersion vs (hdlStep h)).map (fun w => some w.chart) else some none) with
        | none => (18, c)
        | some from_ =>
          if chart % 64 ≠ 0 ∨ (List.range d.entries).any (fun i => !c.tableOk (chart + 8 * i)) then (20, c)
          else
            match (match from_ with
              | none => (some (List.replicate d.entries 0), c)
              | some a => c.chartFrames a d.entries 0) with
            | (none, c) => (20, c)
            | (some fs, c) => (0, c.putVersion d h v vs chart fs)

/-- Whether a version is superseded at a step: a later live one lies before the step too (R127). -/
def superseded (vs : List Version) (r : Nat) (v : Version) : Bool :=
  v.live && beforeStep v.step r && vs.any (fun w => w.idx ≠ v.idx && w.live && beforeStep w.step r
    && decide ((w.step + 65536 - v.step) % 65536 < 32768))

/-- What a retirement will do once all of it is known to be possible: the frames to return and the table writes, in order. -/
structure Retiring where
  out : List Nat
  puts : List (Nat × Nat × Nat)
  chip : Chip

/-- A chart entry as it stands after the writes planned so far; none where it cannot be read. -/
def Retiring.entry (q : Retiring) (pa : Nat) : Option Nat × Retiring :=
  match q.puts.reverse.find? (fun p => p.1 = pa && p.2.1 = 8) with
  | some p => (some p.2.2, q)
  | none =>
    let r := q.chip.kvRead pa 8
    (r.1, { q with chip := r.2 })

/-- The lowest entry of a chart from entry `i` on that holds a frame; none where an entry cannot be read. -/
def Retiring.holds (q : Retiring) (chart n i f : Nat) : Option (Option Nat) × Retiring :=
  match n with
  | 0 => (some none, q)
  | k + 1 =>
    match q.entry (chart + 8 * i) with
    | (none, q) => (none, q)
    | (some e, q) => if e % 2 ^ 32 = f then (some (some i), q) else Retiring.holds q chart k (i + 1) f

/-- The first of some versions, oldest first, whose chart holds a frame, with the address of the entry. -/
def Retiring.heir (q : Retiring) (entries f : Nat) (ws : List Version) : Option (Option Nat) × Retiring :=
  match ws with
  | [] => (some none, q)
  | w :: r =>
    match q.holds w.chart entries 0 f with
    | (none, q) => (none, q)
    | (some (some j), q) => (some (some (w.chart + 8 * j)), q)
    | (some none, q) => Retiring.heir q entries f r

/-- Versions by age, oldest first, as they lie before or after a step in serial order. -/
def byAge (r : Nat) (vs : List Version) : List Version :=
  vs.mergeSort (fun v w => decide ((v.step + 65536 + 32768 - r) % 65536 ≤ (w.step + 65536 + 32768 - r) % 65536))

/-- The entries of a retiring version from entry `i` on: an owned frame passes to the oldest surviving version that holds it,
or is returned; false where an entry cannot be read. -/
def Retiring.version (q : Retiring) (d : Desc) (survivors : List Version) (chart n i : Nat) : Bool × Retiring :=
  match n with
  | 0 => (true, q)
  | k + 1 =>
    match q.entry (chart + 8 * i) with
    | (none, q) => (false, q)
    | (some e, q) =>
      if !bit e 32 || e % 2 ^ 32 = 0 then Retiring.version q d survivors chart k (i + 1)
      else
        match q.heir d.entries (e % 2 ^ 32) survivors with
        | (none, q) => (false, q)
        | (some none, q) => Retiring.version { q with out := q.out ++ [e % 2 ^ 32] } d survivors chart k (i + 1)
        | (some (some pa), q) =>
          Retiring.version { q with puts := q.puts ++ [(pa, 8, e % 2 ^ 32 + 2 ^ 32)] } d survivors chart k (i + 1)

/-- The retirement of the versions whose slots are listed, in slot order. -/
def Retiring.slots (q : Retiring) (d : Desc) (seq r : Nat) (vs : List Version) (todo : List Nat) : Bool × Retiring :=
  match todo with
  | [] => (true, q)
  | i :: rest =>
    match vs.find? (fun v => v.idx = i) with
    | none => Retiring.slots q d seq r vs rest
    | some v =>
      if superseded vs r v then
        match q.version d (byAge r (vs.filter (fun w => w.live && !superseded vs r w))) v.chart d.entries 0 with
        | (false, q) => (false, q)
        | (true, q) =>
          Retiring.slots { q with puts := q.puts ++ [(d.slotAt seq i + 2, 2, 0)] } d seq r
            (vs.map (fun w => if w.idx = i then { w with live := false } else w)) rest
      else Retiring.slots q d seq r vs rest

/-- `KVRET`: retires the superseded versions of a sequence, in full or not at all (R127). -/
def Chip.kvRetire (c : Chip) (d : Desc) (h : Word) : Nat × Chip :=
  match c.chartVersions d (hdlSeq h) with
  | (none, c) => (20, c)
  | (some vs, c) =>
    match Retiring.slots ⟨[], [], c⟩ d (hdlSeq h) (hdlStep h) vs [0, 1, 2, 3] with
    | (false, q) => (20, q.chip)
    | (true, q) =>
      if q.puts = [] then (0, q.chip)
      else
        match q.chip.ringReturn d q.out with
        | (none, c) => (20, c)
        | (some false, c) => (6, c)
        | (some true, c) =>
          (0, (q.puts.foldl (fun c p => c.kvPut p.1 p.2.1 p.2.2) c).kvForget (hdlSpace h) (hdlSeq h) none)

/-! ### Mapping (R433) -/

/-- The checks of a mapping command's coordinates, which ignore the head: the fault kind, or 0. -/
def Desc.checkMap (d : Desc) (h : Word) (pos : Nat) : Nat :=
  if 2 ^ 24 ≤ pos ∨ d.limit ≤ pos then kvRange
  else if d.layers ≤ hdlLayer h ∨ (!d.pooled ∧ d.seqs ≤ hdlSeq h) then kvCoord
  else 0

/-- Map a block to a frame: status and chip. -/
def Chip.kvMap (c : Chip) (d : Desc) (h : Word) (pos frame : Nat) (own : Bool) : Nat × Chip :=
  let b := pos / d.bt
  if frame = 0 then (8, c)
  else if d.pooled then
    let r := c.kvInsert d (hdlSeq h) (hdlLayer h) b frame
    if r.1 ≠ 0 then r
    else
      let c := r.2.kvForget (hdlSpace h) (hdlSeq h) (some (hdlLayer h, b))
      (0, c.signalMapped (mappedBy d (hdlSpace h) (hdlSeq h) (hdlLayer h) b 0 []))
  else
    match c.handleVersion d h with
    | (.inl s, c) => (s, c)
    | (.inr v, c) =>
      if !c.tableOk (d.chartEntry v.1.chart (hdlLayer h) b) then (20, c)
      else
        let c := c.kvPut (d.chartEntry v.1.chart (hdlLayer h) b) 8 (frame + 2 ^ 32 * b2n own)
        let c := c.kvForget (hdlSpace h) (hdlSeq h) (some (hdlLayer h, b))
        (0, c.signalMapped (mappedBy d (hdlSpace h) (hdlSeq h) (hdlLayer h) b v.1.idx v.2))

/-- Unmap a block: status and chip. -/
def Chip.kvUnmap (c : Chip) (d : Desc) (h : Word) (pos : Nat) : Nat × Chip :=
  let b := pos / d.bt
  if d.pooled then
    let r := c.kvRemove d (hdlSeq h) (hdlLayer h) b
    (r.1, r.2.kvForget (hdlSpace h) (hdlSeq h) (some (hdlLayer h, b)))
  else
    match c.handleVersion d h with
    | (.inl s, c) => (s, c)
    | (.inr v, c) =>
      let pa := d.chartEntry v.1.chart (hdlLayer h) b
      match c.kvRead pa 8 with
      | (none, c) => (20, c)
      | (some e, c) =>
        if e % 2 ^ 32 = 0 then (8, c)
        else
          match (if bit e 32 then c.ringReturn d [e % 2 ^ 32] else (some true, c)) with
          | (none, c) => (20, c)
          | (some false, c) => (6, c)
          | (some true, c) => (0, (c.kvPut pa 8 0).kvForget (hdlSpace h) (hdlSeq h) (some (hdlLayer h, b)))

/-! ### Asynchronous commands (R433) -/

/-- Operation numbers of the asynchronous KV commands. -/
def opKvmap : Nat := 0
/-- `KVUNMAP` -/
def opKvunmap : Nat := 1
/-- `KVVER` -/
def opKvver : Nat := 3
/-- `KVRET` -/
def opKvret : Nat := 4
/-- `KVFREE` -/
def opKvfree : Nat := 7
/-- `KVPIN` -/
def opKvpin : Nat := 8
/-- `KVUNPIN` -/
def opKvunpin : Nat := 9

/-- Whether a command does not serve a class. -/
def wrongClass (op : Nat) (pooled : Bool) : Bool :=
  if op = opKvver ∨ op = opKvret then pooled else if op = opKvpin ∨ op = opKvunpin then !pooled else false

/-- The serial table step of a command (R133): its status, and the chip. (DEDUCED, log entry 28.) -/
def Chip.kvPerform (c : Chip) (q : KvCmd) : Nat × Chip :=
  match c.walkDesc q.handle q.cmd.asid with
  | .inl f => (16 + f.1, c)
  | .inr d =>
    let h := q.handle
    let pos := q.arg.toNat
    if wrongClass q.op d.pooled then (12, c)
    else if q.op = opKvfree then
      (if pos % 2 ^ 32 = 0 then (8, c)
      else match c.ringReturn d [pos % 2 ^ 32] with
        | (none, c) => (20, c)
        | (some r, c) => (if r then 0 else 6, c))
    else if q.op = opKvver ∨ q.op = opKvret then
      (if d.seqs ≤ hdlSeq h then (16 + kvCoord, c)
      else if q.op = opKvret then c.kvRetire d h
      else c.kvVersion d h pos (q.q0.getLsbD 0))
    else if d.checkMap h pos ≠ 0 then (16 + d.checkMap h pos, c)
    else if q.op = opKvmap then c.kvMap d h pos (bits q.q0.toNat 31 0) (q.q0.getLsbD 32)
    else if q.op = opKvunmap then c.kvUnmap d h pos
    else
      let r := c.kvPinBy d (hdlSeq h) (hdlLayer h) (pos / d.bt) (q.op = opKvpin)
      (r.1, r.2.kvForget (hdlSpace h) (hdlSeq h) (some (hdlLayer h, pos / d.bt)))

/-- A command that fails a KV walk or check reports `EPF`: an engine entry in the spire fault queue, without a record
(R134, R135, R267). (DEDUCED, log entry 28.) -/
def Chip.kvReport (c : Chip) (cl : Nat) (q : KvCmd) (kind : Nat) : Chip :=
  match c.partOf cl with
  | some p => c.enterFault p (spireOfCluster cl) ⟨causeEpf, 1, whoEngine cl 6, 0, q.handle,
      (⟨causeEpf, 0, 0, kind, 0, false, 0, 0, 0, 0, 0, 0⟩ : Trap).finfo false, 0⟩
  | none => c

/-- The first command of a cluster's KV queue runs and completes. (DEDUCED, log entry 28.) -/
def Chip.kvRun (c : Chip) (cl : Nat) : Chip :=
  match (c.cluster cl).kvQ with
  | [] => c
  | q :: _ =>
    if !c.clusterRuns cl then c
    else
      let r := c.kvPerform q
      let c := if 16 < r.1 then r.2.kvReport cl q (r.1 - 16) else r.2
      (c.modCluster cl (fun k => { k with kvQ := k.kvQ.drop 1 })).finish 2 q.cmd r.1 3

/-- `KV_COMMAND_RUN` (R133). -/
def execKvCommandRun (cluster : BitVec 7) (s : State) : Host.Outcome State Fault Refusal :=
  onChip (fun c => c.kvRun cluster.toNat) s

/-- An asynchronous KV command issued. -/
def kvBody (i : Instr) (op : Nat) (a b : BitVec 5) : WordBody :=
  fun c key co =>
    issueAsync i (co.qr 1) none (fun _ => false)
      (fun c => decide (64 ≤ (c.cluster (key / 1024)).kvQ.length))
      (fun c q => c.modCluster (key / 1024) (fun k => { k with kvQ := k.kvQ ++ [⟨q, op, co.xr a, co.xr b, co.qr 0⟩] })) c key co

/-- `KVMAP`: maps a block (R433). -/
def execKvmap (a b : BitVec 5) (s : State) : Host.Outcome State Fault Refusal :=
  runWord false (kvBody (.kvmap a b) opKvmap a b) s

/-- `KVUNMAP`: unmaps a block (R433). -/
def execKvunmap (a b : BitVec 5) (s : State) : Host.Outcome State Fault Refusal :=
  runWord false (kvBody (.kvunmap a b) opKvunmap a b) s

/-- `KVVER`: creates a version (R127, R433). -/
def execKvver (a b : BitVec 5) (s : State) : Host.Outcome State Fault Refusal :=
  runWord false (kvBody (.kvver a b) opKvver a b) s

/-- `KVRET`: retires versions (R127, R433). -/
def execKvret (a b : BitVec 5) (s : State) : Host.Outcome State Fault Refusal :=
  runWord false (kvBody (.kvret a b) opKvret a b) s

/-- `KVFREE`: returns a frame to the ring (R433). -/
def execKvfree (a b : BitVec 5) (s : State) : Host.Outcome State Fault Refusal :=
  runWord false (kvBody (.kvfree a b) opKvfree a b) s

/-- `KVPIN`: one more pin (R129, R433). -/
def execKvpin (a b : BitVec 5) (s : State) : Host.Outcome State Fault Refusal :=
  runWord false (kvBody (.kvpin a b) opKvpin a b) s

/-- `KVUNPIN`: one pin less (R129, R433). -/
def execKvunpin (a b : BitVec 5) (s : State) : Host.Outcome State Fault Refusal :=
  runWord false (kvBody (.kvunpin a b) opKvunpin a b) s

/-! ### Synchronous commands (R433, R434) -/

/-- The trap of a synchronous KV command: no record opens. -/
def kvSyncTrap (c : Chip) (key : Nat) (co : Coroutine) (h : Word) (kind : Nat) : Issue :=
  c.trapDrained key co { plainTrap (kvCause kind) co.pc h with kind := kind }

/-- A synchronous command: a release, then a value for x[a], or the kind of a fault. -/
def kvSync (a : BitVec 5) (f : Chip → Coroutine → (Nat ⊕ Word) × Chip) : WordBody :=
  fun c key co =>
    if c.storesPending key then .stall
    else
      match f c co with
      | (.inl kind, c') => kvSyncTrap c' key co (co.xr a) kind
      | (.inr v, c') => .retire (c'.modCo key (fun co => (co.setX a v).advance))

/-- The frame that a walk reads, by kind of failure (R433). -/
def Chip.kvLook (c : Chip) (h : Word) (pos asid : Nat) : (Nat ⊕ Word) × Chip :=
  match c.walkDesc h asid with
  | .inl f => (.inl f.1, c)
  | .inr d =>
    if d.checkCoords h pos ≠ 0 then (.inl (d.checkCoords h pos), c)
    else
      match c.readFrame d h pos with
      | (.inl k, c) => (if k = kvNover then .inr 0 else .inl k, c)
      | (.inr f, c) => (.inr (wordOf f), c)

/-- `KVLOOK`: the frame of a block (R433). -/
def execKvlook (a b : BitVec 5) (s : State) : Host.Outcome State Fault Refusal :=
  runWord false (kvSync a (fun c co => c.kvLook (co.xr a) (co.xr b).toNat co.asid)) s

/-- `KVHASH`: the home index of a key (R129, R433). -/
def execKvhash (a b : BitVec 5) (s : State) : Host.Outcome State Fault Refusal :=
  runWord false (kvSync a (fun c co =>
    let h := co.xr a
    let pos := (co.xr b).toNat
    match c.walkDesc h co.asid with
    | .inl f => (.inl f.1, c)
    | .inr d =>
      if !d.pooled then (.inl kvSpace, c)
      else if d.checkMap h pos ≠ 0 then (.inl (d.checkMap h pos), c)
      else (.inr (wordOf (kvHome (hdlSeq h) (hdlLayer h) (pos / d.bt) d.hlog)), c))) s

/-- `KVALLOC`: takes a frame from the ring, 0 when it is empty (R130, R433). Its second field is zero (R282). -/
def execKvalloc (a _b : BitVec 5) (s : State) : Host.Outcome State Fault Refusal :=
  runWord false (kvSync a (fun c co =>
    match c.walkDesc (co.xr a) co.asid with
    | .inl f => (.inl f.1, c)
    | .inr d =>
      match c.ringTake d with
      | (none, c) => (.inl kvTable, c)
      | (some f, c) => (.inr (wordOf (f.getD 0)), c))) s

/-- One entry of a `KVAPPEND` list: whether it is served, or the status that stops (R434). -/
def Chip.appendOne (c : Chip) (cl asid : Nat) (h : Word) (pos : Nat) : Nat × Chip :=
  match c.kvWalk cl h pos asid with
  | (.inr _, c) => (0, c)
  | (.inl f, c) =>
    if f.kind ≠ kvUnmapped then (16 + f.kind, c)
    else
      match c.desc (hdlSpace h) with
      | none => (20, c)
      | some d =>
        match c.ringTake d with
        | (none, c) => (20, c)
        | (some none, c) => (6, c)
        | (some (some f), c) =>
          let r := c.kvMap d h pos f true
          if r.1 = 0 then r else (r.1, (r.2.ringReturn d [f]).2)

/-- The entries of a `KVAPPEND` list in order: how many are served, the status, and the chip. -/
def Chip.appendAll (c : Chip) (cl asid : Nat) (l : List (Word × Nat)) (done : Nat) : Nat × Nat × Chip :=
  match l with
  | [] => (done, 0, c)
  | e :: r =>
    let q := c.appendOne cl asid e.1 e.2
    if q.1 ≠ 0 then (done, q.1, q.2) else Chip.appendAll q.2 cl asid r (done + 1)

/-- Read `n` list entries from entry `i` on, as plain loads; the first failure with its address. -/
def Chip.readList (c : Chip) (core : Nat) (a : Agent) (va n i : Nat) : ((MemFault × Nat) ⊕ List (Word × Nat)) × Chip :=
  match n with
  | 0 => (.inr [], c)
  | k + 1 =>
    let at_ := (va + 16 * i) % 2 ^ 64
    match c.loadPieces core a (linePieces 8 at_ 16) false with
    | (.inl f, c) => (.inl (f, at_), c)
    | (.inr bs, c) =>
      match Chip.readList c core a va k (i + 1) with
      | (.inl f, c) => (.inl f, c)
      | (.inr l, c) => (.inr ((wordOf (leNat (bs.take 8)), leNat (bs.drop 8)) :: l), c)

/-- `KVAPPEND`: ensures that listed blocks are mapped (R434). -/
def execKvappend (a b : BitVec 5) (s : State) : Host.Outcome State Fault Refusal :=
  runWord false (fun c key co =>
    let va := co.xr a
    if va.toNat % 16 ≠ 0 then trapB c key co causeAlign va
    else if c.storesPending key then .stall
    else
      match c.readList (key / 256) (co.agent key) va.toNat (Nat.min (co.xr b).toNat 256) 0 with
      | (.inl f, c') => faultB c c' key f.1 (scalarTrap co causeLpf (wordOf f.2) 2)
      | (.inr l, c') =>
        let r := c'.appendAll (key / 1024) co.asid l 0
        .retire (r.2.2.modCo key (fun co => (co.setX a (wordOf (r.1 + r.2.1 * 2 ^ 32))).advance))) s

end Sys2Proof.Machine
end

