-- ==== Sys2Proof/Machine/Network.lean ====
section
/-! DEFINITION. The links between packages: export windows (R57, R58), remote pieces served for others (R58, R59, R61,
R436), network commands (R55, R56, R60, R61, R435), Ultra Ethernet requests (R63-R67), port and time events (R68, R69). -/

namespace Sys2Proof.Machine

/-! ### Served pieces (R57-R59) -/

/-- Node number of a pod address (R55). -/
def podNode (a : Word) : Nat := bits a.toNat 63 54
/-- Export window of a pod address. -/
def podWindow (a : Word) : Nat := bits a.toNat 53 46
/-- Offset within the window. -/
def podOffset (a : Word) : Nat := bits a.toNat 45 0

/-- An export window; all fields zero where none is set. -/
def Chip.window (c : Chip) (w : Nat) : Window := mgetD c.links.windows w ⟨0, 0, 0, 0, 0, 0⟩

/-- Whether a window admits an access: valid, wholly inside, and permitted (`bit` 0 read, 1 write, 2 atomic). -/
def Window.admits (w : Window) (off n bit : Nat) : Bool :=
  w.perm.getLsbD 7 && decide (off + n ≤ w.len) && w.perm.getLsbD bit

/-- The agent of a window's accesses (R58, R111). -/
def Window.agent (w : Window) : Agent := engineAgent w.die w.asid true

/-- Serve a write through a window: its status, and the chip. `bad`: the data is poisoned. -/
def Chip.serveWrite (c : Chip) (w : Window) (off : Nat) (vs : List Byte) (bad : Bool) : Nat × Chip :=
  if !w.admits off vs.length 1 then (2, c)
  else
    match c.xlateAll w.agent (linePieces 40 (w.base + off) vs.length) .store with
    | (.inl _, _) => (3, c)
    | (.inr xs, c) =>
      (0, c.writeDelivered w.die xs vs bad)

/-- Serve a read through a window: status, data, and the chip. -/
def Chip.serveRead (c : Chip) (w : Window) (off n : Nat) : Nat × List Byte × Chip :=
  if !w.admits off n 0 then (2, [], c)
  else
    match c.xlateAll w.agent (linePieces 40 (w.base + off) n) .load with
    | (.inl _, _) => (3, [], c)
    | (.inr xs, c) =>
      let r := c.readDelivered w.die xs
      (if r.2.1 then 4 else 0, r.1, r.2.2)

/-- Serve an atomic through a window: status, the old value as 8 bytes, and the chip; on a poisoned line it writes nothing and
the old value is delivered as poisoned (R59). `op` bits 3:0 are the op of R388, bit 4 the width. -/
def Chip.serveAtomic (c : Chip) (w : Window) (off op : Nat) (u v : Nat) : Nat × List Byte × Chip :=
  let wd : BitVec 1 := BitVec.ofNat 1 (bits op 4 4)
  let n := atomicBytes wd
  if 12 ≤ bits op 3 0 ∨ off % n ≠ 0 ∨ !w.admits off n 2 then (2, [], c)
  else
    match c.xlate w.agent (w.base + off) .amo false with
    | (.inl _, _) => (3, [], c)
    | (.inr x, c) =>
      let r := c.atomicOld w.die x n
      let old := leNat r.1
      let data := leBytes 8 (atomicResult wd old).toNat
      if r.2.poisoned (lineOf x.pa) then (4, data, r.2)
      else
        (0, data, match amoNew (bits op 3 0) (8 * n) (u % 2 ^ (8 * n)) (v % 2 ^ (8 * n)) old with
          | some new => r.2.writeL2 x.home x (leBytes n new) none false false false
          | none => r.2)

/-- Serve a signal: `STALE` where the token is not current (R59, R61). -/
def Chip.serveSignal (c : Chip) (tok : Word) (dec : Int) : Nat × Chip :=
  if c.tokHere tok && c.tokCurrent tok then (0, c.applySignal tok dec 0 0 false) else (1, c)

/-- Serve one request by kind, at an offset from its pod address: 0 write, 1 read (`u` bytes), 2 atomic, 3 signal (`u` the
decrement). (DEDUCED, log entry 31.) -/
def Chip.serve (c : Chip) (kind : Nat) (addr : Word) (off op : Nat) (u v : Word) (data : List Byte) : Nat × List Byte × Chip :=
  let w := c.window (podWindow addr)
  match kind with
  | 0 => let r := c.serveWrite w (podOffset addr + off) data (bit op 4); (r.1, [], r.2)
  | 1 => c.serveRead w (podOffset addr + off) u.toNat
  | 2 => c.serveAtomic w (podOffset addr) op u.toNat v.toNat
  | _ => let r := c.serveSignal addr (u.setWidth 32 : BitVec 32).toInt; (r.1, [], r.2)

/-- What leaves the package. -/
def Chip.emit (c : Chip) (w : Wire) : Chip := { c with links := { c.links with wire := c.links.wire ++ [w] } }

/-- `REMOTE_PIECE_RECEIVE`: a piece from another package served and acknowledged with its status (R58). For a write, bit 4
of `op` says that its data is poisoned; an atomic's operand *v* is its data. -/
def execRemotePieceReceive (kind : BitVec 2) (addr : BitVec 64) (op : BitVec 5) (u : BitVec 64) (data : List (BitVec 8)) (s : State) :
    Host.Outcome State Fault Refusal :=
  onChip (fun c =>
    let r := c.serve kind.toNat addr 0 op.toNat u (wordOf (leNat data)) data
    r.2.2.emit { dest := 0, kind := 6, addr := addr, off := 0, status := r.1, data := r.2.1 }) s

/-! ### Commands (R55, R56, R435) -/

/-- Operation numbers of the network commands. -/
def opNput : Nat := 0
/-- `NGET` -/
def opNget : Nat := 1
/-- `NAMO` -/
def opNamo : Nat := 2
/-- `NSIG` -/
def opNsig : Nat := 3
/-- `NSEND` -/
def opNsend : Nat := 4

/-- The node map entry of a node: its identifier, and whether it is valid. Within 10 us of a rewrite either value may
apply (R56). (DEDUCED, log entry 31.) -/
def Chip.mapEntry (c : Chip) (n : Nat) : BitVec 10 × Bool :=
  let cur := mgetD c.links.map n (BitVec.ofNat 10 n, false)
  match mget c.links.mapOld n with
  | some o => if c.time < o.1 + 10000 ∧ Config.freeBool c.free then o.2 else cur
  | none => cur

/-- Whether a network command naming a node traps `LINK` (R56). -/
def Chip.noLink (c : Chip) (node : Nat) : Bool := !c.links.valid || !(c.mapEntry node).2

/-- A network command placed in its queue. -/
def netPush (op : Nat) (a b : Word) (n dest : Nat) (after : List Nat) (co : Coroutine) (cl : Nat) (c : Chip) (q : Cmd) : Chip :=
  c.modCluster cl (fun k => { k with
    netQ := k.netQ ++ [⟨q, op, a, b, n, co.qr 0, co.qr 2, co.qr 3, dest, [], after, 0, [], [], []⟩] })

/-- Whether a cluster's network queue is full. -/
def Chip.netFull (c : Chip) (cl : Nat) : Bool := decide (64 ≤ (c.cluster cl).netQ.length)

/-- The outstanding remote writes of a coroutine. -/
def Chip.outstanding (c : Chip) (co : Coroutine) : List Nat :=
  co.remote.filter (fun id => c.clusters.any (fun e => e.2.netQ.any (fun q => q.cmd.id = id)))

/-- The issue of a network command that names a node: the node map, then R410; a remote write is noted in its coroutine. -/
def netBody (i : Instr) (op : Nat) (node : Word) (late : Option (Nat × Word)) (n : Nat) (nothing : Bool) (a b : BitVec 5) : WordBody :=
  fun c key co =>
    if c.noLink (podNode node) then trapB c key co causeLink node
    else
      let writes := decide (op = opNput ∨ op = opNamo)
      let co' := { co with remote := c.outstanding co ++ (if writes && !nothing then [c.nextCmd] else []) }
      issueAsync i (co.qr 1) late (fun _ => nothing) (fun c => c.netFull (key / 1024))
        (netPush op (co.xr a) (co.xr b) n (c.mapEntry (podNode node)).1.toNat
          (if op = opNsig then (c.outstanding co).filter (fun id => c.clusters.any (fun e => e.2.netQ.any (fun q =>
            q.cmd.id = id && podNode q.a = podNode node))) else []) co (key / 1024)) c key (if writes then co' else co)

/-- Bytes of a network command (R435). -/
def netBytes (co : Coroutine) : Nat := bits (co.qr 0).toNat 31 0

/-- `NPUT`: local bytes to another package (R435). -/
def execNput (a b : BitVec 5) (s : State) : Host.Outcome State Fault Refusal :=
  runWord false (fun c key co =>
    netBody (.nput a b) opNput (co.xr a) none (netBytes co) (netBytes co = 0) a b c key co) s

/-- `NGET`: another package's bytes to local memory (R435). -/
def execNget (a b : BitVec 5) (s : State) : Host.Outcome State Fault Refusal :=
  runWord false (fun c key co =>
    netBody (.nget a b) opNget (co.xr b) none (netBytes co) (netBytes co = 0) a b c key co) s

/-- `NAMO`: an atomic at another package (R436). -/
def execNamo (a b : BitVec 5) (s : State) : Host.Outcome State Fault Refusal :=
  runWord false (fun c key co =>
    let n := if (co.qr 0).getLsbD 4 then 8 else 4
    netBody (.namo a b) opNamo (co.xr a) (if podOffset (co.xr a) % n ≠ 0 then some (causeAlign, co.xr a) else none) 1 false a b c key co) s

/-- `NSIG`: a signal to another package's beacon (R61). -/
def execNsig (a b : BitVec 5) (s : State) : Host.Outcome State Fault Refusal :=
  runWord false (fun c key co => netBody (.nsig a b) opNsig (co.xr a) none 1 false a b c key co) s

/-- `NSEND`: an Ultra Ethernet work request, whose tokens lie in the request (R63, R435). It names no node, so that `FADDR` of its
`LINK` trap is the address of the work request is the model's choice (R56). (DESIGN CHOICE, log entry 31.) -/
def execNsend (a : BitVec 5) (s : State) : Host.Outcome State Fault Refusal :=
  runWord false (fun c key co =>
    if !c.links.valid then trapB c key co causeLink (co.xr a)
    else
      issueAsync (.nsend a) 0 (if (co.xr a).toNat % 64 ≠ 0 then some (causeAlign, co.xr a) else none)
        (fun _ => false) (fun c => c.netFull (key / 1024))
        (netPush opNsend (co.xr a) 0 0 0 [] co (key / 1024)) c key co) s

/-! ### Work requests (R63) -/

/-- A field of a work request. -/
def NetCmd.wrField (q : NetCmd) (o n : Nat) : Nat := leNat ((q.wr.drop o).take n)
/-- `OP` -/
def NetCmd.wrOp (q : NetCmd) : Nat := q.wrField 0 1
/-- `FLAGS` -/
def NetCmd.wrFlags (q : NetCmd) : Nat := q.wrField 1 1
/-- `DEST` -/
def NetCmd.wrDest (q : NetCmd) : Nat := q.wrField 2 2
/-- `LEN` -/
def NetCmd.wrLen (q : NetCmd) : Nat := q.wrField 4 4
/-- `LADDR` -/
def NetCmd.wrLaddr (q : NetCmd) : Nat := q.wrField 8 8

/-- How much a command sends: bytes, or 1 for a single request. -/
def NetCmd.total (q : NetCmd) : Nat :=
  if q.op = opNsend then (if q.wrLen = 0 then (if bit q.wrFlags 0 then 1 else 0) else q.wrLen)
  else if q.op = opNamo ∨ q.op = opNsig then 1
  else q.n

/-- The pod address that a command names. -/
def NetCmd.pod (q : NetCmd) : Word := if q.op = opNget then q.b else q.a

/-- Bytes of the piece at an offset: within 256 bytes of the window (R58), or 4,096 of a request (R65). -/
def NetCmd.pieceLen (q : NetCmd) (off : Nat) : Nat :=
  if q.op = opNsend then Nat.min (q.wrLen - off) 4096
  else if q.op = opNamo ∨ q.op = opNsig then 0
  else Nat.min (q.n - off) (256 - (podOffset q.pod + off) % 256)

/-- The offset after a piece. -/
def NetCmd.after_ (q : NetCmd) (off : Nat) : Nat := off + Nat.max 1 (q.pieceLen off)

/-- Whether a command has nothing left to do. -/
def NetCmd.finished (q : NetCmd) : Bool :=
  decide (q.total ≤ q.next) && q.redo.isEmpty && q.flight.isEmpty && q.stalled.isEmpty && (q.op ≠ opNsend || q.wr ≠ [])

/-- Local bytes that a piece is read from before it is sent. -/
def NetCmd.source (q : NetCmd) : Option Nat :=
  if q.op = opNput then some q.b.toNat else if q.op = opNsend ∧ q.wrOp = 1 then some q.wrLaddr else none

/-- Where a piece's returned bytes go. -/
def NetCmd.sink (q : NetCmd) : Option Nat :=
  if q.op = opNget then some q.a.toNat
  else if q.op = opNamo then (if q.q3 = 0 then none else some q.q3.toNat)
  else if q.op = opNsend ∧ q.wrOp = 2 then some q.wrLaddr
  else none

/-! ### Progress -/

/-- Put a command back, or complete it (R60). -/
def Chip.putNet (c : Chip) (cl : Nat) (q : NetCmd) : Chip :=
  if q.finished then
    (c.modCluster cl (fun k => { k with netQ := k.netQ.filter (fun r => r.cmd.id ≠ q.cmd.id) })).finish 3 q.cmd q.cmd.status 1
  else c.modCluster cl (fun k => { k with netQ := k.netQ.map (fun r => if r.cmd.id = q.cmd.id then q else r) })

/-- A command with a status added. -/
def NetCmd.blame (q : NetCmd) (st : Nat) : NetCmd := { q with cmd := { q.cmd with status := worse q.cmd.status st } }

/-- A command whose piece at an offset leaves the list of those to send. -/
def NetCmd.taken (q : NetCmd) (off : Nat) : NetCmd :=
  if q.redo.contains off then { q with redo := q.redo.filter (fun o => o ≠ off) } else { q with next := q.after_ off }

/-- A local access refused: the piece stalls on a record, fails with `FAULT`, or tries again while no fault beacon is
free (R412). -/
def Chip.netFault (c c0 : Chip) (cl : Nat) (q : NetCmd) (off va : Nat) (f : MemFault) : Chip :=
  match f with
  | .kind k =>
    let r := c.engineFault q.cmd.agent cl 7 va k
    if r.1 = 0 then c0 else r.2.putNet cl { q with stalled := q.stalled ++ [(off, r.1)] }
  | .joined tok _ => c.putNet cl { q with stalled := q.stalled ++ [(off, tok)] }
  | _ => c.putNet cl ({ q with flight := q.flight.filter (fun r => r.off ≠ off) }.blame 3)

/-- The first piece of a list that does not translate, with its fault; or all translated. -/
def Chip.xlateFirst (c : Chip) (a : Agent) (ps : List (Nat × Nat)) (k : Acc) :
    ((MemFault × Nat) ⊕ List (Xlat × Nat)) × Chip :=
  match ps with
  | [] => (.inr [], c)
  | p :: r =>
    match c.xlate a (p.1 % 2 ^ 64) k false with
    | (.inl f, c) => (.inl (f, p.1 % 2 ^ 64), c)
    | (.inr x, c) =>
      match Chip.xlateFirst c a r k with
      | (.inl f, c) => (.inl f, c)
      | (.inr xs, c) => (.inr ((x, p.2) :: xs), c)

/-- Returned data written to local memory: poisoned data leaves its lines poisoned (R59, R187). -/
def Chip.netLand (c c0 : Chip) (cl : Nat) (q : NetCmd) (f : Flight) (va st : Nat) : Chip :=
  let rest := { q with flight := q.flight.filter (fun r => r.off ≠ f.off) }
  match c.xlateFirst q.cmd.agent (linePieces 40 (va + f.off) f.data.length) .store with
  | (.inl e, c) => c.netFault c0 cl { rest with flight := rest.flight ++ [{ f with back := some st }] } f.off e.2 e.1
  | (.inr xs, c) =>
    (c.writeDelivered q.cmd.agent.spire xs f.data (st = 4)).putNet cl (rest.blame st)

/-- A piece answered with a status and data. -/
def Chip.answered (c : Chip) (cl : Nat) (q : NetCmd) (f : Flight) (st : Nat) (data : List Byte) : Chip :=
  match q.sink with
  | some va =>
    if (st = 0 ∨ st = 4) ∧ data ≠ [] then c.netLand c cl q { f with data := data } va st
    else c.putNet cl ({ q with flight := q.flight.filter (fun r => r.off ≠ f.off) }.blame st)
  | none => c.putNet cl ({ q with flight := q.flight.filter (fun r => r.off ≠ f.off) }.blame st)

/-- What a command has for the target beside its data: the bytes of a read, *u* of an atomic, the decrement of a signal. -/
def NetCmd.operand (q : NetCmd) (off : Nat) : Word :=
  match q.op with
  | 1 => wordOf (q.pieceLen off)
  | 2 => q.q2
  | 3 => q.b
  | _ => 0

/-- A piece, or a packet of a work request, as it leaves through a port (R58, R63, R65). -/
def NetCmd.wire (q : NetCmd) (off : Nat) (data : List Byte) (bad : Bool) (port time : Nat) : Wire :=
  if q.op = opNsend then
    { dest := q.wrDest, kind := if q.wrOp = 2 then 5 else 4, addr := wordOf (q.wrField 0x10 8), off := off
      status := if bad then 4 else 0, data := data, op := q.wrOp + 256 * q.wrFlags, u := wordOf q.wrLen
      key := q.wrField 0x18 4, token := wordOf (q.wrField 0x28 8), port := port, time := time }
  else
    { dest := q.dest, kind := q.op, addr := q.pod, off := off, status := if bad then 4 else 0, data := data
      op := if q.op = opNamo then bits q.q0.toNat 4 0 else 0, u := q.operand off }

/-- A piece for this package's own node, served at once through the same checks (R55). -/
def Chip.ownPiece (c : Chip) (cl : Nat) (q : NetCmd) (f : Flight) (bad : Bool) : Chip :=
  let q := { q with flight := q.flight ++ [f] }
  let r := match q.op with
    | 0 => c.serve 0 q.pod f.off (if bad then 16 else 0) 0 0 f.data
    | 1 => c.serve 1 q.pod f.off 0 (q.operand f.off) 0 []
    | 2 => c.serve 2 q.a 0 (bits q.q0.toNat 4 0) q.q2 q.b []
    | _ => c.serve 3 q.a 0 0 q.b 0 []
  (r.2.2.putNet cl q).answered cl q f r.1 r.2.1

/-- A port that is down. -/
def Port.none : Port := ⟨false, 0, 0⟩

/-- An Ultra Ethernet port that is up, over which the packets are sprayed: a free choice among those (R62). -/
def Chip.uePort (c : Chip) : Option Nat × Chip :=
  let ups := (List.range 4).filter (fun i => (c.links.ue.getD i Port.none).up)
  if ups = [] then (none, c) else (ups[(Config.freeWord c.free).toNat % ups.length]?, { c with free := c.free + 1 })

/-- The port through which a command's piece leaves, where one of its kind is up; UALink's own choice is not shown. -/
def Chip.portFor (c : Chip) (q : NetCmd) : Option Nat × Chip :=
  if q.op = opNsend then c.uePort else (if c.links.ual.toList.any (fun p => p.up) then some 0 else none, c)

/-- Send one piece whose data has been read. -/
def Chip.sendData (c : Chip) (cl : Nat) (q : NetCmd) (off : Nat) (data : List Byte) (bad : Bool) : Chip :=
  let q := (if bad then q.blame 4 else q).taken off
  let f : Flight := ⟨off, c.time, 1, data, bad, none⟩
  if q.op ≠ opNsend ∧ podNode q.pod = c.links.id.toNat then c.ownPiece cl q f bad
  else
    match c.portFor q with
    | (none, c) => c.putNet cl (q.blame 6)
    | (some i, c) => (c.emit (q.wire off data bad i c.time)).putNet cl { q with flight := q.flight ++ [f] }

/-- The piece that a command sends next. The pieces of a command to the own node are applied in this order, which is one of those
that R61 allows. (DESIGN CHOICE, log entry 31.) -/
def NetCmd.nextPiece (q : NetCmd) : Option Nat :=
  match q.redo with
  | o :: _ => some o
  | [] => if q.next < q.total then some q.next else none

/-- Whether an `NSEND` waits for earlier requests to its endpoint (R67). -/
def Cluster.fenced (k : Cluster) (q : NetCmd) : Bool :=
  q.op = opNsend && bit q.wrFlags 1
    && k.netQ.any (fun r => r.op = opNsend && decide (r.cmd.id < q.cmd.id) && (r.wr = [] || r.wrDest = q.wrDest))

/-- Whether a command may not send yet: an unread work request, a fence, remote writes that an `NSIG` follows (R61). -/
def Chip.netWaits (c : Chip) (cl : Nat) (q : NetCmd) : Bool :=
  (q.op = opNsend && q.wr = []) || (c.cluster cl).fenced q
    || q.after.any (fun id => c.clusters.any (fun e => e.2.netQ.any (fun r => r.cmd.id = id)))

/-- Whether a returned piece waits to be written and may try again. -/
def NetCmd.landing (q : NetCmd) : Option Flight := q.flight.find? (fun f => f.back.isSome && !(q.stalled.any (fun p => p.1 = f.off)))

/-- One piece of the network command at an index: data that came back is written, or the next piece is sent.
(DEDUCED, log entry 31.) -/
def Chip.netPiece (c : Chip) (cl idx : Nat) : Chip :=
  match (c.cluster cl).netQ[idx]? with
  | none => c
  | some q =>
    if q.finished then c.putNet cl q
    else
      match q.landing with
      | some f => c.netLand c cl q f (q.sink.getD 0) (f.back.getD 0)
      | none =>
        if c.netWaits cl q || !c.clusterRuns cl then c
        else
          match q.nextPiece with
          | none => c
          | some off =>
            if q.op = opNamo ∧ 12 ≤ bits q.q0.toNat 3 0 then c.putNet cl ((q.taken off).blame 2)
            else
              match q.source with
              | none => c.sendData cl q off (if q.op = opNamo then leBytes 8 q.b.toNat else []) false
              | some va =>
                match c.xlateFirst q.cmd.agent (linePieces 40 (va + off) (q.pieceLen off)) .load with
                | (.inl e, c') => c'.netFault c cl (q.taken off) off e.2 e.1
                | (.inr xs, c') =>
                  let r := c'.readDelivered q.cmd.agent.spire xs
                  r.2.2.sendData cl q off r.1 r.2.1

/-- `NETWORK_PIECE_SEND` (R58). -/
def execNetworkPieceSend (cluster : BitVec 7) (idx : BitVec 6) (s : State) : Host.Outcome State Fault Refusal :=
  onChip (fun c => c.netPiece cluster.toNat idx.toNat) s

/-- A piece in flight of the command at an index that has not come back. -/
def Chip.inFlight (c : Chip) (cl idx off : Nat) : Option (NetCmd × Flight) :=
  match (c.cluster cl).netQ[idx]? with
  | none => none
  | some q => (q.flight.find? (fun f => f.off = off && f.back.isNone)).map (fun f => (q, f))

/-- `REMOTE_ACK`: a piece is acknowledged; one that timed out is discarded (R60). (DEDUCED, log entry 31.) -/
def execRemoteAck (cluster : BitVec 7) (idx : BitVec 6) (piece : BitVec 48) (status : BitVec 8) (data : List (BitVec 8)) (s : State) :
    Host.Outcome State Fault Refusal :=
  onChip (fun c =>
    match c.inFlight cluster.toNat idx.toNat piece.toNat with
    | none => c
    | some p => c.answered cluster.toNat p.1 p.2 status.toNat data) s

/-- The response time-out in nanoseconds (R71). -/
def Chip.responseTime (c : Chip) : Nat := Nat.max 100 c.links.tmo.toNat * 1000

/-- `REMOTE_TIMEOUT`: a piece unacknowledged after `UAL_TMO` (R60). -/
def execRemoteTimeout (cluster : BitVec 7) (idx : BitVec 6) (piece : BitVec 48) (s : State) : Host.Outcome State Fault Refusal :=
  onChip (fun c =>
    match c.inFlight cluster.toNat idx.toNat piece.toNat with
    | none => c
    | some p =>
      if p.1.op = opNsend ∨ c.time < p.2.sent + c.responseTime then c
      else c.answered cluster.toNat p.1 p.2 5 []) s

/-! ### Ultra Ethernet (R62-R67) -/

/-- An endpoint; not valid where none is set. -/
def Chip.endpoint (c : Chip) (e : Nat) : Endpoint := mgetD c.links.endpoints e ⟨0, 0, 0⟩

/-- Take up a work request that has been read (R63, R64, R67). A `DEST` above 4,095 names no entry of the table and is treated as
one that is not valid. (DESIGN CHOICE, log entry 31.) -/
def Chip.takeRequest (c : Chip) (cl : Nat) (q : NetCmd) : Chip :=
  let q := { q with cmd := { q.cmd with tok := wordOf (q.wrField 0x20 8) } }
  let stop (st : Nat) : NetCmd := { q.blame st with next := q.total }
  if q.wrOp ≠ 1 ∧ q.wrOp ≠ 2 then c.putNet cl (stop 2)
  else if !(c.endpoint q.wrDest).job.getLsbD 31 then c.putNet cl (stop 6)
  else c.putNet cl q

/-- The network engine reads the work request of an `NSEND` whose entry reaches it. -/
def Chip.readRequest (c : Chip) (cl idx : Nat) : Chip :=
  match (c.cluster cl).netQ[idx]? with
  | none => c
  | some q =>
    if q.op ≠ opNsend ∨ q.wr ≠ [] ∨ !q.stalled.isEmpty ∨ !c.clusterRuns cl
        ∨ (c.cluster cl).netQ.any (fun r => r.op = opNsend && decide (r.cmd.id < q.cmd.id) && r.wr = []) then c
    else
      match c.xlate q.cmd.agent q.a.toNat .load false with
      | (.inl f, c') => c'.netFault c cl q 0 q.a.toNat f
      | (.inr x, c') =>
        let r := c'.readL2 q.cmd.agent.spire x 64 false
        r.2.takeRequest cl { q with wr := r.1 }

/-- `NSEND_REQUEST_READ` (R63, R67). -/
def execNsendRequestRead (cluster : BitVec 7) (idx : BitVec 6) (s : State) : Host.Outcome State Fault Refusal :=
  onChip (fun c => c.readRequest cluster.toNat idx.toNat) s

/-- A saturating event count. -/
def countUp (n : BitVec 16) : BitVec 16 := if n = BitVec.allOnes 16 then n else n + 1

/-- Count a retransmitted packet on the port that carries it (R62, R72). -/
def Chip.countResend (c : Chip) (i : Nat) : Chip :=
  let p := c.links.ue.getD i Port.none
  { c with links := { c.links with ue := c.links.ue.setIfInBounds i { p with events := countUp p.events } } }

/-- Resend a packet in flight over a port that is up; with none up it fails with `UNREACH` (R59, R62, R66).
(DEDUCED, log entry 31.) -/
def Chip.resend (c : Chip) (cl : Nat) (q : NetCmd) (f : Flight) : Chip :=
  match c.uePort with
  | (none, c) => c.putNet cl ({ q with flight := q.flight.filter (fun r => r.off ≠ f.off) }.blame 6)
  | (some i, c) =>
    ((c.emit (q.wire f.off f.data f.bad i c.time)).countResend i).putNet cl
      { q with flight := q.flight.map (fun r => if r.off = f.off then { r with sent := c.time, sends := r.sends + 1 } else r) }

/-- The command with an id in a cluster's network queue. -/
def Cluster.net (k : Cluster) (id : Nat) : Option NetCmd := k.netQ.find? (fun q => q.cmd.id = id)

/-- Packets of a request after one that have been sent and acknowledged. -/
def NetCmd.laterAcked (q : NetCmd) (off : Nat) : Nat :=
  ((List.range (cdiv q.next 4096)).filter (fun i => decide (off < i * 4096) && !(q.flight.any (fun f => f.off = i * 4096))
    && !q.redo.contains (i * 4096) && !(q.stalled.any (fun p => p.1 = i * 4096)))).length

/-- Resend the packets that are shown missing (R66). -/
def Chip.resendMissing (c : Chip) (cl id : Nat) (offs : List Nat) : Chip :=
  match offs with
  | [] => c
  | o :: r =>
    let c := match (c.cluster cl).net id with
      | none => c
      | some q =>
        match q.flight.find? (fun f => f.off = o && f.back.isNone) with
        | none => c
        | some f => if 3 ≤ q.laterAcked o ∧ f.sends < 8 then c.resend cl q f else c
    Chip.resendMissing c cl id r

/-- The packet that an acknowledgement names: its number within the request in bits 19:0. -/
def ackPacket (p : Nat) : Nat := p % 2 ^ 20

/-- The status with which an acknowledgement answers its packet, above the number. -/
def ackStatus (p : Nat) : Nat := p / 2 ^ 20

/-- Acknowledge packets one after another, each with its status; each packet of a read that was served takes its payload from
the data (R59, R66). (DEDUCED, log entry 31.) -/
def Chip.ackPackets (c : Chip) (cl id : Nat) (pkts : List Nat) (data : List Byte) : Chip :=
  match pkts with
  | [] => c
  | p :: r =>
    match (c.cluster cl).net id with
    | none => c
    | some q =>
      let off := ackPacket p * 4096
      let n := if q.wrOp = 2 ∧ (ackStatus p = 0 ∨ ackStatus p = 4) then q.pieceLen off else 0
      let c := match q.flight.find? (fun f => f.off = off && f.back.isNone) with
        | none => c
        | some f => c.answered cl q f (ackStatus p) (data.take n)
      Chip.ackPackets c cl id r (data.drop n)

/-- `UE_SELECTIVE_ACK`: packets complete, and those shown missing are resent (R66). -/
def execUeSelectiveAck (cluster : BitVec 7) (idx : BitVec 6) (acked : List Nat) (data : List (BitVec 8)) (s : State) :
    Host.Outcome State Fault Refusal :=
  onChip (fun c =>
    match (c.cluster cluster.toNat).netQ[idx.toNat]? with
    | none => c
    | some q =>
      if q.op ≠ opNsend then c
      else
        let c := c.ackPackets cluster.toNat q.cmd.id acked data
        c.resendMissing cluster.toNat q.cmd.id (q.flight.map (fun f => f.off))) s

/-- `UE_RETRANSMIT_TIMER`: a packet is resent after 256 us, doubled at each sending; after the eighth the request fails
(R66). -/
def execUeRetransmitTimer (cluster : BitVec 7) (idx : BitVec 6) (pkt : BitVec 20) (s : State) : Host.Outcome State Fault Refusal :=
  onChip (fun c =>
    match c.inFlight cluster.toNat idx.toNat (pkt.toNat * 4096) with
    | none => c
    | some p =>
      if p.1.op ≠ opNsend ∨ c.time < p.2.sent + 256000 * 2 ^ (p.2.sends - 1) then c
      else if p.2.sends < 8 then c.resend cluster.toNat p.1 p.2
      else c.putNet cluster.toNat { p.1.blame 5 with next := p.1.total, redo := [], flight := [], stalled := [] }) s

/-- The receiver's state of a request, new where it has none: `op` 2 a read, else a write. -/
def Chip.rxOf (c : Chip) (src op len roff rkey : Nat) (token : Word) (sigR : Bool) : UeRx :=
  match c.links.rx.find? (fun r => r.src = src) with
  | some r => r
  | none => ⟨src, if op = 2 then 2 else 1, len, roff, rkey, token, sigR, [], false, 0⟩

/-- Keep a request's state. -/
def Chip.setRx (c : Chip) (r : UeRx) : Chip :=
  { c with links := { c.links with rx := c.links.rx.filter (fun q => q.src ≠ r.src) ++ [r] } }

/-- A packet placed: counted, and `TOKEN_R` signalled once every byte has been (R67). -/
def Chip.rxPlaced (c : Chip) (r : UeRx) (off n : Nat) : Chip :=
  let r := { r with got := r.got ++ [(off, n)] }
  if decide (r.len ≤ r.got.foldl (fun m p => m + p.2) 0) && !r.finished then
    let c := c.setRx { r with finished := true }
    if r.sigR then c.send .links none (.signal r.token 1 0 0 none) else c
  else c.setRx r

/-- A receiver's answer to a packet. -/
def ueAnswer (src off status : Nat) (data : List Byte) : Wire :=
  { dest := src, kind := 6, addr := 0, off := off, status := status, data := data }

/-- The bytes that a packet carries, or that a packet of a read asks for (R65). -/
def UeRx.span (r : UeRx) (off : Nat) (data : List Byte) : Nat := if r.op = 2 then Nat.min (r.len - off) 4096 else data.length

/-- A receiver takes a packet: window, key and permission, placement at its offset in any order (R65). A duplicate of a write is
discarded, and one of a read, whose answer may have been lost, is answered again. -/
def Chip.rxPacket (c : Chip) (r : UeRx) (off : Nat) (data : List Byte) (bad : Bool) : Chip :=
  let w := c.window (bits r.rkey 31 24)
  let n := r.span off data
  let r := { r with last := c.time }
  let c := c.setRx r
  let seen := r.got.any (fun p => p.1 = off)
  if seen ∧ r.op ≠ 2 then c.emit (ueAnswer r.src off 0 [])
  else if bits r.rkey 23 0 ≠ w.key then c.emit (ueAnswer r.src off 2 [])
  else
    let q :=
      if n = 0 then (if w.perm.getLsbD 7 && w.perm.getLsbD (if r.op = 2 then 0 else 1) then 0 else 2, [], c)
      else if r.op = 2 then c.serveRead w (r.roff + off) n
      else let t := c.serveWrite w (r.roff + off) data bad; (t.1, [], t.2)
    let c := q.2.2.emit (ueAnswer r.src off q.1 q.2.1)
    if (q.1 = 0 ∨ q.1 = 4) ∧ !seen then c.rxPlaced r off n else c

/-- `UE_PACKET_RECEIVE` (R65, R67): `op` 1 a packet of a write, 3 one whose data is poisoned (R59), 2 one of a read.
(DEDUCED, log entry 31.) -/
def execUePacketReceive (src : BitVec 32) (op : BitVec 2) (flags : BitVec 1) (len off : BitVec 32) (roff : BitVec 64) (rkey : BitVec 32)
    (token : BitVec 64) (data : List (BitVec 8)) (s : State) : Host.Outcome State Fault Refusal :=
  onChip (fun c =>
    c.rxPacket (c.rxOf src.toNat op.toNat len.toNat roff.toNat rkey.toNat token (flags = 1)) off.toNat data (op = 3)) s

/-- `UE_REQUEST_ABANDON`: a request without a packet for 1 s is forgotten (R67). -/
def execUeRequestAbandon (src : BitVec 32) (s : State) : Host.Outcome State Fault Refusal :=
  onChip (fun c => { c with links := { c.links with
    rx := c.links.rx.filter (fun r => !(r.src = src.toNat && decide (r.last + 1000000000 ≤ c.time))) } }) s

/-! ### Ports and time (R68, R69, R72, R74) -/

/-- `LINK_FAULT`: a UALink port retrains, or goes down with a port-down event (R69). -/
def execLinkFault (port : BitVec 3) (recovered : Bool) (s : State) : Host.Outcome State Fault Refusal :=
  onChip (fun c =>
    let p := c.links.ual.getD port.toNat Port.none
    if !p.up then c
    else if recovered then
      { c with links := { c.links with ual := c.links.ual.setIfInBounds port.toNat { p with events := countUp p.events } } }
    else
      { c with links := { c.links with ual := c.links.ual.setIfInBounds port.toNat { p with up := false, width := 0 } } }.post
        ⟨0x0020, 4, wordOf port.toNat, 0, none⟩) s

/-- `UE_PORT_DOWN`: an Ultra Ethernet port loses its link (R72, R90). -/
def execUePortDown (port : BitVec 2) (s : State) : Host.Outcome State Fault Refusal :=
  onChip (fun c =>
    let p := c.links.ue.getD port.toNat Port.none
    if !p.up then c
    else
      { c with links := { c.links with ue := c.links.ue.setIfInBounds port.toNat { p with up := false } } }.post
        ⟨0x0020, 4, wordOf (16 + port.toNat), 0, none⟩) s

/-- The timing message that a port of the master sends. -/
def timingMessage (port time : Nat) : Wire :=
  { dest := 0, kind := 7, addr := 0, off := 0, status := 0, data := [], port := port, time := time }

/-- The master sends a timing message each 1 ms over every UALink port that is up (R68). -/
def Chip.sendTiming (c : Chip) : Chip :=
  if c.time < c.links.lastSync + 1000000 then c
  else
    { c with links := { c.links with
        lastSync := c.time
        wire := c.links.wire ++ ((List.range 8).filter (fun i => (c.links.ual.getD i Port.none).up)).map (fun i => timingMessage i c.time) } }

/-- `TSYNC_MESSAGE`: a timing message arrives from the master, or leaves it (R68); `TIME` slews, which the free passing of time
covers. That an error of 100 ns or more clears `LOCKED`, and posts no event, is the model's choice.
(DESIGN CHOICE, log entry 31.) -/
def execTsyncMessage (err : BitVec 16) (s : State) : Host.Outcome State Fault Refusal :=
  onChip (fun c =>
    if c.links.master then c.sendTiming
    else { c with links := { c.links with err := err, lastSync := c.time
                                          locked := decide (-100 < err.toInt) && decide (err.toInt < 100) } }) s

/-- `TSYNC_LOCK_LOST`: no timing message for 100 ms (R68). -/
def execTsyncLockLost (s : State) : Host.Outcome State Fault Refusal :=
  onChip (fun c =>
    if c.links.locked && !c.links.master && decide (c.links.lastSync + 100000000 ≤ c.time) then
      { c with links := { c.links with locked := false } }.post ⟨0x0021, 4, 0, 0, none⟩
    else c) s

end Sys2Proof.Machine
end

