-- ==== Sys2Proof/Machine/Scalar.lean ====
section
/-! DEFINITION. The integer scalar instructions: register operations (R324-R327) and immediates (R328-R330). -/

namespace Sys2Proof.Machine

/-- `ADD`: the sum modulo 2^64 (R324). -/
def execAdd (d a b : BitVec 5) (s : State) : Host.Outcome State Fault Refusal :=
  runWord false (writeX d (fun co => co.xr a + co.xr b)) s

/-- `SUB`: the difference modulo 2^64 (R324). -/
def execSub (d a b : BitVec 5) (s : State) : Host.Outcome State Fault Refusal :=
  runWord false (writeX d (fun co => co.xr a - co.xr b)) s

/-- `AND`: bitwise AND (R324). -/
def execAnd (d a b : BitVec 5) (s : State) : Host.Outcome State Fault Refusal :=
  runWord false (writeX d (fun co => co.xr a &&& co.xr b)) s

/-- `OR`: bitwise OR (R324). -/
def execOr (d a b : BitVec 5) (s : State) : Host.Outcome State Fault Refusal :=
  runWord false (writeX d (fun co => co.xr a ||| co.xr b)) s

/-- `XOR`: bitwise XOR (R324). -/
def execXor (d a b : BitVec 5) (s : State) : Host.Outcome State Fault Refusal :=
  runWord false (writeX d (fun co => co.xr a ^^^ co.xr b)) s

/-- `ANDN`: AND with the complement of x[b] (R324). -/
def execAndn (d a b : BitVec 5) (s : State) : Host.Outcome State Fault Refusal :=
  runWord false (writeX d (fun co => co.xr a &&& ~~~(co.xr b))) s

/-- `ORN`: OR with the complement of x[b] (R324). -/
def execOrn (d a b : BitVec 5) (s : State) : Host.Outcome State Fault Refusal :=
  runWord false (writeX d (fun co => co.xr a ||| ~~~(co.xr b))) s

/-- `SLL`: left shift by x[b] bits 5:0 (R324). -/
def execSll (d a b : BitVec 5) (s : State) : Host.Outcome State Fault Refusal :=
  runWord false (writeX d (fun co => shiftLeft (co.xr a) (shiftAmount (co.xr b)))) s

/-- `SRL`: logical right shift by x[b] bits 5:0 (R324). -/
def execSrl (d a b : BitVec 5) (s : State) : Host.Outcome State Fault Refusal :=
  runWord false (writeX d (fun co => shiftRight (co.xr a) (shiftAmount (co.xr b)))) s

/-- `SRA`: arithmetic right shift by x[b] bits 5:0 (R324). -/
def execSra (d a b : BitVec 5) (s : State) : Host.Outcome State Fault Refusal :=
  runWord false (writeX d (fun co => shiftRightSigned (co.xr a) (shiftAmount (co.xr b)))) s

/-- `ROT`: rotation right by x[b] bits 5:0 (R324). -/
def execRot (d a b : BitVec 5) (s : State) : Host.Outcome State Fault Refusal :=
  runWord false (writeX d (fun co => rotateRight (co.xr a) (shiftAmount (co.xr b)))) s

/-- `SLT`: 1 if less, signed (R324). -/
def execSlt (d a b : BitVec 5) (s : State) : Host.Outcome State Fault Refusal :=
  runWord false (writeX d (fun co => wordOf (b2n ((co.xr a).slt (co.xr b))))) s

/-- `SLTU`: 1 if less, unsigned (R324). -/
def execSltu (d a b : BitVec 5) (s : State) : Host.Outcome State Fault Refusal :=
  runWord false (writeX d (fun co => wordOf (b2n ((co.xr a).ult (co.xr b))))) s

/-- `SEQ`: 1 if equal (R324). -/
def execSeq (d a b : BitVec 5) (s : State) : Host.Outcome State Fault Refusal :=
  runWord false (writeX d (fun co => wordOf (b2n (co.xr a == co.xr b)))) s

/-- `MIN`: the lesser, signed (R324). -/
def execMin (d a b : BitVec 5) (s : State) : Host.Outcome State Fault Refusal :=
  runWord false (writeX d (fun co => if (co.xr a).slt (co.xr b) then co.xr a else co.xr b)) s

/-- `MAX`: the greater, signed (R324). -/
def execMax (d a b : BitVec 5) (s : State) : Host.Outcome State Fault Refusal :=
  runWord false (writeX d (fun co => if (co.xr a).slt (co.xr b) then co.xr b else co.xr a)) s

/-- `MINU`: the lesser, unsigned (R324). -/
def execMinu (d a b : BitVec 5) (s : State) : Host.Outcome State Fault Refusal :=
  runWord false (writeX d (fun co => if (co.xr a).ult (co.xr b) then co.xr a else co.xr b)) s

/-- `MAXU`: the greater, unsigned (R324). -/
def execMaxu (d a b : BitVec 5) (s : State) : Host.Outcome State Fault Refusal :=
  runWord false (writeX d (fun co => if (co.xr a).ult (co.xr b) then co.xr b else co.xr a)) s

/-- `CSEL`: x[a] where x[c] is not zero, else x[b] (R325). -/
def execCsel (d a b c : BitVec 5) (s : State) : Host.Outcome State Fault Refusal :=
  runWord false (writeX d (fun co => if co.xr c ≠ 0 then co.xr a else co.xr b)) s

/-- `MUL`: bits 63:0 of the product (R326). -/
def execMul (d a b : BitVec 5) (s : State) : Host.Outcome State Fault Refusal :=
  runWord false (writeX d (fun co => co.xr a * co.xr b)) s

/-- `MULH`: bits 127:64 of the signed product (R326). -/
def execMulh (d a b : BitVec 5) (s : State) : Host.Outcome State Fault Refusal :=
  runWord false (writeX d (fun co => mulHigh (co.xr a) (co.xr b))) s

/-- `MULHU`: bits 127:64 of the unsigned product (R326). -/
def execMulhu (d a b : BitVec 5) (s : State) : Host.Outcome State Fault Refusal :=
  runWord false (writeX d (fun co => mulHighUnsigned (co.xr a) (co.xr b))) s

/-- `DIV`: signed quotient; all ones for a zero divisor (R326). -/
def execDiv (d a b : BitVec 5) (s : State) : Host.Outcome State Fault Refusal :=
  runWord false (writeX d (fun co => divSigned (co.xr a) (co.xr b))) s

/-- `DIVU`: unsigned quotient; all ones for a zero divisor (R326). -/
def execDivu (d a b : BitVec 5) (s : State) : Host.Outcome State Fault Refusal :=
  runWord false (writeX d (fun co => divUnsigned (co.xr a) (co.xr b))) s

/-- `REM`: signed remainder; x[a] for a zero divisor (R326). -/
def execRem (d a b : BitVec 5) (s : State) : Host.Outcome State Fault Refusal :=
  runWord false (writeX d (fun co => remSigned (co.xr a) (co.xr b))) s

/-- `REMU`: unsigned remainder; x[a] for a zero divisor (R326). -/
def execRemu (d a b : BitVec 5) (s : State) : Host.Outcome State Fault Refusal :=
  runWord false (writeX d (fun co => remUnsigned (co.xr a) (co.xr b))) s

/-- `CLZ`: leading zero bits, 64 for 0 (R327). -/
def execClz (d a : BitVec 5) (s : State) : Host.Outcome State Fault Refusal :=
  runWord false (writeX d (fun co => wordOf (leadingZeros (co.xr a)))) s

/-- `CTZ`: trailing zero bits, 64 for 0 (R327). -/
def execCtz (d a : BitVec 5) (s : State) : Host.Outcome State Fault Refusal :=
  runWord false (writeX d (fun co => wordOf (trailingZeros (co.xr a)))) s

/-- `POPC`: one bits (R327). -/
def execPopc (d a : BitVec 5) (s : State) : Host.Outcome State Fault Refusal :=
  runWord false (writeX d (fun co => wordOf (onesCount (co.xr a)))) s

/-- `BSWAP`: bytes in reverse order (R327). -/
def execBswap (d a : BitVec 5) (s : State) : Host.Outcome State Fault Refusal :=
  runWord false (writeX d (fun co => byteSwap (co.xr a))) s

/-- `SEXT`: bits n:0 sign-extended (R327). -/
def execSext (d a : BitVec 5) (n : BitVec 6) (s : State) : Host.Outcome State Fault Refusal :=
  runWord false (writeX d (fun co => signExtendFrom (co.xr a) n.toNat)) s

/-- `ZEXT`: bits n:0 zero-extended (R327). -/
def execZext (d a : BitVec 5) (n : BitVec 6) (s : State) : Host.Outcome State Fault Refusal :=
  runWord false (writeX d (fun co => zeroExtendFrom (co.xr a) n.toNat)) s

/-- `BFX`: the `l` + 1 bits from bit `p` up, zero-extended (R327). -/
def execBfx (d a : BitVec 5) (p l : BitVec 6) (s : State) : Host.Outcome State Fault Refusal :=
  runWord false (writeX d (fun co => extractField (co.xr a) p.toNat (l.toNat + 1))) s

/-- `BFI`: x[d] with the `l` + 1 bits from bit `p` up replaced by the low bits of x[a] (R327). -/
def execBfi (d a : BitVec 5) (p l : BitVec 6) (s : State) : Host.Outcome State Fault Refusal :=
  runWord false (writeX d (fun co => insertField (co.xr d) (co.xr a) p.toNat (l.toNat + 1))) s

/-- `ADDI`: the sum with the sign-extended immediate (R328). -/
def execAddi (d a : BitVec 5) (i : BitVec 15) (s : State) : Host.Outcome State Fault Refusal :=
  runWord false (writeX d (fun co => co.xr a + simm i)) s

/-- `ANDI`: AND with the sign-extended immediate (R328). -/
def execAndi (d a : BitVec 5) (i : BitVec 15) (s : State) : Host.Outcome State Fault Refusal :=
  runWord false (writeX d (fun co => co.xr a &&& simm i)) s

/-- `ORI`: OR with the sign-extended immediate (R328). -/
def execOri (d a : BitVec 5) (i : BitVec 15) (s : State) : Host.Outcome State Fault Refusal :=
  runWord false (writeX d (fun co => co.xr a ||| simm i)) s

/-- `XORI`: XOR with the sign-extended immediate (R328). -/
def execXori (d a : BitVec 5) (i : BitVec 15) (s : State) : Host.Outcome State Fault Refusal :=
  runWord false (writeX d (fun co => co.xr a ^^^ simm i)) s

/-- `SLLI`: left shift by a constant (R329). -/
def execSlli (d a : BitVec 5) (n : BitVec 6) (s : State) : Host.Outcome State Fault Refusal :=
  runWord false (writeX d (fun co => shiftLeft (co.xr a) n.toNat)) s

/-- `SRLI`: logical right shift by a constant (R329). -/
def execSrli (d a : BitVec 5) (n : BitVec 6) (s : State) : Host.Outcome State Fault Refusal :=
  runWord false (writeX d (fun co => shiftRight (co.xr a) n.toNat)) s

/-- `SRAI`: arithmetic right shift by a constant (R329). -/
def execSrai (d a : BitVec 5) (n : BitVec 6) (s : State) : Host.Outcome State Fault Refusal :=
  runWord false (writeX d (fun co => shiftRightSigned (co.xr a) n.toNat)) s

/-- `ROTI`: rotation right by a constant (R329). -/
def execRoti (d a : BitVec 5) (n : BitVec 6) (s : State) : Host.Outcome State Fault Refusal :=
  runWord false (writeX d (fun co => rotateRight (co.xr a) n.toNat)) s

/-- `SLTI`: 1 if less than the immediate, signed (R328). -/
def execSlti (d a : BitVec 5) (i : BitVec 15) (s : State) : Host.Outcome State Fault Refusal :=
  runWord false (writeX d (fun co => wordOf (b2n ((co.xr a).slt (simm i))))) s

/-- `SLTUI`: 1 if less than the sign-extended immediate, unsigned (R328). -/
def execSltui (d a : BitVec 5) (i : BitVec 15) (s : State) : Host.Outcome State Fault Refusal :=
  runWord false (writeX d (fun co => wordOf (b2n ((co.xr a).ult (simm i))))) s

/-- `SEQI`: 1 if equal to the immediate (R328). -/
def execSeqi (d a : BitVec 5) (i : BitVec 15) (s : State) : Host.Outcome State Fault Refusal :=
  runWord false (writeX d (fun co => wordOf (b2n (co.xr a == simm i)))) s

/-- `LHI`: the sign-extended immediate times 2^15 (R330). -/
def execLhi (d : BitVec 5) (i : BitVec 20) (s : State) : Host.Outcome State Fault Refusal :=
  runWord false (writeX d (fun _ => simm i <<< 15)) s

/-- `PCADD`: the address of the instruction plus the sign-extended immediate times 2^15 (R330). -/
def execPcadd (d : BitVec 5) (i : BitVec 20) (s : State) : Host.Outcome State Fault Refusal :=
  runWord false (writeX d (fun co => co.pc + (simm i <<< 15))) s

end Sys2Proof.Machine
end

