-- ==== Sys2Proof/Machine/ScalarFp.lean ====
section
/-! DEFINITION. Scalar floating point, major 0x04 (R331-R334). -/

namespace Sys2Proof.Machine

/-- `FADD`: the sum, rounded once (R332). -/
def execFadd (d a b : BitVec 5) (r : BitVec 3) (p : BitVec 1) (s : State) : Host.Outcome State Fault Refusal :=
  runWord false (writeRounded (.fadd d a b r p) d r p (fun co rm => fAdd (co.fr p a) (co.fr p b) rm)) s

/-- `FSUB`: the difference, rounded once (R332). -/
def execFsub (d a b : BitVec 5) (r : BitVec 3) (p : BitVec 1) (s : State) : Host.Outcome State Fault Refusal :=
  runWord false (writeRounded (.fsub d a b r p) d r p (fun co rm => fAdd (co.fr p a) (co.fr p b).negate rm)) s

/-- `FMUL`: the product, rounded once (R332). -/
def execFmul (d a b : BitVec 5) (r : BitVec 3) (p : BitVec 1) (s : State) : Host.Outcome State Fault Refusal :=
  runWord false (writeRounded (.fmul d a b r p) d r p (fun co _ => fMul (co.fr p a) (co.fr p b))) s

/-- `FDIV`: the quotient, rounded once (R332). -/
def execFdiv (d a b : BitVec 5) (r : BitVec 3) (p : BitVec 1) (s : State) : Host.Outcome State Fault Refusal :=
  runWord false (writeRounded (.fdiv d a b r p) d r p (fun co _ => fDiv (co.fr p a) (co.fr p b))) s

/-- `FSQRT`: the square root, rounded once (R332). -/
def execFsqrt (d a : BitVec 5) (r : BitVec 3) (p : BitVec 1) (s : State) : Host.Outcome State Fault Refusal :=
  runWord false (writeRounded (.fsqrt d a r p) d r p (fun co _ => fSqrt (co.fr p a))) s

/-- `FMA`: x[a] times x[b] plus x[d], rounded once (R332). -/
def execFma (d a b : BitVec 5) (r : BitVec 3) (p : BitVec 1) (s : State) : Host.Outcome State Fault Refusal :=
  runWord false (writeRounded (.fma d a b r p) d r p (fun co rm => fMulAdd (co.fr p a) (co.fr p b) (co.fr p d) rm)) s

/-- `FMIN`: the lesser by R313 (R332). -/
def execFmin (d a b : BitVec 5) (p : BitVec 1) (s : State) : Host.Outcome State Fault Refusal :=
  runWord false (writeFlagged d (fun co => roundResult (fMin (co.fr p a) (co.fr p b)) (scalarFmt p) 0)) s

/-- `FMAX`: the greater by R313 (R332). -/
def execFmax (d a b : BitVec 5) (p : BitVec 1) (s : State) : Host.Outcome State Fault Refusal :=
  runWord false (writeFlagged d (fun co => roundResult (fMax (co.fr p a) (co.fr p b)) (scalarFmt p) 0)) s

/-- `FCMP`: 1 where the condition holds, else 0 (R333). -/
def execFcmp (d a b : BitVec 5) (cond : BitVec 2) (p : BitVec 1) (s : State) : Host.Outcome State Fault Refusal :=
  runWord false (writeFlagged d (fun co =>
    (b2n (fCompare cond.toNat (co.fr p a) (co.fr p b)).1, (fCompare cond.toNat (co.fr p a) (co.fr p b)).2))) s

/-- `FCVT`: a conversion; a widening one never reads `FRM` (R334). -/
def execFcvt (d a : BitVec 5) (st : BitVec 3) (r : BitVec 3) (dt : BitVec 3) (s : State) : Host.Outcome State Fault Refusal :=
  runWord false (fun c key co =>
    match (if cvtWidens dt.toNat st.toNat then some 0 else co.rounding r.toNat) with
    | none => trapWord c key co causeRsv (.fcvt d a st r dt)
    | some rm =>
      let v := cvtResult dt.toNat (cvtSource st.toNat (co.xr a)) rm
      .retire (c.setCo key ((co.setX d v.1).raise v.2).advance)) s

end Sys2Proof.Machine
end

