-- ==== Sys2Proof/Machine/Dispatch.lean ====
section
/-! DEFINITION. The meaning of every instruction and event: one arm per constructor. -/

namespace Sys2Proof.Machine

/-- Execute one instruction or event. -/
def exec (i : Instr) (s : State) : Host.Outcome State Fault Refusal :=
  match i with
  | .add d a b => Sys2Proof.Machine.execAdd d a b s
  | .sub d a b => Sys2Proof.Machine.execSub d a b s
  | .and d a b => Sys2Proof.Machine.execAnd d a b s
  | .or d a b => Sys2Proof.Machine.execOr d a b s
  | .xor d a b => Sys2Proof.Machine.execXor d a b s
  | .andn d a b => Sys2Proof.Machine.execAndn d a b s
  | .orn d a b => Sys2Proof.Machine.execOrn d a b s
  | .sll d a b => Sys2Proof.Machine.execSll d a b s
  | .srl d a b => Sys2Proof.Machine.execSrl d a b s
  | .sra d a b => Sys2Proof.Machine.execSra d a b s
  | .rot d a b => Sys2Proof.Machine.execRot d a b s
  | .slt d a b => Sys2Proof.Machine.execSlt d a b s
  | .sltu d a b => Sys2Proof.Machine.execSltu d a b s
  | .seq d a b => Sys2Proof.Machine.execSeq d a b s
  | .min d a b => Sys2Proof.Machine.execMin d a b s
  | .max d a b => Sys2Proof.Machine.execMax d a b s
  | .minu d a b => Sys2Proof.Machine.execMinu d a b s
  | .maxu d a b => Sys2Proof.Machine.execMaxu d a b s
  | .csel d a b c => Sys2Proof.Machine.execCsel d a b c s
  | .mul d a b => Sys2Proof.Machine.execMul d a b s
  | .mulh d a b => Sys2Proof.Machine.execMulh d a b s
  | .mulhu d a b => Sys2Proof.Machine.execMulhu d a b s
  | .div d a b => Sys2Proof.Machine.execDiv d a b s
  | .divu d a b => Sys2Proof.Machine.execDivu d a b s
  | .rem d a b => Sys2Proof.Machine.execRem d a b s
  | .remu d a b => Sys2Proof.Machine.execRemu d a b s
  | .clz d a => Sys2Proof.Machine.execClz d a s
  | .ctz d a => Sys2Proof.Machine.execCtz d a s
  | .popc d a => Sys2Proof.Machine.execPopc d a s
  | .bswap d a => Sys2Proof.Machine.execBswap d a s
  | .sext d a n => Sys2Proof.Machine.execSext d a n s
  | .zext d a n => Sys2Proof.Machine.execZext d a n s
  | .bfx d a p l => Sys2Proof.Machine.execBfx d a p l s
  | .bfi d a p l => Sys2Proof.Machine.execBfi d a p l s
  | .fadd d a b r p => Sys2Proof.Machine.execFadd d a b r p s
  | .fsub d a b r p => Sys2Proof.Machine.execFsub d a b r p s
  | .fmul d a b r p => Sys2Proof.Machine.execFmul d a b r p s
  | .fdiv d a b r p => Sys2Proof.Machine.execFdiv d a b r p s
  | .fsqrt d a r p => Sys2Proof.Machine.execFsqrt d a r p s
  | .fma d a b r p => Sys2Proof.Machine.execFma d a b r p s
  | .fmin d a b p => Sys2Proof.Machine.execFmin d a b p s
  | .fmax d a b p => Sys2Proof.Machine.execFmax d a b p s
  | .fcmp d a b c p => Sys2Proof.Machine.execFcmp d a b c p s
  | .fcvt d a sc r t => Sys2Proof.Machine.execFcvt d a sc r t s
  | .addi d a im => Sys2Proof.Machine.execAddi d a im s
  | .andi d a im => Sys2Proof.Machine.execAndi d a im s
  | .ori d a im => Sys2Proof.Machine.execOri d a im s
  | .xori d a im => Sys2Proof.Machine.execXori d a im s
  | .slli d a n => Sys2Proof.Machine.execSlli d a n s
  | .srli d a n => Sys2Proof.Machine.execSrli d a n s
  | .srai d a n => Sys2Proof.Machine.execSrai d a n s
  | .roti d a n => Sys2Proof.Machine.execRoti d a n s
  | .slti d a im => Sys2Proof.Machine.execSlti d a im s
  | .sltui d a im => Sys2Proof.Machine.execSltui d a im s
  | .seqi d a im => Sys2Proof.Machine.execSeqi d a im s
  | .lhi d im => Sys2Proof.Machine.execLhi d im s
  | .pcadd d im => Sys2Proof.Machine.execPcadd d im s
  | .lb d a im => Sys2Proof.Machine.execLb d a im s
  | .lbu d a im => Sys2Proof.Machine.execLbu d a im s
  | .lh d a im => Sys2Proof.Machine.execLh d a im s
  | .lhu d a im => Sys2Proof.Machine.execLhu d a im s
  | .lw d a im => Sys2Proof.Machine.execLw d a im s
  | .lwu d a im => Sys2Proof.Machine.execLwu d a im s
  | .ld d a im => Sys2Proof.Machine.execLd d a im s
  | .pref k a im => Sys2Proof.Machine.execPref k a im s
  | .sb d a im => Sys2Proof.Machine.execSb d a im s
  | .sh d a im => Sys2Proof.Machine.execSh d a im s
  | .sw d a im => Sys2Proof.Machine.execSw d a im s
  | .sd d a im => Sys2Proof.Machine.execSd d a im s
  | .ldaq d a sc im => Sys2Proof.Machine.execLdaq d a sc im s
  | .sdrl d a sc im => Sys2Proof.Machine.execSdrl d a sc im s
  | .jmp o => Sys2Proof.Machine.execJmp o s
  | .jal o => Sys2Proof.Machine.execJal o s
  | .jalr d a im => Sys2Proof.Machine.execJalr d a im s
  | .bc a b c o => Sys2Proof.Machine.execBc a b c o s
  | .dbnz d im => Sys2Proof.Machine.execDbnz d im s
  | .csrr d c => Sys2Proof.Machine.execCsrr d c s
  | .csrw d a c => Sys2Proof.Machine.execCsrw d a c s
  | .csrs d a c => Sys2Proof.Machine.execCsrs d a c s
  | .csrc d a c => Sys2Proof.Machine.execCsrc d a c s
  | .ecall => Sys2Proof.Machine.execEcall s
  | .ebreak => Sys2Proof.Machine.execEbreak s
  | .tret => Sys2Proof.Machine.execTret s
  | .isync => Sys2Proof.Machine.execIsync s
  | .fenceSv => Sys2Proof.Machine.execFenceSv s
  | .fenceVs => Sys2Proof.Machine.execFenceVs s
  | .fenceVv => Sys2Proof.Machine.execFenceVv s
  | .fence sc e f g h => Sys2Proof.Machine.execFence sc e f g h s
  | .fmt a b d k l => Sys2Proof.Machine.execFmt a b d k l s
  | .await d a b => Sys2Proof.Machine.execAwait d a b s
  | .awaitq d a b => Sys2Proof.Machine.execAwaitq d a b s
  | .yield a => Sys2Proof.Machine.execYield a s
  | .exit => Sys2Proof.Machine.execExit s
  | .spawn d a b => Sys2Proof.Machine.execSpawn d a b s
  | .gbar a => Sys2Proof.Machine.execGbar a s
  | .migrate a b => Sys2Proof.Machine.execMigrate a b s
  | .cresume a => Sys2Proof.Machine.execCresume a s
  | .ckill a => Sys2Proof.Machine.execCkill a s
  | .beacon d a => Sys2Proof.Machine.execBeacon d a s
  | .bfree a => Sys2Proof.Machine.execBfree a s
  | .bset a b => Sys2Proof.Machine.execBset a b s
  | .bsig a b => Sys2Proof.Machine.execBsig a b s
  | .bread d a => Sys2Proof.Machine.execBread d a s
  | .amoadd d a b sc l q w => Sys2Proof.Machine.execAmoadd d a b sc l q w s
  | .amoand d a b sc l q w => Sys2Proof.Machine.execAmoand d a b sc l q w s
  | .amoor d a b sc l q w => Sys2Proof.Machine.execAmoor d a b sc l q w s
  | .amoxor d a b sc l q w => Sys2Proof.Machine.execAmoxor d a b sc l q w s
  | .amomin d a b sc l q w => Sys2Proof.Machine.execAmomin d a b sc l q w s
  | .amomax d a b sc l q w => Sys2Proof.Machine.execAmomax d a b sc l q w s
  | .amominu d a b sc l q w => Sys2Proof.Machine.execAmominu d a b sc l q w s
  | .amomaxu d a b sc l q w => Sys2Proof.Machine.execAmomaxu d a b sc l q w s
  | .amoswp d a b sc l q w => Sys2Proof.Machine.execAmoswp d a b sc l q w s
  | .amocas d a b sc l q w => Sys2Proof.Machine.execAmocas d a b sc l q w s
  | .amoincw d a b sc l q w => Sys2Proof.Machine.execAmoincw d a b sc l q w s
  | .amoaddb d a b sc l q w => Sys2Proof.Machine.execAmoaddb d a b sc l q w s
  | .lr d a sc q w => Sys2Proof.Machine.execLr d a sc q w s
  | .sc d a b sc l q w => Sys2Proof.Machine.execSc d a b sc l q w s
  | .waitrs a => Sys2Proof.Machine.execWaitrs a s
  | .vadd d a b c e m => Sys2Proof.Machine.execVadd d a b c e m s
  | .vsub d a b c e m => Sys2Proof.Machine.execVsub d a b c e m s
  | .vmul d a b c e m => Sys2Proof.Machine.execVmul d a b c e m s
  | .vmulh d a b c e m => Sys2Proof.Machine.execVmulh d a b c e m s
  | .vmac d a b c e m => Sys2Proof.Machine.execVmac d a b c e m s
  | .vmin d a b c e m => Sys2Proof.Machine.execVmin d a b c e m s
  | .vmax d a b c e m => Sys2Proof.Machine.execVmax d a b c e m s
  | .vminu d a b c e m => Sys2Proof.Machine.execVminu d a b c e m s
  | .vmaxu d a b c e m => Sys2Proof.Machine.execVmaxu d a b c e m s
  | .vsadd d a b c e m => Sys2Proof.Machine.execVsadd d a b c e m s
  | .vssub d a b c e m => Sys2Proof.Machine.execVssub d a b c e m s
  | .vabs d a c m => Sys2Proof.Machine.execVabs d a c m s
  | .vand d a b c e m => Sys2Proof.Machine.execVand d a b c e m s
  | .vor d a b c e m => Sys2Proof.Machine.execVor d a b c e m s
  | .vxor d a b c e m => Sys2Proof.Machine.execVxor d a b c e m s
  | .vsll d a b c e m => Sys2Proof.Machine.execVsll d a b c e m s
  | .vsrl d a b c e m => Sys2Proof.Machine.execVsrl d a b c e m s
  | .vsra d a b c e m => Sys2Proof.Machine.execVsra d a b c e m s
  | .vcmp d a b c e o => Sys2Proof.Machine.execVcmp d a b c e o s
  | .vmerge d a b c e m => Sys2Proof.Machine.execVmerge d a b c e m s
  | .vfadd d a b c e m => Sys2Proof.Machine.execVfadd d a b c e m s
  | .vfsub d a b c e m => Sys2Proof.Machine.execVfsub d a b c e m s
  | .vfmul d a b c e m => Sys2Proof.Machine.execVfmul d a b c e m s
  | .vfma d a b c e m => Sys2Proof.Machine.execVfma d a b c e m s
  | .vfnma d a b c e m => Sys2Proof.Machine.execVfnma d a b c e m s
  | .vfmin d a b c e m => Sys2Proof.Machine.execVfmin d a b c e m s
  | .vfmax d a b c e m => Sys2Proof.Machine.execVfmax d a b c e m s
  | .vfdiv d a b c e m => Sys2Proof.Machine.execVfdiv d a b c e m s
  | .vfsqrt d a c m => Sys2Proof.Machine.execVfsqrt d a c m s
  | .vfrsq d a c m => Sys2Proof.Machine.execVfrsq d a c m s
  | .vfexp2 d a c m => Sys2Proof.Machine.execVfexp2 d a c m s
  | .vfsgn d a b c e m => Sys2Proof.Machine.execVfsgn d a b c e m s
  | .vfcmp d a b c e o => Sys2Proof.Machine.execVfcmp d a b c e o s
  | .vfcvt d a c m k => Sys2Proof.Machine.execVfcvt d a c m k s
  | .vredsum d a b c e m => Sys2Proof.Machine.execVredsum d a b c e m s
  | .vredmax d a b c e m => Sys2Proof.Machine.execVredmax d a b c e m s
  | .vredmin d a b c e m => Sys2Proof.Machine.execVredmin d a b c e m s
  | .vfredsum d a b c e m => Sys2Proof.Machine.execVfredsum d a b c e m s
  | .vfredmax d a b c e m => Sys2Proof.Machine.execVfredmax d a b c e m s
  | .vfredmin d a b c e m => Sys2Proof.Machine.execVfredmin d a b c e m s
  | .vslideup d a b c m => Sys2Proof.Machine.execVslideup d a b c m s
  | .vslidedn d a b c m => Sys2Proof.Machine.execVslidedn d a b c m s
  | .vgather d a b c e m => Sys2Proof.Machine.execVgather d a b c e m s
  | .vcompress d a c m => Sys2Proof.Machine.execVcompress d a c m s
  | .vscan d a c m => Sys2Proof.Machine.execVscan d a c m s
  | .vtopki a => Sys2Proof.Machine.execVtopki a s
  | .vtopk a b c e m => Sys2Proof.Machine.execVtopk a b c e m s
  | .vtopkr d a => Sys2Proof.Machine.execVtopkr d a s
  | .vmand d a b => Sys2Proof.Machine.execVmand d a b s
  | .vmor d a b => Sys2Proof.Machine.execVmor d a b s
  | .vmxor d a b => Sys2Proof.Machine.execVmxor d a b s
  | .vmnot d a => Sys2Proof.Machine.execVmnot d a s
  | .vmpopc d a => Sys2Proof.Machine.execVmpopc d a s
  | .vmfirst d a => Sys2Proof.Machine.execVmfirst d a s
  | .vmvx d a m => Sys2Proof.Machine.execVmvx d a m s
  | .vmvs d a b c => Sys2Proof.Machine.execVmvs d a b c s
  | .vid d m => Sys2Proof.Machine.execVid d m s
  | .vshape d a c m => Sys2Proof.Machine.execVshape d a c m s
  | .vrope d a b c e m => Sys2Proof.Machine.execVrope d a b c e m s
  | .vscld k a b => Sys2Proof.Machine.execVscld k a b s
  | .vscst k a b => Sys2Proof.Machine.execVscst k a b s
  | .vsetl d a t => Sys2Proof.Machine.execVsetl d a t s
  | .vsetlg d a t => Sys2Proof.Machine.execVsetlg d a t s
  | .kvsetrun d a b => Sys2Proof.Machine.execKvsetrun d a b s
  | .mopa sc a b c e m => Sys2Proof.Machine.execMopa sc a b c e m s
  | .vld d a h o n m e => Sys2Proof.Machine.execVld d a h o n m e s
  | .vlds d a sc o n m e => Sys2Proof.Machine.execVlds d a sc o n m e s
  | .vldx d a sc o n m e => Sys2Proof.Machine.execVldx d a sc o n m e s
  | .vldff d a h o n m e => Sys2Proof.Machine.execVldff d a h o n m e s
  | .vst d a h o n m e => Sys2Proof.Machine.execVst d a h o n m e s
  | .vsts d a sc o n m e => Sys2Proof.Machine.execVsts d a sc o n m e s
  | .vstx d a sc o n m e => Sys2Proof.Machine.execVstx d a sc o n m e s
  | .vldt d t r m => Sys2Proof.Machine.execVldt d t r m s
  | .vstt d t r m => Sys2Proof.Machine.execVstt d t r m s
  | .vldtt d t r m => Sys2Proof.Machine.execVldtt d t r m s
  | .vldkv d a sc o n m h => Sys2Proof.Machine.execVldkv d a sc o n m h s
  | .vstkv d a sc o n m h => Sys2Proof.Machine.execVstkv d a sc o n m h s
  | .cpy a b => Sys2Proof.Machine.execCpy a b s
  | .cpy2d a b => Sys2Proof.Machine.execCpy2d a b s
  | .cpyf a b => Sys2Proof.Machine.execCpyf a b s
  | .cpysh a b => Sys2Proof.Machine.execCpysh a b s
  | .publish a => Sys2Proof.Machine.execPublish a s
  | .cpymm a b => Sys2Proof.Machine.execCpymm a b s
  | .rowcopy a b => Sys2Proof.Machine.execRowcopy a b s
  | .rowfill a b => Sys2Proof.Machine.execRowfill a b s
  | .tcfg a b => Sys2Proof.Machine.execTcfg a b s
  | .tstate a t => Sys2Proof.Machine.execTstate a t s
  | .mshape a b => Sys2Proof.Machine.execMshape a b s
  | .mma a b sc => Sys2Proof.Machine.execMma a b sc s
  | .mmag a b sc => Sys2Proof.Machine.execMmag a b sc s
  | .mmrot a b sc => Sys2Proof.Machine.execMmrot a b sc s
  | .mswap a => Sys2Proof.Machine.execMswap a s
  | .macq a sc => Sys2Proof.Machine.execMacq a sc s
  | .mrel sc => Sys2Proof.Machine.execMrel sc s
  | .mdrain a sc => Sys2Proof.Machine.execMdrain a sc s
  | .mfill a sc => Sys2Proof.Machine.execMfill a sc s
  | .mzero sc => Sys2Proof.Machine.execMzero sc s
  | .mreclaim sc => Sys2Proof.Machine.execMreclaim sc s
  | .mstat a sc => Sys2Proof.Machine.execMstat a sc s
  | .kvmap a b => Sys2Proof.Machine.execKvmap a b s
  | .kvunmap a b => Sys2Proof.Machine.execKvunmap a b s
  | .kvlook a b => Sys2Proof.Machine.execKvlook a b s
  | .kvver a b => Sys2Proof.Machine.execKvver a b s
  | .kvret a b => Sys2Proof.Machine.execKvret a b s
  | .kvhash a b => Sys2Proof.Machine.execKvhash a b s
  | .kvalloc a b => Sys2Proof.Machine.execKvalloc a b s
  | .kvfree a b => Sys2Proof.Machine.execKvfree a b s
  | .kvpin a b => Sys2Proof.Machine.execKvpin a b s
  | .kvunpin a b => Sys2Proof.Machine.execKvunpin a b s
  | .kvappend a b => Sys2Proof.Machine.execKvappend a b s
  | .nput a b => Sys2Proof.Machine.execNput a b s
  | .nget a b => Sys2Proof.Machine.execNget a b s
  | .namo a b => Sys2Proof.Machine.execNamo a b s
  | .nsig a b => Sys2Proof.Machine.execNsig a b s
  | .nsend a => Sys2Proof.Machine.execNsend a s
  | .eset a c => Sys2Proof.Machine.execEset a c s
  | .eget a c => Sys2Proof.Machine.execEget a c s
  | .dispatch core => Sys2Proof.Machine.execDispatch core s
  | .vectorEntryComplete core => Sys2Proof.Machine.execVectorEntryComplete core s
  | .storeAccept core idx => Sys2Proof.Machine.execStoreAccept core idx s
  | .launchRecord q => Sys2Proof.Machine.execLaunchRecord q s
  | .launchStart lid => Sys2Proof.Machine.execLaunchStart lid s
  | .launchAdmit p => Sys2Proof.Machine.execLaunchAdmit p s
  | .gangPlace lid => Sys2Proof.Machine.execGangPlace lid s
  | .kvCommandRun cluster => Sys2Proof.Machine.execKvCommandRun cluster s
  | .copyPiece cluster idx off => Sys2Proof.Machine.execCopyPiece cluster idx off s
  | .domeCommandStart cluster => Sys2Proof.Machine.execDomeCommandStart cluster s
  | .powerGood => Sys2Proof.Machine.execPowerGood s
  | .functionLevelReset => Sys2Proof.Machine.execFunctionLevelReset s
  | .powerWindow mw => Sys2Proof.Machine.execPowerWindow mw s
  | .thermalWarn n temp => Sys2Proof.Machine.execThermalWarn n temp s
  | .thermalTrip n temp => Sys2Proof.Machine.execThermalTrip n temp s
  | .thermalShutdown n => Sys2Proof.Machine.execThermalShutdown n s
  | .powerStateEnter unit => Sys2Proof.Machine.execPowerStateEnter unit s
  | .unitWake unit => Sys2Proof.Machine.execUnitWake unit s
  | .partPwrtolWrite p v => Sys2Proof.Machine.execPartPwrtolWrite p v s
  | .controlRegisterWrite off wide v => Sys2Proof.Machine.execControlRegisterWrite off wide v s
  | .hqCfgWrite q v => Sys2Proof.Machine.execHqCfgWrite q v s
  | .hqTailWrite q v => Sys2Proof.Machine.execHqTailWrite q v s
  | .signalRecord q => Sys2Proof.Machine.execSignalRecord q s
  | .terminationSweep p => Sys2Proof.Machine.execTerminationSweep p s
  | .evqCtlWrite v => Sys2Proof.Machine.execEvqCtlWrite v s
  | .evqHeadWrite v => Sys2Proof.Machine.execEvqHeadWrite v s
  | .evqIrqTimer => Sys2Proof.Machine.execEvqIrqTimer s
  | .fwStageImage => Sys2Proof.Machine.execFwStageImage s
  | .fwAttest => Sys2Proof.Machine.execFwAttest s
  | .fwReadCert => Sys2Proof.Machine.execFwReadCert s
  | .fwCommandDone => Sys2Proof.Machine.execFwCommandDone s
  | .faqPop d v => Sys2Proof.Machine.execFaqPop d v s
  | .memRetire v => Sys2Proof.Machine.execMemRetire v s
  | .memRetireDone => Sys2Proof.Machine.execMemRetireDone s
  | .patrolScrub line found sect => Sys2Proof.Machine.execPatrolScrub line found sect s
  | .cxlTimeout pa => Sys2Proof.Machine.execCxlTimeout pa s
  | .cxlPortDown port => Sys2Proof.Machine.execCxlPortDown port s
  | .partEnable p => Sys2Proof.Machine.execPartEnable p s
  | .partDisable p => Sys2Proof.Machine.execPartDisable p s
  | .partResume p => Sys2Proof.Machine.execPartResume p s
  | .partSave p => Sys2Proof.Machine.execPartSave p s
  | .partRestore p => Sys2Proof.Machine.execPartRestore p s
  | .partSeal p => Sys2Proof.Machine.execPartSeal p s
  | .partAdopt p => Sys2Proof.Machine.execPartAdopt p s
  | .partOpComplete p => Sys2Proof.Machine.execPartOpComplete p s
  | .partBellWrite p v => Sys2Proof.Machine.execPartBellWrite p v s
  | .bellTime p => Sys2Proof.Machine.execBellTime p s
  | .partStopComplete p => Sys2Proof.Machine.execPartStopComplete p s
  | .ualNodeWrite v => Sys2Proof.Machine.execUalNodeWrite v s
  | .ualMapWrite n v => Sys2Proof.Machine.execUalMapWrite n v s
  | .windowAccess write off size v => Sys2Proof.Machine.execWindowAccess write off size v s
  | .linkFault port recovered => Sys2Proof.Machine.execLinkFault port recovered s
  | .networkPieceSend cluster idx => Sys2Proof.Machine.execNetworkPieceSend cluster idx s
  | .remotePieceReceive kind addr op u data => Sys2Proof.Machine.execRemotePieceReceive kind addr op u data s
  | .remoteAck cluster idx piece status data => Sys2Proof.Machine.execRemoteAck cluster idx piece status data s
  | .remoteTimeout cluster idx piece => Sys2Proof.Machine.execRemoteTimeout cluster idx piece s
  | .nsendRequestRead cluster idx => Sys2Proof.Machine.execNsendRequestRead cluster idx s
  | .uePacketReceive src op flags len off roff rkey token data => Sys2Proof.Machine.execUePacketReceive src op flags len off roff rkey token data s
  | .ueSelectiveAck cluster idx acked data => Sys2Proof.Machine.execUeSelectiveAck cluster idx acked data s
  | .ueRetransmitTimer cluster idx pkt => Sys2Proof.Machine.execUeRetransmitTimer cluster idx pkt s
  | .ueRequestAbandon src => Sys2Proof.Machine.execUeRequestAbandon src s
  | .tsyncMessage err => Sys2Proof.Machine.execTsyncMessage err s
  | .tsyncLockLost => Sys2Proof.Machine.execTsyncLockLost s
  | .quantumExpiry core => Sys2Proof.Machine.execQuantumExpiry core s
  | .travelHopPlace msg => Sys2Proof.Machine.execTravelHopPlace msg s
  | .spawnPlace msg => Sys2Proof.Machine.execSpawnPlace msg s
  | .migratePlace msg => Sys2Proof.Machine.execMigratePlace msg s
  | .beaconSignalApply msg => Sys2Proof.Machine.execBeaconSignalApply msg s
  | .storeFault core idx => Sys2Proof.Machine.execStoreFault core idx s
  | .coroutineFree core slot => Sys2Proof.Machine.execCoroutineFree core slot s
  | .reservationGrant line => Sys2Proof.Machine.execReservationGrant line s
  | .homeSliceTransaction kind spire line => Sys2Proof.Machine.execHomeSliceTransaction kind spire line s
  | .remoteDrop spire line => Sys2Proof.Machine.execRemoteDrop spire line s
  | .rowPairCopy cluster idx stripe chan => Sys2Proof.Machine.execRowPairCopy cluster idx stripe chan s
  | .domeCommandComplete cluster => Sys2Proof.Machine.execDomeCommandComplete cluster s
  | .tileConfigure core => Sys2Proof.Machine.execTileConfigure core s
  | .rotationLanding cluster north => Sys2Proof.Machine.execRotationLanding cluster north s
  | .swapExchange cluster => Sys2Proof.Machine.execSwapExchange cluster s
  | .followOnStart core => Sys2Proof.Machine.execFollowOnStart core s
  | .faultQueuePost p d => Sys2Proof.Machine.execFaultQueuePost p d s
  | .ptbaseWrite v => Sys2Proof.Machine.execPtbaseWrite v s
  | .xlinvPage v => Sys2Proof.Machine.execXlinvPage v s
  | .xlinvRegion v => Sys2Proof.Machine.execXlinvRegion v s
  | .xlinvAsid v => Sys2Proof.Machine.execXlinvAsid v s
  | .xlinvAll v => Sys2Proof.Machine.execXlinvAll v s
  | .kvbaseReloadOne v => Sys2Proof.Machine.execKvbaseReloadOne v s
  | .kvbaseReloadAll v => Sys2Proof.Machine.execKvbaseReloadAll v s
  | .svcwaysWrite v => Sys2Proof.Machine.execSvcwaysWrite v s
  | .svcbwWrite v => Sys2Proof.Machine.execSvcbwWrite v s
  | .svcmapWrite v => Sys2Proof.Machine.execSvcmapWrite v s
  | .fqheadWrite v => Sys2Proof.Machine.execFqheadWrite v s
  | .statusWrite v => Sys2Proof.Machine.execStatusWrite v s
  | .prioWrite v => Sys2Proof.Machine.execPrioWrite v s
  | .thermalCool n temp => Sys2Proof.Machine.execThermalCool n temp s
  | .uePortDown port => Sys2Proof.Machine.execUePortDown port s

end Sys2Proof.Machine
end

