-- ==== Sys2Proof/Machine/Sched.lean ====
section
/-! DEFINITION. What `step` calls: the fetch of an instruction with its breakpoint check (R262, R279), what
happens at an instruction boundary, the order in which the model lets its agents act when the run names none (log
entry 1), and the state that `withFetchWord` places a word in (log entry 2). -/

namespace Sys2Proof.Machine

/-- The breakpoint that a fetch matches, 1 to 4 (R279). -/
def Chip.breakpoint (c : Chip) (key : Nat) (co : Coroutine) : Option Nat :=
  if co.sup || co.nobk then none
  else (leastBelow 4 (fun i =>
    let b := ((c.core (key / 256)).bkpt.getD i 0).toNat
    bit b 0 && bits b 51 2 = bits co.pc.toNat 51 2 && co.pc.toNat < 2 ^ 52 && (bit b 60 || bits b 59 52 = co.asid))).map (· + 1)

/-- The instruction line that a fetch may be served from (R194): present and still resident (log entry 13). -/
def Chip.l1iHit (c : Chip) (core asid va : Nat) (sup : Bool) : Option L1Line :=
  match (c.core core).l1i.find? (fun l => l.asid = asid && l.vline = va / 128 && (sup || l.user)) with
  | some l => if Config.freeBool c.free then some l else none
  | none => none

/-- Fill an instruction line, in the 32 KiB of the L1 instruction cache (R194, R209). -/
def Chip.fillL1i (c : Chip) (core asid va : Nat) (x : Xlat) : Chip :=
  if inWindow (c.residentPa x.pa) then c
  else
    let c := c.wholeLine (spireOf core) x
    { c.modCore core (fun k => { k with
        l1i := fillLine 256 (Config.freeWord c.free) (c.l1Line (spireOf core) asid va x) k.l1i }) with free := c.free + 1 }

/-- The trap of a fetch (R115, R261). -/
def fetchTrap (co : Coroutine) : Trap := ⟨causeLpf, co.pc, co.pc, 0, 1, false, 0, 0, 0, 0, 0, co.fetchAsid⟩

/-- The chip after an issue that does not retire. -/
def Issue.chip (c : Chip) (r : Issue) : Chip :=
  match r with
  | .stall => c
  | .retire c => c
  | .gone c => c

/-- Fetch the word at the program counter: the word, or the chip with the trap taken, which waits until the coroutine
has drained (R262 step 1). -/
def Chip.fetch (c : Chip) (key : Nat) (co : Coroutine) : Option IWord × Chip :=
  match c.breakpoint key co with
  | some n => (none, (c.trapDrained key co { plainTrap causeBrk co.pc co.pc with kind := n }).chip c)
  | none =>
    match c.l1iHit (key / 256) co.fetchAsid co.pc.toNat co.sup with
    | some l => (some (BitVec.ofNat 32 (leNat ((l.data.drop (co.pc.toNat % 128)).take 4))), { c with free := c.free + 1 })
    | none =>
      match c.xlate (co.fetchAgent key) co.pc.toNat .fetch false with
      | (.inl f, c') => (none, (faultB c c' key f (fetchTrap co)).chip c)
      | (.inr x, c') =>
        match c'.readSound (spireOf (key / 256)) x 4 false with
        | (none, c') => (none, (faultB c c' key .poison (fetchTrap co)).chip c)
        | (some bs, c') =>
          (some (BitVec.ofNat 32 (leNat bs)), if 2 ≤ x.pol then c' else c'.fillL1i (key / 256) co.fetchAsid co.pc.toNat x)

/-- Time passes: `TIME` and `CYCLE` advance by a free amount (R10, log entry 4). (DESIGN CHOICE, log entry 45.) -/
def Chip.tick (c : Chip) : Chip :=
  { c with time := c.time + Config.elapsed c.free, cycle := c.cycle + Config.elapsed c.free, free := c.free + 1 }

/-- A supervisor coroutine in ASID 0 at an address, running on core 0, as after boot and `PART_CTL.EN` (R159).
(DESIGN CHOICE, log entry 2.) -/
def bootedCoroutine (pc : Word) : Coroutine :=
  { Coroutine.blank with state := .running, sup := true, pc := pc, dlive := ~~~1, fresh := false }

/-- The address at which `withFetchWord` places a word: HBM4E of spire 0. (DESIGN CHOICE, log entry 2.) -/
def probeAddress : Nat := 0x200000

/-- A state in which core 0 runs a supervisor coroutine of partition 0 at an address that holds a word.
(DESIGN CHOICE, log entry 2.) -/
def placeWord (s : State) (w : Nat) : State :=
  { s with
    chip := { s.chip with
      mem := memWriteNat s.chip.mem probeAddress 4 w
      parts := mset s.chip.parts 0 { s.chip.part 0 with en := true, state := 1, clus := 1 }
      gangs := mset s.chip.gangs 0 ⟨0, 0xFFFF, 0, 0, 0, 0, 0, none, none⟩
      nextGang := Nat.max 1 s.chip.nextGang
      cos := mset s.chip.cos 0 (bootedCoroutine (wordOf probeAddress))
      cores := mset s.chip.cores 0 { Core.reset with running := some 0 } }
    agenda := [.issue 0]
    cur := 0 }

/-! ### Issuing on a core -/

/-- What a step does: it is done, or it executes an instruction or event. -/
inductive Plan where
  | done (s : State)
  | run (i : Instr) (s : State)

/-- A word that is no instruction traps `ILL` or `RSV` before it (R262 step 2, R283). (DEDUCED, log entry 19.) -/
def illegal (c : Chip) (key : Nat) (co : Coroutine) (cause : Nat) (w : IWord) : Chip :=
  (trapB c key co cause (w.setWidth 64)).chip c

/-- The fetch and decode of a running coroutine's next word; `s` has its chip at the moment of the fetch. An instruction that reads
what a queued one will write waits (R235, R353). -/
def issueWord (key : Nat) (co : Coroutine) (s : State) : Plan :=
  match s.chip.fetch key co with
  | (none, c) => .done { s with chip := c }
  | (some w, c) =>
    match decode w with
    | .ok i => if c.holds key co i then .done { s with chip := c } else .run i { s with chip := c }
    | .rsv => .done { s with chip := illegal c key co causeRsv w }
    | .ill => .done { s with chip := illegal c key co causeIll w }

/-- The front end of a core: a trap that waits for the coroutine to drain (R264), a coroutine that gives way at this instruction
boundary once it has drained (R166), or the running coroutine's next word. -/
def issueOn (k : Nat) (s : State) : Plan :=
  let s := { s with cur := k }
  match s.chip.runningKey k with
  | none => .done s
  | some key =>
    match s.chip.co key with
    | none => .done s
    | some co =>
      if co.due.isSome then .done { s with chip := s.chip.settleDue key }
      else if s.chip.givesWay key co then .done { s with chip := s.chip.quantumExpiry k }
      else issueWord key co s

/-- The front end of a core whose next instruction, an atomic, only asks for its line (R201). (DEDUCED, log entry 27.) -/
def requestOn (k : Nat) (s : State) : Plan :=
  match issueOn k s with
  | .done s => .done s
  | .run i s =>
    match s.chip.runningKey k with
    | none => .done s
    | some key =>
      match s.chip.co key with
      | none => .done s
      | some co => .done (if co.pp then s else { s with chip := s.chip.requestLine key co i })

/-! ### The model's own order (log entry 1)

With no agenda, the engines, queues and messages of the chip act before any core issues; the first act, in the order
below, that changes anything is taken. Then the cores issue in turn. -/

/-- Something that the chip may do. -/
abbrev Act := Chip → Chip

/-- The first offset from one on whose piece may run. -/
def CopyCmd.frontier (fuel : Nat) (q : CopyCmd) (off : Nat) : Nat :=
  match fuel with
  | 0 => off
  | f + 1 => if q.total ≤ off ∨ q.mayRun off then off else CopyCmd.frontier f q (off + q.pieceLen off)

/-- The offset of the piece or row pair that a settled copy command performs next; others go on past one that stalls. -/
def CopyCmd.pending (q : CopyCmd) : Nat := q.frontier (q.ahead.length + q.stalled.length) q.next

/-- What a copy command does next. -/
def CopyCmd.act (q : CopyCmd) (cl idx : Nat) : Act :=
  fun c =>
    if q.stripes then c.rowPair cl idx (q.settled.pending / 64) (q.settled.pending % 64) else c.copyPiece cl idx q.settled.pending

/-- Acts that are due only when a list is not empty. -/
def dueUnless (b : Bool) (l : List Act) : List Act := if b then [] else l

/-- The acts of a core's queues. -/
def Core.acts (k : Core) (core : Nat) : List Act :=
  [(List.range k.sb.length).map (fun i c => Chip.acceptStore c core i),
    dueUnless k.vq.isEmpty [fun c => c.completeEntry core],
    dueUnless k.sb.isEmpty [fun c => c.faultStore core 0],
    dueUnless k.mq.isEmpty [fun c => c.tileConfigure core]].flatten

/-- The acts of a network queue's command. -/
def netActs (cl i : Nat) : List Act := [fun c => c.readRequest cl i, fun c => c.netPiece cl i]

/-- The acts of a cluster's engines. -/
def Cluster.acts (k : Cluster) (cl : Nat) : List Act :=
  [[fun c => c.domeComplete cl, fun c => c.domeStart cl],
    dueUnless k.moves.isEmpty [fun c => c.rotate cl false, fun c => c.rotate cl true, fun c => c.exchange cl],
    k.progressing.zipIdx.map (fun p => p.1.act cl p.2),
    dueUnless k.kvQ.isEmpty [fun c => c.kvRun cl],
    (List.range k.netQ.length).flatMap (netActs cl)].flatten

/-- The acts of a partition. -/
def partActs (p : Nat) : List Act :=
  [fun c => c.postEntry p 0, fun c => c.postEntry p 1, fun c => c.postEntry p 2, fun c => c.postEntry p 3,
    fun c => c.ring p, fun c => c.stopDone p, fun c => c.opDone p, fun c => c.admitNext p, fun c => c.sweep p]

/-- The acts of a message. -/
def msgActs (i : Nat) : List Act :=
  [fun c => c.signalApply i, fun c => c.spawnPlace i, fun c => c.migratePlace i, fun c => c.hopPlace i]

/-- The acts of a launch. -/
def launchActs (lid : Nat) : List Act := [fun c => c.startLaunch lid, fun c => c.gangPlace lid]

/-- The acts of a coroutine's place: an exited one becomes free, a ready one is dispatched. -/
def Coroutine.acts (co : Coroutine) (key : Nat) : List Act :=
  match co.state with
  | .exited => [fun c => c.freeCo key]
  | .ready => [fun c => c.wakeCluster (key / 1024), fun c => c.dispatch (key / 256), fun c => c.quantumExpiry (key / 256)]
  | _ => []

/-- Every act of the chip that may be due. (DESIGN CHOICE, log entry 1.) -/
def Chip.acts (c : Chip) : List Act :=
  [c.cores.flatMap (fun e => e.2.acts e.1),
    (List.range c.msgs.length).flatMap msgActs,
    c.resq.map (fun e d => Chip.grantReservation d e.1),
    c.clusters.flatMap (fun e => e.2.acts e.1),
    c.parts.flatMap (fun e => partActs e.1),
    c.launches.flatMap (fun e => launchActs e.1),
    c.cos.flatMap (fun e => e.2.acts e.1)].flatten

/-- The first of a list of acts that changes the chip in more than its counter of free values.
(DESIGN CHOICE, log entry 1.) -/
def Chip.firstAct (c : Chip) (l : List Act) : Option Chip :=
  l.findSome? (fun f => let d := f c; if { d with free := c.free } = c then none else some d)

/-- The acts of the keep: booting, the end of a command, and the taking of a record. (DESIGN CHOICE, log entry 1.) -/
def keepActs : List (State → State) :=
  [powerGood, fun s => { s with keep := s.keep.endCommand }, retireDone,
    fun s => match s.keep.nextQueue with
      | none => s
      | some q =>
        let t := takeRecord q (fun bs => recField bs 0 1 ≠ 2) (fun c bs => c.takeLaunch q bs) s
        if t = s then takeRecord q (fun bs => recField bs 0 1 = 2) (fun c bs => c.takeSignal q bs) s else t]

/-- The first act of the keep that changes anything. -/
def keepAct (s : State) : Option State := keepActs.findSome? (fun f => let t := f s; if t = s then none else some t)

/-- The core that issues next: of those that run a coroutine, the first from the one after `cur`.
(DESIGN CHOICE, log entry 1.) -/
def Chip.nextCore (c : Chip) (cur : Nat) : Option Nat :=
  ((List.range 512).map (fun i => (cur + 1 + i) % 512)).find? (fun k => (c.core k).running.isSome)

/-- The step when nothing is scheduled. (DESIGN CHOICE, log entry 1.) -/
def ownOrder (s : State) : Plan :=
  match keepAct s with
  | some t => .done t
  | none =>
    match s.chip.firstAct s.chip.acts with
    | some c => .done { s with chip := c }
    | none =>
      match s.chip.nextCore s.cur with
      | some k => issueOn k s
      | none => .done s

/-! ### Errors of the package's own stores (R266) -/

/-- The coroutine whose state alone a store holds, if it does. -/
def Chip.badOwner (c : Chip) (e : BadStore) : Option Nat :=
  match e with
  | .context key => if (c.coD key).cached && (c.co key).isSome then some key else none
  | .block core slot => if (c.core core).pool.any (fun p => p.1 = slot) then some (coKey core slot) else none
  | _ => none

/-- Whether a tile or slot lies in a gang's windows. -/
def Gang.holds (g : Gang) (e : BadStore) : Bool :=
  match e with
  | .tile cl t => g.cluster = cl && decide (g.tbase ≤ t) && decide (t < g.tbase + g.tcount)
  | .slot cl s => g.cluster = cl && decide (g.abase ≤ s) && decide (s < g.abase + g.acount)
  | _ => false

/-- The physical address of an error: that of the tile or slot; a cache or a pool has none, so it is open (R262). -/
def BadStore.addr (e : BadStore) (free : Nat) : Word :=
  match e with
  | .tile cl t => wordOf (tileBase cl t)
  | .slot cl s => wordOf (0x800000000000 + cl * 0x1000000 + 0x400000 + s * 0x10000)
  | _ => Config.freeWord free

/-- An uncorrectable error in a context cache, the block pool, a tile or a slot kills every gang whose state it holds, with cause
`POISON` (R266, R276). (DESIGN CHOICE, log entry 50.) -/
def Chip.badStore (c : Chip) (e : BadStore) : Chip :=
  let fa := e.addr c.free
  let c := { c with free := c.free + 1 }
  match c.badOwner e with
  | some key => c.killConcerned key causePoison fa
  | none => c.killGangs causePoison fa (fun _ g => g.holds e)

/-! ### The plan of a step -/

/-- A step takes time, and every partition whose bell time has come stops (R10, R175), unless a thermal shutdown has stopped the
clocks (R24). (DESIGN CHOICE, log entry 4.) -/
def State.tick (s : State) : State := if s.keep.power.halted then s else { s with chip := s.chip.tick.ringDue }

/-- What has happened reaches the keep: errors their queues, events the pilot, a woken spire the package's power state. -/
def State.settle (s : State) : State := settlePower (settleErrors s).postEvents

/-- What the next step does: the head of the agenda, or the model's own order. After a thermal shutdown only the events
of the agenda happen (R24). (DESIGN CHOICE, log entry 1.) -/
def plan (s : State) : Plan :=
  match s.agenda with
  | .event i :: r => .run i { s.tick with agenda := r }
  | .issue k :: r => if s.keep.power.halted then .done { s with agenda := r } else issueOn k { s.tick with agenda := r }
  | .request k :: r => if s.keep.power.halted then .done { s with agenda := r } else requestOn k { s.tick with agenda := r }
  | .upset line found sect :: r =>
    .done (if s.keep.power.halted then { s with agenda := r }
      else { s.tick with agenda := r, chip := s.tick.chip.upset line found sect })
  | .bad e :: r =>
    .done (if s.keep.power.halted then { s with agenda := r } else { s.tick with agenda := r, chip := s.tick.chip.badStore e })
  | [] => if s.keep.power.halted then .done s else ownOrder s.tick

end Sys2Proof.Machine
end

