-- ==== Sys2Proof/Machine/Step.lean ====
section
/-! DEFINITION. One step of the package, and the placing of an instruction word where the next step fetches. -/

namespace Sys2Proof.Machine

/-- One step: the events raised so far reach the pilot, then what the plan names happens. -/
def step (s : State) : Host.Outcome State Fault Refusal :=
  match plan s.settle with
  | .done s' => .next s'
  | .run i s' => exec i s'

/-- The state with a table word stored where the next step fetches its instruction (log entry 2). -/
def State.withFetchWord (s : State) (nbits w : Nat) : State := placeWord s (w % 2 ^ nbits % 2 ^ 32)

end Sys2Proof.Machine
end

