-- ==== Sys2Proof/Safety.lean ====
section
/-! DEFINITION. What a safe run is, and the terms in which claims about an instruction word are made: when a coroutine
issues a word, and the state in which an instruction that has retired leaves the package. -/

namespace Sys2Proof

/-- A state from which a number of steps are all taken. -/
def SafeFor (n : Nat) (s : Machine.State) : Prop := ∃ t, core.run n s = Host.Outcome.next t

namespace Machine

/-- The running coroutine `co` of the current core, at `key`, issues a word that stands behind no prefix: the clocks
run. (What the front end waits for, R235, is decided before the word is handed to its meaning.) -/
structure Issues (s : State) (key : Nat) (co : Coroutine) : Prop where
  clocks : s.keep.power.halted = false
  running : s.chip.runningKey s.cur = some key
  holds : s.chip.co key = some co
  plain : co.pp = false

/-- The same, behind a prefix (R296). -/
structure IssuesBehindPrefix (s : State) (key : Nat) (co : Coroutine) : Prop where
  clocks : s.keep.power.halted = false
  running : s.chip.runningKey s.cur = some key
  holds : s.chip.co key = some co
  behind : co.pp = true

/-- The same, whether or not a prefix stands before the word: for the instructions that take one. -/
structure IssuesTaker (s : State) (key : Nat) (co : Coroutine) : Prop where
  clocks : s.keep.power.halted = false
  running : s.chip.runningKey s.cur = some key
  holds : s.chip.co key = some co

/-- The state after the instruction of `co` has retired with the chip `c`: what follows a retired instruction (`NOBK`,
the prefix, the `STEP` trap) is applied to `c`. -/
def State.retiredWith (s : State) (key : Nat) (co : Coroutine) (takes : Bool) (c : Chip) : State :=
  { s with chip := c.afterRetire key co takes }

/-- The state after an instruction that has changed nothing but its coroutine has retired. -/
def State.retired (s : State) (key : Nat) (co co' : Coroutine) : State :=
  s.retiredWith key co false (s.chip.setCo key co')

/-- The state after an instruction that has written `v` to `x[d]`, and nothing else, has retired: the program counter
is at the next instruction. -/
def State.wrote (s : State) (key : Nat) (co : Coroutine) (d : BitVec 5) (v : Word) : State :=
  s.retired key co (co.setX d v).advance

/-- Whether no `STEP` trap follows an instruction of a coroutine, and no `NOBK` is to be cleared (R278, R279). -/
def Coroutine.quiet (co : Coroutine) : Prop := co.nobk = false ∧ co.estepIs = false

/-- An instruction traps at B with a cause and an `FADDR`: it has no effect of its own, the trap's `EPC` is its
address, and the exception is taken (R260). -/
def State.trapped (s : State) (key : Nat) (co : Coroutine) (cause : Nat) (faddr : Word) : State :=
  { s with chip := (s.chip.setCo key co).takeTrap key (plainTrap cause co.pc faddr) 0 }

/-- The entries of the tables that a walk of an address reads, by their addresses (R101, R111). -/
def Chip.WalkReads (c : Chip) (spire asid va ea : Nat) : Prop :=
  ∃ root, c.rootOf asid = some root ∧ (ea = root + 8 * bits va 51 41
    ∨ ∃ e1 c1, c.walkEntry spire root (bits va 51 41) = (.inr e1, c1) ∧ (ea = bits e1 47 13 * 2 ^ 13 + 8 * bits va 40 31
    ∨ ∃ e2 c2, c1.walkEntry spire (bits e1 47 13 * 2 ^ 13) (bits va 40 31) = (.inr e2, c2)
        ∧ ea = bits e2 47 13 * 2 ^ 13 + 8 * bits va 30 21))

/-- A line that a walk of an address brings to a slice: of a table, or of a beacon table that the walk meets by its place in
HBM4E (R25). -/
def Chip.WalkLine (c : Chip) (spire asid va line : Nat) : Prop :=
  ∃ ea, c.WalkReads spire asid va ea ∧ (line = lineOf ea ∨ line = lineOf (c.residentPa ea))

/-- The bytes of the leaf that a walk of an address finds: the only bytes that it may write (R111). -/
def Chip.InLeaf (c : Chip) (spire asid va a : Nat) : Prop :=
  ∃ t d, c.walkLeaf spire asid va = (.inr t, d) ∧ t.ea ≤ a ∧ a < t.ea + 8

end Machine

end Sys2Proof
end

