-- ==== Sys2Proof/Certificates/Slice0/Obligations.lean ====
section
/-! DEFINITION. The statements for the provers, each formalising rules of the spec. The helper definitions at the head of
a group say what several of its statements share. -/

namespace Sys2Proof.Claims

open Sys2Proof.Machine

/-- An instruction that writes one scalar register: whenever a coroutine issues it, it completes, and the next state is
the one with `x[d]` holding the value `f` of the coroutine as it was, the program counter at the next instruction, and
nothing else changed. -/
def Computes (i : Instr) (d : BitVec 5) (f : Coroutine → Word) : Prop :=
  ∀ s key co, Issues s key co → exec i s = .next (s.wrote key co d (f co))

/-- 1 where a proposition holds, else 0. -/
def one (p : Prop) [Decidable p] : Word := if p then 1 else 0

/-- The low `n` bits of a number as a two's complement integer. -/
def signedOf (n v : Nat) : Int := if v % 2 ^ n < 2 ^ (n - 1) then ((v % 2 ^ n : Nat) : Int) else ((v % 2 ^ n : Nat) : Int) - ((2 ^ n : Nat) : Int)

/-- A word of format F3: major, d, a, b and a function code (R281). -/
def wordF3 (major : BitVec 7) (d a b : BitVec 5) (fn : BitVec 10) : IWord := major ++ d ++ a ++ b ++ fn

/-- A word of format FI or FX: major, d, a and 15 bits (R281). -/
def wordFI (major : BitVec 7) (d a : BitVec 5) (v : BitVec 15) : IWord := major ++ d ++ a ++ v

/-- A word of format FU: major, d and 20 bits (R281). -/
def wordFU (major : BitVec 7) (d : BitVec 5) (v : BitVec 20) : IWord := major ++ d ++ v

end Sys2Proof.Claims

open Sys2Proof Sys2Proof.Machine Sys2Proof.Claims

/-! ### Integer register operations, multiply and divide, bit fields, immediates (R324-R330) -/

/-- R324 and R325: what each register operation computes, and its word. -/
def Sys2Proof.Claims.IntegerRegisterResults : Prop :=
  ∀ d a b c : BitVec 5,
    Computes (.add d a b) d (fun co => BitVec.ofNat 64 ((co.xr a).toNat + (co.xr b).toNat))
    ∧ Computes (.sub d a b) d (fun co => BitVec.ofInt 64 ((co.xr a).toInt - (co.xr b).toInt))
    ∧ Computes (.and d a b) d (fun co => co.xr a &&& co.xr b)
    ∧ Computes (.or d a b) d (fun co => co.xr a ||| co.xr b)
    ∧ Computes (.xor d a b) d (fun co => co.xr a ^^^ co.xr b)
    ∧ Computes (.andn d a b) d (fun co => co.xr a &&& ~~~(co.xr b))
    ∧ Computes (.orn d a b) d (fun co => co.xr a ||| ~~~(co.xr b))
    ∧ Computes (.sll d a b) d (fun co => BitVec.ofNat 64 ((co.xr a).toNat * 2 ^ ((co.xr b).toNat % 64)))
    ∧ Computes (.srl d a b) d (fun co => BitVec.ofNat 64 ((co.xr a).toNat / 2 ^ ((co.xr b).toNat % 64)))
    ∧ Computes (.sra d a b) d (fun co => BitVec.ofInt 64 ((co.xr a).toInt / 2 ^ ((co.xr b).toNat % 64)))
    ∧ Computes (.rot d a b) d (fun co => (co.xr a).rotateRight ((co.xr b).toNat % 64))
    ∧ Computes (.slt d a b) d (fun co => one ((co.xr a).toInt < (co.xr b).toInt))
    ∧ Computes (.sltu d a b) d (fun co => one ((co.xr a).toNat < (co.xr b).toNat))
    ∧ Computes (.seq d a b) d (fun co => one (co.xr a = co.xr b))
    ∧ Computes (.min d a b) d (fun co => BitVec.ofInt 64 (Min.min (co.xr a).toInt (co.xr b).toInt))
    ∧ Computes (.max d a b) d (fun co => BitVec.ofInt 64 (Max.max (co.xr a).toInt (co.xr b).toInt))
    ∧ Computes (.minu d a b) d (fun co => BitVec.ofNat 64 (Min.min (co.xr a).toNat (co.xr b).toNat))
    ∧ Computes (.maxu d a b) d (fun co => BitVec.ofNat 64 (Max.max (co.xr a).toNat (co.xr b).toNat))
    ∧ Computes (.csel d a b c) d (fun co => if co.xr c = 0 then co.xr b else co.xr a)

/-- R324 and R325: the words of the register operations, and the function codes that trap `RSV`. -/
def Sys2Proof.Claims.IntegerRegisterEncodings : Prop :=
  (∀ d a b c : BitVec 5,
    decode (wordF3 0x01 d a b 0x000) = .ok (.add d a b) ∧ decode (wordF3 0x01 d a b 0x001) = .ok (.sub d a b)
    ∧ decode (wordF3 0x01 d a b 0x002) = .ok (.and d a b) ∧ decode (wordF3 0x01 d a b 0x003) = .ok (.or d a b)
    ∧ decode (wordF3 0x01 d a b 0x004) = .ok (.xor d a b) ∧ decode (wordF3 0x01 d a b 0x005) = .ok (.andn d a b)
    ∧ decode (wordF3 0x01 d a b 0x006) = .ok (.orn d a b) ∧ decode (wordF3 0x01 d a b 0x007) = .ok (.sll d a b)
    ∧ decode (wordF3 0x01 d a b 0x008) = .ok (.srl d a b) ∧ decode (wordF3 0x01 d a b 0x009) = .ok (.sra d a b)
    ∧ decode (wordF3 0x01 d a b 0x00A) = .ok (.rot d a b) ∧ decode (wordF3 0x01 d a b 0x00B) = .ok (.slt d a b)
    ∧ decode (wordF3 0x01 d a b 0x00C) = .ok (.sltu d a b) ∧ decode (wordF3 0x01 d a b 0x00D) = .ok (.seq d a b)
    ∧ decode (wordF3 0x01 d a b 0x00E) = .ok (.min d a b) ∧ decode (wordF3 0x01 d a b 0x00F) = .ok (.max d a b)
    ∧ decode (wordF3 0x01 d a b 0x010) = .ok (.minu d a b) ∧ decode (wordF3 0x01 d a b 0x011) = .ok (.maxu d a b)
    ∧ decode (wordF3 0x01 d a b (0x020 + c.setWidth 10)) = .ok (.csel d a b c))
  ∧ ∀ (d a b : BitVec 5) (fn : BitVec 10), 0x012 ≤ fn.toNat ∧ fn.toNat ≤ 0x01F ∨ 0x040 ≤ fn.toNat →
      decode (wordF3 0x01 d a b fn) = .rsv

/-- R326: products, quotients and remainders, with the corners of a zero divisor and of −2^63 by −1. -/
def Sys2Proof.Claims.MultiplyDivideResults : Prop :=
  ∀ d a b : BitVec 5,
    Computes (.mul d a b) d (fun co => BitVec.ofNat 64 ((co.xr a).toNat * (co.xr b).toNat))
    ∧ Computes (.mulh d a b) d (fun co => BitVec.ofInt 64 ((co.xr a).toInt * (co.xr b).toInt / 2 ^ 64))
    ∧ Computes (.mulhu d a b) d (fun co => BitVec.ofNat 64 ((co.xr a).toNat * (co.xr b).toNat / 2 ^ 64))
    ∧ Computes (.div d a b) d (fun co =>
        if co.xr b = 0 then BitVec.ofInt 64 (-1)
        else if (co.xr a).toInt = -2 ^ 63 ∧ (co.xr b).toInt = -1 then BitVec.ofInt 64 (-2 ^ 63)
        else BitVec.ofInt 64 ((co.xr a).toInt.tdiv (co.xr b).toInt))
    ∧ Computes (.divu d a b) d (fun co =>
        if co.xr b = 0 then BitVec.ofInt 64 (-1) else BitVec.ofNat 64 ((co.xr a).toNat / (co.xr b).toNat))
    ∧ Computes (.rem d a b) d (fun co =>
        if co.xr b = 0 then co.xr a
        else if (co.xr a).toInt = -2 ^ 63 ∧ (co.xr b).toInt = -1 then 0
        else BitVec.ofInt 64 ((co.xr a).toInt - (co.xr b).toInt * (co.xr a).toInt.tdiv (co.xr b).toInt))
    ∧ Computes (.remu d a b) d (fun co =>
        if co.xr b = 0 then co.xr a else BitVec.ofNat 64 ((co.xr a).toNat % (co.xr b).toNat))
    ∧ (∀ i ∈ [(0, Instr.mul d a b), (1, .mulh d a b), (2, .mulhu d a b), (3, .div d a b), (4, .divu d a b), (5, .rem d a b),
        (6, .remu d a b)], decode (wordF3 0x02 d a b (BitVec.ofNat 10 i.1)) = .ok i.2)

/-- R326: for every divisor but 0, quotient × divisor + remainder is the dividend modulo 2^64. -/
def Sys2Proof.Claims.QuotientTimesDivisorPlusRemainder : Prop :=
  ∀ s key co, Issues s key co → co.quiet → ∀ (q r a b : BitVec 5), q ≠ 0 → r ≠ 0 → co.xr b ≠ 0 →
    (∃ t u ct cu, exec (.div q a b) s = .next t ∧ exec (.rem r a b) s = .next u ∧ t.chip.co key = some ct
      ∧ u.chip.co key = some cu ∧ ct.xr q * co.xr b + cu.xr r = co.xr a)
    ∧ (∃ t u ct cu, exec (.divu q a b) s = .next t ∧ exec (.remu r a b) s = .next u ∧ t.chip.co key = some ct
      ∧ u.chip.co key = some cu ∧ ct.xr q * co.xr b + cu.xr r = co.xr a)

/-- R327: bit counts, byte order, extensions and bit fields, and their words. -/
def Sys2Proof.Claims.BitOperationResults : Prop :=
  (∀ (s : State) (key : Nat) (co : Coroutine) (d a : BitVec 5), Issues s key co →
    (∃ n, exec (.clz d a) s = .next (s.wrote key co d (BitVec.ofNat 64 n)) ∧ n ≤ 64
      ∧ (co.xr a).toNat < 2 ^ (64 - n) ∧ (n < 64 → 2 ^ (63 - n) ≤ (co.xr a).toNat))
    ∧ (∃ n, exec (.ctz d a) s = .next (s.wrote key co d (BitVec.ofNat 64 n)) ∧ n ≤ 64
      ∧ 2 ^ n ∣ (co.xr a).toNat ∧ (n < 64 → (co.xr a).getLsbD n = true))
    ∧ exec (.popc d a) s
        = .next (s.wrote key co d (BitVec.ofNat 64 ((List.range 64).map (fun i => (co.xr a).toNat / 2 ^ i % 2)).sum))
    ∧ (∃ v : Word, exec (.bswap d a) s = .next (s.wrote key co d v)
      ∧ ∀ i < 8, v.toNat / 256 ^ (7 - i) % 256 = (co.xr a).toNat / 256 ^ i % 256))
  ∧ (∀ (d a : BitVec 5) (n : BitVec 6),
    Computes (.sext d a n) d (fun co => BitVec.ofInt 64 (signedOf (n.toNat + 1) (co.xr a).toNat))
    ∧ Computes (.zext d a n) d (fun co => BitVec.ofNat 64 ((co.xr a).toNat % 2 ^ (n.toNat + 1))))
  ∧ (∀ (d a : BitVec 5) (p l : BitVec 6), p.toNat + l.toNat + 1 ≤ 64 →
    Computes (.bfx d a p l) d (fun co => BitVec.ofNat 64 ((co.xr a).toNat / 2 ^ p.toNat % 2 ^ (l.toNat + 1)))
    ∧ ∀ s key co, Issues s key co → ∃ v : Word, exec (.bfi d a p l) s = .next (s.wrote key co d v)
        ∧ ∀ i < 64, v.getLsbD i = if p.toNat ≤ i ∧ i ≤ p.toNat + l.toNat then (co.xr a).getLsbD (i - p.toNat)
            else (co.xr d).getLsbD i)

/-- R327: the words of the bit operations; the fields that must be 0, and the `BFX` and `BFI` that trap `ILL`. -/
def Sys2Proof.Claims.BitOperationEncodings : Prop :=
  ∀ (d a : BitVec 5) (p l : BitVec 6),
    decode (wordFI 0x03 d a (0#3 ++ p ++ l)) = (if p = 0 ∧ l = 0 then .ok (.clz d a) else .rsv)
    ∧ decode (wordFI 0x03 d a (1#3 ++ p ++ l)) = (if p = 0 ∧ l = 0 then .ok (.ctz d a) else .rsv)
    ∧ decode (wordFI 0x03 d a (2#3 ++ p ++ l)) = (if p = 0 ∧ l = 0 then .ok (.popc d a) else .rsv)
    ∧ decode (wordFI 0x03 d a (3#3 ++ p ++ l)) = (if p = 0 ∧ l = 0 then .ok (.bswap d a) else .rsv)
    ∧ decode (wordFI 0x03 d a (4#3 ++ p ++ l)) = (if p = 0 then .ok (.sext d a l) else .rsv)
    ∧ decode (wordFI 0x03 d a (5#3 ++ p ++ l)) = (if p = 0 then .ok (.zext d a l) else .rsv)
    ∧ decode (wordFI 0x03 d a (6#3 ++ p ++ l)) = (if p.toNat + (l.toNat + 1) ≤ 64 then .ok (.bfx d a p l) else .ill)
    ∧ decode (wordFI 0x03 d a (7#3 ++ p ++ l)) = (if p.toNat + (l.toNat + 1) ≤ 64 then .ok (.bfi d a p l) else .ill)

/-- R328, R329 and R330: what each immediate form computes. -/
def Sys2Proof.Claims.ImmediateResults : Prop :=
  (∀ (d a : BitVec 5) (im : BitVec 15),
    Computes (.addi d a im) d (fun co => BitVec.ofInt 64 ((co.xr a).toInt + im.toInt))
    ∧ Computes (.andi d a im) d (fun co => co.xr a &&& im.signExtend 64)
    ∧ Computes (.ori d a im) d (fun co => co.xr a ||| im.signExtend 64)
    ∧ Computes (.xori d a im) d (fun co => co.xr a ^^^ im.signExtend 64)
    ∧ Computes (.slti d a im) d (fun co => one ((co.xr a).toInt < im.toInt))
    ∧ Computes (.sltui d a im) d (fun co => one ((co.xr a).toNat < (im.signExtend 64).toNat))
    ∧ Computes (.seqi d a im) d (fun co => one ((co.xr a).toInt = im.toInt)))
  ∧ (∀ (d a : BitVec 5) (n : BitVec 6),
    Computes (.slli d a n) d (fun co => BitVec.ofNat 64 ((co.xr a).toNat * 2 ^ n.toNat))
    ∧ Computes (.srli d a n) d (fun co => BitVec.ofNat 64 ((co.xr a).toNat / 2 ^ n.toNat))
    ∧ Computes (.srai d a n) d (fun co => BitVec.ofInt 64 ((co.xr a).toInt / 2 ^ n.toNat))
    ∧ Computes (.roti d a n) d (fun co => (co.xr a).rotateRight n.toNat))
  ∧ ∀ (d : BitVec 5) (im : BitVec 20),
    Computes (.lhi d im) d (fun _ => BitVec.ofInt 64 (im.toInt * 2 ^ 15))
    ∧ Computes (.pcadd d im) d (fun co => BitVec.ofInt 64 (co.pc.toInt + im.toInt * 2 ^ 15))

/-- R328, R329 and R330: the words of the immediate forms. -/
def Sys2Proof.Claims.ImmediateEncodings : Prop :=
  (∀ (d a : BitVec 5) (im : BitVec 15),
    decode (wordFI 0x10 d a im) = .ok (.addi d a im) ∧ decode (wordFI 0x11 d a im) = .ok (.andi d a im)
    ∧ decode (wordFI 0x12 d a im) = .ok (.ori d a im) ∧ decode (wordFI 0x13 d a im) = .ok (.xori d a im)
    ∧ decode (wordFI 0x15 d a im) = .ok (.slti d a im) ∧ decode (wordFI 0x16 d a im) = .ok (.sltui d a im)
    ∧ decode (wordFI 0x17 d a im) = .ok (.seqi d a im))
  ∧ (∀ (d a : BitVec 5) (z : BitVec 7) (n : BitVec 6),
    decode (wordFI 0x14 d a (0#2 ++ z ++ n)) = (if z = 0 then .ok (.slli d a n) else .rsv)
    ∧ decode (wordFI 0x14 d a (1#2 ++ z ++ n)) = (if z = 0 then .ok (.srli d a n) else .rsv)
    ∧ decode (wordFI 0x14 d a (2#2 ++ z ++ n)) = (if z = 0 then .ok (.srai d a n) else .rsv)
    ∧ decode (wordFI 0x14 d a (3#2 ++ z ++ n)) = (if z = 0 then .ok (.roti d a n) else .rsv))
  ∧ ∀ (d : BitVec 5) (im : BitVec 20),
    decode (wordFU 0x18 d im) = .ok (.lhi d im) ∧ decode (wordFU 0x19 d im) = .ok (.pcadd d im)

/-! ### Scalar floating point (R310-R314, R331-R334) -/

namespace Sys2Proof.Claims

/-- The rational number that an exact value stands for. -/
def exactValue (x : Exact) : ℚ := (if x.neg then -1 else 1) * (x.mant : ℚ) * (2 : ℚ) ^ x.exp

/-- Every number format with a sign, an exponent and a fraction (R306). -/
def formats : List FFmt := [fmtF64, fmtF32, fmtF19, fmtF16, fmtB16, fmtF8A, fmtF8B, fmtF6A, fmtF6B, fmtF4]

/-- A number is one that a format stores. -/
def Storable (f : FFmt) (y : ℚ) : Prop := ∃ c x, readFloat f c = .fin x ∧ exactValue x = y

/-- The state after a floating-point instruction has retired: `x[d]` holds the result and its flags are ORed into
`FFLAGS`. -/
def wroteFloat (s : State) (key : Nat) (co : Coroutine) (d : BitVec 5) (v : Word) (fl : Flags) : State :=
  s.retired key co { (co.setX d v).advance with fflags := co.fflags ||| fl }

/-- An arithmetic instruction under a rounding mode: the operation's result rounded once, its flags and the rounding's
raised. -/
def RoundsOnce (i : Instr) (d : BitVec 5) (r : BitVec 3) (p : BitVec 1) (op : Coroutine → Nat → FNum × Flags) : Prop :=
  ∀ s key co rm, Issues s key co → co.rounding r.toNat = some rm →
    exec i s = .next (wroteFloat s key co d (BitVec.ofNat 64 (roundNum (op co rm).1 (scalarFmt p) rm).1)
      ((op co rm).2 ||| (roundNum (op co rm).1 (scalarFmt p) rm).2))

end Sys2Proof.Claims

/-- R332: each arithmetic instruction writes the operation's exact result rounded once, and raises its flags. -/
def Sys2Proof.Claims.FloatArithmeticRoundsOnce : Prop :=
  ∀ (d a b : BitVec 5) (r : BitVec 3) (p : BitVec 1),
    RoundsOnce (.fadd d a b r p) d r p (fun co rm => fAdd (co.fr p a) (co.fr p b) rm)
    ∧ RoundsOnce (.fsub d a b r p) d r p (fun co rm => fAdd (co.fr p a) (co.fr p b).negate rm)
    ∧ RoundsOnce (.fmul d a b r p) d r p (fun co _ => fMul (co.fr p a) (co.fr p b))
    ∧ RoundsOnce (.fdiv d a b r p) d r p (fun co _ => fDiv (co.fr p a) (co.fr p b))
    ∧ RoundsOnce (.fsqrt d a r p) d r p (fun co _ => fSqrt (co.fr p a))
    ∧ RoundsOnce (.fma d a b r p) d r p (fun co rm => fMulAdd (co.fr p a) (co.fr p b) (co.fr p d) rm)

/-- R314 and R332: on finite operands the operations that are rounded are the exact sum, difference and product, and
brackets of the exact quotient and square root that say whether they are exact. -/
def Sys2Proof.Claims.FloatOperationsAreExact : Prop :=
  ∀ x y : Exact, x.sticky = false → y.sticky = false →
    (∀ rm, ∃ z, fAdd (.fin x) (.fin y) rm = (.fin z, 0) ∧ z.sticky = false ∧ exactValue z = exactValue x + exactValue y)
    ∧ (∀ rm, ∃ z, fAdd (.fin x) (FNum.fin y).negate rm = (.fin z, 0) ∧ z.sticky = false
        ∧ exactValue z = exactValue x - exactValue y)
    ∧ (∃ z, fMul (.fin x) (.fin y) = (.fin z, 0) ∧ z.sticky = false ∧ exactValue z = exactValue x * exactValue y)
    ∧ (∀ (w : Exact) rm, w.sticky = false → ∃ z, fMulAdd (.fin x) (.fin y) (.fin w) rm = (.fin z, 0) ∧ z.sticky = false
        ∧ exactValue z = exactValue x * exactValue y + exactValue w)
    ∧ (y.mant ≠ 0 → ∃ z, fDiv (.fin x) (.fin y) = (.fin z, 0)
        ∧ |exactValue z| ≤ |exactValue x / exactValue y| ∧ |exactValue x / exactValue y| < |exactValue z| + (2 : ℚ) ^ z.exp
        ∧ (z.sticky = false ↔ exactValue z = exactValue x / exactValue y))
    ∧ (x.neg = false → ∃ z, fSqrt (.fin x) = (.fin z, 0) ∧ z.neg = false
        ∧ exactValue z ^ 2 ≤ exactValue x ∧ exactValue x < (exactValue z + (2 : ℚ) ^ z.exp) ^ 2
        ∧ (z.sticky = false ↔ exactValue z ^ 2 = exactValue x))

/-- R312: `RoundTo` of an exact number that does not overflow stores the number that the rounding mode names, and raises
`NX` exactly when that differs from the exact one. -/
def Sys2Proof.Claims.RoundToStoresTheNamedNumber : Prop :=
  ∀ f ∈ formats, ∀ (x : Exact) (rm : Nat), x.sticky = false → (roundTo x f rm).2 &&& flagOF = 0 →
    ∃ z, readFloat f (roundTo x f rm).1 = .fin z ∧ z.neg = x.neg
      ∧ ((roundTo x f rm).2 &&& flagNX = 0 ↔ exactValue z = exactValue x)
      ∧ (rm = 0 → ∀ y, Storable f y → |exactValue z - exactValue x| ≤ |y - exactValue x|
          ∧ (|exactValue z - exactValue x| = |y - exactValue x| → y ≠ exactValue z → z.mant % 2 = 0))
      ∧ (rm = 1 → |exactValue z| ≤ |exactValue x| ∧ ∀ y, Storable f y → |y| ≤ |exactValue x| → |y| ≤ |exactValue z|)
      ∧ (rm = 2 → exactValue z ≤ exactValue x ∧ ∀ y, Storable f y → y ≤ exactValue x → y ≤ exactValue z)
      ∧ (rm = 3 → exactValue x ≤ exactValue z ∧ ∀ y, Storable f y → exactValue x ≤ y → exactValue z ≤ y)
      ∧ (rm = 4 → ∀ y, Storable f y → |exactValue z - exactValue x| ≤ |y - exactValue x|
          ∧ (|exactValue z - exactValue x| = |y - exactValue x| → |y| ≤ |exactValue z|))

/-- R313: the operations that raise `NV` or `DZ`, what they return, and that every NaN is returned as the canonical
one. -/
def Sys2Proof.Claims.FloatSpecialValues : Prop :=
  (∀ (f : FFmt) (v : FNum) rm, v.isNaN = true → roundNum v f rm = (canonicalNaN f, 0))
  ∧ canonicalNaN fmtF32 = 0x7FC00000 ∧ canonicalNaN fmtF16 = 0x7E00 ∧ canonicalNaN fmtB16 = 0x7FC0
  ∧ canonicalNaN fmtF64 = 0x7FF8000000000000
  ∧ (∀ (a b : FNum) rm, a.isNaN = true ∨ b.isNaN = true →
      ∀ r ∈ [fAdd a b rm, fMul a b, fDiv a b], r.1.isNaN = true ∧ r.2 = (if a.isSig || b.isSig then flagNV else 0))
  ∧ (∀ a : FNum, a.isNaN = true → (fSqrt a).1.isNaN = true ∧ (fSqrt a).2 = (if a.isSig then flagNV else 0))
  ∧ (∀ (s : Bool) (x : Exact), x.mant = 0 →
      ∀ r ∈ [fMul (.inf s) (.fin x), fMul (.fin x) (.inf s)], r.1.isNaN = true ∧ r.2 = flagNV)
  ∧ (∀ (s : Bool) rm, ∀ r ∈ [fAdd (.inf s) (.inf (!s)) rm, fAdd (.inf s) (FNum.inf s).negate rm, fDiv (.inf s) (.inf s)],
      r.1.isNaN = true ∧ r.2 = flagNV)
  ∧ (∀ x y : Exact, x.mant = 0 → y.mant = 0 → (fDiv (.fin x) (.fin y)).1.isNaN = true ∧ (fDiv (.fin x) (.fin y)).2 = flagNV)
  ∧ (∀ x y : Exact, x.mant ≠ 0 → y.mant = 0 → fDiv (.fin x) (.fin y) = (.inf (x.neg ^^ y.neg), flagDZ))
  ∧ (∀ x : Exact, x.mant = 0 → fRsqrt (.fin x) = (.inf x.neg, flagDZ))
  ∧ (∀ x : Exact, x.mant ≠ 0 → x.neg = true → ∀ r ∈ [fSqrt (.fin x), fRsqrt (.fin x)], r.1.isNaN = true ∧ r.2 = flagNV)
  ∧ (∀ s : Bool, s = true → ∀ r ∈ [fSqrt (.inf s), fRsqrt (.inf s)], r.1.isNaN = true ∧ r.2 = flagNV)
  ∧ (∀ a b : FNum, a.isNaN = true → b.isNaN = false → (fMin a b).1 = b ∧ (fMax a b).1 = b ∧ (fMin b a).1 = b ∧ (fMax b a).1 = b)
  ∧ (∀ a b : FNum, a.isNaN = true → b.isNaN = true → (fMin a b).1.isNaN = true ∧ (fMax a b).1.isNaN = true)
  ∧ (∀ x y : Exact, x.mant = 0 → y.mant = 0 → x.neg = true → y.neg = false →
      (fMin (.fin x) (.fin y)).1 = .fin x ∧ (fMin (.fin y) (.fin x)).1 = .fin x
      ∧ (fMax (.fin x) (.fin y)).1 = .fin y ∧ (fMax (.fin y) (.fin x)).1 = .fin y)

/-- R333: `FCMP` writes 1 exactly where its condition holds, and raises `NV` as its table says and no other flag. -/
def Sys2Proof.Claims.FloatCompareResults : Prop :=
  ∀ s key co, Issues s key co → ∀ (d a b : BitVec 5) (p : BitVec 1) (k : BitVec 2), ∃ (v : Word) (fl : Flags),
    exec (.fcmp d a b k p) s = .next (wroteFloat s key co d v fl) ∧ (v = 0 ∨ v = 1) ∧ (fl = 0 ∨ fl = flagNV)
    ∧ (k = 3 → (v = 1 ↔ (co.fr p a).isNaN = true ∨ (co.fr p b).isNaN = true))
    ∧ (k ≠ 3 → (co.fr p a).isNaN = true ∨ (co.fr p b).isNaN = true → v = 0)
    ∧ (k = 0 ∨ k = 3 → (fl = flagNV ↔ (co.fr p a).isSig = true ∨ (co.fr p b).isSig = true))
    ∧ (k = 1 ∨ k = 2 → (fl = flagNV ↔ (co.fr p a).isNaN = true ∨ (co.fr p b).isNaN = true))
    ∧ ∀ x y, co.fr p a = .fin x → co.fr p b = .fin y →
        (k = 0 → (v = 1 ↔ exactValue x = exactValue y)) ∧ (k = 1 → (v = 1 ↔ exactValue x < exactValue y))
        ∧ (k = 2 → (v = 1 ↔ exactValue x ≤ exactValue y))

/-- R332, R316 and R334: `FMIN`, `FMAX` and `FCVT` complete with the value and the flags of R313 and R316; a widening
`FCVT` does not read `FRM`. -/
def Sys2Proof.Claims.FloatSelectAndConvertResults : Prop :=
  ∀ s key co, Issues s key co →
    (∀ (d a b : BitVec 5) (p : BitVec 1),
      (∃ v fl, roundNum (fMin (co.fr p a) (co.fr p b)).1 (scalarFmt p) 0 = (v, fl)
        ∧ exec (.fmin d a b p) s = .next (wroteFloat s key co d (BitVec.ofNat 64 v) ((fMin (co.fr p a) (co.fr p b)).2 ||| fl)))
      ∧ (∃ v fl, roundNum (fMax (co.fr p a) (co.fr p b)).1 (scalarFmt p) 0 = (v, fl)
        ∧ exec (.fmax d a b p) s = .next (wroteFloat s key co d (BitVec.ofNat 64 v) ((fMax (co.fr p a) (co.fr p b)).2 ||| fl))))
    ∧ ∀ (d a : BitVec 5) (st r dt : BitVec 3) (rm : Nat),
        (if cvtWidens dt.toNat st.toNat then rm = 0 else co.rounding r.toNat = some rm) →
        exec (.fcvt d a st r dt) s = .next (wroteFloat s key co d (cvtResult dt.toNat (cvtSource st.toNat (co.xr a)) rm).1
          (cvtResult dt.toNat (cvtSource st.toNat (co.xr a)) rm).2)

/-- R310 and R331: with the dynamic rounding code 7 while `FRM.RM` is 5-7, an instruction that rounds traps `RSV` before
it has any effect; a widening `FCVT` does not. -/
def Sys2Proof.Claims.DynamicRoundingTrapsReserved : Prop :=
  ∀ s key co, Issues s key co → s.chip.undrained key = false → 5 ≤ co.frm.toNat → ∀ (d a b : BitVec 5) (p : BitVec 1),
    (∀ i ∈ [Instr.fadd d a b 7 p, .fsub d a b 7 p, .fmul d a b 7 p, .fdiv d a b 7 p, .fsqrt d a 7 p, .fma d a b 7 p],
      exec i s = .next (s.trapped key co causeRsv (wordAt i)))
    ∧ ∀ st dt : BitVec 3, cvtWidens dt.toNat st.toNat = false →
      exec (.fcvt d a st 7 dt) s = .next (s.trapped key co causeRsv (wordAt (.fcvt d a st 7 dt)))

/-! ### Loads and stores (R335-R340, R197, R111) -/

namespace Sys2Proof.Claims

/-- An access lies within one 2 MiB region (R336). -/
def WithinRegion (ea : Word) (n : Nat) : Prop := ea.toNat % 2 ^ 21 + n ≤ 2 ^ 21

/-- The plain loads: the instruction, the bytes that it reads, and what `x[d]` receives of their number (R335). -/
def plainLoads (d a : BitVec 5) (im : BitVec 15) : List (Instr × Nat × (Nat → Word)) :=
  [(.lb d a im, 1, fun v => BitVec.ofInt 64 (signedOf 8 v)), (.lbu d a im, 1, fun v => BitVec.ofNat 64 v),
   (.lh d a im, 2, fun v => BitVec.ofInt 64 (signedOf 16 v)), (.lhu d a im, 2, fun v => BitVec.ofNat 64 v),
   (.lw d a im, 4, fun v => BitVec.ofInt 64 (signedOf 32 v)), (.lwu d a im, 4, fun v => BitVec.ofNat 64 v),
   (.ld d a im, 8, fun v => BitVec.ofNat 64 v)]

/-- The plain stores: the instruction and the bytes that it writes (R335). -/
def plainStores (d a : BitVec 5) (im : BitVec 15) : List (Instr × Nat) :=
  [(.sb d a im, 1), (.sh d a im, 2), (.sw d a im, 4), (.sd d a im, 8)]

/-- A spire reads what memory holds of a line: no slice and not DRAM differs, or the spire's own copy has both sectors and no
slice differs (R140, R207). -/
def Current (c : Chip) (spire line : Nat) : Prop :=
  c.Clean line ∨ (∀ p ∈ c.copies, p.1 / 4 = line → p.2.data = none) ∧ ∃ p, c.copyAt spire line = some p ∧ p.valid = 3

/-- Bytes of one line of HBM4E, of no beacon table, that are whole and in use: not retired, not poisoned, and without an error
that a read would find. -/
def Sound (c : Chip) (va n : Nat) : Prop :=
  va % 128 + n ≤ 128 ∧ va + n ≤ 2 ^ 39 ∧ c.residentPa va = va ∧ c.isRetired va = false ∧ c.poisoned (lineOf va) = false
    ∧ c.latentOf (lineOf va) = Latent.none

/-- A write through a translation changes memory, and in memory only its own bytes: no other slice holds the line unless its copies
agree (PKG class), and it is clean, or the slice that serves the write has both sectors of it (R39, R140, R185). -/
def Owns (c : Chip) (spire : Nat) (x : Xlat) : Prop :=
  c.residentPa x.pa = x.pa ∧ (x.cls = clsPkg ∨ ∀ p ∈ c.copies, p.1 / 4 = lineOf x.pa → p.1 % 4 = x.server spire)
  ∧ (c.Clean (lineOf x.pa)
      ∨ c.poisoned (lineOf x.pa) = false ∧ (c.latentOf (lineOf x.pa)).w ≠ 3
        ∧ (∀ p ∈ c.copies, p.1 / 4 = lineOf x.pa → p.2.data = none)
        ∧ ∃ p, c.copyAt (x.server spire) (lineOf x.pa) = some p ∧ p.valid = 3
            ∧ (x.cls ≠ clsPkg ∨ x.home = spire ∨ p.mode = .exclusive))

/-- A byte that bringing in the data line of an access of `va` cannot change: it lies in another line, or the line is clean once
the access has been translated. -/
def DataKept (c : Chip) (g : Agent) (va m : Nat) : Prop :=
  ∀ x d, c.xlate g va .load false = (.inr x, d) →
    (lineOf m = lineOf x.pa ∨ lineOf m = lineOf (d.residentPa x.pa)) → d.Clean (lineOf m)

/-- A byte that a translation of `va` cannot change: no byte of its leaf, and in a clean line or in none that the walk reads
(R111). -/
def WalkKept (c : Chip) (spire asid va m : Nat) : Prop :=
  ¬ c.InLeaf spire asid va m ∧ (c.Clean (lineOf m) ∨ ¬ c.WalkLine spire asid va (lineOf m))

/-- A byte of memory that no load or `PREF` of `va` can change. -/
def LoadKept (c : Chip) (key : Nat) (co : Coroutine) (va m : Nat) : Prop :=
  WalkKept c (spireOf (key / 256)) co.asid va m ∧ DataKept c (co.agent key) va m

end Sys2Proof.Claims

/-- R335: a load whose bytes are read writes them to `x[d]`, sign- or zero-extended. -/
def Sys2Proof.Claims.LoadsWriteTheBytesRead : Prop :=
  ∀ s key co, Issues s key co → s.chip.behindN key = false → ∀ (d a : BitVec 5) (im : BitVec 15),
    ∀ f ∈ plainLoads d a im, WithinRegion (co.xr a + im.signExtend 64) f.2.1 → ∀ v c,
      s.chip.scalarLoad key co (co.xr a + im.signExtend 64).toNat f.2.1 false = (.bytes v, c) →
      exec f.1 s = .next (s.retiredWith key co false (c.setCo key (co.setX d (f.2.2 v)).advance))

/-- R335, R197 and R98: what the bytes read are: those of a covering store of the coroutine that is still buffered; else, of an
access within one line, in the physical space, those that memory holds at the effective address, lowest first, and memory is
not changed; an access that crosses a line reads its two parts one after the other. -/
def Sys2Proof.Claims.LoadsReadMemoryOrTheBufferedStore : Prop :=
  (∀ (c : Chip) key co va n b st, c.deviceWaits (key / 256) (key % 256) (co.agent key) va .load = false →
    c.buffered (key / 256) (key % 256) co.asid va n = some st → st.va ≤ va → va + n ≤ st.va + st.size →
    c.scalarLoad key co va n b = (.bytes (st.data / 256 ^ (va - st.va) % 256 ^ n), c))
  ∧ (∀ (c : Chip) key co va n b, co.sup = true → co.asid = 0 → 0 < n → n ≤ 8 → Sound c va n → Memory.wf c.mem →
      Current c (spireOf (key / 256)) (lineOf va) → c.buffered (key / 256) (key % 256) 0 va n = none →
      (∀ l ∈ (c.core (key / 256)).l1d, l.asid ≠ 0) →
      ∃ c', c.scalarLoad key co va n b = (.bytes (memReadNat c.mem va n), c') ∧ ∀ a, memRead c'.mem a = memRead c.mem a)
  ∧ ∀ (c : Chip) key co va n b bs cs c1 c2, n ≤ 8 → 128 < va % 128 + n →
      c.deviceWaits (key / 256) (key % 256) (co.agent key) va .load = false →
      c.buffered (key / 256) (key % 256) co.asid va n = none →
      c.loadPiece (key / 256) (co.agent key) va (128 - va % 128) b = (.inr bs, c1) →
      c1.loadPiece (key / 256) (co.agent key) (va + (128 - va % 128)) (n - (128 - va % 128)) b = (.inr cs, c2) →
      c.scalarLoad key co va n b = (.bytes (leNat (bs ++ cs)), c2)

/-- R336 and R339: a plain access that crosses a 2 MiB boundary, and an `LDAQ` or `SDRL` that is not aligned, traps `ALIGN`
before it has any effect. -/
def Sys2Proof.Claims.MisalignedAccessesTrapAlign : Prop :=
  ∀ s key co, Issues s key co → s.chip.behindN key = false → s.chip.undrained key = false → ∀ (d a : BitVec 5),
    (∀ (im : BitVec 15), ∀ f ∈ (plainLoads d a im).map (fun f => (f.1, f.2.1)) ++ plainStores d a im,
      ¬ WithinRegion (co.xr a + im.signExtend 64) f.2 →
      exec f.1 s = .next (s.trapped key co 0x04 (co.xr a + im.signExtend 64)))
    ∧ ∀ (sc : BitVec 3) (im : BitVec 12), ∀ i ∈ [Instr.ldaq d a sc im, .sdrl d a sc im],
      (co.xr a + im.signExtend 64).toNat % 8 ≠ 0 →
      exec i s = .next (s.trapped key co 0x04 (co.xr a + im.signExtend 64))

/-- R335 and R197: a store retires into the store buffer, behind the older ones, with the low bytes of `x[d]`; memory does
not change yet; while the buffer is full the front end waits. -/
def Sys2Proof.Claims.StoresRetireIntoTheStoreBuffer : Prop :=
  ∀ s key co, Issues s key co → s.chip.behindN key = false → ∀ (d a : BitVec 5) (im : BitVec 15),
    ∀ f ∈ plainStores d a im, WithinRegion (co.xr a + im.signExtend 64) f.2 →
      ((s.chip.core (key / 256)).sb.length < 32 →
        exec f.1 s = .next (s.retiredWith key co false ((s.chip.modCore (key / 256) (fun k => { k with
          sb := k.sb ++ [⟨key % 256, (co.xr a + im.signExtend 64).toNat, (co.xr d).toNat % 2 ^ (8 * f.2), f.2, false, 0,
            co.asid, co.sup⟩] })).setCo key co.advance)))
      ∧ (32 ≤ (s.chip.core (key / 256)).sb.length → exec f.1 s = .next s)

/-- R339 and R340: `LDAQ` writes the 8 bytes that it reads, past the L1 at scope 2 or wider, whose lines it then
invalidates but for those of RO pages; `SDRL` retires into the store buffer as a release at its scope, at scope 0 once
every older store is accepted. -/
def Sys2Proof.Claims.AcquireLoadAndReleaseStoreResults : Prop :=
  ∀ s key co, Issues s key co → s.chip.behindN key = false → ∀ (d a : BitVec 5) (sc : BitVec 3) (im : BitVec 12),
    (co.xr a + im.signExtend 64).toNat % 8 = 0 →
    (∀ v c, (2 ≤ sc.toNat → s.chip.buffered (key / 256) (key % 256) co.asid (co.xr a + im.signExtend 64).toNat 8 = none) →
      s.chip.scalarLoad key co (co.xr a + im.signExtend 64).toNat 8 (decide (2 ≤ sc.toNat)) = (.bytes v, c) →
      exec (.ldaq d a sc im) s = .next (s.retiredWith key co false
        ((if 2 ≤ sc.toNat then c.modCore (key / 256) (fun k => { k with l1d := k.l1d.filter (fun l => l.ro) }) else c).setCo key
          (co.setX d (BitVec.ofNat 64 v)).advance)))
    ∧ ((sc = 0 → s.chip.storesPending key = false) → (s.chip.core (key / 256)).sb.length < 32 →
      exec (.sdrl d a sc im) s = .next (s.retiredWith key co false ((s.chip.modCore (key / 256) (fun k => { k with
        sb := k.sb ++ [⟨key % 256, (co.xr a + im.signExtend 64).toNat, (co.xr d).toNat, 8, true, sc.toNat, co.asid, co.sup⟩]
          })).setCo key co.advance)))
    ∧ (sc = 0 → s.chip.storesPending key = true → exec (.sdrl d a sc im) s = .next s)

/-- R335, R338, R339 and R111: what a load or a `PREF` leaves unchanged: every register but `x[d]` (`PREF`: every one), every
other coroutine, the store buffer, and, within one line, every byte of memory but the leaf in which its translation may set
`A` and what DRAM holds otherwise of the lines that are brought in (`LoadKept`). `PREF` always completes. -/
def Sys2Proof.Claims.LoadAndPrefetchFrame : Prop :=
  ∀ s key co, Issues s key co → co.quiet → s.chip.behindN key = false → Memory.wf s.chip.mem → ∀ (d a : BitVec 5),
    (∀ (im : BitVec 15), ∀ f ∈ plainLoads d a im, WithinRegion (co.xr a + im.signExtend 64) f.2.1 → ∀ v c,
      s.chip.scalarLoad key co (co.xr a + im.signExtend 64).toNat f.2.1 false = (.bytes v, c) →
      ∃ t, exec f.1 s = .next t ∧ t.keep = s.keep ∧ t.chip.co key = some (co.setX d (f.2.2 v)).advance
        ∧ (∀ k ≠ key, t.chip.co k = s.chip.co k) ∧ (∀ k, (t.chip.core k).sb = (s.chip.core k).sb)
        ∧ ((co.xr a + im.signExtend 64).toNat % 128 + f.2.1 ≤ 128 →
            ∀ m, LoadKept s.chip key co (co.xr a + im.signExtend 64).toNat m → memRead t.chip.mem m = memRead s.chip.mem m))
    ∧ ∀ (k : BitVec 5) (im : BitVec 15), ∃ t, exec (.pref k a im) s = .next t ∧ t.keep = s.keep
        ∧ t.chip.co key = some co.advance ∧ (∀ j ≠ key, t.chip.co j = s.chip.co j)
        ∧ (∀ j, (t.chip.core j).sb = (s.chip.core j).sb)
        ∧ ∀ m, LoadKept s.chip key co (co.xr a + im.signExtend 64).toNat m → memRead t.chip.mem m = memRead s.chip.mem m

/-- R197 and R335: when a buffered plain store is accepted, the bytes of memory at its address become its data, lowest
first, no other byte changes, and it leaves the buffer. The first clause is for the physical space; the second for any
translated store within one line of a cached page. The lines stored to are clean, or, in the second clause, held whole by the
slice that serves the store. -/
def Sys2Proof.Claims.AcceptedStoreWritesItsBytes : Prop :=
  ∀ (s : State) (core : BitVec 9) (idx : BitVec 5) (st : Store), s.keep.power.halted = false → Memory.wf s.chip.mem →
    (s.chip.core core.toNat).sb[idx.toNat]? = some st → st.size ∈ [1, 2, 4, 8] →
    st.slot < 256 → (s.chip.coD (coKey core.toNat st.slot)).due = none →
    s.chip.storeWaits (coKey core.toNat st.slot)
      (((s.chip.core core.toNat).sb.take idx.toNat).filter (fun t => t.slot = st.slot)) st = false →
    (st.asid = 0 → st.sup = true → (s.chip.coD (coKey core.toNat st.slot)).sup = true →
      st.va % 2 ^ 21 + st.size ≤ 2 ^ 21 → st.va + st.size ≤ 2 ^ 39 →
      (∀ i < st.size, s.chip.isRetired (st.va + i) = false ∧ s.chip.residentPa (st.va + i) = st.va + i
        ∧ s.chip.Clean (lineOf (st.va + i))) →
      ∃ t, exec (.storeAccept core idx) s = .next t ∧ (t.chip.core core.toNat).sb = dropAt (s.chip.core core.toNat).sb idx.toNat
        ∧ (∀ i < st.size, memRead t.chip.mem (st.va + i) = BitVec.ofNat 8 (st.data / 256 ^ i))
        ∧ ∀ a, a < st.va ∨ st.va + st.size ≤ a → memRead t.chip.mem a = memRead s.chip.mem a)
    ∧ (st.va % 128 + st.size ≤ 128 → st.va + st.size ≤ 2 ^ 64 → ∀ x c,
      s.chip.xlate { (s.chip.coD (coKey core.toNat st.slot)).agent (coKey core.toNat st.slot) with asid := st.asid, sup := st.sup }
        st.va .store false = (.inr x, c) → x.pol < 2 → inWindow x.pa = false → Owns c (core.toNat / 128) x →
      ∃ t, exec (.storeAccept core idx) s = .next t ∧ (t.chip.core core.toNat).sb = dropAt (s.chip.core core.toNat).sb idx.toNat
        ∧ (∀ i < st.size, memRead t.chip.mem (x.pa + i) = BitVec.ofNat 8 (st.data / 256 ^ i))
        ∧ ∀ a, a < x.pa ∨ x.pa + st.size ≤ a → memRead t.chip.mem a = memRead c.mem a)

/-- R111: a translation that no slice remembers walks three levels of 8-byte entries from the root of its space, each read as
memory holds it, an invalid one being a fault of kind `NP` (1); it goes to the frame of the leaf with the low 21 bits of the
address, and it sets `A` (bit 6) and, for a write, `D` (bit 7) in the leaf; no other byte of memory changes. -/
def Sys2Proof.Claims.WalkFollowsThreeLevels : Prop :=
  (∀ (c : Chip) (spire ta i : Nat), Memory.wf c.mem → Sound c (ta + 8 * i) 8 → Current c spire (lineOf (ta + 8 * i)) →
    (memReadNat c.mem (ta + 8 * i) 8 % 2 = 0 → (c.walkEntry spire ta i).1 = .inl 1)
    ∧ (memReadNat c.mem (ta + 8 * i) 8 % 2 = 1 → (c.walkEntry spire ta i).1 = .inr (memReadNat c.mem (ta + 8 * i) 8))
    ∧ ∀ a, memRead (c.walkEntry spire ta i).2.mem a = memRead c.mem a)
  ∧ (∀ (c c1 c2 c3 : Chip) (spire asid va root e1 e2 : Nat) (r : Nat ⊕ Nat), va < 2 ^ 52 → c.rootOf asid = some root →
    c.walkEntry spire root (va / 2 ^ 41) = (.inr e1, c1) → e1 / 2 % 2 = 0 →
    c1.walkEntry spire (e1 / 2 ^ 13 % 2 ^ 35 * 2 ^ 13) (va / 2 ^ 31 % 2 ^ 10) = (.inr e2, c2) → e2 / 2 % 2 = 0 →
    c2.walkEntry spire (e2 / 2 ^ 13 % 2 ^ 35 * 2 ^ 13) (va / 2 ^ 21 % 2 ^ 10) = (r, c3) →
    (∀ k, r = .inl k → c.walkLeaf spire asid va = (.inl k, c3))
    ∧ ∀ e3, r = .inr e3 → e3 / 2 % 2 = 1 → c.walkLeaf spire asid va
        = (.inr ⟨e3, 3, e2 / 2 ^ 13 % 2 ^ 35 * 2 ^ 13 + 8 * (va / 2 ^ 21 % 2 ^ 10)⟩, c3))
  ∧ ∀ (c d : Chip) (spire asid va : Nat) (k : Acc) (sup : Bool) (t : TlbEntry), asid ≠ 0 →
    c.namedLine spire asid va = none → mget c.tlb (tlbKey spire asid va) = none →
    c.walkLeaf spire asid va = (.inr t, d) → t.lvl = 3 → bit t.leaf 14 = false →
    d.checkLeaf t.leaf 3 (t.leaf / 2 ^ 21 % 2 ^ 27 * 2 ^ 21 + va % 2 ^ 21) k sup = 0 →
    ∃ x c', c.translate spire asid va k sup false = (.inr x, c') ∧ x.pa = t.leaf / 2 ^ 21 % 2 ^ 27 * 2 ^ 21 + va % 2 ^ 21
      ∧ (Memory.wf d.mem → d.Clean (lineOf t.ea) → inWindow (d.residentPa t.ea) = false → memReadNat d.mem t.ea 8 = t.leaf →
          memReadNat c'.mem t.ea 8 = t.leaf ||| (if k.w then 0xC0 else 0x40)
          ∧ ∀ a, ¬ (t.ea ≤ a ∧ a < t.ea + 8) → memRead c'.mem a = memRead d.mem a)

/-! ### Control transfer (R341-R343) -/

/-- R341, R342 and R343: where each transfer goes, in words from its own address, and what its link register or counter
receives. -/
def Sys2Proof.Claims.ControlTransferResults : Prop :=
  ∀ s key co, Issues s key co → ∀ (d a b : BitVec 5),
    (∀ o : BitVec 25,
      exec (.jmp o) s = .next (s.retired key co { co with pc := BitVec.ofInt 64 (co.pc.toInt + 4 * o.toInt) })
      ∧ exec (.jal o) s = .next (s.retired key co
          { co.setX 1 (co.pc + 4) with pc := BitVec.ofInt 64 (co.pc.toInt + 4 * o.toInt) }))
    ∧ (∀ im : BitVec 15, ∃ target : Word,
        exec (.jalr d a im) s = .next (s.retired key co { co.setX d (co.pc + 4) with pc := target })
        ∧ target.toNat = (co.xr a + im.signExtend 64).toNat / 4 * 4)
    ∧ (∀ (k : BitVec 3) (o : BitVec 12), k.toNat < 6 → ∀ taken : Bool,
        (taken = match k.toNat with
          | 0 => decide (co.xr a = co.xr b)
          | 1 => decide (co.xr a ≠ co.xr b)
          | 2 => decide ((co.xr a).toInt < (co.xr b).toInt)
          | 3 => decide ((co.xr b).toInt ≤ (co.xr a).toInt)
          | 4 => decide ((co.xr a).toNat < (co.xr b).toNat)
          | _ => decide ((co.xr b).toNat ≤ (co.xr a).toNat)) →
        exec (.bc a b k o) s = .next (s.retired key co
          { co with pc := if taken then BitVec.ofInt 64 (co.pc.toInt + 4 * o.toInt) else co.pc + 4 }))
    ∧ ∀ o : BitVec 20,
        exec (.dbnz d o) s = .next (s.retired key co { co.setX d (BitVec.ofInt 64 ((co.xr d).toInt - 1)) with
          pc := if co.xr d = 1 then co.pc + 4 else BitVec.ofInt 64 (co.pc.toInt + 4 * o.toInt) })

/-- R341, R342 and R343: the words of the control transfers: a branch with condition 6 or 7 and a `DBNZ` of `x0` trap `RSV`. -/
def Sys2Proof.Claims.ControlTransferEncodings : Prop :=
  (∀ o : BitVec 25, decode ((0x30 : BitVec 7) ++ o) = .ok (.jmp o) ∧ decode ((0x31 : BitVec 7) ++ o) = .ok (.jal o))
  ∧ (∀ (d a : BitVec 5) (im : BitVec 15), decode (wordFI 0x32 d a im) = .ok (.jalr d a im))
  ∧ (∀ (a b : BitVec 5) (k : BitVec 3) (o : BitVec 12),
    decode ((0x33 : BitVec 7) ++ a ++ b ++ k ++ o) = if k.toNat < 6 then .ok (.bc a b k o) else .rsv)
  ∧ ∀ (d : BitVec 5) (o : BitVec 20), decode (wordFU 0x34 d o) = if d = 0 then .rsv else .ok (.dbnz d o)

/-! ### CSRs (R297-R299, R345) -/

namespace Sys2Proof.Claims

/-- A CSR access that is neither refused nor made to wait: its checks pass (R298), and the vector queue and the older
accesses that it must wait for are done (R299). -/
def CsrReady (c : Chip) (key : Nat) (co : Coroutine) (n : Nat) (write : Bool) : Prop :=
  csrCause n write co.sup = 0 ∧ (csrWaits n write = true → c.vectorPending key = false)
    ∧ (write = true → csrRelease n = true → c.undrained key = false)

/-- The CSRs that hold what is written to them, but for the bits that their maps reserve: number and bits held. -/
def storingCsrs : List (BitVec 12 × Word) :=
  [(0x001, 0x3F), (0x002, 0x7), (0x003, 0xFFFFFFFFFFFFFFFE), (0x004, 0xFFFFFFFF), (0x00A, 0x1FF), (0x00F, 0x7FFFFFFFFFFFF),
   (0x01D, 0xFFFFFFFFFFFFFFFF), (0x100, 0xFFFFFFFFFFFFFFFF), (0x101, 0xFF), (0x102, 0xFFFFFFFFFFFFFFFF),
   (0x103, 0xFFFFFFFFFFFFFFFF), (0x105, 0xFF00FF), (0x108, 0x3), (0x10A, 0x1FFFFFFFFFFFFFFD), (0x10B, 0x1FFFFFFFFFFFFFFD),
   (0x10C, 0x1FFFFFFFFFFFFFFD), (0x10D, 0x1FFFFFFFFFFFFFFD), (0x10F, 0xF), (0x110, 0x3FFFFFFFFFFFFFF), (0x111, 0xFF),
   (0x112, 0xF), (0x113, 0x7F)]

end Sys2Proof.Claims

/-- R345: the four forms of a CSR access: `x[d]` takes the old value; `CSRW` writes `x[a]`, `CSRS` the old value with the
bits of `x[a]` set, `CSRC` with them cleared, and neither writes when a is 0. Write-one-to-clear fields are presented
`x[a]` by the first two and zeros by the last. -/
def Sys2Proof.Claims.CsrAccessResults : Prop :=
  ∀ s key co, Issues s key co → ∀ (d a : BitVec 5) (n : BitVec 12),
    (CsrReady s.chip key co n.toNat false →
      exec (.csrr d n) s = .next (s.retired key co (co.setX d (s.chip.csrRead key co n.toNat)).advance)
      ∧ (a = 0 → ∀ i ∈ [Instr.csrs d a n, .csrc d a n],
          exec i s = .next (s.retired key co (co.setX d (s.chip.csrRead key co n.toNat)).advance)))
    ∧ (CsrReady s.chip key co n.toNat true →
      ∀ f ∈ [(Instr.csrw d a n, co.xr a, co.xr a), (.csrs d a n, s.chip.csrRead key co n.toNat ||| co.xr a, co.xr a),
          (.csrc d a n, s.chip.csrRead key co n.toNat &&& ~~~(co.xr a), 0)],
        (a = 0 → f.1 = .csrw d a n) → ∀ r, s.chip.csrWrite key co n.toNat f.2.1 f.2.2 = r →
        exec f.1 s = .next (s.retiredWith key co false
          (r.1.setCo key (r.2.setX d (s.chip.csrRead key co n.toNat)).advance)))

/-- R345: what `CSRW` writes to a CSR reads back, but for reserved bits, and no other CSR of the list changes (the counters
and class registers that a selector field names aside). -/
def Sys2Proof.Claims.CsrWriteReadsBack : Prop :=
  ∀ s key co, Issues s key co → co.quiet → co.sup = true → s.chip.undrained key = false → ∀ (a : BitVec 5),
    ∀ f ∈ storingCsrs, ∃ t co', exec (.csrw 0 a f.1) s = .next t ∧ t.chip.co key = some co'
      ∧ t.chip.csrRead key co' f.1.toNat = co.xr a &&& f.2
      ∧ (f.1 ∉ [(0x105 : BitVec 12), 0x10F, 0x113] → ∀ g ∈ storingCsrs, g.1 ≠ f.1 →
          t.chip.csrRead key co' g.1.toNat = s.chip.csrRead key co g.1.toNat)

/-- R298: a number that names no CSR traps `RSV`; a supervisor CSR traps `PRIV` in user mode; a write to a read-only CSR
traps `ILL`; the access has no effect. -/
def Sys2Proof.Claims.CsrAccessTraps : Prop :=
  ∀ s key co, Issues s key co → s.chip.undrained key = false → ∀ (d a : BitVec 5) (n : BitVec 12),
    ∀ f ∈ [(Instr.csrr d n, false), (.csrw d a n, true), (.csrs d a n, decide (a ≠ 0)), (.csrc d a n, decide (a ≠ 0))],
      (isCsr n.toNat = false → exec f.1 s = .next (s.trapped key co 0x02 (wordAt f.1)))
      ∧ (isCsr n.toNat = true → co.sup = false → 0x100 ≤ n.toNat → n.toNat ≤ 0x1FF →
          exec f.1 s = .next (s.trapped key co 0x03 (wordAt f.1)))
      ∧ (isCsr n.toNat = true → (co.sup = true ∨ n.toNat < 0x100) → csrReadOnly n.toNat = true → f.2 = true →
          exec f.1 s = .next (s.trapped key co 0x01 (wordAt f.1)))

/-! ### Exceptions: entry and return (R234, R260, R267, R272, R273, R346, R347) -/

namespace Sys2Proof.Claims

/-- A trapped coroutine's CSRs say what happened (R260). -/
def Records (co : Coroutine) (t : Trap) (pend : Bool) : Prop :=
  co.cause = BitVec.ofNat 8 t.cause ∧ co.epc = t.epc ∧ co.faddr = t.faddr ∧ co.finfo = t.finfo pend ∧ co.resv = []

end Sys2Proof.Claims

/-- R234, R260 and R267: a trap of a user coroutine writes its trap CSRs, makes it faulted with the registers that `DLIVE`
names kept and the others 0, frees its core, and enters its entry for the partition's supervisor; no byte of memory
changes outside its spill slot, and but for what DRAM holds otherwise of the slot's lines. -/
def Sys2Proof.Claims.UserTrapMakesFaulted : Prop :=
  ∀ (c : Chip) (key p : Nat) (co : Coroutine) (t : Trap) (flags : Nat), key < 131072 → c.co key = some co → co.sup = false →
    c.partOf (key / 1024) = some p → (c.part p).unserved = false → Memory.wf c.mem → t.cause < 256 → co.state = .running →
    (c.core (key / 256)).running = some (key % 256) →
    ∃ co', (c.takeTrap key t flags).co key = some co' ∧ co'.state = .faulted ∧ Records co' t (!co.pend.isEmpty)
      ∧ (∀ r : BitVec 5, co'.xr r = if co.dlive.getLsbD r.toNat then co.xr r else 0)
      ∧ (∀ r : BitVec 5, co'.vr r = if co.dlive.getLsbD (32 + r.toNat) then co.vr r else VReg.zero)
      ∧ co'.pc = co.pc ∧ ((c.takeTrap key t flags).core (key / 256)).running = none
      ∧ ((c.takeTrap key t flags).fq p (spireOf (key / 256))).waiting = (c.fq p (spireOf (key / 256))).waiting
          ++ [⟨t.cause, flags, BitVec.ofNat 64 (key + 2 ^ 32 * co.lid), t.epc, t.faddr, t.finfo (!co.pend.isEmpty), t.tok⟩]
      ∧ (∀ k ≠ key, (c.takeTrap key t flags).co k = c.co k)
      ∧ ∀ a, a < c.spillSlot key ∨ c.spillSlot key + (c.recordSection key co').length ≤ a →
          (c.Clean (lineOf a) ∨ lineOf a < lineOf (c.spillSlot key)
            ∨ lineOf (c.spillSlot key + (c.recordSection key co').length - 1) < lineOf a) →
          memRead (c.takeTrap key t flags).mem a = memRead c.mem a

/-- R272 and R273: a trap of a supervisor coroutine outside its handler writes its trap CSRs, sets `HACT` and goes on at
its handler's address, and nothing else changes; while its handler is active, or without one, it becomes faulted and the
supervisor-fault event is posted. -/
def Sys2Proof.Claims.SupervisorTrapEntersHandler : Prop :=
  ∀ (c : Chip) (key : Nat) (co : Coroutine) (t : Trap) (flags : Nat), c.co key = some co → co.sup = true →
    co.state = .running → t.cause < 256 →
    (co.hact = false → c.handler key ≠ 0 → ∃ co', c.takeTrap key t flags = c.setCo key co'
      ∧ Records co' t (!co.pend.isEmpty) ∧ co'.hact = true ∧ co'.pc = BitVec.ofNat 64 (c.handler key)
      ∧ co'.fetchAsid = 0 ∧ co'.state = co.state ∧ co'.sup = true ∧ co'.x = co.x ∧ co'.v = co.v ∧ co'.m = co.m ∧ co'.k = co.k ∧ co'.q = co.q
      ∧ co'.pend = co.pend ∧ co'.block = co.block)
    ∧ (co.hact = true ∨ c.handler key = 0 → ∃ co' e, (c.takeTrap key t flags).co key = some co' ∧ co'.state = .faulted
      ∧ Records co' t (!co.pend.isEmpty) ∧ (c.takeTrap key t flags).outbox = c.outbox ++ [e] ∧ e.type = 5
      ∧ e.d1 = BitVec.ofNat 64 t.cause)

/-- R346: `ECALL` and `EBREAK` trap after the instruction, `CALL` with `FADDR` 0 and `BRK` with their own address. -/
def Sys2Proof.Claims.SystemCallsTrapAfterThemselves : Prop :=
  ∀ s key co, Issues s key co → s.chip.undrained key = false →
    exec .ecall s = .next { s with
      chip := (s.chip.setCo key { co.advance with nobk := false }).takeTrap key (plainTrap 0x10 (co.pc + 4) 0) 0 }
    ∧ exec .ebreak s = .next { s with
      chip := (s.chip.setCo key { co.advance with nobk := false }).takeTrap key (plainTrap 0x11 (co.pc + 4) co.pc) 0 }

/-- R347: `TRET` in supervisor mode clears `HACT`, goes on at `EPC` under `ASID.CUR`, and issues again the pending stores
and, from element `VSTART`, the block; in user mode it traps `PRIV`. -/
def Sys2Proof.Claims.TrapReturnGoesOnAtEpc : Prop :=
  ∀ s key co, Issues s key co →
    (co.sup = true → co.quiet → ∃ t co', exec .tret s = .next t ∧ t.chip.co key = some co' ∧ co'.pc = co.epc &&& ~~~3 ∧ co'.hact = false
      ∧ co'.fetchAsid = co.asid ∧ co'.asid = co.asid ∧ co'.pend = [] ∧ co'.block = [] ∧ co'.x = co.x ∧ co'.v = co.v
      ∧ co'.epc = co.epc ∧ co'.cause = co.cause ∧ (t.chip.core (key / 256)).sb = (s.chip.core (key / 256)).sb ++ co.pend
      ∧ (t.chip.core (key / 256)).vq.length = (s.chip.core (key / 256)).vq.length + co.block.length
      ∧ (∀ e r, co.block = e :: r →
          (t.chip.core (key / 256)).vq = (s.chip.core (key / 256)).vq ++ { e with vstart := co.vstart } :: r)
      ∧ t.chip.mem = s.chip.mem ∧ ∀ k ≠ key, t.chip.co k = s.chip.co k)
    ∧ (co.sup = false → s.chip.undrained key = false → exec .tret s = .next (s.trapped key co 0x03 (wordAt .tret)))

/-- R278 and R279: after a retired instruction `NOBK` is clear, and under `ESTEP.IS` the coroutine takes `STEP` with `EPC` at
the next instruction, recorded once it has drained; without either nothing follows. -/
def Sys2Proof.Claims.WhatFollowsARetiredInstruction : Prop :=
  ∀ (s : State) (key : Nat) (co co' : Coroutine), co'.nobk = co.nobk → co'.state = .running →
    co'.due = none →
    (co.estepIs = false → s.retired key co co' = { s with chip := s.chip.setCo key { co' with nobk := false } })
    ∧ (co.estepIs = true → s.chip.undrained key = false →
        s.retired key co co' = { s with
          chip := (s.chip.setCo key { co' with nobk := false }).takeTrap key (plainTrap 0x12 co'.pc 0) 0 })
    ∧ (co.estepIs = true → s.chip.undrained key = true →
        s.retired key co co' = { s with chip := s.chip.setCo key { co' with nobk := false, due := some (.trap (plainTrap 0x12 co'.pc 0) 0) } })

/-! ### The format prefix (R295, R296) -/

namespace Sys2Proof.Claims

/-- The instructions that take a prefix (R296). -/
def takesPrefix (i : Instr) : Bool :=
  match i with
  | .mma _ _ _ => true
  | .mmag _ _ _ => true
  | .mmrot _ _ _ => true
  | .mdrain _ _ => true
  | .mfill _ _ => true
  | .mopa _ _ _ _ _ _ => true
  | .vldt _ _ _ _ => true
  | .vstt _ _ _ _ => true
  | .vldtt _ _ _ _ => true
  | _ => false

/-- The decode checks that the coroutine's own state decides, which come before the prefix check (R262), pass: of a CSR
access and of a vector instruction's width and rounding mode. -/
def DecodeChecksPass (i : Instr) (co : Coroutine) : Prop :=
  vectorPre i co = none ∧
  match i with
  | .csrr _ n => csrPre n.toNat false co = none
  | .csrw _ _ n => csrPre n.toNat true co = none
  | .csrs _ a n => csrPre n.toNat (a ≠ 0) co = none
  | .csrc _ a n => csrPre n.toNat (a ≠ 0) co = none
  | _ => True

end Sys2Proof.Claims

/-- R295 and R296: `FMT` sets `STATUS.PP` and keeps its word; the next instruction, unless it is a taker, traps `PFX` at the
prefix with the prefix word, `PP` clear: every other instruction word does, another `FMT` included. -/
def Sys2Proof.Claims.PrefixAppliesToTakersOnly : Prop :=
  (∀ s key co, Issues s key co → ∀ (a b d k l : BitVec 5) (w : IWord), encode (.fmt a b d k l) = some w →
    exec (.fmt a b d k l) s = .next (s.retired key co { co.advance with pp := true, pfx := w }))
  ∧ ∀ s key co, IssuesBehindPrefix s key co → s.chip.undrained key = false → ∀ (i : Instr) (w : IWord), encode i = some w →
      takesPrefix i = false → DecodeChecksPass i co →
      exec i s = .next { s with
        chip := (s.chip.setCo key { co with pp := false, pc := co.pc - 4 }).takeTrap key (plainTrap 0x18 (co.pc - 4) (co.pfx.setWidth 64)) 0 }

/-! ### Ordering instructions (R193, R195, R348) -/

/-- R348, R193 and R195: `ISYNC` empties the core's L1 instruction cache and fetches under `ASID.CUR`; a fence waits for what it
orders and then only goes on, but that `FENCE` with R after it, at scope 2 or wider, invalidates the L1 lines of pages
that are not RO; `FENCE.VV` puts its marker, an entry without elements, at the end of the vector command queue (R387), and
waits while the queue is full. No register and no byte of memory changes. -/
def Sys2Proof.Claims.OrderingInstructionsComplete : Prop :=
  ∀ s key co, Issues s key co →
    exec .isync s = .next (s.retiredWith key co false
      ((s.chip.modCore (key / 256) (fun k => { k with l1i := [] })).setCo key { co.advance with fetchAsid := co.asid }))
    ∧ (s.chip.storesPending key = false → exec .fenceSv s = .next (s.retired key co co.advance))
    ∧ (s.chip.storesPending key = true → exec .fenceSv s = .next s)
    ∧ (s.chip.vectorPending key = false → exec .fenceVs s = .next (s.retired key co co.advance))
    ∧ (s.chip.vectorPending key = true → exec .fenceVs s = .next s)
    ∧ ((s.chip.core (key / 256)).vq.length < 32 → co.quiet → ∃ e : VEntry, e.op = .fenceVv ∧ e.slot = key % 256 ∧ e.vl = 0
        ∧ e.vstart = 0 ∧ exec .fenceVv s = .next { s with
            chip := (s.chip.modCore (key / 256) (fun k => { k with vq := k.vq ++ [e] })).setCo key co.advance })
    ∧ (32 ≤ (s.chip.core (key / 256)).vq.length → exec .fenceVv s = .next s)
    ∧ ∀ (sc : BitVec 3) (pr pw sr sw : BitVec 1),
        ((pr = 0 ∧ pw = 0) ∨ (sr = 0 ∧ sw = 0) → exec (.fence sc pr pw sr sw) s = .next (s.retired key co co.advance))
        ∧ ((pr ≠ 0 ∨ pw ≠ 0) → (sr ≠ 0 ∨ sw ≠ 0) → pw = 1 → s.chip.storesPending key = true →
            exec (.fence sc pr pw sr sw) s = .next s)
        ∧ ((pr ≠ 0 ∨ pw ≠ 0) → (sr ≠ 0 ∨ sw ≠ 0) → (pw = 1 → s.chip.storesPending key = false) →
            exec (.fence sc pr pw sr sw) s = .next (s.retiredWith key co false
              ((if sr = 1 ∧ 2 ≤ sc.toNat then
                  s.chip.modCore (key / 256) (fun k => { k with l1d := k.l1d.filter (fun l => l.ro) })
                else s.chip).setCo key co.advance)))

/-! ### Atomics and reservations (R201, R202, R388-R391) -/

namespace Sys2Proof.Claims

/-- An atomic of a coroutine is served at once: nothing it waits for is pending, its address is a multiple of its bytes, it
translates to `x` of a cached page with the chip `c`, its line is neither poisoned nor in error, the slice that serves it reads
what memory holds of it, and no reservation queue is in use. -/
structure AtomicReady (s : State) (key : Nat) (co : Coroutine) (a : BitVec 5) (n : Nat) (k : Acc) (x : Xlat) (c : Chip) : Prop where
  issues : Issues s key co
  quiet : co.quiet
  wf : Memory.wf s.chip.mem
  ordered : s.chip.behindN key = false
  accepted : s.chip.storesPending key = false
  acked : s.chip.remoteUnacked key = false
  unqueued : s.chip.resq = []
  aligned : (co.xr a).toNat % n = 0
  goes : s.chip.xlate (co.agent key) (co.xr a).toNat k false = (.inr x, c)
  cached : x.pol < 2
  whole : c.poisoned (lineOf x.pa) = false
  memory : x.pa + n ≤ 2 ^ 39
  sound : c.latentOf (lineOf x.pa) = Latent.none
  current : Current c (if x.cls = clsRo then spireOf (key / 256) else x.home) (lineOf x.pa)
  owns : k = .amo → Owns c x.home x
  resident : c.residentPa x.pa = x.pa

/-- A reservation set to which a line has been added, unbroken: of the other lines, the three added last stay where there are
four or more (R202, R390). -/
def withLine (l : List Reserved) (line : Nat) : List Reserved :=
  let others := l.filter (fun r => r.line ≠ line)
  others.drop (if others.length < 4 then 0 else others.length - 3) ++ [⟨line, false⟩]

/-- The number that an atomic finds. -/
def oldAt (c : Chip) (x : Xlat) (n : Nat) : Nat := memReadNat c.mem x.pa n

/-- What `x[d]` receives of an old value: all of a double word, or a word sign-extended (R388). -/
def atomicOld (wd : BitVec 1) (old : Nat) : Word := if wd = 1 then BitVec.ofNat 64 old else BitVec.ofInt 64 (signedOf 32 old)

/-- The AMOs with the value that each leaves in memory (R388): `u`, `v` the operands and `old` the value found, `w` bits
each. -/
def amoTable (d a b : BitVec 5) (sc : BitVec 3) (rl aq wd : BitVec 1) (w u v old : Nat) : List (Instr × Nat) :=
  [(.amoadd d a b sc rl aq wd, (old + v) % 2 ^ w), (.amoand d a b sc rl aq wd, old &&& v), (.amoor d a b sc rl aq wd, old ||| v),
   (.amoxor d a b sc rl aq wd, old ^^^ v),
   (.amomin d a b sc rl aq wd, if signedOf w old ≤ signedOf w v then old else v),
   (.amomax d a b sc rl aq wd, if signedOf w old ≤ signedOf w v then v else old),
   (.amominu d a b sc rl aq wd, if old ≤ v then old else v), (.amomaxu d a b sc rl aq wd, if old ≤ v then v else old),
   (.amoswp d a b sc rl aq wd, v), (.amocas d a b sc rl aq wd, if old = u then v else old),
   (.amoincw d a b sc rl aq wd, if v ≤ old then 0 else old + 1),
   (.amoaddb d a b sc rl aq wd, if old < u then (if old + v ≤ u then old + v else u) else old)]

end Sys2Proof.Claims

/-- R388 and R389: an AMO leaves its operation's value at its address and gives the old value to `x[d]`; no other byte of
memory and no other register changes. -/
def Obligations.AtomicMemoryOperationResults : Prop :=
  ∀ s key co (d a b : BitVec 5) (sc : BitVec 3) (rl aq wd : BitVec 1) (n : Nat), n = (if wd = 1 then 8 else 4) → ∀ x c,
    AtomicReady s key co a n .amo x c →
    ∀ f ∈ amoTable d a b sc rl aq wd (8 * n) ((co.xr d).toNat % 2 ^ (8 * n)) ((co.xr b).toNat % 2 ^ (8 * n)) (oldAt c x n),
      ∃ t, exec f.1 s = .next t ∧ t.keep = s.keep ∧ t.chip.co key = some (co.setX d (atomicOld wd (oldAt c x n))).advance
        ∧ memReadNat t.chip.mem x.pa n = f.2
        ∧ ∀ m, m < x.pa ∨ x.pa + n ≤ m → memRead t.chip.mem m = memRead c.mem m

/-- R390 and R202: `LR` gives the value to `x[d]` and adds its line to the reservation set, the oldest of four making room;
`SC` writes `x[b]` and gives 0 where its line is in the set and no other observer has written it since, and otherwise
writes nothing and gives 1; the set is then empty. -/
def Sys2Proof.Claims.LoadReservedStoreConditionalResults : Prop :=
  ∀ s key co (d a b : BitVec 5) (sc : BitVec 3) (rl aq wd : BitVec 1) (n : Nat), n = (if wd = 1 then 8 else 4) → ∀ x c,
    (AtomicReady s key co a n .lr x c →
      ∃ t, exec (.lr d a sc aq wd) s = .next t
        ∧ t.chip.co key = some { (co.setX d (atomicOld wd (oldAt c x n))).advance with resv := withLine co.resv (lineOf x.pa) }
        ∧ ∀ m, memRead t.chip.mem m = memRead c.mem m)
    ∧ (AtomicReady s key co a n .amo x c →
      ((∃ r ∈ co.resv, r.line = lineOf x.pa ∧ r.broken = false) →
        ∃ t, exec (.sc d a b sc rl aq wd) s = .next t ∧ t.chip.co key = some { (co.setX d 0).advance with resv := [] }
          ∧ memReadNat t.chip.mem x.pa n = (co.xr b).toNat % 2 ^ (8 * n)
          ∧ ∀ m, m < x.pa ∨ x.pa + n ≤ m → memRead t.chip.mem m = memRead c.mem m)
      ∧ ((∀ r ∈ co.resv, r.line = lineOf x.pa → r.broken = true) →
        ∃ t, exec (.sc d a b sc rl aq wd) s = .next t ∧ t.chip.co key = some { (co.setX d 1).advance with resv := [] }
          ∧ ∀ m, memRead t.chip.mem m = memRead c.mem m))

/-- R389: an atomic whose address is not a multiple of its bytes traps `ALIGN` with that address and has no effect. -/
def Sys2Proof.Claims.MisalignedAtomicsTrapAlign : Prop :=
  ∀ s key co, Issues s key co → s.chip.behindN key = false → s.chip.undrained key = false → s.chip.resq = [] →
    ∀ (d a b : BitVec 5) (sc : BitVec 3) (rl aq wd : BitVec 1),
      (co.xr a).toNat % (if wd = 1 then 8 else 4) ≠ 0 →
      ∀ i ∈ (amoTable d a b sc rl aq wd 0 0 0 0).map (fun f => f.1) ++ [.lr d a sc aq wd, .sc d a b sc rl aq wd],
        exec i s = .next (s.trapped key co 0x04 (co.xr a))

/-- R202: a write to a line by one observer marks every other coroutine's reservation of it broken, makes those that wait
for such a write ready, and leaves the writer's own reservations alone. -/
def Sys2Proof.Claims.WritesBreakReservationsOfOthers : Prop :=
  ∀ (c : Chip) (line key : Nat) (writer : Option Nat) (co : Coroutine), c.co key = some co → ∃ co',
    (c.breakReservations line writer).co key = some co'
    ∧ (writer = some key → co' = co)
    ∧ (writer ≠ some key → (∀ r ∈ co'.resv, r.line = line → r.broken = true)
        ∧ co'.resv.map (fun r => r.line) = co.resv.map (fun r => r.line)
        ∧ ((∃ r ∈ co.resv, r.line = line) → co.state = .awaiting → co.wait = .reservation →
            co'.state = .ready ∧ co'.rtime = c.time))

/-! ### Beacons (R393-R398) -/

namespace Sys2Proof.Claims

/-- A token that passes the checks of R393. -/
def TokenPasses (c : Chip) (u : TokenUse) (co : Coroutine) (t : Word) : Prop :=
  c.tokHere t = true ∧ tokenRefused u co.sup (tokIndex t) = false ∧ c.tokCurrent t = true

end Sys2Proof.Claims

/-- R395: `BEACON` allocates the lowest free beacon below 0xFE00 of the caller's spire, with the next generation and the
count of `x[a]`, and gives its token to `x[d]`; 0 when none is free. -/
def Sys2Proof.Claims.BeaconAllocates : Prop :=
  ∀ s key co, Issues s key co → key < 131072 → ∀ (d a : BitVec 5),
    ((∀ i < 0xFE00, (s.chip.beacon (spireOf (key / 256)) i).alloc = true) →
      exec (.beacon d a) s = .next (s.retired key co (co.setX d 0).advance))
    ∧ ∀ i < 0xFE00, (s.chip.beacon (spireOf (key / 256)) i).alloc = false →
        (∀ j < i, (s.chip.beacon (spireOf (key / 256)) j).alloc = true) → co.quiet →
        ∃ t g, exec (.beacon d a) s = .next t
          ∧ g = (if (s.chip.beacon (spireOf (key / 256)) i).gen.toNat = 2 ^ 36 - 1 then 1
              else (s.chip.beacon (spireOf (key / 256)) i).gen.toNat + 1)
          ∧ t.chip.beacon (spireOf (key / 256)) i = ⟨(co.xr a).setWidth 32, BitVec.ofNat 36 g, true, 0, 0, 0⟩
          ∧ t.chip.co key = some (co.setX d (BitVec.ofNat 64 (g + 2 ^ 36 * i + 2 ^ 52 * spireOf (key / 256)
              + 2 ^ 54 * s.chip.links.id.toNat))).advance
          ∧ (∀ e j, e ≠ spireOf (key / 256) ∨ j ≠ i → t.chip.beacon e j = s.chip.beacon e j)
          ∧ t.chip.mem = s.chip.mem

/-- R393: a token that fails a check makes its instruction trap: `LINK` for another node, then `PRIV` for a refused class
of beacon, then `STALE` for one that is not current; nothing is signalled or changed. -/
def Sys2Proof.Claims.TokenChecksTrap : Prop :=
  ∀ s key co, Issues s key co → s.chip.undrained key = false → ∀ (d a b : BitVec 5),
    ∀ f ∈ [(Instr.bfree a, TokenUse.set, co.xr a), (.bset a b, .set, co.xr a), (.bsig a b, .signal, co.xr a),
        (.bread d a, .wait, co.xr a), (.await d a b, .wait, co.xr a), (.awaitq d a b, .wait, co.qr d.toNat)],
      (s.chip.tokHere f.2.2 = false → exec f.1 s = .next (s.trapped key co 0x17 f.2.2))
      ∧ (s.chip.tokHere f.2.2 = true → tokenRefused f.2.1 co.sup (tokIndex f.2.2) = true →
          exec f.1 s = .next (s.trapped key co 0x03 (wordAt f.1)))
      ∧ (s.chip.tokHere f.2.2 = true → tokenRefused f.2.1 co.sup (tokIndex f.2.2) = false → s.chip.tokCurrent f.2.2 = false →
          exec f.1 s = .next (s.trapped key co 0x0E f.2.2))

/-- R396, R397 and R398: `BFREE` frees its beacon and moves to the next generation; `BSET` and `BSIG`, once the coroutine's
stores are accepted, send their message and go on; `BREAD` gives the count, the error count, the error and its source. -/
def Sys2Proof.Claims.BeaconInstructionResults : Prop :=
  ∀ s key co, Issues s key co → co.quiet → ∀ (d a b : BitVec 5),
    (TokenPasses s.chip .set co (co.xr a) → (s.chip.enrolled (co.xr a) = []) →
      ∃ t, exec (.bfree a) s = .next t ∧ t.chip.co key = some co.advance
        ∧ (t.chip.tokBeacon (co.xr a)).alloc = false
        ∧ (t.chip.tokBeacon (co.xr a)).gen = nextGen (s.chip.tokBeacon (co.xr a)).gen
        ∧ t.chip.tokCurrent (co.xr a) = false ∧ t.chip.mem = s.chip.mem)
    ∧ (TokenPasses s.chip .set co (co.xr a) → s.chip.storesPending key = false →
      ∃ t n, exec (.bset a b) s = .next t ∧ t.chip.co key = some co.advance
        ∧ t.chip.msgs = s.chip.msgs ++ [⟨none, false, false, .setCount (co.xr a) ((co.xr b).setWidth 32) n, .core (key / 256), 0, false⟩]
        ∧ (n = none ↔ tokDie (co.xr a) = spireOf (key / 256)) ∧ t.chip.mem = s.chip.mem)
    ∧ (TokenPasses s.chip .signal co (co.xr a) → s.chip.storesPending key = false →
      ∃ t n, exec (.bsig a b) s = .next t ∧ t.chip.co key = some co.advance
        ∧ t.chip.msgs = s.chip.msgs ++ [⟨none, false, false, .signal (co.xr a) ((co.xr b).setWidth 32).toInt 0 0 n, .core (key / 256), 0, false⟩]
        ∧ (n = none ↔ tokDie (co.xr a) = spireOf (key / 256)) ∧ t.chip.mem = s.chip.mem)
    ∧ (s.chip.storesPending key = true →
      (TokenPasses s.chip .set co (co.xr a) → exec (.bset a b) s = .next s)
      ∧ (TokenPasses s.chip .signal co (co.xr a) → exec (.bsig a b) s = .next s))
    ∧ (TokenPasses s.chip .wait co (co.xr a) → ∃ v : Word, exec (.bread d a) s = .next (s.wrote key co d v)
        ∧ v.toNat % 2 ^ 32 = (s.chip.tokBeacon (co.xr a)).count.toNat
        ∧ v.toNat / 2 ^ 32 % 2 ^ 16 = (s.chip.tokBeacon (co.xr a)).ecount.toNat
        ∧ v.toNat / 2 ^ 48 % 2 ^ 8 = (s.chip.tokBeacon (co.xr a)).err.toNat
        ∧ v.toNat / 2 ^ 56 = (s.chip.tokBeacon (co.xr a)).esrc.toNat % 4)

namespace Sys2Proof.Claims

/-- A message with an earlier one of the same source for the same destination still on its way (R155). -/
def Overtakes (c : Chip) (i : Nat) (f : Flying) : Prop :=
  f.waiting = false ∧ ∃ g ∈ c.msgs.take i, g.src = f.src ∧ g.msg.dest = f.msg.dest ∧ g.dropped = false ∧ g.waiting = false

end Sys2Proof.Claims

/-- R394, R225 and R256: a signal that arrives at a current beacon below 0xFE00 lowers its count, saturating at the ends of
the signed 32-bit range, records the first error and counts every one, and makes exactly the waiters whose threshold the
count is now below ready. R155: while an earlier message of its source to the same slice is on its way, it does not arrive. -/
def Obligations.SignalsLowerTheCountAndWake : Prop :=
  ∀ (s : State) (i : BitVec 16) (tok : Word) (dec : Int) (st src : Nat) (f : Flying), s.keep.power.halted = false →
    s.chip.msgs[i.toNat]? = some f → f.msg = .signal tok dec st src none → s.chip.tokHere tok = true →
    s.chip.tokCurrent tok = true → tokDie tok < 4 → tokIndex tok < 0xFE00 →
    (Overtakes s.chip i.toNat f → exec (.beaconSignalApply i) s = .next s)
    ∧ (¬ Overtakes s.chip i.toNat f → ∃ t, exec (.beaconSignalApply i) s = .next t ∧ t.chip.msgs = dropAt s.chip.msgs i.toNat
      ∧ (t.chip.tokBeacon tok).count.toInt
          = Max.max (-2 ^ 31) (Min.min (2 ^ 31 - 1) ((s.chip.tokBeacon tok).count.toInt - dec))
      ∧ (t.chip.tokBeacon tok).gen = (s.chip.tokBeacon tok).gen
      ∧ (st = 0 → (t.chip.tokBeacon tok).err = (s.chip.tokBeacon tok).err)
      ∧ (st ≠ 0 → (s.chip.tokBeacon tok).err = 0 → (t.chip.tokBeacon tok).err = BitVec.ofNat 8 st)
      ∧ ((s.chip.tokBeacon tok).err ≠ 0 → (t.chip.tokBeacon tok).err = (s.chip.tokBeacon tok).err)
      ∧ t.chip.mem = s.chip.mem
      ∧ ∀ k co th, s.chip.co k = some co → co.state = .awaiting → co.wait = .beacon tok th → ∃ co', t.chip.co k = some co' ∧
          (if (t.chip.tokBeacon tok).count.toInt < th.toInt then co' = { co with state := .ready, wait := .none, rtime := s.chip.time }
            else co' = co))

/-! ### Waiting, yielding, barriers, spawning, ending, moving (R391, R400-R408) -/

namespace Sys2Proof.Claims

/-- A coroutine that a word has suspended under a live mask: the registers the mask names are kept and the others read 0, it
stands at the next instruction in a state with a wait, its core runs nothing, and of the others at most records are evicted from
the context cache of its core, none while all fit in its 96 KiB, when no memory changes (R214, R215, R222). -/
def Suspended (s t : State) (key : Nat) (co : Coroutine) (live : Word) (st : CoState) (w : Wait) : Prop :=
  ∃ co', t.chip.co key = some co' ∧ co'.state = st ∧ co'.wait = w ∧ co'.pc = co.pc + 4 ∧ co'.rtime = s.chip.time
    ∧ (∀ r : BitVec 5, co'.xr r = if live.getLsbD r.toNat then co.xr r else 0)
    ∧ (∀ r : BitVec 5, co'.vr r = if live.getLsbD (32 + r.toNat) then co.vr r else VReg.zero)
    ∧ (t.chip.core (key / 256)).running = none
    ∧ (∀ k m, k ≠ key → s.chip.co k = some m → ∃ m', t.chip.co k = some m' ∧ { m' with evicted := m.evicted, recWord := m.recWord } = m)
    ∧ (s.chip.cacheUse (key / 256) + co'.units ≤ 1536 → t.chip.mem = s.chip.mem ∧ ∀ k ≠ key, t.chip.co k = s.chip.co k)

/-- An acquire at cluster scope or wider: the core's L1 lines of pages that are not RO are gone. -/
def acquired (c : Chip) (key : Nat) : Chip :=
  c.modCore (key / 256) (fun k => { k with l1d := k.l1d.filter (fun l => l.ro) })

/-- The coroutine runs on its core. -/
def Runs (s : State) (key : Nat) : Prop := (s.chip.core (key / 256)).running = some (key % 256)

end Sys2Proof.Claims

/-- R400, R401, R402 and R391: `AWAIT`, `AWAITQ` and `WAITRS` go on at once where what they wait for is so, and otherwise
suspend under their live mask; `YIELD` suspends and is ready at once; `GBAR` never waits outside a gang of two or more,
and otherwise waits for its other members. The suspension comes once the coroutine has drained. -/
def Obligations.WaitingInstructionResults : Prop :=
  ∀ s key co, Issues s key co → Runs s key → s.chip.undrained key = false → ∀ (d a b : BitVec 5),
    (∀ f ∈ [(Instr.await d a b, co.xr a, co.xr d, co.xr b), (.awaitq d a b, co.qr d.toNat, co.xr b, co.xr a)],
      TokenPasses s.chip .wait co f.2.1 →
      ((s.chip.tokBeacon f.2.1).count.toInt < signedOf 32 f.2.2.1.toNat →
        exec f.1 s = .next (s.retiredWith key co false ((acquired s.chip key).setCo key co.advance)))
      ∧ (signedOf 32 f.2.2.1.toNat ≤ (s.chip.tokBeacon f.2.1).count.toInt →
        ∃ t, exec f.1 s = .next t ∧ Suspended s t key co f.2.2.2 .awaiting (.beacon f.2.1 (f.2.2.1.setWidth 32))))
    ∧ (∃ t, exec (.yield a) s = .next t ∧ Suspended s t key co (co.xr a) .ready .none)
    ∧ (co.gid = 0xFFFF ∨ co.gsize ≤ 1 →
        exec (.gbar a) s = .next (s.retiredWith key co false ((acquired s.chip key).setCo key co.advance)))
    ∧ (co.gid ≠ 0xFFFF → 1 < co.gsize → s.chip.lastAtBarrier key co.gang = false →
        ∃ t, exec (.gbar a) s = .next t ∧ Suspended s t key co (co.xr a) .awaiting .barrier)
    ∧ (co.gid ≠ 0xFFFF → 1 < co.gsize → s.chip.lastAtBarrier key co.gang = true → co.quiet →
        ∃ t, exec (.gbar a) s = .next t ∧ t.chip.co key = some co.advance
          ∧ ∀ k m, k ≠ key → s.chip.co k = some m → m.gang = co.gang → m.wait = .barrier → m.state = .awaiting →
              t.chip.co k = some { m with state := .ready, wait := .none, rtime := s.chip.time })
    ∧ (co.resv = [] ∨ (∃ r ∈ co.resv, r.broken = true) → exec (.waitrs a) s = .next (s.retired key co co.advance))
    ∧ (co.resv ≠ [] → (∀ r ∈ co.resv, r.broken = false) →
        ∃ t, exec (.waitrs a) s = .next t ∧ Suspended s t key co (co.xr a) .awaiting .reservation)

/-- R403 and R404: `SPAWN` sends a child to the identifier it reserves, and otherwise runs the child inline; `EXIT` ends an
inline child, or the coroutine. -/
def Sys2Proof.Claims.SpawnAndExitResults : Prop :=
  ∀ s key co, Issues s key co → ∀ (d a b : BitVec 5),
    (s.chip.targetBad (s.chip.partNum key) (co.xr a) = false → (co.xr b).toNat % 4 = 0 → s.chip.storesPending key = false →
      (∀ core slot, s.chip.reserveOn (s.chip.targetCores (s.chip.partNum key) (key / 1024) (co.xr a)) = some (core, slot) →
        co.quiet → ∃ (t : State) (ch : Coroutine), exec (.spawn d a b) s = .next t
          ∧ t.chip.co key = some (co.setX d (BitVec.ofNat 64 (core * 256 + slot + 2 ^ 63))).advance
          ∧ t.chip.msgs = s.chip.msgs ++ [⟨s.chip.partOf (core / 4), false, false, .spawn core slot ch, .core (key / 256), 0, false⟩]
          ∧ ch.pc = co.xr b ∧ ch.sup = co.sup ∧ ch.asid = co.asid ∧ ch.quantum = co.quantum ∧ ch.dlive = co.dlive
          ∧ ch.level = co.level ∧ ch.lid = co.lid ∧ ch.gid = 0xFFFF ∧ ch.gsize = 1 ∧ ch.grank = 0
          ∧ (∀ r : BitVec 5, ch.xr r = if 10 ≤ r.toNat ∧ r.toNat ≤ 13 then co.xr r else 0)
          ∧ (core / 4 = key / 1024 → ch.tbase = co.tbase ∧ ch.tcount = co.tcount ∧ ch.abase = co.abase ∧ ch.acount = co.acount)
          ∧ (core / 4 ≠ key / 1024 → ch.tcount = 0 ∧ ch.acount = 0) ∧ t.chip.mem = s.chip.mem)
      ∧ (s.chip.reserveOn (s.chip.targetCores (s.chip.partNum key) (key / 1024) (co.xr a)) = none →
        exec (.spawn d a b) s = .next (s.retired key co { (co.setX d 0).setX 1 (co.pc + 4) with
          inl := BitVec.ofNat 16 (Min.min (co.inl.toNat + 1) 0xFFFF), pc := co.xr b })))
    ∧ (s.chip.targetBad (s.chip.partNum key) (co.xr a) = true → s.chip.undrained key = false →
      exec (.spawn d a b) s = .next (s.trapped key co 0x16 (co.xr a)))
    ∧ (s.chip.targetBad (s.chip.partNum key) (co.xr a) = false → (co.xr b).toNat % 4 ≠ 0 → s.chip.undrained key = false →
      exec (.spawn d a b) s = .next (s.trapped key co 0x04 (co.xr b)))
    ∧ (co.inl ≠ 0 → ∃ target : Word, exec .exit s = .next (s.retired key co { co with inl := co.inl - 1, pc := target })
        ∧ target.toNat = (co.xr 1).toNat / 4 * 4)
    ∧ (co.inl = 0 → Runs s key → ∃ t co', exec .exit s = .next t ∧ t.chip.co key = some co' ∧ co'.state = .exited
        ∧ (t.chip.core (key / 256)).running = none)

/-- R405: `MIGRATE` to its own core, or with no identifier free, only goes on; otherwise, once drained, the coroutine leaves
its core for the identifier it reserves, with the registers of its live mask. The reservation set is emptied in every
case. -/
def Sys2Proof.Claims.MigrateResults : Prop :=
  ∀ s key co, Issues s key co → ∀ (a b : BitVec 5), s.chip.targetBad (s.chip.partNum key) (co.xr a) = false →
    (co.solo = true ∨ farTarget key (co.xr a) = false) →
    (s.chip.reserveOn (s.chip.targetCores (s.chip.partNum key) (key / 1024) (co.xr a)) = none →
      exec (.migrate a b) s = .next (s.retired key co { co.advance with resv := [] }))
    ∧ (∀ slot, s.chip.reserveOn (s.chip.targetCores (s.chip.partNum key) (key / 1024) (co.xr a)) = some (key / 256, slot) →
      exec (.migrate a b) s = .next (s.retired key co { co.advance with resv := [] }))
    ∧ ∀ core slot, s.chip.reserveOn (s.chip.targetCores (s.chip.partNum key) (key / 1024) (co.xr a)) = some (core, slot) →
      core ≠ key / 256 → s.chip.undrained key = false → Runs s key →
      ∃ (t : State) (m : Coroutine), exec (.migrate a b) s = .next t ∧ t.chip.co key = none ∧ (t.chip.core (key / 256)).running = none
        ∧ t.chip.msgs = s.chip.msgs ++ [⟨s.chip.partOf (core / 4), false, false, .migrate core slot m, .core (key / 256), 0, false⟩]
        ∧ m.state = .ready ∧ m.pc = co.pc + 4 ∧ m.resv = [] ∧ m.lid = co.lid ∧ m.gang = co.gang
        ∧ (∀ r : BitVec 5, m.xr r = if (co.xr b).getLsbD r.toNat then co.xr r else 0) ∧ t.chip.mem = s.chip.mem

/-- R406, R407 and R408: `CRESUME` and `CKILL` trap `PRIV` in user mode and `SPAWN` on a word that is refused; on a word whose
identifier is free or of another launch they have no effect; `CRESUME` makes a faulted coroutine ready with `NOBK` set,
and `CKILL` makes a ready, running, awaiting or faulted one exited. -/
def Obligations.SupervisorControlResults : Prop :=
  ∀ s key co, Issues s key co → ∀ (a : BitVec 5) (k lid : Nat), k = (co.xr a).toNat % 2 ^ 17 → lid = (co.xr a).toNat / 2 ^ 32 →
    (co.sup = false → s.chip.undrained key = false → ∀ i ∈ [Instr.cresume a, .ckill a],
      exec i s = .next (s.trapped key co 0x03 (wordAt i)))
    ∧ (co.sup = true → s.chip.undrained key = false →
      ((co.xr a).toNat / 2 ^ 17 % 2 ^ 15 ≠ 0 ∨ (s.chip.part (s.chip.partNum key)).clus.getLsbD (k / 1024) = false
        ∨ (k = key ∧ lid = co.lid)) → ∀ i ∈ [Instr.cresume a, .ckill a],
      exec i s = .next (s.trapped key co 0x16 (co.xr a)))
    ∧ (co.sup = true → co.quiet → s.chip.storesPending key = false → (co.xr a).toNat / 2 ^ 17 % 2 ^ 15 = 0 →
      (s.chip.part (s.chip.partNum key)).clus.getLsbD (k / 1024) = true → k ≠ key →
      ((s.chip.co k = none ∨ ∃ m, s.chip.co k = some m ∧ m.lid ≠ lid) → ∀ i ∈ [Instr.cresume a, .ckill a],
        exec i s = .next (s.retired key co co.advance))
      ∧ (∀ m, s.chip.co k = some m → m.lid = lid → m.state = .faulted → m.cause ≠ 0x14 → co.state = .running →
          (s.chip.readSlot k).2.slotPoisoned k (s.chip.readSlot k).1 = false →
          s.chip.openedBy (spireOf (k / 256)) k = none →
          ∃ t m', exec (.cresume a) s = .next t ∧ t.chip.co k = some m' ∧ m'.state = .ready ∧ m'.nobk = true
            ∧ m'.rtime = s.chip.time ∧ t.chip.co key = some co.advance)
      ∧ (∀ m, s.chip.co k = some m → m.lid = lid → m.state ≠ .parked → m.state ≠ .exited →
          ∃ t m', exec (.ckill a) s = .next t ∧ t.chip.co k = some m' ∧ m'.state = .exited))

/-! ### Vector instructions (R229-R231, R235, R236, R353-R381) -/

namespace Sys2Proof.Claims

/-- The vector words of majors 0x40 to 0x51 that wait for nothing at issue, each with the scalar values that its entry
captures. -/
def vectorWords (d a b : BitVec 5) (c e n : BitVec 1) (m o : BitVec 3) (g h : BitVec 2) (co : Coroutine) : List (Instr × Word × Word) :=
  ([.vadd d a b c e m, .vsub d a b c e m, .vmul d a b c e m, .vmulh d a b c e m, .vmac d a b c e m, .vmin d a b c e m,
    .vmax d a b c e m, .vminu d a b c e m, .vmaxu d a b c e m, .vsadd d a b c e m, .vssub d a b c e m, .vabs d a c m,
    .vand d a b c e m, .vor d a b c e m, .vxor d a b c e m, .vsll d a b c e m, .vsrl d a b c e m, .vsra d a b c e m,
    .vcmp d a b c e o, .vmerge d a b c e m] : List Instr).map (fun i => (i, 0, 0))
  ++ ([.vfadd d a b c e m, .vfsub d a b c e m, .vfmul d a b c e m, .vfma d a b c e m, .vfnma d a b c e m, .vfmin d a b c e m,
    .vfmax d a b c e m, .vfdiv d a b c e m, .vfsqrt d a c m, .vfrsq d a c m, .vfexp2 d a c m, .vfsgn d a b c e m,
    .vfcmp d a b c e g, .vfcvt d a c m o, .vfredsum d a b c e m, .vfredmax d a b c e m, .vfredmin d a b c e m,
    .vrope d a b c e m] : List Instr).map (fun i => (i, 0, 0))
  ++ ([.vredsum d a b c e m, .vredmax d a b c e m, .vredmin d a b c e m, .vgather d a b c e m, .vcompress d a c m, .vscan d a c m,
    .vtopk a b c e m, .vmand d a b, .vmor d a b, .vmxor d a b, .vmnot d a, .vmpopc d a, .vmfirst d a, .vid d m,
    .vshape d a c m] : List Instr).map (fun i => (i, 0, 0))
  ++ ([(.vslideup d a b c m, 0, co.xr b), (.vslidedn d a b c m, 0, co.xr b), (.vmvs d a b c, 0, co.xr b),
    (.vtopkr d a, co.xr a, 0), (.vmvx d a m, co.xr a, 0), (.vscld d a b, co.xr a, co.xr b), (.vscst d a b, co.xr a, co.xr b),
    (.vld d a h c n m g, co.xr a, 0), (.vlds d a b c n m g, co.xr a, co.xr b), (.vldx d a b c n m g, co.xr a, 0),
    (.vldff d a h c n m g, co.xr a, 0), (.vst d a h c n m g, co.xr a, 0), (.vsts d a b c n m g, co.xr a, co.xr b),
    (.vstx d a b c n m g, co.xr a, 0)] : List (Instr × Word × Word))

/-- The entry of a vector instruction that a coroutine issues: the scalar operands' values, and the captured `VL`, `VTYPE`,
`VSTART`, `FRM`, `ROPECFG` and `TOPKN.CAP` (R235, R353). -/
def entryOf (i : Instr) (key : Nat) (co : Coroutine) (u v : Word) : VEntry :=
  { op := i, slot := key % 256, pc := co.pc, s1 := u, s2 := v, vl := co.vl, vstart := co.vstart, vtype := co.vtype,
    frm := co.frm.toNat, rope := co.ropecfg, cap := co.topkn.toNat, asid := co.asid, sup := co.sup,
    pfx := if co.pp then some co.pfx else none, seqs := [], wrote := [] }

/-- The state after a vector instruction has entered the queue of its core behind the older ones: its coroutine is `co'`. -/
def queued (s : State) (key : Nat) (co' : Coroutine) (e : VEntry) : State :=
  { s with chip := (s.chip.modCore (key / 256) (fun k => { k with vq := k.vq ++ [e] })).setCo key co' }

/-- A coroutine after it has issued a vector instruction: `VSTART` is 0, it is at the next instruction, `NOBK` and a prefix
taken are used up. -/
def issued (co : Coroutine) : Coroutine := { co with vstart := 0, pc := co.pc + 4, nobk := false, pp := false }

end Sys2Proof.Claims

/-- R235, R353 and R236: a vector instruction enters its core's queue with the values it captures, and the coroutine goes on
with `VSTART` 0; one whose result is uniform or affine executes at once where no entry touches its registers, and the
blocks of its registers follow (R232, R233); while
the queue is full the front end waits. `VTOPKI` also sets `TOPKN.CAP` at issue (R371), and a KV access enters with its handle
and position (R432). -/
def Sys2Proof.Claims.VectorInstructionsIssue : Prop :=
  ∀ s key co, Issues s key co → co.estepEl = false → ∀ (d a b : BitVec 5) (c e n : BitVec 1) (m o : BitVec 3) (g h : BitVec 2),
    (∀ f ∈ vectorWords d a b c e n m o g h co, vectorPre f.1 co = none →
      ((s.chip.pathFree key f.1 = false ∨ scalarPathSpec (entryOf f.1 key co f.2.1 f.2.2) co = none) →
        ((s.chip.core (key / 256)).vq.length < 32 →
          exec f.1 s = .next (queued s key (issued co) (entryOf f.1 key co f.2.1 f.2.2)))
        ∧ (32 ≤ (s.chip.core (key / 256)).vq.length → exec f.1 s = .next s))
      ∧ ∀ sp, s.chip.pathFree key f.1 = true → scalarPathSpec (entryOf f.1 key co f.2.1 f.2.2) co = some sp →
        exec f.1 s = .next { s with chip := (s.chip.setCo key { sp.run (entryOf f.1 key co f.2.1 f.2.2) (issued co) with
          nobk := false }).settlePool key ((vectorRegs f.1).map BitVec.toNat) })
    ∧ ((s.chip.core (key / 256)).vq.length < 32 →
      exec (.vtopki a) s = .next (queued s key
        { issued co with topkn := BitVec.ofNat 32 (if (co.xr a).toNat % 256 = 0 ∨ 128 < (co.xr a).toNat % 256 then 128
            else (co.xr a).toNat % 256) } (entryOf (.vtopki a) key co 0 0))
      ∧ ∀ ds, s.chip.walkDesc (co.xr a) co.asid = .inr ds → sewBits co.vtype = 8 * ds.es →
        ∀ i ∈ [Instr.vldkv d a b c n m e, .vstkv d a b c n m e],
          exec i s = .next (queued s key (issued co) (entryOf i key co (co.xr a) (co.xr b))))

/-- R359, R362, R372, R375 and R377: a floating-point vector instruction at SEW 8 or with `FRM.RM` above 4, and one whose width
condition fails, traps `RSV` before it has any effect. -/
def Sys2Proof.Claims.VectorWidthsTrapReserved : Prop :=
  ∀ s key co, Issues s key co → s.chip.undrained key = false →
    ∀ (d a b : BitVec 5) (c e n : BitVec 1) (m o : BitVec 3) (g h : BitVec 2),
    (sewBits co.vtype = 8 ∨ 5 ≤ co.frm.toNat → ∀ i ∈ [Instr.vfadd d a b c e m, .vfsub d a b c e m, .vfmul d a b c e m,
        .vfma d a b c e m, .vfnma d a b c e m, .vfmin d a b c e m, .vfmax d a b c e m, .vfdiv d a b c e m, .vfsqrt d a c m,
        .vfrsq d a c m, .vfexp2 d a c m, .vfsgn d a b c e m, .vfcmp d a b c e g, .vfcvt d a c m o, .vfredsum d a b c e m,
        .vfredmax d a b c e m, .vfredmin d a b c e m, .vrope d a b c e m],
      exec i s = .next (s.trapped key co 0x02 (wordAt i)))
    ∧ (sewBits co.vtype = 8 ∨ sewBits co.vtype = 64 → ∀ i ∈ [Instr.vtopk a b c e m, .vrope d a b c e m],
      exec i s = .next (s.trapped key co 0x02 (wordAt i)))
    ∧ (sewBits co.vtype = 16 → ∀ k ∈ [4, 5], exec (.vfcvt d a c m (BitVec.ofNat 3 k)) s
        = .next (s.trapped key co 0x02 (wordAt (.vfcvt d a c m (BitVec.ofNat 3 k)))))
    ∧ (sewBits co.vtype ≠ 32 → ∀ k ∈ [6, 7], exec (.vfcvt d a c m (BitVec.ofNat 3 k)) s
        = .next (s.trapped key co 0x02 (wordAt (.vfcvt d a c m (BitVec.ofNat 3 k)))))
    ∧ (sewBits co.vtype < 8 * 2 ^ g.toNat → ∀ i ∈ [Instr.vld d a h c n m g, .vlds d a b c n m g, .vldx d a b c n m g,
        .vldff d a h c n m g, .vst d a h c n m g, .vsts d a b c n m g, .vstx d a b c n m g],
      exec i s = .next (s.trapped key co 0x02 (wordAt i)))

/-- R354, R355 and R431: `VSETL` sets `VTYPE` and gives `VL` and `x[d]` the least of the request and VLMAX; `VSETLG` the same, or
the length its gang's grant holds for that SEW and request; `KVSETRUN` gives the length of the run of positions. -/
def Obligations.VectorLengthResults : Prop :=
  ∀ s key co, Issues s key co →
    (∀ (d a : BitVec 5) (t : BitVec 8) (n : Nat), n = Min.min (co.xr a).toNat (2048 / (8 * 2 ^ (t.toNat % 4))) →
      exec (.vsetl d a t) s = .next (s.retired key co
        { (co.setX d (BitVec.ofNat 64 n)).advance with vtype := t.toNat, vl := n })
      ∧ (∀ g, mget s.chip.gangs co.gang = some g →
        (∀ len, g.grant = some (t.toNat % 4, co.xr a, len) →
          exec (.vsetlg d a t) s = .next (s.retired key co
            { (co.setX d (BitVec.ofNat 64 len)).advance with vtype := t.toNat, vl := len }))
        ∧ ((∀ len, g.grant ≠ some (t.toNat % 4, co.xr a, len)) → co.quiet →
          ∃ u, exec (.vsetlg d a t) s = .next u
            ∧ u.chip.co key = some { (co.setX d (BitVec.ofNat 64 n)).advance with vtype := t.toNat, vl := n }
            ∧ mget u.chip.gangs co.gang = some { g with grant := some (t.toNat % 4, co.xr a, n) }
            ∧ (∀ k ≠ co.gang, mget u.chip.gangs k = mget s.chip.gangs k) ∧ u.chip.mem = s.chip.mem)))
    ∧ ∀ (d a b : BitVec 5) (f : Nat) (ds : Desc) (c : Chip), (co.sup = false → s.chip.kvRecordFor (key / 1024) (co.xr a) (co.xr b).toNat = none) →
        s.chip.kvWalk (key / 1024) (co.xr a) (co.xr b).toNat co.asid = (.inr (f, ds), c) →
        exec (.kvsetrun d a b) s = .next (s.retiredWith key co false (c.setCo key (co.setX d (BitVec.ofNat 64
          (Min.min (ds.bt - (co.xr b).toNat % ds.bt) (ds.limit - (co.xr b).toNat)))).advance))

namespace Sys2Proof.Claims

/-- The oldest entry of a core's vector queue may complete in one step: the clocks run, `e` stands before `rest`, its
coroutine has not exited, has taken no trap and does not stop after each element group, and it waits for no tile and for no
store to a device. -/
structure Heads (s : State) (core : BitVec 9) (e : VEntry) (rest : List VEntry) (co : Coroutine) : Prop where
  clocks : s.keep.power.halted = false
  first : (s.chip.core core.toNat).vq = e :: rest
  slot : e.slot < 256
  holds : s.chip.co (coKey core.toNat e.slot) = some co
  lives : co.state ≠ .exited
  trapless : co.due = none
  whole : co.estepEl = false
  free : e.seqs = []
  ready : s.chip.entryWaits (coKey core.toNat e.slot) co e = false

/-- The state after the oldest entry has completed: it has left the queue, its coroutine is `co'`, the blocks of its registers
follow (R232, R233), and nothing else has changed. -/
def completed (s : State) (core : BitVec 9) (e : VEntry) (rest : List VEntry) (co' : Coroutine) : State :=
  let key := coKey core.toNat e.slot
  let c := (s.chip.setCo key co').modCore core.toNat (fun k => { k with vq := rest })
  { s with chip := c.settlePool key ((vectorRegs e.op).map BitVec.toNat) }

/-- Element `j` lies in an entry's range and is governed by a mask field. -/
def Governed (e : VEntry) (co : Coroutine) (m : BitVec 3) (j : Nat) : Prop :=
  e.vstart ≤ j ∧ j < e.vl ∧ (m = 0 ∨ (co.mr m.toNat).getLsbD j = true)

/-- The same from element 0 on, as the whole instructions take it (R358). -/
def GovernedWhole (e : VEntry) (co : Coroutine) (m : BitVec 3) (j : Nat) : Prop :=
  j < e.vl ∧ (m = 0 ∨ (co.mr m.toNat).getLsbD j = true)

/-- A number modulo 2^W from an integer. -/
def wrapped (w : Nat) (v : Int) : Nat := (v % ((2 ^ w : Nat) : Int)).toNat

/-- The elementwise integer instructions and moves: the instruction, its mask field, and its element result of width `w` from
the elements A, B and the old destination D, at index `j` (R360, R364, R366). -/
def integerTable (d a b : BitVec 5) (c e : BitVec 1) (m : BitVec 3) (co : Coroutine) (w : Nat) (s1 : Word) :
    List (Instr × BitVec 3 × (Nat → Nat → Nat → Nat → Nat)) :=
  [(.vadd d a b c e m, m, fun _ x y _ => (x + y) % 2 ^ w),
   (.vsub d a b c e m, m, fun _ x y _ => wrapped w ((x : Int) - y)),
   (.vmul d a b c e m, m, fun _ x y _ => x * y % 2 ^ w),
   (.vmulh d a b c e m, m, fun _ x y _ => wrapped w (signedOf w x * signedOf w y / 2 ^ w)),
   (.vmac d a b c e m, m, fun _ x y z => (z + x * y) % 2 ^ w),
   (.vmin d a b c e m, m, fun _ x y _ => wrapped w (Min.min (signedOf w x) (signedOf w y))),
   (.vmax d a b c e m, m, fun _ x y _ => wrapped w (Max.max (signedOf w x) (signedOf w y))),
   (.vminu d a b c e m, m, fun _ x y _ => Min.min x y),
   (.vmaxu d a b c e m, m, fun _ x y _ => Max.max x y),
   (.vsadd d a b c e m, m, fun _ x y _ => wrapped w (Max.max (-2 ^ (w - 1)) (Min.min (2 ^ (w - 1) - 1) (signedOf w x + signedOf w y)))),
   (.vssub d a b c e m, m, fun _ x y _ => wrapped w (Max.max (-2 ^ (w - 1)) (Min.min (2 ^ (w - 1) - 1) (signedOf w x - signedOf w y)))),
   (.vabs d a c m, m, fun _ x _ _ => wrapped w |signedOf w x|),
   (.vand d a b c e m, m, fun _ x y _ => x &&& y),
   (.vor d a b c e m, m, fun _ x y _ => x ||| y),
   (.vxor d a b c e m, m, fun _ x y _ => x ^^^ y),
   (.vsll d a b c e m, m, fun _ x y _ => x * 2 ^ (y % w) % 2 ^ w),
   (.vsrl d a b c e m, m, fun _ x y _ => x / 2 ^ (y % w)),
   (.vsra d a b c e m, m, fun _ x y _ => wrapped w (signedOf w x / 2 ^ (y % w))),
   (.vmerge d a b c e m, 0, fun j x y _ => if (co.mr m.toNat).getLsbD j then x else y),
   (.vmvx d a m, m, fun _ _ _ _ => s1.toNat % 2 ^ w),
   (.vid d m, m, fun j _ _ _ => j % 2 ^ w),
   (.vshape d a c m, m, fun _ x _ _ => x)]

/-- A floating-point element result rounded once, with its flags. -/
def once (w rm : Nat) (v : FNum × Flags) : Nat × Flags :=
  ((roundNum v.1 (sewFmt w) rm).1, v.2 ||| (roundNum v.1 (sewFmt w) rm).2)

/-- The elementwise floating-point instructions: the instruction and its element result, of width `w` under rounding mode
`rm`, from the elements A, B and D (R359, R361, R362). -/
def floatTable (d a b : BitVec 5) (c e : BitVec 1) (m : BitVec 3) (w rm : Nat) : List (Instr × (Nat → Nat → Nat → Nat × Flags)) :=
  let r := readFloat (sewFmt w)
  [(.vfadd d a b c e m, fun x y _ => once w rm (fAdd (r x) (r y) rm)),
   (.vfsub d a b c e m, fun x y _ => once w rm (fAdd (r x) (r y).negate rm)),
   (.vfmul d a b c e m, fun x y _ => once w rm (fMul (r x) (r y))),
   (.vfma d a b c e m, fun x y z => once w rm (fMulAdd (r x) (r y) (r z) rm)),
   (.vfnma d a b c e m, fun x y z => once w rm (fMulAdd (r x).negate (r y) (r z) rm)),
   (.vfmin d a b c e m, fun x y _ => once w rm (fMin (r x) (r y))),
   (.vfmax d a b c e m, fun x y _ => once w rm (fMax (r x) (r y))),
   (.vfdiv d a b c e m, fun x y _ => once w rm (fDiv (r x) (r y))),
   (.vfsqrt d a c m, fun x _ _ => once w rm (fSqrt (r x))),
   (.vfrsq d a c m, fun x _ _ => once w rm (fRsqrt (r x))),
   (.vfexp2 d a c m, fun x _ _ => once w rm (fExp2 (r x))),
   (.vfsgn d a b c e m, fun x y _ => if (r x).isNaN then (canonicalNaN (sewFmt w), if (r x).isSig then flagNV else 0)
      else (x % 2 ^ (w - 1) + y / 2 ^ (w - 1) * 2 ^ (w - 1), 0)),
   (.vfcvt d a c m 0, fun x _ _ => roundTo (.ofInt (signedOf w x)) (sewFmt w) rm),
   (.vfcvt d a c m 1, fun x _ _ => roundTo (.ofInt x) (sewFmt w) rm),
   (.vfcvt d a c m 2, fun x _ _ => (wrapped w (toIntRange (r x) (-2 ^ (w - 1)) (2 ^ (w - 1) - 1) rm).1,
      (toIntRange (r x) (-2 ^ (w - 1)) (2 ^ (w - 1) - 1) rm).2)),
   (.vfcvt d a c m 3, fun x _ _ => (wrapped w (toIntRange (r x) 0 (2 ^ w - 1) rm).1, (toIntRange (r x) 0 (2 ^ w - 1) rm).2)),
   (.vfcvt d a c m 4, fun x _ _ => toFloatFmt (readFloat (sewFmt (w / 2)) (x % 2 ^ (w / 2))) (sewFmt w) rm),
   (.vfcvt d a c m 5, fun x _ _ => toFloatFmt (r x) (sewFmt (w / 2)) rm),
   (.vfcvt d a c m 6, fun x _ _ => toFloatFmt (readFloat fmtB16 (x % 2 ^ 16)) fmtF32 rm),
   (.vfcvt d a c m 7, fun x _ _ => toFloatFmt (readFloat fmtF32 x) fmtB16 rm)]

end Sys2Proof.Claims

/-- R356, R360, R364, R366 and R229-R231: when the entry of an elementwise integer instruction or move completes, each active
element of its destination is the table's result, every other element is as it was, whatever the registers' shapes, and
no other register, flag or byte of memory changes. -/
def Obligations.VectorIntegerElementResults : Prop :=
  ∀ s core e rest co, Heads s core e rest co → ∀ (d a b : BitVec 5) (c n : BitVec 1) (m : BitVec 3),
    ∀ f ∈ integerTable d a b c n m co e.sew e.s1, e.op = f.1 →
      ∃ r, exec (.vectorEntryComplete core) s = .next (completed s core e rest (co.setV d r))
        ∧ ∀ j < 2048 / e.sew,
          (Governed e co f.2.1 j →
            r.elem j e.sew = f.2.2 j ((co.vr a).elem j e.sew) ((co.vr b).elem j e.sew) ((co.vr d).elem j e.sew))
          ∧ (¬ Governed e co f.2.1 j → r.elem j e.sew = (co.vr d).elem j e.sew)

/-- R356, R359, R361 and R362: the same of the elementwise floating-point instructions; the flags of the active elements,
and of no other, are ORed into `FFLAGS`. -/
def Obligations.VectorFloatElementResults : Prop :=
  ∀ s core e rest co, Heads s core e rest co → ∀ (d a b : BitVec 5) (c n : BitVec 1) (m : BitVec 3),
    ∀ f ∈ floatTable d a b c n m e.sew e.frm, e.op = f.1 → widthRefused f.1 e.sew = false → e.sew ≠ 8 →
      ∃ r fl, exec (.vectorEntryComplete core) s
          = .next (completed s core e rest { co.setV d r with fflags := co.fflags ||| fl })
        ∧ (∀ j < 2048 / e.sew,
          (Governed e co m j →
            r.elem j e.sew = (f.2 ((co.vr a).elem j e.sew) ((co.vr b).elem j e.sew) ((co.vr d).elem j e.sew)).1)
          ∧ (¬ Governed e co m j → r.elem j e.sew = (co.vr d).elem j e.sew))
        ∧ ∀ i < 6, (fl.getLsbD i = true ↔ ∃ j < 2048 / e.sew, Governed e co m j
          ∧ (f.2 ((co.vr a).elem j e.sew) ((co.vr b).elem j e.sew) ((co.vr d).elem j e.sew)).2.getLsbD i = true)

/-- R363, R365 and R366: the compares and the mask operations write the bits of their range and no other; `VMPOPC`,
`VMFIRST` and `VMVS` write their scalar register when they complete. -/
def Sys2Proof.Claims.VectorMaskResults : Prop :=
  ∀ s core e rest co, Heads s core e rest co → ∀ (d a b : BitVec 5) (c n : BitVec 1), d.toNat < 8 →
    (∀ (o : BitVec 3), ∀ f ∈ [((0 : BitVec 3), fun x y : Nat => x = y), (1, fun x y => x ≠ y),
        (2, fun x y => signedOf e.sew x < signedOf e.sew y), (3, fun x y => signedOf e.sew y ≤ signedOf e.sew x),
        (4, fun x y => x < y), (5, fun x y => y ≤ x)], o = f.1 → e.op = .vcmp d a b c n o →
      ∃ v : BitVec 256, exec (.vectorEntryComplete core) s = .next (completed s core e rest (co.setM d.toNat v))
        ∧ ∀ j < 256, (e.vstart ≤ j → j < e.vl → j < 2048 / e.sew →
            (v.getLsbD j = true ↔ f.2 ((co.vr a).elem j e.sew) ((co.vr b).elem j e.sew)))
          ∧ (j < e.vstart ∨ e.vl ≤ j → v.getLsbD j = (co.mr d.toNat).getLsbD j))
    ∧ (∀ (o : BitVec 2), e.op = .vfcmp d a b c n o →
      ∃ (v : BitVec 256) (fl : Flags), exec (.vectorEntryComplete core) s
          = .next (completed s core e rest { co.setM d.toNat v with fflags := co.fflags ||| fl })
        ∧ (∀ j < 256, (e.vstart ≤ j → j < e.vl → j < 2048 / e.sew → v.getLsbD j
            = (fCompare o.toNat (readFloat (sewFmt e.sew) ((co.vr a).elem j e.sew)) (readFloat (sewFmt e.sew) ((co.vr b).elem j e.sew))).1)
          ∧ (j < e.vstart ∨ e.vl ≤ j → v.getLsbD j = (co.mr d.toNat).getLsbD j))
        ∧ ∀ i < 6, (fl.getLsbD i = true ↔ ∃ j < 2048 / e.sew, e.vstart ≤ j ∧ j < e.vl
          ∧ (fCompare o.toNat (readFloat (sewFmt e.sew) ((co.vr a).elem j e.sew))
              (readFloat (sewFmt e.sew) ((co.vr b).elem j e.sew))).2.getLsbD i = true))
    ∧ (∀ f ∈ [(Instr.vmand d a b, fun x y => x && y), (.vmor d a b, fun x y => x || y), (.vmxor d a b, fun x y => x ^^ y),
        (.vmnot d a, fun x _ => !x)], e.op = f.1 →
      ∃ v : BitVec 256, exec (.vectorEntryComplete core) s = .next (completed s core e rest (co.setM d.toNat v))
        ∧ ∀ j < 256, v.getLsbD j = if e.vstart ≤ j ∧ j < e.vl then f.2 ((co.mr a.toNat).getLsbD j) ((co.mr b.toNat).getLsbD j)
            else (co.mr d.toNat).getLsbD j)

/-- R365 and R366: `VMPOPC` counts the set bits below `VL`, `VMFIRST` finds the lowest, and `VMVS` moves an element,
sign-extended; each writes its scalar register when its entry completes, and nothing else. -/
def Sys2Proof.Claims.VectorScalarResults : Prop :=
  ∀ s core e rest co, Heads s core e rest co → ∀ (d a b : BitVec 5) (c : BitVec 1),
    (e.op = .vmpopc d a → exec (.vectorEntryComplete core) s = .next (completed s core e rest (co.setX d (BitVec.ofNat 64
      ((List.range e.vl).map (fun i => (co.mr a.toNat).toNat / 2 ^ i % 2)).sum))))
    ∧ (e.op = .vmfirst d a → ∃ v : Word, exec (.vectorEntryComplete core) s = .next (completed s core e rest (co.setX d v))
      ∧ ((v = BitVec.ofInt 64 (-1) ∧ ∀ i < e.vl, (co.mr a.toNat).getLsbD i = false)
        ∨ ∃ n < e.vl, v = BitVec.ofNat 64 n ∧ (co.mr a.toNat).getLsbD n = true ∧ ∀ i < n, (co.mr a.toNat).getLsbD i = false))
    ∧ (e.op = .vmvs d a b c → exec (.vectorEntryComplete core) s = .next (completed s core e rest (co.setX d
      (if e.s2.toNat < 2048 / e.sew then BitVec.ofInt 64 (signedOf e.sew ((co.vr a).elem e.s2.toNat e.sew)) else 0))))

namespace Sys2Proof.Claims

/-- The active elements of a register for a whole instruction, in order. -/
def activeElems (e : VEntry) (co : Coroutine) (m : BitVec 3) (a : BitVec 5) : List Nat :=
  ((List.range (2048 / e.sew)).filter (fun j => decide (j < e.vl) && (decide (m = 0) || (co.mr m.toNat).getLsbD j))).map
    (fun j => (co.vr a).elem j e.sew)

/-- A pair of the top-k buffer ranks no later than another (R372): a higher score first, among equal scores the lower
index; every NaN below every number. -/
def RanksNoLater (p q : BitVec 32 × BitVec 32) : Prop := ranksBefore q p = false

/-- The pairs that a `VTOPK` streams: the scores widened to F32, with the indices (R372). -/
def streamed (e : VEntry) (co : Coroutine) (m : BitVec 3) (a b : BitVec 5) : List (BitVec 32 × BitVec 32) :=
  ((List.range (2048 / e.sew)).filter (fun j => decide (j < e.vl) && (decide (m = 0) || (co.mr m.toNat).getLsbD j))).map (fun j =>
    (BitVec.ofNat 32 (if e.sew = 16 then (toFloatFmt (readFloat fmtF16 ((co.vr a).elem j 16)) fmtF32 0).1
      else (co.vr a).elem j e.sew), BitVec.ofNat 32 ((co.vr b).elem j e.sew)))

end Sys2Proof.Claims

/-- R358, R367, R368 and R369: what the integer reductions and the permutes leave in their destination when they complete:
element 0, or every active element; the other elements are as they were. `VSTART` counts as 0. -/
def Sys2Proof.Claims.VectorWholeResults : Prop :=
  ∀ s core e rest co, Heads s core e rest co → ∀ (d a b : BitVec 5) (c n : BitVec 1) (m : BitVec 3),
    (∀ i ∈ [Instr.vredsum d a b c n m, .vredmax d a b c n m, .vredmin d a b c n m], e.op = i →
      ∃ r, exec (.vectorEntryComplete core) s = .next (completed s core e rest (co.setV d r))
        ∧ (i = .vredsum d a b c n m →
            r.elem 0 e.sew = ((co.vr b).elem 0 e.sew + (activeElems e co m a).sum) % 2 ^ e.sew)
        ∧ (i = .vredmax d a b c n m → r.elem 0 e.sew ∈ (co.vr b).elem 0 e.sew :: activeElems e co m a
            ∧ ∀ x ∈ (co.vr b).elem 0 e.sew :: activeElems e co m a, signedOf e.sew x ≤ signedOf e.sew (r.elem 0 e.sew))
        ∧ (i = .vredmin d a b c n m → r.elem 0 e.sew ∈ (co.vr b).elem 0 e.sew :: activeElems e co m a
            ∧ ∀ x ∈ (co.vr b).elem 0 e.sew :: activeElems e co m a, signedOf e.sew (r.elem 0 e.sew) ≤ signedOf e.sew x)
        ∧ ∀ j < 2048 / e.sew, j ≠ 0 → r.elem j e.sew = (co.vr d).elem j e.sew)
    ∧ (∀ f ∈ [(Instr.vslideup d a b c m, fun j : Nat => if e.s2.toNat ≤ j then some ((co.vr a).elem (j - e.s2.toNat) e.sew) else none),
        (.vslidedn d a b c m, fun j => some (if j + e.s2.toNat < 2048 / e.sew then (co.vr a).elem (j + e.s2.toNat) e.sew else 0)),
        (.vgather d a b c n m, fun j => some (if (co.vr b).elem j e.sew < 2048 / e.sew
          then (co.vr a).elem ((co.vr b).elem j e.sew) e.sew else 0)),
        (.vscan d a c m, fun j => some ((activeElems { e with vl := Min.min e.vl (j + 1) } co m a).sum % 2 ^ e.sew))], e.op = f.1 →
      ∃ r, exec (.vectorEntryComplete core) s = .next (completed s core e rest (co.setV d r))
        ∧ ∀ j < 2048 / e.sew,
          (GovernedWhole e co m j → r.elem j e.sew = (f.2 j).getD ((co.vr d).elem j e.sew))
          ∧ (¬ GovernedWhole e co m j → r.elem j e.sew = (co.vr d).elem j e.sew))
    ∧ (m ≠ 0 → e.op = .vcompress d a c m →
      ∃ r, exec (.vectorEntryComplete core) s = .next (completed s core e rest (co.setV d r))
        ∧ ∀ j < 2048 / e.sew, r.elem j e.sew = (activeElems e co m a)[j]?.getD ((co.vr d).elem j e.sew))

/-- R371, R372 and R373: `VTOPKI` empties the buffer; `VTOPK` leaves in it the first `CAP` pairs, in rank order, of those it
held and those it streams; `VTOPKR` writes the held indices in ascending order from `x[a]` on, and all ones beyond them. -/
def Sys2Proof.Claims.VectorTopKResults : Prop :=
  ∀ s core e rest co, Heads s core e rest co → ∀ (d a b : BitVec 5) (c n : BitVec 1) (m : BitVec 3),
    (e.op = .vtopki a → exec (.vectorEntryComplete core) s = .next (completed s core e rest { co with topk := [], ku := true }))
    ∧ (e.op = .vtopk a b c n m → co.topk.Pairwise RanksNoLater →
      ∃ kept dropped, exec (.vectorEntryComplete core) s = .next (completed s core e rest { co with topk := kept })
        ∧ (kept ++ dropped).Perm (co.topk ++ streamed e co m a b) ∧ (kept ++ dropped).Pairwise RanksNoLater
        ∧ kept.length = Min.min e.cap (kept ++ dropped).length)
    ∧ (e.op = .vtopkr d a → ∃ (r : VReg) (l : List Nat), exec (.vectorEntryComplete core) s = .next (completed s core e rest (co.setV d r))
      ∧ l.Perm (co.topk.map (fun p => p.2.toNat)) ∧ l.Pairwise (· ≤ ·)
      ∧ ∀ j < 2048 / e.sew,
        (e.vl ≤ j → r.elem j e.sew = (co.vr d).elem j e.sew)
        ∧ (j < e.vl → r.elem j e.sew = match l[e.s1.toNat + j]? with
          | some x => x % 2 ^ e.sew
          | none => 2 ^ e.sew - 1))

namespace Sys2Proof.Claims

/-- Node `i` at a level of the pairwise tree, over the leaves `node` (R322): an absent child gives way to the other, and two
present ones are added and rounded. -/
def treeSum (f : FFmt) (rm : Nat) (node : Nat → Option Nat) (level i : Nat) : Option Nat × Flags :=
  match level with
  | 0 => (node i, 0)
  | k + 1 =>
    let l := treeSum f rm node k (2 * i)
    let h := treeSum f rm node k (2 * i + 1)
    match l.1, h.1 with
    | none, y => (y, l.2 ||| h.2)
    | some x, none => (some x, l.2 ||| h.2)
    | some x, some y =>
      let v := fAdd (readFloat f x) (readFloat f y) rm
      (some (roundNum v.1 f rm).1, l.2 ||| h.2 ||| v.2 ||| (roundNum v.1 f rm).2)

/-- A leaf of the tree of a `VFREDSUM`: the active element, or absent. -/
def leaf (e : VEntry) (co : Coroutine) (m : BitVec 3) (a : BitVec 5) (i : Nat) : Option Nat :=
  if i < e.vl ∧ (m = 0 ∨ (co.mr m.toNat).getLsbD i = true) then some ((co.vr a).elem i e.sew) else none

/-- The state after a floating-point reduction has completed: `r` in its destination, the flags raised. -/
def reduced (s : State) (core : BitVec 9) (e : VEntry) (rest : List VEntry) (co : Coroutine) (d : BitVec 5) (r : VReg) (fl : Flags) : State :=
  completed s core e rest { co.setV d r with fflags := co.fflags ||| fl }

end Sys2Proof.Claims

/-- R322 and R367: `VFREDSUM` adds the active elements by the pairwise tree over the element index, and the root to element 0 of
`vb`; `VFREDMAX` and `VFREDMIN` leave the greatest or least number among them, a NaN only where all are. -/
def Sys2Proof.Claims.VectorFloatReductionResults : Prop :=
  ∀ s core e rest co, Heads s core e rest co → e.sew ≠ 8 → ∀ (d a b : BitVec 5) (c n : BitVec 1) (m : BitVec 3),
    (∀ level, e.op = .vfredsum d a b c n m → e.vl ≤ 2 ^ level → (level = 0 ∨ 2 ^ (level - 1) < e.vl) → 2 ^ level ≤ 2048 / e.sew →
      ∃ r fl, exec (.vectorEntryComplete core) s = .next (reduced s core e rest co d r fl)
        ∧ (r.elem 0 e.sew, fl) = (match treeSum (sewFmt e.sew) e.frm (leaf e co m a) level 0 with
          | (none, g) => ((co.vr b).elem 0 e.sew, g)
          | (some x, g) => ((once e.sew e.frm (fAdd (readFloat (sewFmt e.sew) ((co.vr b).elem 0 e.sew)) (readFloat (sewFmt e.sew) x) e.frm)).1,
              g ||| (once e.sew e.frm (fAdd (readFloat (sewFmt e.sew) ((co.vr b).elem 0 e.sew)) (readFloat (sewFmt e.sew) x) e.frm)).2))
        ∧ ∀ j < 2048 / e.sew, j ≠ 0 → r.elem j e.sew = (co.vr d).elem j e.sew)
    ∧ ∀ f ∈ [(Instr.vfredmax d a b c n m, fun x y : FNum => x.less y), (.vfredmin d a b c n m, fun x y => y.less x)], e.op = f.1 →
      ∃ r fl, exec (.vectorEntryComplete core) s = .next (reduced s core e rest co d r fl)
        ∧ ((∀ x ∈ (co.vr b).elem 0 e.sew :: activeElems e co m a, (readFloat (sewFmt e.sew) x).isNaN = true) →
            r.elem 0 e.sew = canonicalNaN (sewFmt e.sew))
        ∧ ((∃ x ∈ (co.vr b).elem 0 e.sew :: activeElems e co m a, (readFloat (sewFmt e.sew) x).isNaN = false) →
            ∃ x ∈ (co.vr b).elem 0 e.sew :: activeElems e co m a, (readFloat (sewFmt e.sew) x).isNaN = false
              ∧ r.elem 0 e.sew = (roundNum (readFloat (sewFmt e.sew) x) (sewFmt e.sew) 0).1
              ∧ ∀ y ∈ (co.vr b).elem 0 e.sew :: activeElems e co m a,
                  f.2 (readFloat (sewFmt e.sew) x) (readFloat (sewFmt e.sew) y) = false)
        ∧ fl = (if ∃ x ∈ (co.vr b).elem 0 e.sew :: activeElems e co m a, (readFloat (sewFmt e.sew) x).isSig = true then flagNV else 0)
        ∧ ∀ j < 2048 / e.sew, j ≠ 0 → r.elem j e.sew = (co.vr d).elem j e.sew

/-- R375: `VROPE` takes each active even pair below `VL`: canonical NaNs where the configuration is invalid or the position too
large, the pair itself beyond the head dimension, and otherwise the pair rotated by the rounded cosine and sine, each
product sum rounded once; every other element is as it was. -/
def Sys2Proof.Claims.VectorRotationResults : Prop :=
  ∀ s core e rest co, Heads s core e rest co → e.sew = 16 ∨ e.sew = 32 → ∀ (d a b : BitVec 5) (c n : BitVec 1) (m : BitVec 3),
    e.op = .vrope d a b c n m →
    ∃ r fl, exec (.vectorEntryComplete core) s = .next (reduced s core e rest co d r fl)
      ∧ ∀ h, 2 * h + 1 < 2048 / e.sew → ∀ x0 x1 pos, (co.vr a).elem (2 * h) e.sew = x0 → (co.vr a).elem (2 * h + 1) e.sew = x1 →
        (co.vr b).elem (2 * h) e.sew = pos →
        (¬ (Governed e co m (2 * h) ∧ 2 * h + 1 < e.vl) → r.elem (2 * h) e.sew = (co.vr d).elem (2 * h) e.sew
          ∧ r.elem (2 * h + 1) e.sew = (co.vr d).elem (2 * h + 1) e.sew)
        ∧ (Governed e co m (2 * h) → 2 * h + 1 < e.vl →
          (ropeValid e.rope = false ∨ 2 ^ 24 ≤ pos → r.elem (2 * h) e.sew = canonicalNaN (sewFmt e.sew)
            ∧ r.elem (2 * h + 1) e.sew = canonicalNaN (sewFmt e.sew) ∧ fl &&& flagNV = flagNV)
          ∧ (ropeValid e.rope = true → pos < 2 ^ 24 → e.rope.toNat / 2 ^ 32 % 2 ^ 10 ≤ e.rope.toNat / 2 ^ 42 % 2 ^ 9 + 2 * h →
            r.elem (2 * h) e.sew = x0 ∧ r.elem (2 * h + 1) e.sew = x1)
          ∧ (ropeValid e.rope = true → pos < 2 ^ 24 → e.rope.toNat / 2 ^ 42 % 2 ^ 9 + 2 * h < e.rope.toNat / 2 ^ 32 % 2 ^ 10 →
            ∀ u v, ropeAngles e.rope (2 * h) pos = (u, v) →
            r.elem (2 * h) e.sew = (once e.sew e.frm (fAdd (fMul (readFloat (sewFmt e.sew) x0) u).1
              (fMul (readFloat (sewFmt e.sew) x1) v).1.negate e.frm)).1
            ∧ r.elem (2 * h + 1) e.sew = (once e.sew e.frm (fAdd (fMul (readFloat (sewFmt e.sew) x0) v).1
              (fMul (readFloat (sewFmt e.sew) x1) u).1 e.frm)).1))

namespace Sys2Proof.Claims

/-- The coroutine of an entry as the agent of its accesses. -/
def entryAgent (core : BitVec 9) (e : VEntry) (co : Coroutine) : Agent :=
  { co.agent (coKey core.toNat e.slot) with asid := e.asid, sup := e.sup }

/-- The vector memory instructions: the instruction, whether it stores, and the address of element `i` (R377). -/
def memTable (d a b : BitVec 5) (c n : BitVec 1) (m : BitVec 3) (g h : BitVec 2) (e : VEntry) (co : Coroutine) :
    List (Instr × Bool × (Nat → Word)) :=
  [(.vld d a h c n m g, false, fun i => e.s1 + BitVec.ofNat 64 (i * 2 ^ g.toNat)),
   (.vldff d a h c n m g, false, fun i => e.s1 + BitVec.ofNat 64 (i * 2 ^ g.toNat)),
   (.vlds d a b c n m g, false, fun i => e.s1 + BitVec.ofNat 64 i * e.s2),
   (.vldx d a b c n m g, false, fun i => e.s1 + BitVec.ofNat 64 ((co.vr b).elem i e.sew)),
   (.vst d a h c n m g, true, fun i => e.s1 + BitVec.ofNat 64 (i * 2 ^ g.toNat)),
   (.vsts d a b c n m g, true, fun i => e.s1 + BitVec.ofNat 64 i * e.s2),
   (.vstx d a b c n m g, true, fun i => e.s1 + BitVec.ofNat 64 ((co.vr b).elem i e.sew))]

/-- An entry's active elements are the one element `i`. -/
def Lone (e : VEntry) (co : Coroutine) (m : BitVec 3) (i : Nat) : Prop := ∀ j, Governed e co m j ↔ j = i

end Sys2Proof.Claims

/-- R377, R378, R380 and R263, of an access of one active element: a load writes the zero-extended bytes at its address to the
element, and a store writes the element's low bytes there; every other element and every other byte that the translation
leaves is unchanged. The line read is sound and one that its slice reads as memory holds it, the line written one that the slice
may write (`Current`, `Owns`). A misaligned element traps `ALIGN` with `VSTART` and `VPC` at it, and with the entry and the
younger ones in the opaque block. -/
def Obligations.VectorMemoryElementResults : Prop :=
  ∀ s core e rest co, Heads s core e rest co → Memory.wf s.chip.mem → ∀ (d a b : BitVec 5) (c n : BitVec 1) (m : BitVec 3) (g h : BitVec 2),
    8 * 2 ^ g.toNat ≤ e.sew → ∀ f ∈ memTable d a b c n m g h e co, e.op = f.1 → ∀ i, Lone e co m i → i < 2048 / e.sew →
    ((f.2.2 i).toNat % 2 ^ g.toNat = 0 →
      (∀ x c', f.2.1 = false → s.chip.xlate (entryAgent core e co) (f.2.2 i).toNat .load false = (.inr x, c') → x.pol < 2 →
        inWindow x.pa = false → c'.poisoned (lineOf x.pa) = false → c'.latentOf (lineOf x.pa) = Latent.none →
        c'.residentPa x.pa = x.pa → Current c' (x.server (core.toNat / 128)) (lineOf x.pa) →
        ∃ t r, exec (.vectorEntryComplete core) s = .next t ∧ (t.chip.core core.toNat).vq = rest
          ∧ t.chip.co (coKey core.toNat e.slot) = some (co.setV d r)
          ∧ r.elem i e.sew = memReadNat c'.mem x.pa (2 ^ g.toNat)
          ∧ (∀ j < 2048 / e.sew, j ≠ i → r.elem j e.sew = (co.vr d).elem j e.sew) ∧ ∀ q, memRead t.chip.mem q = memRead c'.mem q)
      ∧ ∀ x c', f.2.1 = true → s.chip.xlate (entryAgent core e co) (f.2.2 i).toNat .store false = (.inr x, c') → x.pol < 2 →
        inWindow x.pa = false → Owns c' (core.toNat / 128) x →
        ∃ t, exec (.vectorEntryComplete core) s = .next t ∧ (t.chip.core core.toNat).vq = rest
          ∧ t.chip.co (coKey core.toNat e.slot) = some co
          ∧ (∀ k < 2 ^ g.toNat, memRead t.chip.mem (x.pa + k) = BitVec.ofNat 8 ((co.vr d).elem i e.sew / 256 ^ k))
          ∧ ∀ q, q < x.pa ∨ x.pa + 2 ^ g.toNat ≤ q → memRead t.chip.mem q = memRead c'.mem q)
    ∧ ((f.2.2 i).toNat % 2 ^ g.toNat ≠ 0 → co.state = .running → co.block = [] → co.sup = false →
      s.chip.storesPending (coKey core.toNat e.slot) = false →
      ∃ t co', exec (.vectorEntryComplete core) s = .next t ∧ t.chip.co (coKey core.toNat e.slot) = some co' ∧ co'.state = .faulted
        ∧ co'.cause = 0x04 ∧ co'.faddr = f.2.2 i ∧ co'.vstart = i ∧ co'.vpc = e.pc ∧ co'.epc = co.pc
        ∧ co'.block = e :: rest.filter (fun q => q.slot = e.slot))

/-! ### Engine instructions (R239, R244, R409-R436) -/

namespace Sys2Proof.Claims

/-- The completion token of an asynchronous command passes: it is 0, or it names a beacon that the coroutine may signal
(R393, R410). -/
def TokenReady (c : Chip) (co : Coroutine) : Prop := co.qr 1 = 0 ∨ TokenPasses c .signal co (co.qr 1)

/-- What an asynchronous command holds from its issue (R410). -/
def IssuedBy (q : Cmd) (key : Nat) (co : Coroutine) (tok : Word) : Prop :=
  q.core = key / 256 ∧ q.slot = key % 256 ∧ q.lid = co.lid ∧ q.tok = tok ∧ q.asid = co.asid ∧ q.sup = co.sup ∧ q.status = 0

/-- The copy commands: the instruction, its operation, and its units of length: bytes or stripes, and rows (R426). -/
def copyTable (a b : BitVec 5) (co : Coroutine) : List (Instr × Nat × Nat × Nat) :=
  [(.cpy a b, 0, (co.qr 0).toNat % 2 ^ 48, 1), (.cpy2d a b, 1, (co.qr 0).toNat % 2 ^ 48, (co.qr 2).toNat % 2 ^ 32),
   (.cpyf a b, 2, (co.qr 0).toNat % 2 ^ 48, 1), (.cpysh a b, 3, (co.qr 0).toNat % 2 ^ 48, 1),
   (.rowcopy a b, 6, (co.qr 0).toNat % 2 ^ 16, 1), (.rowfill a b, 7, (co.qr 0).toNat % 2 ^ 16, 1)]

/-- The asynchronous KV commands with their operations (R433). -/
def kvTable (a b : BitVec 5) : List (Instr × Nat) :=
  [(.kvmap a b, 0), (.kvunmap a b, 1), (.kvver a b, 3), (.kvret a b, 4), (.kvfree a b, 7), (.kvpin a b, 8), (.kvunpin a b, 9)]

/-- The network commands that name a node: the instruction, its operation, the register that names it, and how much it moves
(R435). -/
def netTable (a b : BitVec 5) (co : Coroutine) : List (Instr × Nat × Word × Nat) :=
  [(.nput a b, 0, co.xr a, (co.qr 0).toNat % 2 ^ 32), (.nget a b, 1, co.xr b, (co.qr 0).toNat % 2 ^ 32),
   (.namo a b, 2, co.xr a, 1), (.nsig a b, 3, co.xr a, 1)]

/-- The message that completes a command of a core at once: a signal of its token by 1, or none for token 0 (R410). -/
def doneAtOnce (key : Nat) (tok : Word) : List Flying :=
  if tok = 0 then [] else [⟨none, false, false, .signal tok 1 0 3 none, .core (key / 256), 0, false⟩]

end Sys2Proof.Claims

/-- R409, R415 and R416: `ESET` writes one staging register and `EGET` reads one; `MSHAPE` writes the group row counts and gives
their sum; `TSTATE` reports a tile's configuration, fill count and state. -/
def Obligations.EngineRegisterResults : Prop :=
  ∀ s key co, Issues s key co → ∀ (a b t : BitVec 5) (c : BitVec 4),
    (∃ co' : Coroutine, exec (.eset a c) s = .next (s.retired key co co'.advance) ∧ co'.qu = true
      ∧ (∀ i < 16, co'.qr i = if i = c.toNat then co.xr a else co.qr i) ∧ { co' with q := co.q, qu := co.qu } = co)
    ∧ exec (.eget a c) s = .next (s.wrote key co a (co.qr c.toNat))
    ∧ exec (.mshape a b) s = .next (s.retired key co { (co.setX a (BitVec.ofNat 64
        ((List.range 8).map (fun g => (co.xr b).toNat / 256 ^ g % 256)).sum)).advance with mshape := co.xr b })
    ∧ (t.toNat < co.tcount → ∀ p, (s.chip.cluster (key / 1024)).tile (co.tbase + t.toNat) = p →
        exec (.tstate a t) s = .next (s.wrote key co a (BitVec.ofNat 64
          ((if p.configured then p.fmt + p.rows * 2 ^ 8 + p.cols * 2 ^ 20 else 0) + p.fill % 2 ^ 15 * 2 ^ 33
            + (if p.configured = false then 0 else if p.fill ≠ 0 then 1 else if p.drain ≠ 0 then 2 else 3) * 2 ^ 62))))
    ∧ (co.tcount ≤ t.toNat → s.chip.undrained key = false → exec (.tstate a t) s = .next (s.trapped key co 0x0B 0))

/-- R410, R426 and R430: a copy command enters its cluster's copy queue with its operands as they stand, behind the older
ones, and moves nothing yet; one that moves nothing signals its token at once; while the queue is full or the coroutine has
buffered stores the front end waits; a stripe command that is not aligned traps `ALIGN`. -/
def Sys2Proof.Claims.CopyCommandsEnterTheirQueue : Prop :=
  ∀ s key co, Issues s key co → TokenReady s.chip co → ∀ (a b : BitVec 5),
    (s.chip.storesPending key = false → co.quiet →
      (∀ f ∈ copyTable a b co, (6 ≤ f.2.1 → (co.xr a).toNat % 2 ^ 17 = 0 ∧ (f.2.1 = 6 → (co.xr b).toNat % 2 ^ 17 = 0)) →
        (f.2.2.1 * f.2.2.2 ≠ 0 → (s.chip.cluster (key / 1024)).copyQ.length < 64 →
          ∃ (t : State) (q : CopyCmd), exec f.1 s = .next t ∧ t.chip.co key = some co.advance
            ∧ (t.chip.cluster (key / 1024)).copyQ = (s.chip.cluster (key / 1024)).copyQ ++ [q]
            ∧ q.op = f.2.1 ∧ q.dst = (co.xr a).toNat ∧ q.src = (co.xr b).toNat ∧ q.n = f.2.2.1 ∧ q.h = f.2.2.2
            ∧ q.ds = co.qr 3 ∧ q.ss = co.qr 4 ∧ q.next = 0 ∧ IssuedBy q.cmd key co (co.qr 1) ∧ t.chip.mem = s.chip.mem)
        ∧ (f.2.2.1 * f.2.2.2 = 0 → ∃ t : State, exec f.1 s = .next t ∧ t.chip.co key = some co.advance
            ∧ t.chip.msgs = s.chip.msgs ++ doneAtOnce key (co.qr 1) ∧ t.chip.clusters = s.chip.clusters ∧ t.chip.mem = s.chip.mem)
        ∧ (f.2.2.1 * f.2.2.2 ≠ 0 → 64 ≤ (s.chip.cluster (key / 1024)).copyQ.length → exec f.1 s = .next s))
      ∧ ((s.chip.cluster (key / 1024)).copyQ.length < 64 →
        ∃ (t : State) (q : CopyCmd), exec (.publish a) s = .next t ∧ t.chip.co key = some co.advance
          ∧ (t.chip.cluster (key / 1024)).copyQ = (s.chip.cluster (key / 1024)).copyQ ++ [q]
          ∧ q.op = 4 ∧ q.dst = (co.xr a).toNat ∧ IssuedBy q.cmd key co (co.qr 1) ∧ t.chip.mem = s.chip.mem))
    ∧ (s.chip.storesPending key = true → ∀ i ∈ [Instr.cpy a b, .cpy2d a b, .cpyf a b, .cpysh a b, .publish a],
        exec i s = .next s)
    ∧ (s.chip.undrained key = false →
      ((co.xr a).toNat % 2 ^ 17 ≠ 0 → ∀ i ∈ [Instr.rowcopy a b, .rowfill a b],
        exec i s = .next (s.trapped key co 0x04 (co.xr a)))
      ∧ ((co.xr a).toNat % 2 ^ 17 = 0 → (co.xr b).toNat % 2 ^ 17 ≠ 0 →
        exec (.rowcopy a b) s = .next (s.trapped key co 0x04 (co.xr b))))

/-- R410, R433, R435 and R56: an asynchronous KV command enters the KV queue of its cluster, and a network command the network
queue, with their operands as they stand; a network command that names a node without a valid map entry traps `LINK`. -/
def Sys2Proof.Claims.KvAndNetworkCommandsEnterTheirQueues : Prop :=
  ∀ s key co, Issues s key co → co.quiet → ∀ (a b : BitVec 5),
    (s.chip.storesPending key = false → TokenReady s.chip co →
      ((s.chip.cluster (key / 1024)).kvQ.length < 64 → ∀ f ∈ kvTable a b,
        ∃ (t : State) (q : KvCmd), exec f.1 s = .next t ∧ t.chip.co key = some co.advance
          ∧ (t.chip.cluster (key / 1024)).kvQ = (s.chip.cluster (key / 1024)).kvQ ++ [q]
          ∧ q.op = f.2 ∧ q.handle = co.xr a ∧ q.arg = co.xr b ∧ q.q0 = co.qr 0 ∧ IssuedBy q.cmd key co (co.qr 1)
          ∧ t.chip.mem = s.chip.mem)
      ∧ (64 ≤ (s.chip.cluster (key / 1024)).kvQ.length → ∀ f ∈ kvTable a b, exec f.1 s = .next s)
      ∧ ∀ f ∈ netTable a b co, s.chip.noLink (f.2.2.1.toNat / 2 ^ 54) = false →
        (f.2.1 = 2 → (co.xr a).toNat % (if (co.qr 0).getLsbD 4 then 8 else 4) = 0) →
        (f.2.2.2 ≠ 0 → (s.chip.cluster (key / 1024)).netQ.length < 64 →
          ∃ (t : State) (q : NetCmd) (r : List Nat), exec f.1 s = .next t ∧ t.chip.co key = some { co.advance with remote := r }
            ∧ (t.chip.cluster (key / 1024)).netQ = (s.chip.cluster (key / 1024)).netQ ++ [q]
            ∧ q.op = f.2.1 ∧ q.a = co.xr a ∧ q.b = co.xr b ∧ q.n = f.2.2.2 ∧ q.q0 = co.qr 0 ∧ q.q2 = co.qr 2 ∧ q.q3 = co.qr 3
            ∧ q.next = 0 ∧ q.flight = [] ∧ IssuedBy q.cmd key co (co.qr 1)
            ∧ (f.2.1 = 0 ∨ f.2.1 = 2 → q.cmd.id ∈ r) ∧ t.chip.mem = s.chip.mem)
        ∧ (f.2.2.2 = 0 → ∃ (t : State) (r : List Nat), exec f.1 s = .next t ∧ t.chip.co key = some { co.advance with remote := r }
            ∧ t.chip.msgs = s.chip.msgs ++ doneAtOnce key (co.qr 1) ∧ t.chip.clusters = s.chip.clusters))
    ∧ (s.chip.storesPending key = false → s.chip.links.valid = true → (co.xr a).toNat % 64 = 0 →
      (s.chip.cluster (key / 1024)).netQ.length < 64 →
      ∃ (t : State) (q : NetCmd), exec (.nsend a) s = .next t ∧ t.chip.co key = some co.advance
        ∧ (t.chip.cluster (key / 1024)).netQ = (s.chip.cluster (key / 1024)).netQ ++ [q]
        ∧ q.op = 4 ∧ q.a = co.xr a ∧ q.wr = [] ∧ IssuedBy q.cmd key co 0)
    ∧ (s.chip.undrained key = false → ∀ f ∈ netTable a b co, s.chip.noLink (f.2.2.1.toNat / 2 ^ 54) = true →
        exec f.1 s = .next (s.trapped key co 0x17 f.2.2.1))

/-- R433 and R434: `KVLOOK`, `KVHASH` and `KVALLOC` write what they find to `x[a]`, or trap with the cause of the kind and open no
record; `KVALLOC` takes the frame at the head of the ring; `KVAPPEND` reads its list, serves its entries in order, and
gives how many were served with the status that stopped it. -/
def Obligations.SynchronousKvResults : Prop :=
  ∀ s key co, Issues s key co → s.chip.storesPending key = false → ∀ (a b : BitVec 5),
    (∀ v c, s.chip.kvLook (co.xr a) (co.xr b).toNat co.asid = (.inr v, c) →
      exec (.kvlook a b) s = .next (s.retiredWith key co false (c.modCo key (fun m => (m.setX a v).advance))))
    ∧ (∀ ds, s.chip.walkDesc (co.xr a) co.asid = .inr ds →
      (ds.checkCoords (co.xr a) (co.xr b).toNat = 0 → ∀ f c, s.chip.readFrame ds (co.xr a) (co.xr b).toNat = (.inr f, c) →
        exec (.kvlook a b) s = .next (s.retiredWith key co false (c.modCo key (fun m => (m.setX a (BitVec.ofNat 64 f)).advance))))
      ∧ (ds.pooled = true → ds.checkMap (co.xr a) (co.xr b).toNat = 0 →
        exec (.kvhash a b) s = .next (s.wrote key co a (BitVec.ofNat 64
          (kvHome (hdlSeq (co.xr a)) (hdlLayer (co.xr a)) ((co.xr b).toNat / ds.bt) ds.hlog))))
      ∧ ∀ h t c, s.chip.ringHeader ds = (some (h, t), c) →
        ((t + 2 ^ 32 - h) % 2 ^ 32 = 0 →
          exec (.kvalloc a b) s = .next (s.retiredWith key co false (c.modCo key (fun m => (m.setX a 0).advance))))
        ∧ ∀ f c', (t + 2 ^ 32 - h) % 2 ^ 32 ≠ 0 → c.kvRead (ds.free + 64 + 4 * (h % 2 ^ ds.freelog)) 4 = (some f, c') → co.quiet →
          Memory.wf c'.mem → c'.tableOk ds.free = true → Owns c' (hbmHome ds.free) (kvXlat ds.free) →
          ∃ u co', exec (.kvalloc a b) s = .next u ∧ u.chip.co key = some co'
            ∧ { co' with resv := co.resv } = (co.setX a (BitVec.ofNat 64 f)).advance
            ∧ memReadNat u.chip.mem ds.free 4 = (h + 1) % 2 ^ 32
            ∧ ∀ m, m < ds.free ∨ ds.free + 4 ≤ m → memRead u.chip.mem m = memRead c'.mem m)
    ∧ (∀ f, s.chip.walkDesc (co.xr a) co.asid = .inl f → s.chip.undrained key = false →
      ∀ i ∈ [Instr.kvlook a b, .kvhash a b, .kvalloc a b], exec i s = .next { s with
        chip := (s.chip.setCo key co).takeTrap key
          { plainTrap (if f.1 ≤ 4 then 0x08 else 0x09) co.pc (co.xr a) with kind := f.1 } 0 })
    ∧ (∀ l c r, (co.xr a).toNat % 16 = 0 →
      s.chip.readList (key / 256) (co.agent key) (co.xr a).toNat (Min.min (co.xr b).toNat 256) 0 = (.inr l, c) →
      c.appendAll (key / 1024) co.asid l 0 = r →
      exec (.kvappend a b) s = .next (s.retiredWith key co false (r.2.2.modCo key
        (fun m => (m.setX a (BitVec.ofNat 64 (r.1 + r.2.1 * 2 ^ 32))).advance))))
    ∧ ((co.xr a).toNat % 16 ≠ 0 → s.chip.undrained key = false →
      exec (.kvappend a b) s = .next (s.trapped key co 0x04 (co.xr a)))

namespace Sys2Proof.Claims

/-- The matrix commands that enter a core's matrix queue, with the register whose value the entry captures and whether they
take a prefix (R296, R417). -/
def matrixTable (a b : BitVec 5) (sl : BitVec 4) (co : Coroutine) : List (Instr × Word × Bool) :=
  [(.mma a b sl, 0, true), (.mmag a b sl, 0, true), (.mmrot a b sl, 0, true), (.mdrain a sl, 0, true), (.mfill a sl, 0, true),
   (.mswap a, 0, false), (.macq a sl, co.xr a, false), (.mrel sl, 0, false), (.mzero sl, 0, false), (.mreclaim sl, 0, false),
   (.mstat a sl, 0, false)]

/-- The slot that a command names, as it stands. -/
def slotOf (s : State) (key : Nat) (co : Coroutine) (i : Instr) : Slot :=
  (s.chip.cluster (key / 1024)).slot (co.abase + (matrixSlot i).getD 0)

/-- The entry of a matrix command with its captured values (R244, R318, R421). -/
def matrixOf (s : State) (key : Nat) (co : Coroutine) (i : Instr) (u : Word) (takes : Bool) : MEntry :=
  matrixEntry i key co u (BitVec.ofNat 64 (slotOf s key co i).statWord)
    (match i with | .macq _ _ => u.toNat % 32 | _ => (slotOf s key co i).fmt) (if takes && co.pp then some co.pfx else none)

/-- A matrix command passes the checks at its issue: its tiles lie in the window and are ready, its slot lies in the window
and is the coroutine's own, or free for `MACQ` and `MSTAT`, and the geometry and the links are as its rule asks. -/
structure MatrixReady (s : State) (key : Nat) (co : Coroutine) (i : Instr) (e : MEntry) : Prop where
  tilesIn : ∀ t ∈ namedTiles i co.mshape, t < co.tcount
  slotIn : ∀ n, matrixSlot i = some n → n < co.acount
  tilesReady : ∀ t ∈ namedTiles i co.mshape, ((s.chip.cluster (key / 1024)).tile (co.tbase + t)).state = 3
  slotOwn : ∀ n, matrixSlot i = some n → (slotOf s key co i).tagFor key co.lid = .own
    ∨ ((∃ r m, i = .macq r m) ∧ (slotOf s key co i).tagFor key co.lid = .free) ∨ ∃ r m, i = .mstat r m
  geometry : e.geometryOk (s.chip.cluster (key / 1024)) = true
  links : s.chip.linksOk (key / 1024) i = true

/-- What a scoreboard records of a command's accesses, in order: the object and whether it writes. -/
def recorded (k : Cluster) : List (Nat × Bool) := k.board.map (fun a => (a.obj, a.write))

end Sys2Proof.Claims

/-- R244, R243, R417 and R424: a matrix command that passes its checks enters its core's matrix queue with the values it
captures, its accesses recorded behind the older ones; no slot or tile has changed yet. `MSWAP` on the diagonal of its
group only goes on. -/
def Sys2Proof.Claims.MatrixCommandsIssue : Prop :=
  ∀ s key co, IssuesTaker s key co → co.quiet → ∀ (a b : BitVec 5) (sl : BitVec 4),
    ∀ f ∈ matrixTable a b sl co, (co.pp = true → f.2.2 = true
        ∧ (f.1 = .mdrain a sl → pfxA (some co.pfx) = 0 ∧ pfxB (some co.pfx) = 0)
        ∧ (f.1 = .mfill a sl → pfxB (some co.pfx) = 0 ∧ pfxD (some co.pfx) = 0)) →
      MatrixReady s key co f.1 (matrixOf s key co f.1 f.2.1 f.2.2) →
      (f.1 ≠ .mswap a ∨ swapOf (key / 1024) ≠ key / 1024 →
        (blkOf co.vtype = 0 ∨ s.chip.vectorPending key = false) →
        ((s.chip.core (key / 256)).mq.length < 16 →
          ∃ (t : State) (e : MEntry), exec f.1 s = .next t ∧ (t.chip.core (key / 256)).mq = (s.chip.core (key / 256)).mq ++ [e]
            ∧ { e with seqs := [] } = matrixOf s key co f.1 f.2.1 f.2.2
            ∧ t.chip.co key = some { co.advance with pp := if f.2.2 then false else co.pp }
            ∧ recorded (t.chip.cluster (key / 1024)) = recorded (s.chip.cluster (key / 1024)) ++ e.accesses
            ∧ t.chip.mem = s.chip.mem)
        ∧ (16 ≤ (s.chip.core (key / 256)).mq.length → exec f.1 s = .next s))
      ∧ (f.1 = .mswap a → swapOf (key / 1024) = key / 1024 → exec f.1 s = .next (s.retired key co co.advance))

/-- R239, R227, R246 and R417: a matrix command that names a tile or slot outside its window traps `TWIN` or `AWIN`; one that
names a tile that is not ready, or a slot of another coroutine, suspends before itself; a free slot traps `MGEO`. -/
def Sys2Proof.Claims.MatrixChecksStopCommands : Prop :=
  ∀ s key co, Issues s key co → Runs s key → s.chip.undrained key = false → ∀ (a b : BitVec 5) (sl : BitVec 4),
    ∀ f ∈ matrixTable a b sl co, swapOf (key / 1024) ≠ key / 1024 →
      ((∃ t ∈ namedTiles f.1 co.mshape, co.tcount ≤ t) → exec f.1 s = .next (s.trapped key co 0x0B 0))
      ∧ ((∀ t ∈ namedTiles f.1 co.mshape, t < co.tcount) →
        ((∃ n, matrixSlot f.1 = some n ∧ co.acount ≤ n) → exec f.1 s = .next (s.trapped key co 0x0C 0))
        ∧ ((∀ n, matrixSlot f.1 = some n → n < co.acount) →
          ((∃ t ∈ namedTiles f.1 co.mshape, ((s.chip.cluster (key / 1024)).tile (co.tbase + t)).state ≠ 3) →
            ∃ u co' t, exec f.1 s = .next u ∧ u.chip.co key = some co' ∧ co'.state = .awaiting ∧ co'.wait = .tile (co.tbase + t)
              ∧ t ∈ namedTiles f.1 co.mshape ∧ ((s.chip.cluster (key / 1024)).tile (co.tbase + t)).state ≠ 3
              ∧ co'.pc = co.pc ∧ (u.chip.core (key / 256)).running = none)
          ∧ ((∀ t ∈ namedTiles f.1 co.mshape, ((s.chip.cluster (key / 1024)).tile (co.tbase + t)).state = 3) →
            ∀ n, matrixSlot f.1 = some n → f.1 ≠ .mstat a sl →
            ((slotOf s key co f.1).tagFor key co.lid = .other →
              ∃ u co', exec f.1 s = .next u ∧ u.chip.co key = some co' ∧ co'.state = .awaiting
                ∧ co'.wait = .slot (co.abase + n) ∧ co'.pc = co.pc ∧ (u.chip.core (key / 256)).running = none)
            ∧ ((slotOf s key co f.1).tagFor key co.lid = .free → f.1 ≠ .macq a sl →
              exec f.1 s = .next (s.trapped key co 0x0D 0)))))

/-- R414, R382-R384, R422 and R429: `TCFG` enters the matrix queue with the tile and the configuration word, recorded as a
write of the tile; a tile transfer enters the vector queue, recorded as a read or a write of its tile; `MOPA` enters both
queues, its operands to be read in vector order; `CPYMM` enters the copy queue and its follow-on the matrix queue. A `TCFG`
outside the window or with a refused word traps. -/
def Obligations.TileInstructionsIssue : Prop :=
  ∀ s key co, Issues s key co → co.quiet → co.estepEl = false → ∀ (a b : BitVec 5) (sl : BitVec 4) (c n : BitVec 1) (m : BitVec 3),
    (∀ t, (co.xr a).toNat % 32 = t → t < co.tcount → configOk (co.xr b) = true → (s.chip.core (key / 256)).mq.length < 16 →
      ∃ (u : State) (e : MEntry), exec (.tcfg a b) s = .next u ∧ (u.chip.core (key / 256)).mq = (s.chip.core (key / 256)).mq ++ [e]
        ∧ e.op = .tcfg a b ∧ e.s1 = BitVec.ofNat 64 (co.tbase + t) ∧ e.s2 = co.xr b ∧ u.chip.co key = some co.advance
        ∧ recorded (u.chip.cluster (key / 1024)) = recorded (s.chip.cluster (key / 1024)) ++ [(co.tbase + t, true)]
        ∧ u.chip.mem = s.chip.mem)
    ∧ (s.chip.undrained key = false →
      (co.tcount ≤ (co.xr a).toNat % 32 → exec (.tcfg a b) s = .next (s.trapped key co 0x0B 0))
      ∧ ((co.xr a).toNat % 32 < co.tcount → configOk (co.xr b) = false → exec (.tcfg a b) s = .next (s.trapped key co 0x0D 0)))
    ∧ (∀ (d t r : BitVec 5), ∀ f ∈ [(Instr.vldt d t r m, false, false), (.vstt d t r m, true, false), (.vldtt d t r m, false, true)],
      ∀ tl, (s.chip.cluster (key / 1024)).tile (co.tbase + t.toNat) = tl → t.toNat < co.tcount → tl.state = 3 →
      tileWidthOk tl.fmt (sewBits co.vtype) = true →
      ((co.xr r).toNat < if f.2.2 then tl.cols else tl.rows) → (co.vl ≤ if f.2.2 then tl.rows else tl.cols) →
      (s.chip.core (key / 256)).vq.length < 32 →
      ∃ (u : State) (e : VEntry), exec f.1 s = .next u ∧ (u.chip.core (key / 256)).vq = (s.chip.core (key / 256)).vq ++ [e]
        ∧ { e with seqs := [] } = entryOf f.1 key co 0 (co.xr r) ∧ u.chip.co key = some (issued co)
        ∧ recorded (u.chip.cluster (key / 1024)) = recorded (s.chip.cluster (key / 1024)) ++ [(co.tbase + t.toNat, f.2.1)]
        ∧ u.chip.mem = s.chip.mem)
    ∧ (MatrixReady s key co (.mopa sl a b c n m) (matrixOf s key co (.mopa sl a b c n m) 0 true) →
      (s.chip.core (key / 256)).mq.length < 16 → (s.chip.core (key / 256)).vq.length < 32 →
      ∃ (u : State) (e : MEntry) (v : VEntry), exec (.mopa sl a b c n m) s = .next u
        ∧ (u.chip.core (key / 256)).mq = (s.chip.core (key / 256)).mq ++ [e] ∧ e.op = .mopa sl a b c n m ∧ e.ready = false
        ∧ (u.chip.core (key / 256)).vq = (s.chip.core (key / 256)).vq ++ [v] ∧ v.op = .mopa sl a b c n m ∧ v.seqs = e.seqs
        ∧ u.chip.co key = some (issued co) ∧ u.chip.mem = s.chip.mem)
    ∧ ∀ i p, followOn (co.qr 2) = some (i, p) → TokenReady s.chip co → s.chip.storesPending key = false →
      (∀ t ∈ namedTiles i co.mshape, t < co.tcount) →
      (∀ k, matrixSlot i = some k → k < co.acount ∧ (slotOf s key co i).tagFor key co.lid = .own) →
      ({ matrixOf s key co i 0 false with pfx := p } : MEntry).geometryOk (s.chip.cluster (key / 1024)) = true →
      (s.chip.cluster (key / 1024)).copyQ.length < 64 → (s.chip.core (key / 256)).mq.length < 16 →
      (blkOf co.vtype = 0 ∨ s.chip.vectorPending key = false) →
      ∃ (u : State) (q : CopyCmd) (e : MEntry), exec (.cpymm a b) s = .next u ∧ u.chip.co key = some co.advance
        ∧ (u.chip.cluster (key / 1024)).copyQ = (s.chip.cluster (key / 1024)).copyQ ++ [q]
        ∧ q.op = 5 ∧ q.dst = (co.xr a).toNat ∧ q.src = (co.xr b).toNat ∧ q.follow = true ∧ IssuedBy q.cmd key co (co.qr 1)
        ∧ (u.chip.core (key / 256)).mq = (s.chip.core (key / 256)).mq ++ [e] ∧ e.op = i ∧ e.copy = some q.cmd.id
        ∧ u.chip.mem = s.chip.mem

/-! ### Supervisor CSR writes as events (R100, R112, R113, R121, R147-R150, R167, R218, R268) -/

namespace Sys2Proof.Claims

/-- The clocks run, and `co` at `key` runs on the current core, of the package's 512 cores. -/
structure RunsOn (s : State) (key : Nat) (co : Coroutine) : Prop where
  clocks : s.keep.power.halted = false
  running : s.chip.runningKey s.cur = some key
  holds : s.chip.co key = some co
  inPackage : key < 131072

/-- The key of a translation that a spire holds: 256 times the spire with the address space, and page number within its 52-bit
space. -/
def pageKey (space page : Nat) : Nat := space * 2 ^ 31 + page

end Sys2Proof.Claims

/-- R100, R112 and R113: a supervisor's write of `PTBASE` with `ASID.SEL` not 0 replaces that root and acts as `XLINV` of the
whole ASID, and `XLINV` removes the translations of its operation's pages in every slice, the names of the lines of those pages,
and the L1 lines of the ASIDs concerned; every other translation, root, name and line stays, and no register or byte of memory
changes. Both wait, as releases, until every older access of the coroutine has been performed. -/
def Sys2Proof.Claims.TranslationWritesInvalidate : Prop :=
  ∀ s key co, RunsOn s key co → co.sup = true → ∀ v : Word,
    (s.chip.undrained key = true → ∀ i ∈ [Instr.ptbaseWrite v, .xlinvPage v, .xlinvRegion v, .xlinvAsid v, .xlinvAll v,
      .kvbaseReloadOne v, .kvbaseReloadAll v], exec i s = .next s) ∧ (s.chip.undrained key = false →
    (co.asidSel ≠ 0 → ∃ t, exec (.ptbaseWrite v) s = .next t
      ∧ mget t.chip.roots co.asidSel = some (v.toNat % 2 + v.toNat / 2 ^ 14 % 2 ^ 34 * 2 ^ 14)
      ∧ ∀ a ≠ co.asidSel, mget t.chip.roots a = mget s.chip.roots a)
    ∧ (co.asidSel = 0 → ∃ t, exec (.ptbaseWrite v) s = .next t ∧ t.chip.roots = s.chip.roots ∧ t.chip.tlb = s.chip.tlb)
    ∧ ∀ f ∈ [(Instr.ptbaseWrite v, fun (a _ : Nat) => decide (a = co.asidSel)),
        (.xlinvPage v, fun a p => a = co.asidSel && p = v.toNat / 2 ^ 21 % 2 ^ 31),
        (.xlinvRegion v, fun a p => a = co.asidSel && p / 2 ^ 10 = v.toNat / 2 ^ 31 % 2 ^ 21),
        (.xlinvAsid v, fun a _ => a = co.asidSel), (.xlinvAll v, fun _ _ => true)], (f.1 = .ptbaseWrite v → co.asidSel ≠ 0) →
      ∃ t, exec f.1 s = .next t
        ∧ (∀ n a p, a < 256 → p < 2 ^ 31 →
          mget t.chip.tlb (pageKey (256 * n + a) p) = if f.2 a p then none else mget s.chip.tlb (pageKey (256 * n + a) p))
        ∧ (∀ n a, (a = co.asidSel ∨ f.1 = .xlinvAll v → ∀ l ∈ (t.chip.core n).l1d ++ (t.chip.core n).l1i, l.asid ≠ a)
          ∧ (a ≠ co.asidSel → f.1 ≠ .xlinvAll v → ∀ l : L1Line, l.asid = a →
            ((l ∈ (t.chip.core n).l1d ↔ l ∈ (s.chip.core n).l1d) ∧ (l ∈ (t.chip.core n).l1i ↔ l ∈ (s.chip.core n).l1i))))
        ∧ (∀ d l, t.chip.copyAt d l = (s.chip.copyAt d l).map (fun p =>
          { p with name := p.name.filter (fun m => !f.2 (m.asid % 256) (m.vline / 2 ^ 14 % 2 ^ 31)) }))
        ∧ t.chip.mem = s.chip.mem ∧ ∀ k, t.chip.co k = s.chip.co k)

/-- R121: a write of `KVBASE` rereads the descriptors of the selected space, or of all 256, from the table at its `BASE`, each
where it can be read at its turn (`Sound`), and drops the KV-TLB entries of those spaces; the other spaces keep theirs, and
where the table's lines are clean no byte of memory changes. -/
def Sys2Proof.Claims.KvbaseWritesReloadDescriptors : Prop :=
  ∀ s key co, RunsOn s key co → co.sup = true → s.chip.undrained key = false → ∀ (v : Word) (base : Nat),
    base = v.toNat / 2 ^ 14 % 2 ^ 34 * 2 ^ 14 →
    ∀ f ∈ [(Instr.kvbaseReloadOne v, fun (i : Nat) => decide (i = v.toNat % 256)), (.kvbaseReloadAll v, fun _ => true)],
    ∃ t, exec f.1 s = .next t ∧ t.chip.kvbase.toNat / 2 ^ 14 * 2 ^ 14 = base
      ∧ (∀ i, f.2 i = false → mget t.chip.kvdesc i = mget s.chip.kvdesc i)
      ∧ (∀ n, ∀ e ∈ (t.chip.cluster n).kvtlb, f.2 e.space = false)
      ∧ (∀ n (e : KvTlb), f.2 e.space = false → (e ∈ (t.chip.cluster n).kvtlb ↔ e ∈ (s.chip.cluster n).kvtlb))
      ∧ (∀ k, t.chip.co k = s.chip.co k)
      ∧ (Memory.wf s.chip.mem → (∀ i < 256, f.2 i = true → s.chip.residentPa (base + 64 * i) = base + 64 * i
          ∧ s.chip.Clean (lineOf (base + 64 * i))) →
        (∀ a, memRead t.chip.mem a = memRead s.chip.mem a)
        ∧ ∀ i < 256, f.2 i = true → ∀ c, c = ((List.range i).filter f.2).foldl (fun c j => c.reloadSpace base j)
            { s.chip with kvbase := t.chip.kvbase } → c.tableOk (base + 64 * i) = true → Sound c (base + 64 * i) 64 →
          mgetD t.chip.kvdesc i (List.replicate 64 0) = memReadBytes s.chip.mem (base + 64 * i) 64)

/-- R147, R148, R149, R268, R218, R217 and R167: a class write sets the way mask or weight of `SVCSEL.CLASS`, or the class of
`ASID.SEL`; `FQHEAD` moves forward over posted entries only, and the spire fault beacon's count follows; `STATUS` clears the
kinds presented as 1 and stores `INL`; `PRIO` stores `LEVEL`, capped at `CEIL` in user mode, where `CEIL` stays. -/
def Sys2Proof.Claims.ClassQueueStatusAndPriorityWrites : Prop :=
  ∀ s key co, RunsOn s key co → ∀ v : Word,
    (co.sup = true →
      (∃ t, exec (.svcwaysWrite v) s = .next t ∧ (∀ n, mget t.chip.svcways n =
          if n = co.svcsel then some (v.setWidth 58) else mget s.chip.svcways n) ∧ t.chip.cos = (s.chip.setCo key co).cos)
      ∧ (∃ t, exec (.svcbwWrite v) s = .next t ∧ (∀ n, mget t.chip.svcbw n =
          if n = co.svcsel then some (v.setWidth 8) else mget s.chip.svcbw n) ∧ t.chip.cos = (s.chip.setCo key co).cos)
      ∧ (∃ t, exec (.svcmapWrite v) s = .next t ∧ (∀ n, mget t.chip.svcmap n =
          if n = co.asidSel then some (v.setWidth 4) else mget s.chip.svcmap n) ∧ t.chip.cos = (s.chip.setCo key co).cos)
      ∧ ∀ p q, s.chip.partOf (key / 1024) = some p → s.chip.fq p (spireOf (key / 256)) = q →
        (((v.setWidth 32 : BitVec 32) - q.head).toNat ≤ (q.tail - q.head).toNat →
          ∃ t, exec (.fqheadWrite v) s = .next t ∧ t.chip.fq p (spireOf (key / 256)) = { q with head := v.setWidth 32 }
            ∧ ((s.chip.beacon (spireOf (key / 256)) (0xFE00 + p)).alloc = true →
              (t.chip.beacon (spireOf (key / 256)) (0xFE00 + p)).count = v.setWidth 32 - q.tail) ∧ t.chip.mem = s.chip.mem)
        ∧ ((q.tail - q.head).toNat < ((v.setWidth 32 : BitVec 32) - q.head).toNat →
          ∃ t, exec (.fqheadWrite v) s = .next t ∧ t.chip.fq p (spireOf (key / 256)) = q))
    ∧ (∃ t co', exec (.statusWrite v) s = .next t ∧ t.chip.co key = some co' ∧ co'.inl.toNat = v.toNat / 2 ^ 16 % 2 ^ 16
      ∧ (v.getLsbD 2 = true → co'.su = false ∧ ∀ n, co'.kr n = 0) ∧ (v.getLsbD 2 = false → co'.su = co.su ∧ co'.k = co.k)
      ∧ (v.getLsbD 3 = true → co'.mu = false ∧ ∀ n, co'.mr n = 0) ∧ (v.getLsbD 3 = false → co'.mu = co.mu ∧ co'.m = co.m)
      ∧ (v.getLsbD 4 = true → co'.qu = false ∧ ∀ n, co'.qr n = 0) ∧ (v.getLsbD 4 = false → co'.qu = co.qu ∧ co'.q = co.q)
      ∧ (v.getLsbD 5 = true → co'.ku = false ∧ co'.topk = []) ∧ (v.getLsbD 5 = false → co'.ku = co.ku ∧ co'.topk = co.topk)
      ∧ co'.sup = co.sup ∧ co'.pp = co.pp ∧ co'.x = co.x ∧ co'.v = co.v ∧ co'.pc = co.pc ∧ t.chip.mem = s.chip.mem)
    ∧ ∃ t co', exec (.prioWrite v) s = .next t ∧ t.chip.co key = some co' ∧ co'.x = co.x ∧ co'.pc = co.pc
      ∧ (co.sup = true → co'.level.toNat = v.toNat % 4 ∧ co'.ceil.toNat = v.toNat / 2 ^ 8 % 4)
      ∧ (co.sup = false → co'.level.toNat = Min.min (v.toNat % 4) co.ceil.toNat ∧ co'.ceil = co.ceil) ∧ t.chip.mem = s.chip.mem

/-! ### Power and thermal management (R11-R14, R19, R24) -/

/-- R11 and R24: at a window's end the power level rises by one above the limit, falls by one after ten windows below 95 % of
it, and is kept else; each thermal level rises while a sensor of its group is warm and falls else; the throttle level is 15
while a sensor is tripped, else the sum of the three, at most 15. Nothing outside these registers changes. -/
def Sys2Proof.Claims.PowerWindowUpdatesLevels : Prop :=
  ∀ (s : State) (mw : BitVec 32) (p : Power), s.keep.power = p → ∃ q : Power,
    exec (.powerWindow mw) s = .next { s with keep := { s.keep with power := q } } ∧ q.mw = mw
    ∧ (1000 * s.keep.boot.plimit < mw.toNat → q.level = Min.min 15 (p.level + 1) ∧ q.under = 0)
    ∧ (mw.toNat ≤ 1000 * s.keep.boot.plimit → 950 * s.keep.boot.plimit ≤ mw.toNat → q.level = p.level ∧ q.under = 0)
    ∧ (mw.toNat < 950 * s.keep.boot.plimit →
      (p.under = 9 → q.level = p.level - 1 ∧ q.under = 0) ∧ (p.under < 9 → q.level = p.level ∧ q.under = p.under + 1))
    ∧ ((∃ n, n < 5 ∧ (p.sensor n).warm = true) → q.die = Min.min 15 (p.die + 1))
    ∧ ((∀ n, n < 5 → (p.sensor n).warm = false) → q.die = p.die - 1)
    ∧ ((∃ n, 5 ≤ n ∧ n < 13 ∧ (p.sensor n).warm = true) → q.hbm = Min.min 15 (p.hbm + 1))
    ∧ ((∀ n, 5 ≤ n → n < 13 → (p.sensor n).warm = false) → q.hbm = p.hbm - 1)
    ∧ ((∃ n, n < 13 ∧ (p.sensor n).tripped = true) → q.throttle = 15)
    ∧ ((∀ n, n < 13 → (p.sensor n).tripped = false) → q.throttle = Min.min 15 (q.level + q.die + q.hbm))
    ∧ q.sensors = p.sensors ∧ q.package = p.package ∧ q.halted = p.halted

/-- R24: a sensor that reaches its warning temperature sets `WARN` and is warm until it falls 5 °C below; one that reaches its
trip temperature sets `TRIP` and is tripped until it falls below its warning temperature; while any is tripped the throttle
level is 15. A sensor that tripped 100 ms ago and has stayed at its trip temperature since stops every clock outside the keep, is
recorded, and makes the chip raise the event, and one that has not stayed there does nothing; an instruction word then faults. -/
def Sys2Proof.Claims.SensorsWarnTripAndShutDown : Prop :=
  (∀ (s : State) (n : BitVec 4) (temp : BitVec 16) (warn trip : Int) (x : Sensor), n.toNat < 13 →
    warn = 8 * (if n.toNat < 5 then s.keep.boot.dieWarn else s.keep.boot.hbmWarn : Nat) →
    trip = 8 * (if n.toNat < 5 then 110 else 100 : Nat) → s.keep.power.sensor n.toNat = x →
    ∀ f ∈ [(Instr.thermalWarn n temp, decide (warn ≤ temp.toInt)), (.thermalTrip n temp, decide (trip ≤ temp.toInt)),
        (.thermalCool n temp, decide (temp.toInt < warn))], f.2 = true →
      ∃ t y, exec f.1 s = .next t ∧ t.keep.power.sensor n.toNat = y ∧ y.temp = temp
        ∧ y.warm = (if x.warm then decide (warn - 40 < temp.toInt) else decide (warn ≤ temp.toInt))
        ∧ y.warn = (x.warn || (!x.warm && decide (warn ≤ temp.toInt)))
        ∧ y.tripped = (if x.tripped then decide (warn ≤ temp.toInt) else decide (trip ≤ temp.toInt))
        ∧ y.trip = (x.trip || (!x.tripped && decide (trip ≤ temp.toInt)))
        ∧ y.tripAt = (if x.tripped = false ∧ trip ≤ temp.toInt then s.chip.time else x.tripAt)
        ∧ y.stayed = (if x.tripped = false ∧ trip ≤ temp.toInt then true else x.stayed && decide (trip ≤ temp.toInt))
        ∧ (∀ m, m ≠ n.toNat → t.keep.power.sensor m = s.keep.power.sensor m)
        ∧ ((∃ m, m < 13 ∧ (t.keep.power.sensor m).tripped = true) → t.keep.power.throttle = 15)
        ∧ ((∀ m, m < 13 → (t.keep.power.sensor m).tripped = false) →
          t.keep.power.throttle = Min.min 15 (s.keep.power.level + s.keep.power.die + s.keep.power.hbm))
        ∧ t.chip = s.chip)
  ∧ (∀ (s : State) (n : BitVec 4) (x : Sensor), n.toNat < 13 → s.keep.power.halted = false → s.keep.power.sensor n.toNat = x →
    (x.tripped = true → x.stayed = true → x.tripAt + 100000000 ≤ s.chip.time →
      ∃ t e, exec (.thermalShutdown n) s = .next t ∧ t.keep.power.halted = true ∧ t.keep.store.shutdown = some n.toNat
        ∧ t.chip.outbox = s.chip.outbox ++ [e] ∧ e.type = 0x30 ∧ e.d0 = n.setWidth 64 ∧ t.chip.mem = s.chip.mem)
    ∧ (x.tripped = false ∨ x.stayed = false ∨ s.chip.time < x.tripAt + 100000000 →
      exec (.thermalShutdown n) s = .next s))
  ∧ ∀ (s : State) (i : Instr) (w : IWord), s.keep.power.halted = true → encode i = some w → exec i s = .fault .clocksStopped

/-- R12, R13 and R14: an idle cluster enters clock-gate or power-gate, the highest whose exit latency its tolerance allows,
and a power-gate discards its L1 contents; a spire all of whose clusters are idle enters spire idle, and the package
standby; where one of R14's events has happened to a unit, a wake returns it and those that hold it to state 0, but for a cluster
that the configuration record disables; where none has, nothing happens. -/
def Sys2Proof.Claims.UnitsEnterPowerStatesAndWake : Prop :=
  ∀ (s : State), s.keep.power.halted = false → ∀ (u : BitVec 8),
    (∀ n, u.toNat = n → n < 128 →
      (s.chip.idle n = true → ∀ st, (40 ≤ s.chip.clusterTol n ∧ st = 2) ∨ (2 ≤ s.chip.clusterTol n ∧ s.chip.clusterTol n < 40 ∧ st = 1) →
        (s.chip.cluster n).power < st →
        ∃ t, exec (.powerStateEnter u) s = .next t ∧ (t.chip.cluster n).power = st
          ∧ (∀ k, k ≠ n → t.chip.cluster k = s.chip.cluster k)
          ∧ (st = 2 → ∀ k, k / 4 = n → (t.chip.core k).l1d = [] ∧ (t.chip.core k).l1i = [])
          ∧ (t.chip.cluster n).tiles = (s.chip.cluster n).tiles ∧ (t.chip.cluster n).slots = (s.chip.cluster n).slots
          ∧ t.chip.cos = s.chip.cos ∧ t.chip.mem = s.chip.mem)
      ∧ ((s.chip.aimedAt n = true ∨ s.chip.clusterTol n < exitLatency (s.chip.cluster n).power
          ∨ ∃ i < 4, 0 < s.chip.busyOn (4 * n + i)) → s.chip.clmask.getLsbD n = false →
        ∃ t, exec (.unitWake u) s = .next t ∧ (t.chip.cluster n).power = 0 ∧ (t.chip.spire (n / 32)).power = 0
          ∧ t.keep.power.package = 0 ∧ (∀ k, k ≠ n → t.chip.cluster k = s.chip.cluster k)
          ∧ (t.chip.cluster n).tiles = (s.chip.cluster n).tiles ∧ (t.chip.cluster n).slots = (s.chip.cluster n).slots
          ∧ t.chip.cos = s.chip.cos ∧ t.chip.mem = s.chip.mem)
      ∧ (s.chip.aimedAt n = false → exitLatency (s.chip.cluster n).power ≤ s.chip.clusterTol n →
        (∀ i < 4, s.chip.busyOn (4 * n + i) = 0) → exec (.unitWake u) s = .next s))
    ∧ (∀ d, u.toNat = 128 + d → d < 4 →
      ((∀ k, k / 32 = d → s.chip.idle k = true) → 1000 ≤ s.chip.spireTol d →
        ∃ t, exec (.powerStateEnter u) s = .next t ∧ (t.chip.spire d).power = 3 ∧ (∀ k, k / 32 = d → (t.chip.cluster k).power = 2)
          ∧ (∀ k, k / 32 ≠ d → t.chip.cluster k = s.chip.cluster k) ∧ t.chip.cos = s.chip.cos ∧ t.chip.mem = s.chip.mem)
      ∧ (s.chip.spireWakes d = true →
        ∃ t, exec (.unitWake u) s = .next t ∧ (t.chip.spire d).power = 0 ∧ t.keep.power.package = 0 ∧ t.chip.mem = s.chip.mem)
      ∧ (s.chip.hopsTo d = true ∨ s.chip.spireTol d < exitLatency (s.chip.spire d).power
          ∨ (∃ k, k / 32 = d ∧ s.chip.clusterWakes k = true) → s.chip.spireWakes d = true)
      ∧ (s.chip.spireWakes d = false → exec (.unitWake u) s = .next s))
    ∧ (u.toNat = 132 →
      ((∀ k, k < 128 → s.chip.idle k = true) → (∀ d, d < 4 → (s.chip.spire d).power = 3) → 20000 ≤ s.chip.packageTol →
        ∃ t, exec (.powerStateEnter u) s = .next t ∧ t.keep.power.package = 4 ∧ t.chip = s.chip)
      ∧ ((∃ d < 4, s.chip.spireWakes d = true) →
        ∃ t, exec (.unitWake u) s = .next t ∧ t.keep.power.package = 0 ∧ t.chip = s.chip))

/-- R19, R13 and R14: a write of `PART_PWRTOL` stores the tolerance, and, while the clocks run, no cluster that the configuration
record leaves on, no spire and no package then stands in a state whose exit latency exceeds its governing tolerance. -/
def Sys2Proof.Claims.ToleranceWritesWakeUnits : Prop :=
  ∀ (s : State) (p : BitVec 7) (v : BitVec 32), ∃ t, exec (.partPwrtolWrite p v) s = .next t
    ∧ (t.chip.part p.toNat).tol.toNat = v.toNat % 2 ^ 24
    ∧ (s.keep.power.halted = false →
      (∀ n, n < 128 → s.chip.clmask.getLsbD n = false → exitLatency (t.chip.cluster n).power ≤ t.chip.clusterTol n)
      ∧ (∀ d, d < 4 → exitLatency (t.chip.spire d).power ≤ t.chip.spireTol d)
      ∧ exitLatency t.keep.power.package ≤ t.chip.packageTol)
    ∧ (s.keep.power.halted = true → t.keep = s.keep ∧ t.chip.clusters = s.chip.clusters ∧ t.chip.spires = s.chip.spires)
    ∧ (∀ n, exitLatency (s.chip.cluster n).power ≤ t.chip.clusterTol n → (t.chip.cluster n).power = (s.chip.cluster n).power)
    ∧ (∀ q, q ≠ p.toNat → t.chip.part q = s.chip.part q) ∧ t.chip.cos = s.chip.cos ∧ t.chip.mem = s.chip.mem

/-! ### The host's registers (R6, R51, R52, R54, R57, R64, R73, R78, R79, R89, R91, R157, R158) -/

/-- R78, R79, R54, R70 and R73: enabling a launch queue empties it, and `ERR` is cleared by a 1; a doorbell is accepted when
the queue is enabled and takes no record back, and else sets `ERR`; while the clocks run, `UAL_NODE` is written while no launch
lives (what has been taken lives: the model's choice, log entry 31), and a write of a node map entry stores its identifier and
`VALID`. Nothing else changes. -/
def Sys2Proof.Claims.LaunchQueueAndNodeRegisterWrites : Prop :=
  ∀ (s : State) (v : BitVec 32),
    (∀ (q : BitVec 6) (h : Hq), s.keep.hqs.getD q.toNat ⟨false, false, 0, 0⟩ = h →
      (∃ g : Hq, exec (.hqCfgWrite q v) s = .next { s with keep := { s.keep with hqs := s.keep.hqs.setIfInBounds q.toNat g } }
        ∧ g.en = v.getLsbD 0 ∧ g.err = (h.err && !v.getLsbD 1)
        ∧ (h.en = false → v.getLsbD 0 = true → g.head = 0 ∧ g.tail = 0)
        ∧ (h.en = true ∨ v.getLsbD 0 = false → g.head = h.head ∧ g.tail = h.tail))
      ∧ (h.head < 1024 → h.tail < 1024 → ∀ t u n : Int, t = v.toNat % 1024 → u = ((h.tail : Int) - h.head) % 1024 →
        n = (t - h.head) % 1024 →
        (h.en = true → u ≤ n → exec (.hqTailWrite q v) s = .next { s with
          keep := { s.keep with hqs := s.keep.hqs.setIfInBounds q.toNat { h with tail := v.toNat % 1024 } } })
        ∧ (h.en = false ∨ n < u → exec (.hqTailWrite q v) s = .next { s with
          keep := { s.keep with hqs := s.keep.hqs.setIfInBounds q.toNat { h with err := true } } })))
    ∧ (s.keep.power.halted = false → s.chip.launches = [] → ∃ t, exec (.ualNodeWrite v) s = .next t ∧ t.chip.links.id.toNat = v.toNat % 1024
      ∧ t.chip.links.valid = v.getLsbD 16 ∧ t.chip.links.map = s.chip.links.map ∧ t.chip.mem = s.chip.mem ∧ t.keep = s.keep)
    ∧ (s.chip.launches ≠ [] → exec (.ualNodeWrite v) s = .next s)
    ∧ (s.keep.power.halted = false → ∀ n : BitVec 10, ∃ t, exec (.ualMapWrite n v) s = .next t ∧ t.chip.links.mapEntry n.toNat = (v.setWidth 10, v.getLsbD 15)
      ∧ (∀ m, m ≠ n.toNat → t.chip.links.mapEntry m = s.chip.links.mapEntry m) ∧ t.chip.links.id = s.chip.links.id
      ∧ t.chip.mem = s.chip.mem ∧ t.keep = s.keep)

/-- R51, R52, R89, R94, R46, R71, R23, R43, R57, R64, R157 and R158: a 4-byte write to a register of the control BAR without
behaviour of its own stores its writable bits, and an 8-byte write of a block that permits it the whole register; a
partition's mask is written while the partition is disabled or saved, its save address and entry also while it is stopped;
a write of another width or alignment has no effect. Once the clocks have stopped, no register outside the keep but a tolerance
changes (a tolerance may: the model's choice, log entry 43). -/
def Sys2Proof.Claims.ControlRegisterWritesStoreTheirFields : Prop :=
  (∀ (s : State) (v : BitVec 64) (off : BitVec 22) (w : Bool), s.keep.power.halted = true →
    ¬ (0x1000 ≤ off.toNat ∧ off.toNat < 0x2000) → ∃ t, exec (.controlRegisterWrite off w v) s = .next t
      ∧ t.chip = { s.chip with free := t.chip.free })
  ∧ ∀ (s : State) (v : BitVec 64), s.keep.power.halted = false →
    (∀ f ∈ [((0x108 : BitVec 22), { s with keep := { s.keep with fw := { s.keep.fw with len := v.setWidth 32 } } }),
        (0x2108, { s with keep := { s.keep with retire := { s.keep.retire with index := v.setWidth 12 } } }),
        (0x3004, { s with chip := { s.chip with links := { s.chip.links with tmo := v.setWidth 24 } } }),
        (0x110018, { s with keep := { s.keep with pilot := { s.keep.pilot with
          irqCount := v.setWidth 8, usec := (v >>> 8).setWidth 16 } } }),
        (0x11001C, { s with keep := { s.keep with pilot := { s.keep.pilot with lost := v.setWidth 16 } } })],
      exec (.controlRegisterWrite f.1 false v) s = .next f.2)
    ∧ exec (.controlRegisterWrite 0x100 true v) s = .next { s with keep := { s.keep with fw := { s.keep.fw with addr := v } } }
    ∧ exec (.controlRegisterWrite 0x110000 true v) s = .next { s with
        keep := { s.keep with pilot := { s.keep.pilot with base := v } } }
    ∧ (∀ (off : BitVec 22) (n : Nat), n < 13 → off.toNat = 0x1520 + 4 * n → ∀ x, s.keep.power.sensor n = x →
      ∃ t, exec (.controlRegisterWrite off false v) s = .next t
        ∧ t.keep.power.sensor n = { x with warn := x.warn && !v.getLsbD 16, trip := x.trip && !v.getLsbD 17 }
        ∧ t.keep.power.throttle = s.keep.power.throttle ∧ t.chip = s.chip)
    ∧ (∀ (off : BitVec 22) (d : Nat), d < 4 → off.toNat = 0x2000 + 0x20 * d → ∀ x, s.keep.faqs.getD d ⟨[], false, 0⟩ = x →
      exec (.controlRegisterWrite off false v) s = .next { s with
        keep := { s.keep with faqs := s.keep.faqs.setIfInBounds d { x with ovf := x.ovf && !v.getLsbD 9 } } })
    ∧ (∀ (off : BitVec 22) (i : Nat), i < 256 → ∀ w, mgetD s.chip.links.windows i ⟨0, 0, 0, 0, 0, 0⟩ = w →
      w.base < 2 ^ 52 → w.len < 2 ^ 41 → w.asid < 2 ^ 8 → w.die < 4 → w.key < 2 ^ 24 → w.perm &&& 0x78 = 0 →
      (off.toNat = 0x20000 + 32 * i → ∃ t, exec (.controlRegisterWrite off true v) s = .next t
        ∧ mget t.chip.links.windows i = some { w with base := v.toNat % 2 ^ 52 } ∧ t.chip.mem = s.chip.mem)
      ∧ (off.toNat = 0x20008 + 32 * i → ∃ t, exec (.controlRegisterWrite off true v) s = .next t
        ∧ mget t.chip.links.windows i = some { w with len := v.toNat % 2 ^ 41 } ∧ t.chip.mem = s.chip.mem)
      ∧ (off.toNat = 0x20014 + 32 * i → ∃ t, exec (.controlRegisterWrite off false v) s = .next t
        ∧ mget t.chip.links.windows i = some { w with key := v.toNat % 2 ^ 24 } ∧ t.chip.mem = s.chip.mem))
    ∧ (∀ (off : BitVec 22) (i : Nat), i < 4096 → off.toNat = 0x40014 + 32 * i → ∀ e, mgetD s.chip.links.endpoints i ⟨0, 0, 0⟩ = e →
      e.job &&& 0x7F000000 = 0 → ∃ t, exec (.controlRegisterWrite off false v) s = .next t
        ∧ mget t.chip.links.endpoints i = some { e with ep := v.setWidth 32 } ∧ t.chip.mem = s.chip.mem)
    ∧ (∀ (off : BitVec 22) (p : Nat), p < 128 → ∀ q, s.chip.part p = q →
      (off.toNat = 0x120048 + 0x80 * p → ∃ t, exec (.controlRegisterWrite off true v) s = .next t
        ∧ t.chip.part p = (if q.en = false ∨ q.state = 3 ∨ q.state = 5 then { q with save := v } else q) ∧ t.keep = s.keep)
      ∧ (off.toNat = 0x120038 + 0x80 * p → ∃ t, exec (.controlRegisterWrite off true v) s = .next t
        ∧ t.chip.part p = (if q.en = false ∨ q.state = 3 ∨ q.state = 5 then { q with sventry := v } else q) ∧ t.keep = s.keep)
      ∧ (off.toNat = 0x120058 + 0x80 * p → ∃ t, exec (.controlRegisterWrite off true v) s = .next t
        ∧ t.chip.part p = { q with stoptok := v } ∧ t.keep = s.keep)
      ∧ (off.toNat = 0x120008 + 0x80 * p → ∃ t, exec (.controlRegisterWrite off true v) s = .next t ∧ t.keep = s.keep
        ∧ (t.chip.part p).clus.toNat =
          if q.en = false ∨ q.state = 5 then q.clus.toNat / 2 ^ 64 * 2 ^ 64 + v.toNat else q.clus.toNat))
    ∧ ∀ (off : BitVec 22), (off.toNat % 4 ≠ 0 → exec (.controlRegisterWrite off false v) s = .next s)
      ∧ (off.toNat % 8 ≠ 0 ∨ (0x1000 ≤ off.toNat ∧ off.toNat < 0x20000) → exec (.controlRegisterWrite off true v) s = .next s)

/-- R89 and R91: `EVQ_CTL` enables an empty ring at slot 0 with phase 1 and sequence 1 if its size is held, keeps the ring
while `EN` stays 1, and disables it; on enabling, a buffered event is written first; `EVQ_HEAD` frees entries, and then a
held event is written at the tail; the timer signals unsignalled entries. -/
def Sys2Proof.Claims.EventRingFollowsItsRegisters : Prop :=
  ∀ (s : State) (v : BitVec 32) (p : Pilot) (n : Nat), s.keep.pilot = p → n = v.toNat / 2 % 32 → ∀ vec : BitVec 11,
    vec.toNat = v.toNat / 2 ^ 16 % 2 ^ 11 →
    (p.buffer = [] → p.held = [] →
      (p.en = false → v.getLsbD 0 = true → 8 ≤ n → n ≤ 16 → exec (.evqCtlWrite v) s = .next { s with
        keep := { s.keep with pilot := { p with
          en := true, log2n := n, vec := vec, head := 0, tail := 0, phase := true, seq := 1, unsignalled := 0 } } })
      ∧ (p.en = false → v.getLsbD 0 = false ∨ n < 8 ∨ 16 < n → exec (.evqCtlWrite v) s = .next { s with
        keep := { s.keep with pilot := { p with log2n := n, vec := vec } } })
      ∧ (p.en = true → v.getLsbD 0 = true → exec (.evqCtlWrite v) s = .next { s with
        keep := { s.keep with pilot := { p with vec := vec } } })
      ∧ (p.en = true → v.getLsbD 0 = false → exec (.evqCtlWrite v) s = .next { s with
        keep := { s.keep with pilot := { p with en := false, log2n := n, vec := vec } } })
      ∧ exec (.evqHeadWrite v) s = .next { s with keep := { s.keep with pilot := { p with head := v.setWidth 16 } } })
    ∧ (∀ e t, p.buffer = [(e, t)] → p.held = [] → p.en = false → v.getLsbD 0 = true → 8 ≤ n → n ≤ 16 → Memory.wf s.keep.hostMem →
      ∃ u, exec (.evqCtlWrite v) s = .next u ∧ u.keep.pilot.en = true ∧ u.keep.pilot.buffer = [] ∧ u.keep.pilot.tail = 1
        ∧ memReadBytes u.keep.hostMem (p.base.toNat / 4096 * 4096) 32 = e.bytes true 1 t)
    ∧ (∀ e, p.buffer = [] → p.held = [e] → p.en = true → p.tail.toNat < 2 ^ p.log2n → Memory.wf s.keep.hostMem →
      (p.tail.toNat + 2 ^ p.log2n - v.toNat % 2 ^ 16 % 2 ^ p.log2n) % 2 ^ p.log2n < 2 ^ p.log2n - 1 →
      ∃ u, exec (.evqHeadWrite v) s = .next u ∧ u.keep.pilot.head = v.setWidth 16 ∧ u.keep.pilot.held = []
        ∧ u.keep.pilot.seq = p.seq + 1
        ∧ memReadBytes u.keep.hostMem (p.base.toNat / 4096 * 4096 + 32 * p.tail.toNat) 32 = e.bytes p.phase p.seq s.chip.time
        ∧ (∀ a, a < p.base.toNat / 4096 * 4096 + 32 * p.tail.toNat ∨ p.base.toNat / 4096 * 4096 + 32 * p.tail.toNat + 32 ≤ a →
          memRead u.keep.hostMem a = memRead s.keep.hostMem a)
        ∧ u.chip = s.chip)
    ∧ (p.usec ≠ 0 → 0 < p.unsignalled → p.since + 1000 * p.usec.toNat ≤ s.chip.time →
      ∃ u, exec .evqIrqTimer s = .next u ∧ u.keep.pilot = { p with unsignalled := 0 } ∧ u.chip = s.chip
        ∧ (s.keep.masked p.vec.toNat = false → u.keep.sentIrqs = s.keep.sentIrqs ++ [p.vec.toNat] ∧ u.keep.pba = s.keep.pba)
        ∧ (s.keep.masked p.vec.toNat = true → u.keep.sentIrqs = s.keep.sentIrqs ∧ u.keep.pba.getLsbD p.vec.toNat = true))

/-- R53 and R17: a host access through the on-chip window, of up to 4,096 bytes when it reads and 512 when it writes (R49), reads
or writes the tile store or accumulator slot concerned; a write to a beacon table is discarded; an access any byte of which
falls in a hole completes with Unsupported Request and no effect; before `READY` an access completes with zero data and no
effect. -/
def Sys2Proof.Claims.WindowAccessesReachOnChipState : Prop :=
  ∀ (s : State) (off : BitVec 33) (size : BitVec 13) (v : List (BitVec 8)) (w : Bool) (pa : Nat), s.keep.power.halted = false →
    pa = 0x800000000000 + off.toNat → 1 ≤ size.toNat → size.toNat ≤ (if w then 512 else 4096) →
    (s.keep.boot.ready = true → (∀ i, i < size.toNat → place (pa + i) ≠ .hole) →
      (∀ cl, place pa = .tile cl ∨ place pa = .slot cl →
        (w = false → ∃ t, exec (.windowAccess w off size v) s = .next t ∧ t.keep.hostReads = memReadBytes s.chip.mem pa size.toNat
          ∧ t.keep.hostUr = false ∧ t.chip.mem = s.chip.mem ∧ t.chip.cos = s.chip.cos)
        ∧ (w = true → v.length = size.toNat → Memory.wf s.chip.mem →
          ∃ t, exec (.windowAccess w off size v) s = .next t ∧ t.keep.hostUr = false
          ∧ memReadBytes t.chip.mem pa size.toNat = v
          ∧ (∀ a, a < pa ∨ pa + size.toNat ≤ a → memRead t.chip.mem a = memRead s.chip.mem a) ∧ t.chip.cos = s.chip.cos))
      ∧ (∀ d, place pa = .beacon d → w = true →
        ∃ t, exec (.windowAccess w off size v) s = .next t ∧ t.keep.hostUr = false ∧ t.chip.mem = s.chip.mem
          ∧ t.chip.cos = s.chip.cos ∧ ∀ e i, t.chip.beacon e i = s.chip.beacon e i))
    ∧ (s.keep.boot.ready = true → (∃ i, i < size.toNat ∧ place (pa + i) = .hole) →
      ∃ t, exec (.windowAccess w off size v) s = .next t ∧ t.chip = s.chip ∧ t.keep.hostUr = true)
    ∧ (s.keep.boot.ready = false →
      ∃ t, exec (.windowAccess w off size v) s = .next t ∧ t.chip = s.chip ∧ t.keep.hostUr = false
        ∧ t.keep.hostReads = List.replicate (if w then 0 else size.toNat) 0)

/-! ### Memory errors, retirement and coherence (R32, R40-R47, R182-R187) -/

namespace Sys2Proof.Claims

/-- A spire's fault-address queue. -/
def faqOf (s : State) (d : Nat) : Faq := s.keep.faqs.getD d ⟨[], false, 0⟩

/-- Whether a frame holds half of a beacon table, or part of a context spill region where boot has placed one (R46). -/
def HoldsReserved (c : Chip) (f : Nat) : Prop :=
  ∃ d, d < 4 ∧ (f ∈ (c.spire d).frames
    ∨ ((c.spire d).spill ≠ 0 ∧ (c.spire d).spill / 2 ^ 21 ≤ f ∧ f < (c.spire d).spill / 2 ^ 21 + 288))

/-- Every byte of memory reads as before. -/
def SameBytes (s t : State) : Prop := ∀ a, memRead t.chip.mem a = memRead s.chip.mem a

end Sys2Proof.Claims

/-- R44, R32, R41, R42 and R40: writing 1 to `FAQ_POP` discards the head entry; the scrubber of a line without errors changes no
value, what one symbol of a sector has suffered is corrected, and a double-symbol correction, or an uncorrectable sector or
compass word, whose line becomes poisoned, is entered (an unreadable compass word as kind 3: the model's choice, log entry 41);
a CXL request without completion leaves its line poisoned with an entry of kind 5; nothing answers behind a port that has gone
down. -/
def Sys2Proof.Claims.MemoryErrorsAreRecorded : Prop :=
  ∀ (s : State),
    (∀ (d : BitVec 2) (v : BitVec 32), ∃ t, exec (.faqPop d v) s = .next t ∧ t.chip = s.chip
      ∧ (faqOf t d.toNat).entries = (if v.getLsbD 0 then (faqOf s d.toNat).entries.drop 1 else (faqOf s d.toNat).entries)
      ∧ ∀ e, e ≠ d.toNat → faqOf t e = faqOf s e)
    ∧ (s.keep.power.halted = false → s.chip.found = [] →
      (∀ (line : BitVec 48) (found : BitVec 3) (sect : BitVec 1) (d : Nat), place (line.toNat * 128) = .hbm →
        d = line.toNat * 128 / 2 ^ 37 % 4 → s.chip.latentOf line.toNat = Latent.none →
        (found.toNat = 0 → exec (.patrolScrub line found sect) s = .next s)
        ∧ (found.toNat = 1 → ∃ t, exec (.patrolScrub line found sect) s = .next t ∧ t.keep = s.keep ∧ t.chip.mem = s.chip.mem
          ∧ t.chip.latentOf line.toNat = Latent.none ∧ t.chip.compass = s.chip.compass ∧ t.chip.outbox = s.chip.outbox)
        ∧ (2 ≤ found.toNat → (faqOf s d).entries.length < 256 → ∀ kind, (found.toNat = 2 → kind = 1) → (found.toNat = 3 → kind = 4) →
          (4 ≤ found.toNat → kind = 3) →
          ∃ t, exec (.patrolScrub line found sect) s = .next t ∧ t.chip.mem = s.chip.mem
            ∧ (faqOf t d).entries = (faqOf s d).entries ++ [(line.setWidth 32,
                BitVec.ofNat 8 (kind + if kind = 3 then 0 else 16 * sect.toNat), BitVec.ofNat 64 s.chip.time)]
            ∧ (found.toNat = 2 → t.chip.poisoned line.toNat = s.chip.poisoned line.toNat ∧ t.chip.outbox = s.chip.outbox)
            ∧ (3 ≤ found.toNat → t.chip.poisoned line.toNat = true
              ∧ t.chip.outbox = s.chip.outbox ++ [⟨0x10, d, BitVec.ofNat 64 d, 0, none⟩])))
      ∧ (∀ (pa : BitVec 48) (p : Nat), place pa.toNat = .cxl p → pa.toNat / 128 ∉ s.chip.links.cxlBad → Memory.wf s.chip.mem →
        s.chip.Clean (pa.toNat / 128) → ∃ t d, exec (.cxlTimeout pa) s = .next t ∧ d < 4
        ∧ t.chip.poisoned (pa.toNat / 128) = true ∧ SameBytes s t
        ∧ ((faqOf s d).entries.length < 256 → (faqOf t d).entries = (faqOf s d).entries ++
          [((pa >>> 9).setWidth 32, BitVec.ofNat 8 (5 + 32 * p), BitVec.ofNat 64 s.chip.time)])
        ∧ t.chip.outbox = s.chip.outbox ++ [⟨0x10, d, BitVec.ofNat 64 d, 0, none⟩])
      ∧ ∀ port : BitVec 2, ∃ t, exec (.cxlPortDown port) s = .next t ∧ t.chip.mem = s.chip.mem ∧ t.keep = s.keep
        ∧ (∀ pa, place pa = .cxl port.toNat → t.chip.nothingAt pa = true)
        ∧ ∀ pa p, place pa = .cxl p → p ≠ port.toNat → t.chip.nothingAt pa = s.chip.nothingAt pa)

/-- R46 and R47: a retirement of a frame already listed changes nothing; of one that holds a reserved region only lists it; of
any other recalls its lines to U and invalidates every translation and L1 line of it, with the L1 lines of the address spaces
concerned (R113, R119), marks it retired, and lists it while the list has room; no byte of memory changes. `BUSY` clears with
the event. -/
def Sys2Proof.Claims.RetirementFollowsItsOutcome : Prop :=
  ∀ (s : State) (v : BitVec 32) (f : Nat), s.keep.power.halted = false → f = v.toNat % 2 ^ 18 →
    (s.keep.retire.busy = true → exec (.memRetire v) s = .next s
      ∧ ∃ t, exec .memRetireDone s = .next t ∧ t.keep.retire = { s.keep.retire with busy := false }
        ∧ t.chip.outbox = s.chip.outbox ++ [⟨0x11, 4, BitVec.ofNat 64 s.keep.retire.frame,
            BitVec.ofNat 64 (s.keep.retire.status + 2 ^ 16 * s.keep.store.badPages.length), none⟩] ∧ t.chip.mem = s.chip.mem)
    ∧ (s.keep.retire.busy = false → ∃ t, exec (.memRetire v) s = .next t ∧ t.keep.retire.busy = true ∧ t.keep.retire.frame = f
      ∧ t.chip.mem = s.chip.mem
      ∧ (f ∈ s.keep.store.badPages → t.keep.retire.status = 1 ∧ t.chip = s.chip ∧ t.keep.store = s.keep.store)
      ∧ (f ∉ s.keep.store.badPages →
        (HoldsReserved s.chip f → t.keep.retire.status = 3 ∧ t.chip = s.chip
          ∧ (s.keep.store.badPages.length < 4096 → t.keep.store.badPages = s.keep.store.badPages ++ [f]))
        ∧ (¬HoldsReserved s.chip f →
          (s.keep.store.badPages.length < 4096 → t.keep.retire.status = 0 ∧ t.keep.store.badPages = s.keep.store.badPages ++ [f])
          ∧ (4096 ≤ s.keep.store.badPages.length → t.keep.retire.status = 2 ∧ t.keep.store.badPages = s.keep.store.badPages)
          ∧ f ∈ t.chip.retired
          ∧ (∀ line, line / 16384 = f → cState (t.chip.compassOf line) = 0 ∧ ∀ d, d < 4 → t.chip.copyAt d line = none)
          ∧ (∀ k, ∀ l ∈ (t.chip.core k).l1d ++ (t.chip.core k).l1i, l.pline / 16384 ≠ f)
          ∧ (∀ e ∈ t.chip.tlb, e.2.names e.1 f = false)
          ∧ ∀ e ∈ s.chip.tlb, e.2.names e.1 f = true →
            ∀ k, ∀ l ∈ (t.chip.core k).l1d ++ (t.chip.core k).l1i, l.asid ≠ e.1 / 2 ^ 31 % 256)))

namespace Sys2Proof.Claims

/-- The fields of a line's compass word: state, owner, sharers and poison. -/
def compass (c : Chip) (line : Nat) : Nat × Nat × Nat × Bool :=
  (cState (c.compassOf line), cOwner (c.compassOf line), cSharers (c.compassOf line), (c.compassOf line).getLsbD 6)

/-- A spire can take in a line: it holds it, or has an empty general way in the line's set. -/
def HasWay (c : Chip) (d line : Nat) : Prop := (c.copyAt d line).isSome ∨ (c.emptyWay d line (List.range 58)).isSome

/-- What DRAM does not hold of a line as slices show it is dirty in one of them (R140). -/
def DirtyCovered (c : Chip) (line : Nat) : Prop :=
  (∀ p ∈ c.copies, p.1 / 4 = line → p.2.data = none)
  ∧ ∀ e ∈ c.dramOld, e.1 / 128 = line → ∃ d q, d < 4 ∧ c.copyAt d line = some q ∧ q.dirty.getLsbD (e.1 % 128 / 64) = true

end Sys2Proof.Claims

/-- R183, R185, R186 and R187: the home slice's transitions of a line of a frame in use. Home accesses and drops leave the compass
word as it stands; a remote read grants a clean shared copy and a remote write an exclusive one, dirty only where the owner's
was, with the word that the table gives; a recall returns the line to U, keeps its poison and leaves DRAM with what is dirty; a
malformed word becomes U with poison. No byte of memory changes. A home slice refuses a line of a retired frame (R45). -/
def Sys2Proof.Claims.CompassTransitionTable : Prop :=
  ∀ (s : State) (line : BitVec 48) (l h : Nat) (spire : BitVec 2) (st o m : Nat) (p : Bool), s.keep.power.halted = false →
    line.toNat = l → place (l * 128) = .hbm → h = l * 128 / 2 ^ 37 % 4 → compass s.chip l = (st, o, m, p) → Memory.wf s.chip.mem →
    (s.chip.isRetired (l * 128) = true → ∀ k : BitVec 3, ∃ t, exec (.homeSliceTransaction k spire line) s = .next t
      ∧ t.chip.compass = s.chip.compass ∧ t.chip.copies = s.chip.copies ∧ t.chip.mem = s.chip.mem)
    ∧ (s.chip.isRetired (l * 128) = false → s.chip.latentOf l = Latent.none →
    (s.chip.Clean l → cMalformed (s.chip.compassOf l) h = true → ∀ k : BitVec 3, k.toNat = 0 ∨ k.toNat = 1 ∨ k.toNat = 4 →
      ∃ t, exec (.homeSliceTransaction k spire line) s = .next t ∧ compass t.chip l = (0, 0, 0, true) ∧ SameBytes s t
        ∧ ∀ d, d < 4 → d ≠ h → t.chip.copyAt d l = none)
    ∧ (cMalformed (s.chip.compassOf l) h = false → ∀ n, n = spire.toNat →
      (s.chip.Clean l →
        ∃ t q, exec (.homeSliceTransaction 0 spire line) s = .next t ∧ compass t.chip l = (st, o, m, p) ∧ SameBytes s t
        ∧ t.chip.copyAt h l = some q ∧ q.valid = 3 ∧ (st = 2 ∨ st = 3 → t.chip.copyAt o l = none
          ∧ (s.chip.dirtyAt o l = true → HasWay s.chip h l → t.chip.dirtyAt h l = true)))
      ∧ (s.chip.Clean l →
        ∃ t q, exec (.homeSliceTransaction 1 spire line) s = .next t ∧ compass t.chip l = (st, o, m, p) ∧ SameBytes s t
        ∧ t.chip.copyAt h l = some q ∧ q.valid = 3
        ∧ ∀ d, d < 4 → d ≠ h → ((st = 1 ∨ st = 3) ∧ bit m d = true) ∨ ((st = 2 ∨ st = 3) ∧ d = o) → t.chip.copyAt d l = none)
      ∧ (s.chip.Clean l → n ≠ h → s.chip.copyAt n l = none →
        ∃ t q, exec (.homeSliceTransaction 2 spire line) s = .next t ∧ SameBytes s t
        ∧ t.chip.copyAt n l = some q ∧ q.mode = .shared ∧ q.valid = 3 ∧ q.dirty = 0 ∧ t.chip.dirtyAt h l = false
        ∧ (st = 0 ∨ st = 1 → compass t.chip l = (1, 0, Nat.lor m (2 ^ n), p))
        ∧ (st = 2 → ∀ c, s.chip.copyAt o l = some c → ∃ c', t.chip.copyAt o l = some c' ∧ c'.dirty = c.dirty
          ∧ (c.dirty ≠ 0 → compass t.chip l = (3, o, 2 ^ n, p) ∧ c'.mode = .dirtyOwner)
          ∧ (c.dirty = 0 → compass t.chip l = (1, 0, Nat.lor (2 ^ o) (2 ^ n), p) ∧ c'.mode = .shared))
        ∧ (st = 2 → s.chip.copyAt o l = none → compass t.chip l = (1, 0, 2 ^ n, p))
        ∧ (st = 3 → s.chip.copyAt o l ≠ none → compass t.chip l = (3, o, Nat.lor m (2 ^ n), p))
        ∧ (st = 3 → s.chip.copyAt o l = none → compass t.chip l = (1, 0, Nat.lor m (2 ^ n), p)))
      ∧ (s.chip.Clean l → n ≠ h → (∀ c, s.chip.copyAt n l = some c → c.mode ≠ .exclusive) →
        ∃ t q, exec (.homeSliceTransaction 3 spire line) s = .next t ∧ SameBytes s t
        ∧ compass t.chip l = (2, n, 0, p) ∧ t.chip.copyAt n l = some q ∧ q.mode = .exclusive ∧ q.valid = 3
        ∧ t.chip.copyAt h l = none
        ∧ (∀ c, (st = 2 ∨ st = 3) → o ≠ n → s.chip.copyAt o l = some c → q.dirty = c.dirty)
        ∧ (s.chip.copyAt n l = none → (st = 2 ∨ st = 3 → s.chip.copyAt o l = none) → q.dirty = 0)
        ∧ ∀ d, d < 4 → d ≠ n → ((st = 1 ∨ st = 3) ∧ bit m d = true) ∨ ((st = 2 ∨ st = 3) ∧ d = o) → t.chip.copyAt d l = none)
      ∧ (∃ t, exec (.homeSliceTransaction 4 spire line) s = .next t ∧ t.chip.mem = s.chip.mem ∧ compass t.chip l = (0, 0, 0, p)
        ∧ (∀ d, d < 4 → t.chip.copyAt d l = none)
        ∧ (DirtyCovered s.chip l → ∀ a, a / 128 = l → t.chip.dramByte a = memRead s.chip.mem a))
      ∧ (∃ t, exec (.homeSliceTransaction 5 spire line) s = .next t ∧ t.chip.mem = s.chip.mem ∧ compass t.chip l = (st, o, m, p)
        ∧ t.chip.dirtyAt h l = false)
      ∧ (n ≠ h → ∀ c, s.chip.copyAt n l = some c → c.mode ≠ .home → c.mode ≠ .readOnly →
        ∃ t, exec (.remoteDrop spire line) s = .next t ∧ t.chip.mem = s.chip.mem ∧ compass t.chip l = (st, o, m, p)
        ∧ t.chip.copyAt n l = none ∧ (c.dirty ≠ 0 → HasWay s.chip h l → t.chip.dirtyAt h l = true)
        ∧ (c.dirty = 0 → t.chip.copyAt h l = s.chip.copyAt h l))))

/-! ### Boot, firmware commands and function-level reset (R15-R17, R88, R92-R97) -/

namespace Sys2Proof.Claims

/-- A boot has stopped at a stage with an error, and nothing outside the keep runs (R17). -/
def StoppedAt (t : State) (stage err : Nat) : Prop :=
  t.keep.boot.stage = BitVec.ofNat 8 stage ∧ t.keep.boot.err = BitVec.ofNat 8 err ∧ t.keep.boot.ready = false
    ∧ t.keep.power.halted = true

/-- What a boot that has reached `READY` leaves, from the configuration record and the microcode image it took. -/
def Booted (s t : State) (r uc : List Byte) : Prop :=
  t.keep.boot.stage = 8 ∧ t.keep.boot.ready = true ∧ t.chip.version = BitVec.ofNat 32 (imageVer uc)
    ∧ t.chip.devhash = deviceHash (imageVer uc) (Config.microcodeSet uc) ∧ t.chip.retired = s.keep.store.badPages
    ∧ t.chip.compass = [] ∧ t.chip.combiner = [] ∧ t.chip.clmask = BitVec.ofNat 128 (recField r 0x18 16)
    ∧ (∀ n, n < 128 → t.chip.clmask.getLsbD n = true → (t.chip.cluster n).power = 2)
    ∧ (∀ d i, d < 4 → t.chip.beacon d i = Beacon.reset)
    ∧ (∀ d a, d < 4 → (t.chip.spire d).spill ≤ a → a < (t.chip.spire d).spill + 288 * 2 ^ 21 → memRead t.chip.mem a = 0)
    ∧ (∀ d f, d < 4 → (t.chip.spire d).spill / 2 ^ 21 ≤ f → f < (t.chip.spire d).spill / 2 ^ 21 + 288 → f ∉ t.chip.retired)
    ∧ ∃ e, t.chip.outbox = s.chip.outbox ++ [e] ∧ e.type = 1 ∧ e.d0 = t.chip.version.setWidth 64 ∧ e.d1 = t.chip.devhash

/-- The registers of a boot that has taken a configuration record. -/
def Configured (t : State) (r : List Byte) : Prop :=
  t.keep.boot.plimit = Min.min 2000 (recField r 0x10 4) ∧ t.keep.boot.dieWarn = recField r 0x14 2
    ∧ t.keep.boot.hbmWarn = recField r 0x16 2 ∧ t.keep.boot.cfgRecord = r

/-- The conditions under which a staged image is taken (R95). -/
def Stageable (s : State) (img : List Byte) : Prop :=
  160 ≤ img.length ∧ recField img 0x10 8 = img.length ∧ s.keep.store.signed img = true
    ∧ recField img 0 4 = 0x57464C4F ∧ ((recField img 4 1 = 1 ∧ s.keep.store.fwSvn ≤ imageSvn img)
      ∨ (recField img 4 1 = 2 ∧ s.keep.store.ucSvn ≤ imageSvn img ∧ imageVer img / 2 ^ 24 = s.chip.version.toNat / 2 ^ 24
        ∧ s.chip.version.toNat / 2 ^ 16 % 2 ^ 8 ≤ imageVer img / 2 ^ 16 % 2 ^ 8))

end Sys2Proof.Claims

/-- R15, R16, R17, R6 and R95: power-good runs the boot stages, of a package that has been booted before from a cold reset, which
keeps its non-volatile store with the images staged since: of the slots that verify, those with the larger version are
taken, and of the valid configuration records the newer; a stage that fails leaves its code and error; else `READY` is set
with the regions cleared and the device-ready event raised. What lies outside the model decides whether a channel, the list,
a spire or a port passes (log entry 8). -/
def Sys2Proof.Claims.PowerGoodRunsTheBootStages : Prop :=
  ∀ s : State, (s.keep.boot.started = true → ∃ c : State, exec .powerGood s = exec .powerGood c ∧ c.keep.store = s.keep.store
      ∧ c.keep.hostMem = s.keep.hostMem ∧ c.keep.boot.started = false ∧ c.keep.boot.ready = false ∧ c.keep.boot.err = 0
      ∧ c.keep.power = State.reset.keep.power ∧ c.keep.pilot = State.reset.keep.pilot ∧ c.keep.hqs = State.reset.keep.hqs
      ∧ c.keep.faqs = State.reset.keep.faqs ∧ c.chip.mem = State.reset.chip.mem ∧ c.chip.cos = [] ∧ c.chip.cores = []
      ∧ c.chip.launches = [] ∧ c.chip.parts = [] ∧ c.chip.roots = [] ∧ c.chip.links.windows = [] ∧ c.chip.time = 0)
    ∧ (s.keep.boot.started = false → s.keep.boot.ready = false → s.keep.boot.err = 0 →
      ∃ t, exec .powerGood s = .next t ∧ t.keep.boot.started = true ∧ t.keep.boot.count = s.keep.boot.count + 1 ∧
        match s.keep.store.pickImage 1 s.keep.store.fw with
        | none => StoppedAt t 1 0x11
        | some fw =>
          t.keep.boot.fwImage = fw ∧ t.keep.store.fwSvn = imageSvn fw ∧
          match s.keep.store.pickImage 2 s.keep.store.uc with
          | none => StoppedAt t 2 0x21
          | some uc =>
            t.keep.boot.ucImage = uc ∧ t.keep.store.ucSvn = imageSvn uc ∧
            match pickConfig s.keep.store with
            | none => StoppedAt t 3 0x31
            | some r => Configured t r ∧ (StoppedAt t 4 0x41 ∨ StoppedAt t 4 0x42 ∨ StoppedAt t 5 0x51 ∨ StoppedAt t 6 0x61
              ∨ StoppedAt t 7 0x71 ∨ (t.keep.boot.err = 0 ∧ Booted s t r uc)))

/-- R94, R95 and R96: a firmware command that starts makes the part busy, and `RESULT` follows when it is done; staging writes
an image that passes its checks to the slot that the boot did not take; the report replaces the nonce and is signed; the
certificate goes to the buffer and its length to `FW_LEN`. The DMA may fail, with result 4 (the outside world's choice). A
lantern that a failed boot has halted runs no command (R17). -/
def Sys2Proof.Claims.FirmwareCommandResults : Prop :=
  ∀ (s : State) (buf : Nat), buf = s.keep.fw.addr.toNat / 4096 * 4096 →
    (s.keep.fw.busy = true → (∀ i ∈ [Instr.fwStageImage, .fwAttest, .fwReadCert], exec i s = .next s)
      ∧ exec .fwCommandDone s = .next { s with keep := { s.keep with fw := { s.keep.fw with busy := false, result := s.keep.fw.pending } } })
    ∧ (s.keep.boot.err ≠ 0 → ∀ i ∈ [Instr.fwStageImage, .fwAttest, .fwReadCert], exec i s = .next s)
    ∧ (s.keep.fw.busy = false → s.keep.boot.err = 0 →
      (2 ^ 26 < s.keep.fw.len.toNat → exec .fwStageImage s = .next { s with
        keep := { s.keep with fw := { s.keep.fw with busy := true, op := 1, pending := 5 } } })
      ∧ (s.keep.fw.len.toNat ≤ 2 ^ 26 → ∀ img, img = memReadBytes s.keep.hostMem buf s.keep.fw.len.toNat →
        ∃ t r, exec .fwStageImage s = .next t ∧ t.keep.fw = { s.keep.fw with busy := true, op := 1, pending := r }
          ∧ t.keep.hostMem = s.keep.hostMem ∧ t.chip.mem = s.chip.mem
          ∧ ((r = 4 ∧ t.keep.store = s.keep.store)
            ∨ (r ≠ 0 ∧ t.keep.store = s.keep.store ∧ ¬Stageable s img)
            ∨ (r = 0 ∧ Stageable s img ∧
              (recField img 4 1 = 1 → t.keep.store = { s.keep.store with fw := t.keep.store.fw } ∧ img ∈ t.keep.store.fw
                ∧ (s.keep.store.fw.getD 0 [] = s.keep.boot.fwImage → t.keep.store.fw.getD 0 [] = s.keep.boot.fwImage))
              ∧ (recField img 4 1 = 2 → t.keep.store = { s.keep.store with uc := t.keep.store.uc } ∧ img ∈ t.keep.store.uc
                ∧ (s.keep.store.uc.getD 0 [] = s.keep.boot.ucImage → t.keep.store.uc.getD 0 [] = s.keep.boot.ucImage)))))
      ∧ (Memory.wf s.keep.hostMem → ∃ t r, exec .fwAttest s = .next t ∧ t.keep.fw = { s.keep.fw with busy := true, op := 3, pending := r }
        ∧ t.keep.store = s.keep.store ∧ t.chip.mem = s.chip.mem
        ∧ ((r = 4 ∧ t.keep.hostMem = s.keep.hostMem)
          ∨ (r = 0 ∧ memReadNat t.keep.hostMem buf 4 = 0x54414C4F
            ∧ memReadNat t.keep.hostMem (buf + 4) 4 = s.chip.version.toNat
            ∧ memReadNat t.keep.hostMem (buf + 8) 8 = s.chip.devhash.toNat
            ∧ memReadBytes t.keep.hostMem (buf + 16) 48 = memReadBytes s.keep.hostMem buf 48
            ∧ memReadBytes t.keep.hostMem (buf + 0x40) 48 = sha384 s.keep.boot.fwImage
            ∧ memReadBytes t.keep.hostMem (buf + 0x70) 48 = sha384 s.keep.boot.ucImage
            ∧ memReadBytes t.keep.hostMem (buf + 0xA0) 48 = sha384 s.keep.boot.cfgRecord
            ∧ memReadNat t.keep.hostMem (buf + 0xD0) 8 = s.keep.boot.cfgSeq.toNat
            ∧ memReadNat t.keep.hostMem (buf + 0xD8) 4 = imageSvn s.keep.boot.fwImage
            ∧ memReadNat t.keep.hostMem (buf + 0xDC) 4 = imageSvn s.keep.boot.ucImage
            ∧ (∃ n, memReadBytes t.keep.hostMem (buf + 0xE0) 96 = signature n (memReadBytes t.keep.hostMem buf 0xE0))
            ∧ ∀ a, a < buf ∨ buf + 320 ≤ a → memRead t.keep.hostMem a = memRead s.keep.hostMem a)))
      ∧ (Memory.wf s.keep.hostMem → ∃ t r, exec .fwReadCert s = .next t ∧ t.keep.store = s.keep.store ∧ t.chip.mem = s.chip.mem
        ∧ t.keep.fw.busy = true ∧ t.keep.fw.pending = r
        ∧ ((r = 4 ∧ t.keep.hostMem = s.keep.hostMem)
          ∨ (r = 0 ∧ t.keep.fw.len.toNat ≤ 2048
            ∧ memReadBytes t.keep.hostMem buf t.keep.fw.len.toNat = Config.certificate.take 2048
            ∧ ∀ a, a < buf ∨ buf + t.keep.fw.len.toNat ≤ a → memRead t.keep.hostMem a = memRead s.keep.hostMem a))))

/-- R97: a function-level reset ends every launch and coroutine, disables every partition and returns its registers to their
reset values (the tolerance, of the package block, stays), clears the beacon tables and spill regions, and resets the
launch-queue, event-queue and firmware registers, the export windows and the MSI-X table; the package, memory-error and
link registers, `VERSION`, `DEVHASH` and `READY` stay. The events not yet written wait in the pilot's buffer, as they do while the
ring is disabled (R91). -/
def Sys2Proof.Claims.FunctionLevelResetClears : Prop :=
  ∀ s : State, s.keep.power.halted = false → ∃ t, exec .functionLevelReset s = .next t
    ∧ t.chip.launches = [] ∧ t.chip.cos = [] ∧ (∀ n, (t.chip.core n).running = none)
    ∧ (∀ p, t.chip.part p = { Partition.reset with tol := (s.chip.part p).tol })
    ∧ (∀ d i, d < 4 → t.chip.beacon d i = Beacon.reset)
    ∧ (∀ d a, d < 4 → (s.chip.spire d).spill ≠ 0 → (s.chip.spire d).spill ≤ a → a < (s.chip.spire d).spill + 288 * 2 ^ 21 →
      memRead t.chip.mem a = 0)
    ∧ t.keep.hqs = State.reset.keep.hqs ∧ t.keep.fw = State.reset.keep.fw ∧ t.keep.msix = [] ∧ t.keep.pba = 0
    ∧ t.keep.pilot.base = 0 ∧ t.keep.pilot.en = false ∧ t.keep.pilot.log2n = 8 ∧ t.keep.pilot.head = 0 ∧ t.keep.pilot.tail = 0
    ∧ t.keep.pilot.irqCount = 1 ∧ t.keep.pilot.usec = 0
    ∧ (s.keep.pilot.buffer.length + s.keep.pilot.held.length ≤ 1024 → t.keep.pilot.lost = 0 ∧ t.keep.pilot.held = []
      ∧ t.keep.pilot.buffer.map Prod.fst = s.keep.pilot.buffer.map Prod.fst ++ s.keep.pilot.held)
    ∧ t.keep.boot = s.keep.boot ∧ t.keep.power = s.keep.power ∧ t.keep.faqs = s.keep.faqs ∧ t.keep.retire = s.keep.retire
    ∧ t.keep.store = s.keep.store ∧ t.chip.version = s.chip.version ∧ t.chip.devhash = s.chip.devhash
    ∧ t.chip.retired = s.chip.retired
    ∧ t.chip.links = { s.chip.links with windows := [], cxlBad := t.chip.links.cxlBad }

/-! ### Partitions: enabling, bell time, saved images (R156-R159, R174-R179, R268, R275-R277) -/

namespace Sys2Proof.Claims

/-- A refused write of `EN` or `OP`: it sets `ERR` and changes nothing else (R158). -/
def refusedAt (s : State) (p : Nat) : State := { s with chip := s.chip.modPart p (fun q => { q with err := true }) }

/-- `PART_STOPTOK` is signalled: a token of 0 names no beacon (R410). -/
def stopSignal (q : Partition) : List Flying :=
  if q.stoptok = 0 then [] else [⟨none, false, false, .signal q.stoptok 1 0 0 none, .keep, 0, false⟩]

/-- A write of `OP` that is refused once the save area has been read: `ERR` is set, and nothing else that software sees changes. -/
def RefusedAfterReading (s t : State) (p : Nat) : Prop :=
  t.chip.part p = { s.chip.part p with err := true } ∧ (∀ k, k ≠ p → t.chip.part k = s.chip.part k)
    ∧ t.chip.cos = s.chip.cos ∧ t.chip.msgs = s.chip.msgs ∧ t.keep = s.keep

/-- The records of a core's context cache fit in its 96 KiB with one of so many 64-byte units more, so that none is evicted (R222). -/
def Fits (c : Chip) (core units : Nat) : Prop := c.cacheUse core + units ≤ 1536

/-- The lowest cluster of a mask on a spire. -/
def LowestOn (m : BitVec 128) (d cl : Nat) : Prop :=
  m.getLsbD cl = true ∧ cl / 32 = d ∧ ∀ k, k < cl → k / 32 = d → m.getLsbD k = false

end Sys2Proof.Claims

/-- R156, R158, R159, R84, R268 and R13: enabling is accepted for a mask that is not empty, shares no cluster with another enabled
partition and holds none that is disabled: `STATE` becomes 1, the spire fault beacons are allocated with a new generation,
and a supervisor coroutine starts on each spire, on the lowest cluster's first core, at `PART_SVENTRY`, with `x10` and `x11`
naming the partition and the spire, and no unit stays in a state deeper than its tolerance now allows; else the write sets
`ERR`. Memory changes only where a context cache has no room for a new record. -/
def Sys2Proof.Claims.EnablingStartsAPartition : Prop :=
  ∀ (s : State) (p : BitVec 7) (q : Partition), s.keep.power.halted = false → s.chip.part p.toNat = q → q.en = false →
    (q.clus = 0 ∨ (∃ e ∈ s.chip.parts, e.1 ≠ p.toNat ∧ e.2.en = true ∧ e.2.clus &&& q.clus ≠ 0) ∨ q.clus &&& s.chip.clmask ≠ 0 →
      ∃ t, exec (.partEnable p) s = .next t ∧ t.chip = (refusedAt s p.toNat).chip)
    ∧ (q.clus ≠ 0 → (∀ e ∈ s.chip.parts, e.1 ≠ p.toNat → e.2.en = true → e.2.clus &&& q.clus = 0) → q.clus &&& s.chip.clmask = 0 →
      ∃ t, exec (.partEnable p) s = .next t ∧ t.chip.part p.toNat = { q with
          en := true, state := 1, unserved := decide (q.sventry = 0), armed := decide (s.chip.time < q.bell.toNat) }
        ∧ (∀ d cl, d < 4 → LowestOn q.clus d cl →
          t.chip.beacon d (0xFE00 + p.toNat) = ⟨0, nextGen (s.chip.beacon d (0xFE00 + p.toNat)).gen, true, 0, 0, 0⟩
          ∧ (q.sventry ≠ 0 → ∀ slot, s.chip.freeSlot (4 * cl) = some slot →
            ∃ co, t.chip.co (coKey (4 * cl) slot) = some co ∧ co.sup = true ∧ co.state = .ready
              ∧ co.pc.toNat = q.sventry.toNat / 4 * 4
              ∧ co.xr 10 = BitVec.ofNat 64 p.toNat ∧ co.xr 11 = BitVec.ofNat 64 d ∧ co.asid = 0))
        ∧ (∀ d, d < 4 → (∀ cl, ¬LowestOn q.clus d cl) → t.chip.spire d = { s.chip.spire d with power := (t.chip.spire d).power })
        ∧ (∀ n, n < 128 → s.chip.clmask.getLsbD n = false → exitLatency (t.chip.cluster n).power ≤ t.chip.clusterTol n)
        ∧ (∀ d, d < 4 → exitLatency (t.chip.spire d).power ≤ t.chip.spireTol d)
        ∧ (q.sventry = 0 → t.chip.cos = s.chip.cos)
        ∧ ((∀ d cl, d < 4 → LowestOn q.clus d cl → ∀ g, Fits s.chip (4 * cl) (supervisorOf p.toNat d g q.sventry).units) →
          t.chip.mem = s.chip.mem)
        ∧ t.keep = { s.keep with power := t.keep.power })

/-- R158, R268 and R82: disabling is accepted in state 5, and in state 1 with no launch, or with a fault that only a disable can
end: `STATE` becomes 0, the spire fault beacons are freed, and every launch of the partition has ended; in another state, or with
launches and no such fault, it sets `ERR`. -/
def Sys2Proof.Claims.DisablingEndsAPartition : Prop :=
  ∀ (s : State) (p : BitVec 7) (q : Partition), s.keep.power.halted = false → s.chip.part p.toNat = q → q.en = true →
    (q.state = 5 ∨ (q.state = 1 ∧ ((∀ e ∈ s.chip.launches, e.2.part ≠ p.toNat) ∨ s.chip.stuckFault p.toNat = true)) →
      ∃ t, exec (.partDisable p) s = .next t ∧ (t.chip.part p.toNat).en = false ∧ (t.chip.part p.toNat).state = 0
        ∧ (t.chip.part p.toNat).image = none ∧ (t.chip.part p.toNat).clus = q.clus
        ∧ (∀ d, d < 4 → (t.chip.beacon d (0xFE00 + p.toNat)).alloc = false)
        ∧ (q.state = 5 → ∀ l x, t.chip.launch l = some x → x.part ≠ p.toNat))
    ∧ (q.state ≠ 1 → q.state ≠ 5 → exec (.partDisable p) s = .next (refusedAt s p.toNat))
    ∧ (q.state = 1 → (∃ e ∈ s.chip.launches, e.2.part = p.toNat) → s.chip.stuckFault p.toNat = false →
      exec (.partDisable p) s = .next (refusedAt s p.toNat))
    ∧ (q.unserved = true → (∃ key co, s.chip.co key = some co ∧ (key, co) ∈ s.chip.cos ∧ q.clus.getLsbD (key / 1024) = true
      ∧ co.state = .faulted) → s.chip.stuckFault p.toNat = true)

/-- R174, R175, R177 and R178: a bell write in state 1 stores the time, clamped, or cancels it; when `TIME` has reached one that
is still to come the partition enters state 2 with every coroutine parked or exited and its messages in the drop-off buffers, but
for hops that wait for an identifier; the stop completes in state 3, once no piece that it has sent is under way, with the bell
cleared and `PART_STOPTOK` signalled; a resume returns each parked coroutine to its prior state, ready times advanced by the
length of the stop. -/
def Sys2Proof.Claims.BellStopAndResume : Prop :=
  ∀ (s : State) (p : BitVec 7) (q : Partition), s.keep.power.halted = false → s.chip.part p.toNat = q →
    (∀ v : Word, (q.state ≠ 1 → exec (.partBellWrite p v) s = .next s)
      ∧ (q.state = 1 → s.chip.time + 2000 < 2 ^ 64 → ∃ t, exec (.partBellWrite p v) s = .next t
        ∧ t.chip.part p.toNat = { q with
            bell := if v ≠ 0 ∧ v.toNat < s.chip.time + 2000 then BitVec.ofNat 64 (s.chip.time + 2000) else v
            armed := decide (v ≠ 0) }
        ∧ t.chip.cos = s.chip.cos ∧ t.chip.mem = s.chip.mem))
    ∧ (q.en = true → q.state = 1 →
      (s.chip.time < q.bell.toNat ∨ q.armed = false → exec (.bellTime p) s = .next s)
      ∧ (q.armed = true → q.bell.toNat ≤ s.chip.time → ∃ t, exec (.bellTime p) s = .next t ∧ (t.chip.part p.toNat).state = 2
        ∧ (t.chip.part p.toNat).stopAt = s.chip.time ∧ (t.chip.part p.toNat).armed = false
        ∧ (∀ key co, t.chip.co key = some co → q.clus.getLsbD (key / 1024) = true → co.state = .parked ∨ co.state = .exited)
        ∧ ∀ f ∈ t.chip.msgs, f.part = some p.toNat → f.msg.carries = true → f.dropped = true ∨ f.waiting = true))
    ∧ (q.state = 2 →
      ((∀ cl k, q.clus.getLsbD cl = true → s.chip.cluster cl = k → ∀ n ∈ k.netQ, n.flight = []) →
        ∃ t, exec (.partStopComplete p) s = .next t ∧ (t.chip.part p.toNat).state = 3 ∧ (t.chip.part p.toNat).bell = 0
        ∧ t.chip.msgs = s.chip.msgs ++ stopSignal q ∧ t.chip.cos = s.chip.cos ∧ t.chip.mem = s.chip.mem)
      ∧ ((∃ cl < 128, ∃ n ∈ (s.chip.cluster cl).netQ, q.clus.getLsbD cl = true ∧ n.flight ≠ [] ∧ n.stalled = []) →
        exec (.partStopComplete p) s = .next s))
    ∧ (q.state = 3 → ∃ t, exec (.partResume p) s = .next t ∧ t.chip.part p.toNat = { q with state := 1 }
      ∧ (∀ key co, s.chip.co key = some co → q.clus.getLsbD (key / 1024) = true → co.state = .parked →
        ∃ co', t.chip.co key = some co' ∧ co'.state = co.prior ∧ co'.x = co.x ∧ co'.v = co.v ∧ co'.pc = co.pc ∧ co'.wait = co.wait
          ∧ (co.prior = .ready → co'.rtime = co.rtime + (s.chip.time - q.stopAt)))
      ∧ (∀ key, q.clus.getLsbD (key / 1024) = false → t.chip.co key = s.chip.co key)
      ∧ (∀ f ∈ t.chip.msgs, f.part = some p.toNat → f.msg.carries = true → f.dropped = false) ∧ t.chip.mem = s.chip.mem)
    ∧ (q.state ≠ 3 → exec (.partResume p) s = .next (refusedAt s p.toNat))

/-- R179, R275, R276 and R277: a save of a stopped partition writes the image and frees the clusters; a restore puts the
coroutines back, parked; a seal writes `SEALED` and the digest of the sections; an adopted image becomes the partition's.
Each signals `PART_STOPTOK` when done, and a refused operation sets `ERR`. Which image the save area holds is `Chip.imageAt`, and
`Chip.sealedAt` for one that is sealed; a section that is wrong is in `Chip.badSects` (each answers the chip that its reads
leave, too). -/
def Obligations.SavedImagesMoveThroughTheStates : Prop :=
  ∀ (s : State) (p : BitVec 7) (q : Partition) (base : Nat), s.keep.power.halted = false → s.chip.part p.toNat = q →
    base = q.save.toNat / 4096 * 4096 →
    (q.state = 3 → q.save ≠ 0 → exec (.partSave p) s = .next { s with
      chip := s.chip.modPart p.toNat (fun q => { q with state := 4, pendingOp := 2 }) })
    ∧ (q.state ≠ 3 ∨ q.save = 0 → exec (.partSave p) s = .next (refusedAt s p.toNat))
    ∧ (q.state = 4 → q.pendingOp = 2 → ∃ t img, exec (.partOpComplete p) s = .next t ∧ (t.chip.part p.toNat).state = 5
      ∧ (t.chip.part p.toNat).image = some img ∧ (∀ key, q.clus.getLsbD (key / 1024) = true → t.chip.co key = none)
      ∧ ((∀ e ∈ s.chip.cos, q.clus.getLsbD (e.1 / 1024) = true → e.2.evicted = false ∧ e.2.state ≠ .exited) →
        img.cos = s.chip.cos.filter (fun e => q.clus.getLsbD (e.1 / 1024))
        ∧ (∀ key, q.clus.getLsbD (key / 1024) = false → t.chip.co key = s.chip.co key)
        ∧ (Memory.wf s.chip.mem → (∀ i, i < 256 → s.chip.tableOk (base + i) = true) → memReadNat t.chip.mem base 4 = 0x49564153))
      ∧ (∀ k, q.clus.getLsbD (k / 4) = true → (t.chip.core k).running = none ∧ (t.chip.core k).mq = [])
      ∧ ∀ f ∈ stopSignal q, f ∈ t.chip.msgs)
    ∧ (∀ c, s.chip.imageAt p.toNat = (none, c) → ∀ i ∈ [Instr.partRestore p, .partSeal p],
      ∃ t, exec i s = .next t ∧ RefusedAfterReading s t p.toNat)
    ∧ (∀ img c, s.chip.imageAt p.toNat = (some img, c) →
      (q.state ≠ 5 → ∀ i ∈ [Instr.partRestore p, .partSeal p], ∃ t, exec i s = .next t ∧ RefusedAfterReading s t p.toNat)
      ∧ (q.state = 5 → s.chip.sameCounts p.toNat img = true → s.chip.sharesCluster p.toNat = false → q.clus &&& s.chip.clmask = 0 →
        ∀ h, (c.imageBytes base 256).1 = h → 256 ≤ h.length → leNat (h.take 4) = 0x49564153 →
        leNat ((h.drop 0x10).take 8) = q.savelen.toNat → leNat ((h.drop 7).take 1) = s.chip.version.toNat / 2 ^ 24 →
        ∃ t, exec (.partRestore p) s = .next t ∧ t.chip.part p.toNat = { q with state := 6, pendingOp := 3 }
          ∧ t.chip.cos = s.chip.cos ∧ t.keep = s.keep)
      ∧ (q.state = 6 → q.pendingOp = 3 → (c.badSects base img.sects).1 = [] →
        ∃ t, exec (.partOpComplete p) s = .next t ∧ (t.chip.part p.toNat).state = 3 ∧ (t.chip.part p.toNat).image = none
          ∧ (∀ key co, t.chip.co key = some co → q.clus.getLsbD (key / 1024) = true → co.state = .parked ∨ co.state = .exited)
          ∧ ∀ f ∈ stopSignal q, f ∈ t.chip.msgs)
      ∧ (q.state = 5 → (c.badSects base img.sects).1 = [] → 256 ≤ q.savelen.toNat →
        (∀ i, i < q.savelen.toNat → s.chip.tableOk (base + i) = true ∧ s.chip.Clean (lineOf (base + i))) →
        Memory.wf s.chip.mem → ∃ t, exec (.partSeal p) s = .next t ∧ t.chip.part p.toNat = q
          ∧ memRead t.chip.mem (base + 0x1C) = 1
          ∧ memReadBytes t.chip.mem (base + 0x30) 48 = sha384 (memReadBytes s.chip.mem (base + 256) (q.savelen.toNat - 256))
          ∧ t.chip.msgs = s.chip.msgs ++ stopSignal q ∧ t.chip.cos = s.chip.cos))
    ∧ (∀ c, s.chip.sealedAt p.toNat = (none, c) → ∃ t, exec (.partAdopt p) s = .next t ∧ RefusedAfterReading s t p.toNat)
    ∧ ∀ img c, s.chip.sealedAt p.toNat = (some img, c) →
        (q.state = 1 → (∀ e ∈ s.chip.launches, e.2.part ≠ p.toNat) → ∃ t, exec (.partAdopt p) s = .next t
          ∧ (t.chip.part p.toNat).state = 5 ∧ (t.chip.part p.toNat).image = some img
          ∧ (∀ key, q.clus.getLsbD (key / 1024) = true → t.chip.co key = none) ∧ ∀ f ∈ stopSignal q, f ∈ t.chip.msgs)
        ∧ (q.state ≠ 1 → ∃ t, exec (.partAdopt p) s = .next t ∧ RefusedAfterReading s t p.toNat)

/-! ### Scheduling, messages and the fault queue (R162, R165, R166, R169-R172, R199, R201, R213, R267, R268, R405) -/

namespace Sys2Proof.Claims

/-- A ready coroutine is chosen before another: by level, then by ready time, then by identifier (R165). -/
def ChosenBefore (now : Nat) (a b : Nat × Coroutine) : Prop :=
  b.2.levelAt now < a.2.levelAt now
    ∨ (b.2.levelAt now = a.2.levelAt now ∧ (a.2.rtime < b.2.rtime ∨ (a.2.rtime = b.2.rtime ∧ a.1 < b.1)))

/-- Every other coroutine is as it was, but that its record may have been evicted; where the core's records fit, nothing was, and
memory is as it was too (R222). -/
def OthersStand (s t : State) (key units : Nat) : Prop :=
  (∀ k m, k ≠ key → s.chip.co k = some m → ∃ m', t.chip.co k = some m' ∧ { m' with evicted := m.evicted, recWord := m.recWord } = m)
    ∧ (Fits s.chip (key / 256) units → t.chip.mem = s.chip.mem ∧ ∀ k ≠ key, t.chip.co k = s.chip.co k)

/-- A coroutine placed at an identifier becomes ready now, and its message is gone (R169, R170, R405). -/
def Placed (s t : State) (i core slot : Nat) (co : Coroutine) : Prop :=
  (∃ n, t.chip.co (coKey core slot) = some { co with state := .ready, rtime := s.chip.time, evicted := false, left := n })
    ∧ t.chip.msgs = dropAt s.chip.msgs i ∧ OthersStand s t (coKey core slot) co.units
    ∧ ∀ l, s.chip.launch co.lid = some l → ∃ l', t.chip.launch co.lid = some l'
      ∧ mgetD l'.recv core 0 = mgetD l.recv core 0 + 1 ∧ l'.sent = l.sent

end Sys2Proof.Claims

/-- R165, R271, R222, R276 and R166: an idle core dispatches the ready coroutine of highest level, then earliest ready time, then
lowest identifier, as its record gives it, which is read back where it has been evicted: it becomes running, and the stores and the
block that it holds are issued again, but for a supervisor coroutine in its handler; a record that cannot be trusted ends its
coroutine. A running coroutine yields when its quantum has passed with a ready one of at least its level, or a supervisor coroutine
is ready while it is a user one: it becomes ready with the registers of `DLIVE` kept. -/
def Sys2Proof.Claims.CoresDispatchAndPreempt : Prop :=
  ∀ (s : State) (core : BitVec 9) (n : Nat), s.keep.power.halted = false → core.toNat = n → s.chip.clusterRuns (n / 4) = true →
    ((s.chip.core n).running = none →
      ((∀ e ∈ s.chip.cos, e.1 / 256 = n → e.2.state ≠ .ready) → exec (.dispatch core) s = .next s)
      ∧ ∀ key co, (key, co) ∈ s.chip.cos → s.chip.co key = some co → key / 256 = n → co.state = .ready →
        (∀ e ∈ s.chip.cos, e.1 / 256 = n → e.2.state = .ready → e ≠ (key, co) → ChosenBefore s.chip.time (key, co) e) →
        (co.evicted = false → s.chip.fetchRecord key co = (.inr co, s.chip))
        ∧ (∀ cause c, s.chip.fetchRecord key co = (.inl cause, c) →
          ∃ t co', exec (.dispatch core) s = .next t ∧ t.chip.co key = some co' ∧ co'.state = .exited)
        ∧ ∀ r c, s.chip.fetchRecord key co = (.inr r, c) →
          ∃ t co', exec (.dispatch core) s = .next t ∧ t.chip.co key = some co' ∧ co'.state = .running ∧ co'.wait = .none
          ∧ co'.rtime = 0 ∧ co'.x = r.x ∧ co'.v = r.v ∧ co'.pc = r.pc ∧ co'.fresh = false ∧ co'.evicted = false
          ∧ (t.chip.core n).running = some (key % 256) ∧ (t.chip.core n).dispatched = s.chip.time
          ∧ (r.hact = false ∨ r.again = true → co'.pend = [] ∧ co'.block = [] ∧ (t.chip.core n).sb = (s.chip.core n).sb ++ r.pend
            ∧ (t.chip.core n).vq.length = (s.chip.core n).vq.length + r.block.length)
          ∧ (r.hact = true → r.again = false → co'.pend = r.pend ∧ co'.block = r.block ∧ (t.chip.core n).sb = (s.chip.core n).sb)
          ∧ (∀ k, k ≠ key → t.chip.co k = s.chip.co k) ∧ t.chip.mem = c.mem)
    ∧ ∀ key co, s.chip.runningKey n = some key → s.chip.co key = some co → key / 256 = n → co.due = none →
      s.chip.undrained key = false →
      ((co.quantum ≠ 0 ∧ (s.chip.core n).dispatched + co.quantum.toNat ≤ s.chip.time
          ∧ ∃ e ∈ s.chip.cos, e.1 / 256 = n ∧ e.2.state = .ready ∧ (if co.sup then 4 else co.level.toNat) ≤ e.2.levelAt s.chip.time)
        ∨ (co.sup = false ∧ ∃ e ∈ s.chip.cos, e.1 / 256 = n ∧ e.2.state = .ready ∧ e.2.sup = true) →
        ∃ t co', exec (.quantumExpiry core) s = .next t ∧ t.chip.co key = some co' ∧ co'.state = .ready ∧ co'.rtime = s.chip.time
          ∧ (∀ r : BitVec 5, co'.xr r = if co.dlive.getLsbD r.toNat then co.xr r else 0)
          ∧ (∀ r : BitVec 5, co'.vr r = if co.dlive.getLsbD (32 + r.toNat) then co.vr r else VReg.zero)
          ∧ co'.pc = co.pc ∧ (t.chip.core n).running = none ∧ OthersStand s t key co'.units)
      ∧ ((∀ e ∈ s.chip.cos, e.1 / 256 = n → e.2.state ≠ .ready) → exec (.quantumExpiry core) s = .next s)

/-- R169, R170, R171, R172, R405, R176 and R213: a child or a moving coroutine whose partition runs is placed at the identifier
reserved for it, ready now, and counted; a hop is placed on a cluster of its partition on the home spire with a free
identifier, or waits behind the others, its context in the last 64 MiB of the spire's spill region (none overtakes an earlier message
of its source to its destination); an exited coroutine with nothing left on its core frees its identifier. -/
def Sys2Proof.Claims.MessagesPlaceCoroutines : Prop :=
  ∀ (s : State), s.keep.power.halted = false →
    (∀ (i : BitVec 16) (f : Flying), s.chip.msgs[i.toNat]? = some f → f.dropped = false → ¬ Overtakes s.chip i.toNat f →
      ∀ p, f.part = some p → (s.chip.part p).state = 1 →
      (∀ core slot co, f.msg = .spawn core slot co →
        ∃ t, exec (.spawnPlace i) s = .next t ∧ Placed s t i.toNat core slot co)
      ∧ (∀ core slot co, f.msg = .migrate core slot co →
        ∃ t, exec (.migratePlace i) s = .next t ∧ Placed s t i.toNat core slot co)
      ∧ ∀ d line co, f.msg = .hop d line co → d < 4 → f.waiting = false →
        (∀ g ∈ s.chip.msgs, g.waiting = true → g.part ≠ f.part) →
        ((∃ cl k slot, (s.chip.part p).clus.getLsbD cl = true ∧ cl / 32 = d ∧ k < 4 ∧ s.chip.freeSlot (4 * cl + k) = some slot) →
          ∃ t cl k slot, exec (.travelHopPlace i) s = .next t ∧ (s.chip.part p).clus.getLsbD cl = true ∧ cl / 32 = d ∧ k < 4
            ∧ s.chip.freeSlot (4 * cl + k) = some slot ∧ Placed s t i.toNat (4 * cl + k) slot co)
        ∧ ((∀ cl k, (s.chip.part p).clus.getLsbD cl = true → cl / 32 = d → k < 4 → s.chip.freeSlot (4 * cl + k) = none) →
          ∃ t, exec (.travelHopPlace i) s = .next t ∧ t.chip.msgs = dropAt s.chip.msgs i.toNat ++ [{ f with waiting := true }]
            ∧ t.chip.cos = s.chip.cos ∧ ((s.chip.spire d).spill % 128 = 0 → Memory.wf s.chip.mem → ∀ m,
              (m < (s.chip.spire d).spill + 0x20000000 ∨ (s.chip.spire d).spill + 0x24000000 ≤ m) →
              memRead t.chip.mem m = memRead s.chip.mem m)))
    ∧ ∀ (core : BitVec 9) (slot : BitVec 8) (key : Nat) (co : Coroutine), key = core.toNat * 256 + slot.toNat →
      s.chip.co key = some co →
      (co.state = .exited → s.chip.undrained key = false → s.chip.requested key = false →
        ∃ t, exec (.coroutineFree core slot) s = .next t ∧ t.chip.co key = none ∧ (∀ k, k ≠ key → t.chip.co k = s.chip.co k)
          ∧ t.chip.mem = s.chip.mem)
      ∧ (co.state ≠ .exited ∨ s.chip.undrained key = true ∨ s.chip.requested key = true → exec (.coroutineFree core slot) s = .next s)

/-- R199, R264 and R267: a buffered store that faults, its coroutine's oldest, makes the coroutine of a served partition
faulted with cause `SPF`, the store's address in `FADDR`, and its stores in its pending-store list; an entry that waits is
posted to the ring of its fault queue while there is room, and the spire fault beacon's count follows. -/
def Sys2Proof.Claims.StoreFaultsAndFaultQueuePosts : Prop :=
  ∀ (s : State), s.keep.power.halted = false →
    (∀ (core : BitVec 9) (idx : BitVec 5) (n key p k : Nat) (st : Store) (co : Coroutine) (c : Chip), core.toNat = n →
      (s.chip.core n).sb[idx.toNat]? = some st → key = n * 256 + st.slot → st.slot < 256 →
      (∀ e ∈ (s.chip.core n).sb.take idx.toNat, e.slot ≠ st.slot) → s.chip.co key = some co → co.state = .running → co.sup = false →
      co.due = none → (∀ e ∈ (s.chip.core n).vq, e.slot ≠ st.slot) → s.chip.performStore n co st = (some (.kind k), c) → k ∉ [5, 6, 7, 9, 10, 11] →
      c.partOf (key / 1024) = some p → (c.part p).unserved = false →
      ∃ t co', exec (.storeFault core idx) s = .next t ∧ t.chip.co key = some co' ∧ co'.state = .faulted ∧ co'.cause = 0x06
        ∧ co'.epc = co.pc ∧ co'.faddr = BitVec.ofNat 64 st.va ∧ co'.pend = c.storesOf key
        ∧ (∀ e ∈ (t.chip.core n).sb, e.slot ≠ st.slot)
        ∧ (t.chip.fq p (spireOf n)).waiting.length = (c.fq p (spireOf n)).waiting.length + 1)
    ∧ ∀ (p : BitVec 7) (d : BitVec 2) (q : FaultQ) (e : FqEntry) (r : List FqEntry) (a : Nat), s.chip.fq p.toNat d.toNat = q →
      q.waiting = e :: r → a = q.base + 64 * (q.tail.toNat % 256) →
      (q.en = true → (q.tail - q.head).toNat < 256 → q.base % 2 ^ 14 = 0 → s.chip.tableOk a = true → s.chip.residentPa a = a →
        s.chip.Clean (lineOf a) → Memory.wf s.chip.mem →
        ∃ t, exec (.faultQueuePost p d) s = .next t
          ∧ t.chip.fq p.toNat d.toNat = { q with waiting := r, tail := q.tail + 1 }
          ∧ memReadBytes t.chip.mem a 64 = leBytes 1 e.cause ++ leBytes 1 e.flags ++ List.replicate 6 0 ++ leBytes 8 e.who.toNat
            ++ leBytes 8 e.epc.toNat ++ leBytes 8 e.faddr.toNat ++ leBytes 8 e.finfo.toNat ++ leBytes 8 e.token.toNat
            ++ leBytes 8 s.chip.time ++ List.replicate 8 0
          ∧ (∀ m, m < a ∨ a + 64 ≤ m → memRead t.chip.mem m = memRead s.chip.mem m)
          ∧ ((s.chip.beacon d.toNat (0xFE00 + p.toNat)).alloc = true →
            (t.chip.beacon d.toNat (0xFE00 + p.toNat)).count = q.head - (q.tail + 1)))
      ∧ (q.en = false ∨ 256 ≤ (q.tail - q.head).toNat → exec (.faultQueuePost p d) s = .next s)

/-- R201, R388 and R389: the home slice serves the head of a line's reservation queue: the core performs its read-modify-write
(the values of an AMO are those of one served at once), and the request leaves the queue. -/
def Sys2Proof.Claims.GrantsPerformQueuedAtomics : Prop :=
  ∀ (s u : State) key co (d a b : BitVec 5) (sc : BitVec 3) (rl aq wd : BitVec 1) (n : Nat), n = (if wd = 1 then 8 else 4) → ∀ x c,
    u.keep = s.keep → u.chip = { s.chip with resq := [] } → u.cur = key / 256 → key = u.cur * 256 + key % 256 →
    AtomicReady u key co a n .amo x c → co.state = .running →
    ∀ f ∈ amoTable d a b sc rl aq wd (8 * n) ((co.xr d).toNat % 2 ^ (8 * n)) ((co.xr b).toNat % 2 ^ (8 * n)) (oldAt c x n),
    ∀ (line : BitVec 48) (r : List ResReq), mget s.chip.resq line.toNat = some (⟨key / 256, key % 256, f.1⟩ :: r) →
      ∃ t, exec (.reservationGrant line) s = .next t ∧ t.chip.co key = some (co.setX d (atomicOld wd (oldAt c x n))).advance
        ∧ memReadNat t.chip.mem x.pa n = f.2
        ∧ (∀ m, m < x.pa ∨ x.pa + n ≤ m → memRead t.chip.mem m = memRead c.mem m)
        ∧ mgetD t.chip.resq line.toNat [] = r

/-! ### Launches (R79-R84, R160-R162, R173) -/

namespace Sys2Proof.Claims

/-- A record waits at the head of a queue whose turn it is (R79). -/
structure RecordAt (s : State) (q : BitVec 6) (bs : List Byte) : Prop where
  clocks : s.keep.power.halted = false
  ready : s.keep.boot.ready = true
  turn : s.keep.nextQueue = some q.toNat
  record : bs = memReadBytes s.keep.queueMem (q.toNat * 0x40000
    + (s.keep.hqs.getD q.toNat ⟨false, false, 0, 0⟩).head * 0x100) 256

/-- The queue has moved past its record. -/
def Passed (s t : State) (q : BitVec 6) : Prop :=
  (t.keep.hqs.getD q.toNat ⟨false, false, 0, 0⟩).head = ((s.keep.hqs.getD q.toNat ⟨false, false, 0, 0⟩).head + 1) % 1024
    ∧ t.keep.turn = (q.toNat + 1) % 64

/-- A field of a record. -/
def fld (bs : List Byte) (o n : Nat) : Nat := leNat ((bs.drop o).take n)

/-- The shape checks of a launch record (R81). -/
def ShapeOk (bs : List Byte) : Prop :=
  1 ≤ fld bs 4 2 ∧ 1 ≤ fld bs 6 1 ∧ fld bs 6 1 ≤ 16 ∧ fld bs 9 1 ≤ 32 ∧ fld bs 8 1 + fld bs 9 1 ≤ 32 ∧ fld bs 11 1 ≤ 16
    ∧ fld bs 10 1 + fld bs 11 1 ≤ 16 ∧ fld bs 16 8 % 4 = 0 ∧ fld bs 24 8 % 256 = 0 ∧ fld bs 32 8 % 8 = 0 ∧ fld bs 40 4 % 8 = 0
    ∧ fld bs 40 4 ≤ 65536

/-- The launch-end or signal-error event of a record that is refused (R80, R82, R83). -/
def refusal (type st q : Nat) (bs : List Byte) (irq : Option Nat) : PEvent :=
  ⟨type, 4, BitVec.ofNat 64 (2 ^ 32 * st + 2 ^ 40 * q), BitVec.ofNat 64 (fld bs 0x58 8), irq⟩

end Sys2Proof.Claims

/-- R79, R80, R81, R82 and R83: a record whose turn it is is taken and its queue moves on. A launch record that passes the
taking checks becomes a waiting launch with the next launch id; one that fails a check ends with the status of the first
that fails; a signal record lowers its token's count by `COUNT`, or posts the signal-error event. -/
def Sys2Proof.Claims.RecordsAreTakenFromQueues : Prop :=
  ∀ s q bs, RecordAt s q bs →
    (fld bs 0 1 ≠ 2 → exec (.signalRecord q) s = .next s ∧ ∃ t, exec (.launchRecord q) s = .next t ∧ Passed s t q
      ∧ t.chip.mem = s.chip.mem
      ∧ (fld bs 0 1 ≠ 1 ∨ fld bs 1 1 ≠ 1 → t.chip.outbox = s.chip.outbox ++ [refusal 2 1 q.toNat bs none]
        ∧ t.chip.launches = s.chip.launches)
      ∧ (fld bs 0 1 = 1 → fld bs 1 1 = 1 → ∀ p, p = s.chip.part (fld bs 2 1 % 128) → ∀ irq,
        irq = (if 2 ^ 15 ≤ fld bs 12 2 then some (fld bs 12 2 % 2 ^ 11) else none) →
        (p.en = false ∨ fld bs 3 1 = 0 ∨ p.asids.getLsbD (fld bs 3 1) = false →
          t.chip.outbox = s.chip.outbox ++ [refusal 2 2 q.toNat bs irq])
        ∧ (p.en = true → fld bs 3 1 ≠ 0 → p.asids.getLsbD (fld bs 3 1) = true →
          (¬ShapeOk bs → t.chip.outbox = s.chip.outbox ++ [refusal 2 3 q.toNat bs irq])
          ∧ (ShapeOk bs →
            (4 < fld bs 14 1 ∨ (∃ i, i < fld bs 14 1 ∧ s.chip.goodToken (BitVec.ofNat 64 (fld bs (0x30 + 8 * i) 8)) = false)
              ∨ s.chip.goodToken (BitVec.ofNat 64 (fld bs 0x50 8)) = false →
              t.chip.outbox = s.chip.outbox ++ [refusal 2 4 q.toNat bs irq])
            ∧ (fld bs 14 1 ≤ 4 → (∀ i, i < fld bs 14 1 → s.chip.goodToken (BitVec.ofNat 64 (fld bs (0x30 + 8 * i) 8)) = true) →
              s.chip.goodToken (BitVec.ofNat 64 (fld bs 0x50 8)) = true → s.chip.nextLid ≠ 0 → s.chip.nextLid < 2 ^ 32 →
              s.chip.launch s.chip.nextLid = none →
              t.chip.outbox = s.chip.outbox ∧ t.chip.nextLid = (s.chip.nextLid + 1) % 2 ^ 32
              ∧ (∀ l, l ≠ s.chip.nextLid → t.chip.launch l = s.chip.launch l)
              ∧ ∃ l, t.chip.launch s.chip.nextLid = some l ∧ l.phase = .waiting ∧ l.part = fld bs 2 1 % 128 ∧ l.asid = fld bs 3 1
                ∧ l.gangs = fld bs 4 2 ∧ l.gsize = fld bs 6 1 ∧ l.prio = fld bs 7 1 % 4 ∧ l.tbase = fld bs 8 1
                ∧ l.tcount = fld bs 9 1 ∧ l.abase = fld bs 10 1 ∧ l.acount = fld bs 11 1
                ∧ l.entry = BitVec.ofNat 64 (fld bs 16 8) ∧ l.code = BitVec.ofNat 64 (fld bs 24 8)
                ∧ l.args = BitVec.ofNat 64 (fld bs 32 8) ∧ l.arglen = fld bs 40 4 ∧ l.done = BitVec.ofNat 64 (fld bs 0x50 8)
                ∧ l.tag = BitVec.ofNat 64 (fld bs 0x58 8) ∧ l.queue = q.toNat
                ∧ ∀ w, w ∈ l.waits ↔ (∃ i, i < fld bs 14 1 ∧ w = BitVec.ofNat 64 (fld bs (0x30 + 8 * i) 8))
                  ∧ 0 < (s.chip.tokBeacon w).count.toInt)))))
    ∧ (fld bs 0 1 = 2 → exec (.launchRecord q) s = .next s ∧ ∃ t, exec (.signalRecord q) s = .next t ∧ Passed s t q
      ∧ t.chip.mem = s.chip.mem ∧ ∀ tok, tok = BitVec.ofNat 64 (fld bs 8 8) →
        (fld bs 1 1 ≠ 1 → t.chip = { s.chip with outbox := s.chip.outbox ++ [refusal 3 1 q.toNat bs none] })
        ∧ (fld bs 1 1 = 1 → s.chip.goodToken tok = false →
          t.chip = { s.chip with outbox := s.chip.outbox ++ [refusal 3 4 q.toNat bs none] })
        ∧ (fld bs 1 1 = 1 → s.chip.goodToken tok = true → (fld bs 2 2 = 0 → t.chip = s.chip)
          ∧ (fld bs 2 2 ≠ 0 → tokIndex tok < 0xFE00 → t.chip.outbox = s.chip.outbox
            ∧ (t.chip.tokBeacon tok).count.toInt = Max.max (-2 ^ 31) ((s.chip.tokBeacon tok).count.toInt - fld bs 2 2))))

/-- R81, R86 and R87: a launch whose wait tokens have been satisfied is checked: a sound object with a kernel that it meets
makes it wait for admission, after those before it, with that kernel's live mask; else it ends with `CODE` or `KERNEL`. A
wait token that has become stale ends it with `TOKEN`. R160: the first launch to wait is admitted to a running partition and
takes the lowest free launch slot. -/
def Sys2Proof.Claims.LaunchesStartAndAreAdmitted : Prop :=
  ∀ (s : State), s.keep.power.halted = false →
    (∀ (lid : BitVec 32) (l : Launch), s.chip.launch lid.toNat = some l → l.phase = .waiting →
      ((∃ w ∈ l.waits, s.chip.goodToken w = false) → ∃ t, exec (.launchStart lid) s = .next t ∧ t.chip.launch lid.toNat = none
        ∧ t.chip.outbox = s.chip.outbox ++ [⟨2, 4, BitVec.ofNat 64 (lid.toNat + 2 ^ 32 * 4 + 2 ^ 40 * l.queue), l.tag, irqVector l.irq⟩])
      ∧ (l.waits ≠ [] → (∀ w ∈ l.waits, s.chip.goodToken w = true) → exec (.launchStart lid) s = .next s)
      ∧ (l.waits = [] → ∃ t, exec (.launchStart lid) s = .next t
        ∧ ((∃ st, (s.chip.startChecks l).1 = .inl st ∧ (st = 5 ∨ st = 6) ∧ t.chip.launch lid.toNat = none
            ∧ t.chip.outbox = s.chip.outbox
              ++ [⟨2, 4, BitVec.ofNat 64 (lid.toNat + 2 ^ 32 * st + 2 ^ 40 * l.queue), l.tag, irqVector l.irq⟩])
          ∨ ∃ live, (s.chip.startChecks l).1 = .inr live ∧ t.chip.nextOrder = s.chip.nextOrder + 1
            ∧ t.chip.launch lid.toNat = some { l with phase := .started, live := live, order := s.chip.nextOrder })))
    ∧ ∀ (p : BitVec 7) (lid slot : Nat) (l : Launch), (s.chip.part p.toNat).state = 1 → (lid, l) ∈ s.chip.launches →
      s.chip.launch lid = some l → l.part = p.toNat → l.phase = .started →
      (∀ e ∈ s.chip.launches, e.2.part = p.toNat → e.2.phase = .started → e ≠ (lid, l) → l.order < e.2.order) → slot < 64 →
      (∀ e ∈ s.chip.launches, e.2.part = p.toNat → e.2.phase = .admitted → e.2.slot ≠ slot) →
      (∀ i, i < slot → ∃ e ∈ s.chip.launches, e.2.part = p.toNat ∧ e.2.phase = .admitted ∧ e.2.slot = i) →
      ∃ t l', exec (.launchAdmit p) s = .next t ∧ t.chip.launch lid = some l' ∧ l'.phase = .admitted ∧ l'.slot = slot ∧ l'.placed = 0
        ∧ l'.sent = [] ∧ l'.recv = [] ∧ l'.entry = l.entry ∧ l'.live = l.live
        ∧ (∀ k, k ≠ lid → t.chip.launch k = s.chip.launch k) ∧ t.chip.mem = s.chip.mem

/-- R161, R162 and R84: an admitted launch's next gang goes to the fitting cluster of its partition with the fewest live
coroutines: its tiles become empty and zero, and each member starts ready on the core of its rank, at `ENTRY` with the
registers that R84 gives; the other coroutines stay as they are, but that a record may have been evicted from the context cache
where the new ones leave no room (R222). -/
def Sys2Proof.Claims.GangsArePlaced : Prop :=
  ∀ (s : State) (lid : BitVec 32) (l : Launch) (cl : Nat), s.keep.power.halted = false → s.chip.launch lid.toNat = some l →
    l.phase = .admitted → (s.chip.part l.part).state = 1 → l.placed < l.gangs → s.chip.earlierFits l = false →
    s.chip.gangCluster l = some cl →
    (s.chip.part l.part).clus.getLsbD cl = true ∧ s.chip.fits l cl = true
    ∧ (∀ k, k < 128 → (s.chip.part l.part).clus.getLsbD k = true → s.chip.clmask.getLsbD k = false → s.chip.fits l k = true →
      s.chip.liveOn cl < s.chip.liveOn k ∨ (s.chip.liveOn cl = s.chip.liveOn k ∧ cl ≤ k))
    ∧ ∃ t, exec (.gangPlace lid) s = .next t
      ∧ (∃ l', t.chip.launch lid.toNat = some l' ∧ l' = { l with placed := l.placed + 1 })
      ∧ (∀ key co, s.chip.co key = some co →
        ∃ co', t.chip.co key = some co' ∧ { co' with evicted := co.evicted, recWord := co.recWord } = co)
      ∧ (∀ key co, s.chip.co key = none → t.chip.co key = some co → ∃ r, r < l.gsize ∧ key / 256 = 4 * cl + r % 4
        ∧ co.state = .ready ∧ co.rtime = s.chip.time ∧ co.sup = false ∧ co.pc = l.entry ∧ co.asid = l.asid ∧ co.lid = lid.toNat
        ∧ co.gid = BitVec.ofNat 16 l.placed ∧ co.gsize = l.gsize ∧ co.grank = r ∧ co.level = BitVec.ofNat 2 l.prio
        ∧ co.xr 10 = l.args ∧ co.xr 11 = BitVec.ofNat 64 (l.placed * 65536 + r) ∧ co.xr 12 = BitVec.ofNat 64 lid.toNat
        ∧ (∀ x : BitVec 5, x ∉ [(10 : BitVec 5), 11, 12] → co.xr x = 0) ∧ (∀ v : BitVec 5, co.vr v = .uniform 0 0)
        ∧ co.dlive = l.live &&& ~~~1 ∧ co.tbase = l.tbase ∧ co.tcount = l.tcount ∧ co.abase = l.abase ∧ co.acount = l.acount)
      ∧ (0 < l.gsize → ∃ key co, s.chip.co key = none ∧ t.chip.co key = some co ∧ co.grank = 0)
      ∧ (∀ n, l.tbase ≤ n → n < l.tbase + l.tcount → ((t.chip.cluster cl).tile n).state = 0)
      ∧ ((∀ k, k < 4 → Fits s.chip (4 * cl + k) (l.gsize * (memberOf l lid.toNat 0 0 0).units)) →
        (∀ n, l.tbase ≤ n → n < l.tbase + l.tcount → ∀ a, a < 0x10000 → memRead t.chip.mem (tileBase cl n + a) = 0)
        ∧ (∀ a, a < tileBase cl l.tbase ∨ tileBase cl (l.tbase + l.tcount) ≤ a → memRead t.chip.mem a = memRead s.chip.mem a)
        ∧ ∀ key co, s.chip.co key = some co → t.chip.co key = some co)

/-- R173 and R82: a sweep samples every admitted launch of a running partition, and ends one whose flag is true in this sweep
and the one before, with equal sums that have not changed; any other keeps its sample. Sweeps stop in another state. -/
def Sys2Proof.Claims.SweepsEndLaunches : Prop :=
  ∀ (s : State) (p : BitVec 7), s.keep.power.halted = false →
    ((s.chip.part p.toNat).state ≠ 1 → exec (.terminationSweep p) s = .next s)
    ∧ ((s.chip.part p.toNat).state = 1 → (s.chip.launches.map Prod.fst).Nodup → ∃ t, exec (.terminationSweep p) s = .next t
      ∧ ∀ lid l w, s.chip.launch lid = some l → l.part = p.toNat → l.phase = .admitted →
        w = ⟨s.chip.liveCount lid = 0 && l.placed = l.gangs, countSum l.sent, countSum l.recv⟩ →
        (l.last = some w → w.flag = true → w.sent = w.recv → (∀ e ∈ s.chip.cos, e.2.lid = lid → e.2.state ≠ .exited) →
          t.chip.launch lid = none)
        ∧ (l.last ≠ some w ∨ w.flag = false ∨ w.sent ≠ w.recv →
          ∃ l', t.chip.launch lid = some l' ∧ l'.last = some w ∧ l'.phase = .admitted ∧ l'.sent = l.sent ∧ l'.recv = l.recv))

/-! ### Engines at work (R133, R206, R244, R248-R254, R414, R418-R430) -/

namespace Sys2Proof.Claims

/-- The clocks run, and the cluster's engines may start work. -/
def EnginesRun (s : State) (cl : Nat) : Prop := s.keep.power.halted = false ∧ s.chip.clusterRuns cl = true

/-- The matrix entry at the head of a core's queue is the one that the idle dome serves next: it may start, and no core
between the one served last and it has a command that may (R244). -/
structure NextInDome (s : State) (cl core : Nat) (e : MEntry) (r : List MEntry) : Prop where
  run : EnginesRun s cl
  idle : (s.chip.cluster cl).dome = none
  turn : ∃ i, i < 4 ∧ core = 4 * cl + ((s.chip.cluster cl).lastCore + 1 + i) % 4
    ∧ ∀ j, j < i → s.chip.domeReady (4 * cl + ((s.chip.cluster cl).lastCore + 1 + j) % 4) = false
  head : (s.chip.core core).mq = e :: r
  ready : e.ready = true ∧ isTcfg e.op = false ∧ ((s.chip.cluster cl).clear e.seqs = true ∨ isMswap e.op = true)
    ∧ ∀ id, e.copy = some id → (s.chip.cluster cl).copyMoved id = true

/-- No slot of a cluster is held for a holder that has ended, so that none becomes free with a command's end (R246). -/
def NoEndedSlots (s : State) (cl : Nat) : Prop :=
  ∀ n, ((s.chip.cluster cl).slot n).held = false ∨ ((s.chip.cluster cl).slot n).ended = false

/-- An entry is performed in the dome of a cluster. -/
structure InDome (s : State) (cl : Nat) (e : MEntry) : Prop where
  clocks : s.keep.power.halted = false
  here : (s.chip.cluster cl).dome = some e
  wf : Memory.wf s.chip.mem
  slot : e.slotNum < 16
  quiet : NoEndedSlots s cl

/-- The bytes of a slot are the only bytes that changed. -/
def OnlySlot (s t : State) (cl n : Nat) : Prop :=
  ∀ a, a < slotBase cl n ∨ slotBase cl n + 0x10000 ≤ a → memRead t.chip.mem a = memRead s.chip.mem a

/-- The dome is idle again, the accesses of its command are performed, and a copy that it followed has left its queue. -/
def DomeIdle (s t : State) (cl : Nat) (e : MEntry) : Prop :=
  (t.chip.cluster cl).dome = none
    ∧ (isMmrot e.op = false → (t.chip.cluster cl).board = (s.chip.cluster cl).board.filter (fun a => !e.seqs.contains a.seq))
    ∧ (∀ id, e.copy = some id → ∀ q ∈ (t.chip.cluster cl).copyQ, q.cmd.id ≠ id)

end Sys2Proof.Claims

/-- R244 and R429: the idle dome takes the head of the next core in turn whose command may start, and the others wait; a
follow-on whose geometry no longer holds, or one of whose tiles is empty, does not run: its copy completes with status
`MGEO` (5). A `TCFG` at the head waits for its tile to be ready or empty, and configures it. -/
def Sys2Proof.Claims.MatrixQueuesFeedTheDome : Prop :=
  ∀ (s : State) (cl : BitVec 7) (core : BitVec 9),
    (∀ e r, NextInDome s cl.toNat core.toNat e r → core.toNat / 4 = cl.toNat →
      (isMswap e.op = false → (∀ id, e.copy = some id → e.geometryOk (s.chip.cluster cl.toNat) = true
          ∧ ∀ n ∈ namedTiles e.op e.mshape, ((s.chip.cluster cl.toNat).tile (e.tbase + n)).configured = true) →
        ∃ t, exec (.domeCommandStart cl) s = .next t ∧ (t.chip.cluster cl.toNat).dome = some e ∧ (t.chip.core core.toNat).mq = r
          ∧ (t.chip.cluster cl.toNat).lastCore = core.toNat % 4 ∧ t.chip.mem = s.chip.mem
          ∧ (t.chip.cluster cl.toNat).board = (s.chip.cluster cl.toNat).board)
      ∧ (isMswap e.op = true → ∃ t, exec (.domeCommandStart cl) s = .next t ∧ (t.chip.cluster cl.toNat).dome = none
          ∧ (t.chip.cluster cl.toNat).moves = (s.chip.cluster cl.toNat).moves ++ [e] ∧ (t.chip.core core.toNat).mq = r
          ∧ t.chip.mem = s.chip.mem)
      ∧ (∀ id q, e.copy = some id → isMswap e.op = false → (s.chip.cluster cl.toNat).copyQ.find? (fun q => q.cmd.id = id) = some q →
        (e.geometryOk (s.chip.cluster cl.toNat) = false
          ∨ ∃ n ∈ namedTiles e.op e.mshape, ((s.chip.cluster cl.toNat).tile (e.tbase + n)).configured = false) →
        ∃ t, exec (.domeCommandStart cl) s = .next t ∧ (t.chip.cluster cl.toNat).dome = none ∧ (t.chip.core core.toNat).mq = r
          ∧ (∀ p ∈ (t.chip.cluster cl.toNat).copyQ, p.cmd.id ≠ id)
          ∧ (q.cmd.tok ≠ 0 → (⟨none, false, false, .signal q.cmd.tok 1 (worse q.cmd.status 5) 3 none, .engine 1 q.cmd.cluster, 0, false⟩ : Flying)
            ∈ t.chip.msgs))
      ∧ (e.copy ≠ none → exec (.followOnStart core) s = exec (.domeCommandStart cl) s))
    ∧ ((s.chip.cluster cl.toNat).dome ≠ none ∨ (∀ k, k / 4 = cl.toNat → s.chip.domeReady k = false) →
      exec (.domeCommandStart cl) s = .next s)
    ∧ ∀ e r (a b : BitVec 5) p, EnginesRun s (core.toNat / 4) → (s.chip.core core.toNat).mq = e :: r →
      (e.op = .tcfg a b → e.copy = none → p = (s.chip.cluster (core.toNat / 4)).tile e.s1.toNat →
        ((s.chip.cluster (core.toNat / 4)).clear e.seqs = true → p.state = 0 ∨ p.state = 3 → NoEndedSlots s (core.toNat / 4) →
          ∃ t, exec (.tileConfigure core) s = .next t ∧ (t.chip.core core.toNat).mq = r
            ∧ (t.chip.cluster (core.toNat / 4)).tile e.s1.toNat = { p with
                configured := true, fmt := e.s2.toNat % 32, rows := e.s2.toNat / 2 ^ 8 % 2 ^ 9, cols := e.s2.toNat / 2 ^ 20 % 2 ^ 13 }
            ∧ (∀ n, n ≠ e.s1.toNat → (t.chip.cluster (core.toNat / 4)).tile n = (s.chip.cluster (core.toNat / 4)).tile n)
            ∧ t.chip.mem = s.chip.mem)
        ∧ ((s.chip.cluster (core.toNat / 4)).clear e.seqs = false ∨ p.state = 1 ∨ p.state = 2 → exec (.tileConfigure core) s = .next s))
      ∧ (isTcfg e.op = false → exec (.tileConfigure core) s = .next s)

/-- R420, R425, R418 and R419: what the dome's command leaves when it completes. `MMA`: each element of the slot's area
takes the group sums of the products of a row of A with a column of B, added in order, and the rest of the slot stays;
`MDRAIN` and `MFILL` convert each element; `MACQ` zeroes the slot, clears its flags and gives its number; `MZERO` zeroes it;
`MSTAT` gives its flags below its state and format, a slot held in recording order being orphaned or not as it is now; `MREL`
leaves bytes 0x8000 and up of an `F16` slot. The slot's flags are sticky. -/
def Sys2Proof.Claims.DomeCommandResults : Prop :=
  ∀ (s : State) (cl : BitVec 7) (n : Nat) (e : MEntry), InDome s cl.toNat e → n = e.slotNum → ∀ k, k = s.chip.cluster cl.toNat →
    ∃ t, exec (.domeCommandComplete cl) s = .next t ∧ DomeIdle s t cl.toNat e
      ∧ (∀ a b sl, e.op = .mma a b sl → e.fmt = 1 ∨ e.fmt = 3 ∨ e.fmt = 21 → ∀ ta tb fa fb,
        ta = k.tile (e.tbase + a.toNat) → tb = k.tile (e.tbase + b.toNat) →
        fa = (if pfxA e.pfx = 0 then ta.fmt else pfxA e.pfx) → fb = (if pfxB e.pfx = 0 then tb.fmt else pfxB e.pfx) →
        ta.rows ≤ 128 → tb.cols ≤ 128 →
        (∀ r c, r < 128 → c < 128 → slotElem t.chip.mem (slotBase cl.toNat n) e.fmt r c =
          if r < ta.rows ∧ c < tb.cols then
            (dotInto e.fmt (groupLength fa fb) (slotElem s.chip.mem (slotBase cl.toNat n) e.fmt r c)
              (operandValues fa e.vtype e.k (scaleA e.pfx) (rowCodes s.chip.mem (tileBase cl.toNat (e.tbase + a.toNat)) ta r)).1
              (operandValues fb e.vtype e.k (scaleB e.pfx) (colCodes s.chip.mem (tileBase cl.toNat (e.tbase + b.toNat)) tb c)).1).1
          else slotElem s.chip.mem (slotBase cl.toNat n) e.fmt r c)
        ∧ OnlySlot s t cl.toNat n
        ∧ ((t.chip.cluster cl.toNat).slot n).flags ||| (k.slot n).flags = ((t.chip.cluster cl.toNat).slot n).flags)
      ∧ (∀ d sl p f, e.op = .mdrain d sl → p = k.tile (e.tbase + d.toNat) → f = (if pfxD e.pfx = 0 then p.fmt else pfxD e.pfx) →
        e.tbase + d.toNat < 32 → fmtWidth p.fmt = 8 ∨ fmtWidth p.fmt = 16 ∨ fmtWidth p.fmt = 32 → fmtWidth f = fmtWidth p.fmt →
        p.rows * rowStride p.cols (fmtWidth p.fmt) ≤ 0x10000 →
        (∀ r c, r < p.rows → c < p.cols →
          tileElem t.chip.mem (tileBase cl.toNat (e.tbase + d.toNat)) (rowStride p.cols (fmtWidth p.fmt)) (fmtWidth p.fmt) r c
            = (convertElem (slotValue e.fmt (slotElem s.chip.mem (slotBase cl.toNat n) e.fmt r c)) f 0).1)
        ∧ ∀ x, x < tileBase cl.toNat (e.tbase + d.toNat) ∨ tileBase cl.toNat (e.tbase + d.toNat) + 0x10000 ≤ x →
          memRead t.chip.mem x = memRead s.chip.mem x)
      ∧ (∀ d sl p f, e.op = .mfill d sl → p = k.tile (e.tbase + d.toNat) → f = (if pfxA e.pfx = 0 then p.fmt else pfxA e.pfx) →
        e.tbase + d.toNat < 32 → e.fmt = 1 ∨ e.fmt = 3 ∨ e.fmt = 21 → p.rows ≤ 128 → p.cols ≤ 128 →
        (∀ r c, r < 128 → c < 128 → slotElem t.chip.mem (slotBase cl.toNat n) e.fmt r c =
          if r < p.rows ∧ c < p.cols then
            (convertElem (readElem f (tileElem s.chip.mem (tileBase cl.toNat (e.tbase + d.toNat))
              (rowStride p.cols (fmtWidth p.fmt)) (fmtWidth p.fmt) r c)).1 e.fmt 0).1
          else slotElem s.chip.mem (slotBase cl.toNat n) e.fmt r c)
        ∧ OnlySlot s t cl.toNat n)
      ∧ (∀ a sl co, e.op = .macq a sl → s.chip.co (coKey e.core e.slot) = some co → co.lid = e.lid → co.state ≠ .exited →
        (∃ co', t.chip.co (coKey e.core e.slot) = some co' ∧ co'.x = (co.setX a (BitVec.ofNat 64 n)).x)
        ∧ ((t.chip.cluster cl.toNat).slot n).flags = 0 ∧ (∀ i, i < 0x10000 → memRead t.chip.mem (slotBase cl.toNat n + i) = 0)
        ∧ OnlySlot s t cl.toNat n)
      ∧ (∀ sl, e.op = .mzero sl → (∀ i, i < 0x10000 → memRead t.chip.mem (slotBase cl.toNat n + i) = 0) ∧ OnlySlot s t cl.toNat n
        ∧ ((t.chip.cluster cl.toNat).slot n).flags = (k.slot n).flags)
      ∧ (∀ a sl co, e.op = .mstat a sl → s.chip.co (coKey e.core e.slot) = some co → co.lid = e.lid → co.state ≠ .exited →
        (∃ co', t.chip.co (coKey e.core e.slot) = some co'
          ∧ co'.x = (co.setX a (BitVec.ofNat 64 ((k.slot n).flags.toNat +
            (if e.s2.toNat / 64 % 4 = 0 ∨ (k.slot n).held = false then e.s2.toNat
              else e.s2.toNat / 256 * 256 + (if (k.slot n).orphan then 128 else 64))))).x) ∧ t.chip.mem = s.chip.mem)
      ∧ (∀ sl, e.op = .mrel sl → OnlySlot s t cl.toNat n
        ∧ (e.fmt = 3 → ∀ i, 0x8000 ≤ i → i < 0x10000 →
          memRead t.chip.mem (slotBase cl.toNat n + i) = memRead s.chip.mem (slotBase cl.toNat n + i)))
      ∧ (∀ sl, e.op = .mreclaim sl → t.chip.mem = s.chip.mem)
      ∧ (isMmrot e.op = true → (t.chip.cluster cl.toNat).moves = k.moves ++ [e])

/-- R248, R249, R423, R424 and R437: when every cluster of a rotation ring, its partition running, may move, each tile's contents land in the same tile of
the next cluster in one step, and each cluster's fill count for the direction falls by 1 (unless the tile has been given out anew since); until then nothing moves. Two mirror
clusters with a ready `MSWAP` of one tile exchange its contents. -/
def Sys2Proof.Claims.TilesRotateAndSwap : Prop :=
  ∀ (s : State) (cl : BitVec 7), s.keep.power.halted = false → Memory.wf s.chip.mem →
    (∀ (north : Bool) (tl : Nat), tl < 32 →
      ((∀ k ∈ ringOf cl.toNat north, (s.chip.cluster k).moveReady north = true
          ∧ (∀ e, (s.chip.cluster k).rotating north = some e → e.movedTile north = tl ∧ e.forgotten.contains tl = false)
          ∧ NoEndedSlots s k ∧ s.chip.clusterRuns k = true) →
        ∃ t, exec (.rotationLanding cl north) s = .next t
          ∧ (∀ k ∈ ringOf cl.toNat north, ∀ i, i < 0x10000 →
            memRead t.chip.mem (tileBase (if north then northOf k else westOf k) tl + i) = memRead s.chip.mem (tileBase k tl + i))
          ∧ (∀ a, (∀ k ∈ ringOf cl.toNat north, a < tileBase k tl ∨ tileBase k tl + 0x10000 ≤ a) →
            memRead t.chip.mem a = memRead s.chip.mem a)
          ∧ ∀ k ∈ ringOf cl.toNat north, ((t.chip.cluster k).tile tl).fill = ((s.chip.cluster k).tile tl).fill - 1)
      ∧ ((∃ k ∈ ringOf cl.toNat north, (s.chip.cluster k).moveReady north = false ∨ s.chip.clusterRuns k = false) →
        exec (.rotationLanding cl north) s = .next s))
    ∧ ∀ (m : Nat) a b ra rb (d f : BitVec 5) (tl : Nat), m = swapOf cl.toNat → m ≠ cl.toNat → tl < 32 →
      (s.chip.cluster cl.toNat).moves = a :: ra → (s.chip.cluster m).moves = b :: rb → a.op = .mswap d → b.op = .mswap f →
      a.tbase + d.toNat = tl → b.tbase + f.toNat = tl → (s.chip.cluster cl.toNat).clear a.seqs = true →
      (s.chip.cluster m).clear b.seqs = true → NoEndedSlots s cl.toNat → NoEndedSlots s m →
      s.chip.clusterRuns cl.toNat = true → s.chip.clusterRuns m = true →
      a.forgotten.contains tl = false → b.forgotten.contains tl = false →
      ∃ t, exec (.swapExchange cl) s = .next t
        ∧ (∀ i, i < 0x10000 → memRead t.chip.mem (tileBase cl.toNat tl + i) = memRead s.chip.mem (tileBase m tl + i)
          ∧ memRead t.chip.mem (tileBase m tl + i) = memRead s.chip.mem (tileBase cl.toNat tl + i))
        ∧ (∀ x, (x < tileBase cl.toNat tl ∨ tileBase cl.toNat tl + 0x10000 ≤ x) → (x < tileBase m tl ∨ tileBase m tl + 0x10000 ≤ x) →
          memRead t.chip.mem x = memRead s.chip.mem x)
        ∧ a ∉ (t.chip.cluster cl.toNat).moves ∧ b ∉ (t.chip.cluster m).moves
        ∧ ((t.chip.cluster cl.toNat).tile tl).fill = ((s.chip.cluster cl.toNat).tile tl).fill - 1
        ∧ ((t.chip.cluster m).tile tl).fill = ((s.chip.cluster m).tile tl).fill - 1

namespace Sys2Proof.Claims

/-- A copy command at an index among those of a cluster's queue that make progress, at most 16 at once, with nothing done ahead
(R250, R251). -/
structure CopyAt (s : State) (cl : Nat) (idx : Nat) (q : CopyCmd) : Prop where
  run : EnginesRun s cl
  here : (s.chip.cluster cl).progressing[idx]? = some q
  one : ∀ p ∈ (s.chip.cluster cl).copyQ, p.cmd.id = q.cmd.id → p = q
  fresh : q.ahead = []
  still : q.moved = false ∧ q.follow = false ∧ q.seqs = [] ∧ q.fills = [] ∧ q.drains = []

/-- A piece of a command is done: the command goes on, or, after its last piece, leaves the queue and signals its token with
its status (R250, R256, R411). -/
def PieceDone (c t : Chip) (cl : Nat) (q : CopyCmd) (off len status : Nat) : Prop :=
  if q.next = off ∧ q.total ≤ off + len then
    (∀ p ∈ (t.cluster cl).copyQ, p.cmd.id ≠ q.cmd.id)
      ∧ t.msgs = c.msgs ++ (if q.cmd.tok = 0 then [] else
        [⟨none, false, false, .signal q.cmd.tok 1 (worse q.cmd.status status) 3 none, .engine 1 q.cmd.cluster, 0, false⟩])
  else
    (∃ p ∈ (t.cluster cl).copyQ, p.cmd.id = q.cmd.id ∧ p.cmd.status = worse q.cmd.status status
      ∧ (if q.next = off then p.next = off + len ∧ p.ahead = [] else p.next = q.next ∧ p.ahead = [off]))
      ∧ t.msgs = c.msgs

end Sys2Proof.Claims

/-- R250, R251, R427, R428 and R206: a piece that both translations allow, within a line of ordinary memory, is read and
written, and only its bytes change; a `CPYF` piece writes the pattern, whose byte for an address is the one of its low three
bits. `CPYSH` outside a shadow pair fails with `SHADOW` (3), as `PUBLISH` does; `PUBLISH` inverts `FACE` (bit 50) of the leaf.
R430: a stripe outside HBM fails with `TIER` (4). R33-R36: a row pair takes the pattern, or the bytes of its source; where that is
the destination itself, memory is left as it is. The lines written to are clean, or, but for stripes, held whole by the slice that
serves the write. -/
def Sys2Proof.Claims.CopyPiecesMoveBytes : Prop :=
  ∀ (s : State) (cl : BitVec 7) (idx : BitVec 4) (off : BitVec 80) (q : CopyCmd) (a : Agent) (o n : Nat), CopyAt s cl.toNat idx.toNat q →
    a = q.cmd.agent → o = off.toNat → n = q.pieceLen o → q.mayRun o = true →
    (q.op ∈ [0, 1, 3] → 0 < q.n → ∀ x c bs c', s.chip.xlate a (q.srcAt o) .load false = (.inr x, c) → inWindow x.pa = false →
      c.readL2 a.spire x n false = (bs, c') → bs.length = n → c'.poisoned (lineOf x.pa) = false → ∀ y d,
      c'.xlate a (q.dstAt o) .store (q.op = 3) = (.inr y, d) → inWindow y.pa = false → y.pol < 2 → Memory.wf d.mem →
      Owns d a.spire y →
      (q.op = 3 → y.sp = false → ∃ t, exec (.copyPiece cl idx off) s = .next t ∧ t.chip.mem = d.mem
        ∧ PieceDone d t.chip cl.toNat q o n 3)
      ∧ ((q.op = 3 → y.sp = true) → ∃ t, exec (.copyPiece cl idx off) s = .next t
        ∧ memReadBytes t.chip.mem y.pa n = bs
        ∧ (∀ m, m < y.pa ∨ y.pa + n ≤ m → memRead t.chip.mem m = memRead d.mem m)
        ∧ PieceDone d t.chip cl.toNat q o n 0))
    ∧ (q.op = 2 → 0 < q.n → ∀ y d, s.chip.xlate a (q.dstAt o) .store false = (.inr y, d) → inWindow y.pa = false → y.pol < 2 →
      Memory.wf d.mem → Owns d a.spire y →
      ∃ t, exec (.copyPiece cl idx off) s = .next t
        ∧ (∀ i, i < n → memRead t.chip.mem (y.pa + i) = BitVec.ofNat 8 (q.src / 256 ^ ((q.dstAt o + i) % 8)))
        ∧ (∀ m, m < y.pa ∨ y.pa + n ≤ m → memRead t.chip.mem m = memRead d.mem m)
        ∧ PieceDone d t.chip cl.toNat q o n 0)
    ∧ (q.op = 4 → o = 0 → q.n = 1 → q.h = 1 → ∀ y d, s.chip.xlate a q.dst .store false = (.inr y, d) →
      (y.sp = false → ∃ t, exec (.copyPiece cl idx off) s = .next t ∧ t.chip.mem = d.mem ∧ PieceDone d t.chip cl.toNat q 0 1 3)
      ∧ (y.sp = true → d.shadowBusy (y.pa / 2 ^ 22) = true → exec (.copyPiece cl idx off) s = .next s)
      ∧ ∀ e l, y.sp = true → d.shadowBusy (y.pa / 2 ^ 22) = false → y.ent.ea = e → e % 8 = 0 → inWindow (d.residentPa e) = false →
        memReadNat d.mem e 8 = l → d.Clean (lineOf e) → Memory.wf d.mem →
        ∃ t, exec (.copyPiece cl idx off) s = .next t
          ∧ memReadNat t.chip.mem e 8 = (if bit l 50 then l - 2 ^ 50 else l + 2 ^ 50)
          ∧ (∀ m, m < e ∨ e + 8 ≤ m → memRead t.chip.mem m = memRead d.mem m)
          ∧ (∀ k f, mget d.tlb k = some f → f.ea = e → ∃ f', mget t.chip.tlb k = some f' ∧ f'.leaf = flipFace f.leaf)
          ∧ (∀ p ∈ t.chip.copies, p.1 / 4 / 2 ^ 15 = y.pa / 2 ^ 22 → p.2.name = none)
          ∧ PieceDone d t.chip cl.toNat q 0 1 0)
    ∧ (q.op = 7 → ∀ stripe chan, o = 64 * stripe + chan → chan < 64 → stripe < 2 ^ 16 → ∀ y d,
      s.chip.xlate a ((q.dst + stripe * 0x20000) % 2 ^ 64) .store false = (.inr y, d) →
      (place y.pa ≠ .hbm → ∃ t, exec (.rowPairCopy cl idx (BitVec.ofNat 16 stripe) (BitVec.ofNat 6 chan)) s = .next t
        ∧ t.chip.mem = d.mem ∧ PieceDone d t.chip cl.toNat q o 1 4)
      ∧ (place y.pa = .hbm → y.pa % 0x20000 = 0 → Memory.wf d.mem → (∀ l, l / 1024 = y.pa / 0x20000 → d.Clean l) →
        ∃ t, exec (.rowPairCopy cl idx (BitVec.ofNat 16 stripe) (BitVec.ofNat 6 chan)) s = .next t
          ∧ (∀ i, i < 0x20000 → memRead t.chip.mem (y.pa + i)
            = if (rose (y.pa + i)).1 = chan then BitVec.ofNat 8 (q.src / 256 ^ (i % 8)) else memRead d.mem (y.pa + i))
          ∧ (∀ m, m < y.pa ∨ y.pa + 0x20000 ≤ m → memRead t.chip.mem m = memRead d.mem m)
          ∧ PieceDone d t.chip cl.toNat q o 1 0))
    ∧ (q.op = 6 → ∀ stripe chan, o = 64 * stripe + chan → chan < 64 → stripe < 2 ^ 16 → ∀ x c y d,
      s.chip.xlate a ((q.src + stripe * 0x20000) % 2 ^ 64) .load false = (.inr x, c) →
      c.xlate a ((q.dst + stripe * 0x20000) % 2 ^ 64) .store false = (.inr y, d) →
      (place x.pa ≠ .hbm ∨ place y.pa ≠ .hbm →
        ∃ t, exec (.rowPairCopy cl idx (BitVec.ofNat 16 stripe) (BitVec.ofNat 6 chan)) s = .next t
          ∧ t.chip.mem = d.mem ∧ PieceDone d t.chip cl.toNat q o 1 4)
      ∧ (place x.pa = .hbm → x.pa % 0x20000 = 0 → x.pa = y.pa → Memory.wf d.mem →
        (∀ l, l / 1024 = x.pa / 0x20000 → d.Clean l) →
        ∃ t, exec (.rowPairCopy cl idx (BitVec.ofNat 16 stripe) (BitVec.ofNat 6 chan)) s = .next t
          ∧ (∀ m, memRead t.chip.mem m = memRead d.mem m) ∧ PieceDone d t.chip cl.toNat q o 1 0)
      ∧ (place x.pa = .hbm → place y.pa = .hbm → x.pa % 0x20000 = 0 → y.pa % 0x20000 = 0 → x.pa ≠ y.pa →
        Memory.wf d.mem → (∀ l, l / 1024 = y.pa / 0x20000 → d.Clean l) →
        (∀ l, l / 1024 = x.pa / 0x20000 → d.Clean l ∧ d.poisoned l = false ∧ d.latentOf l = Latent.none) →
        ∃ t, exec (.rowPairCopy cl idx (BitVec.ofNat 16 stripe) (BitVec.ofNat 6 chan)) s = .next t
          ∧ (∀ i, i < 0x20000 → memRead t.chip.mem (y.pa + i)
            = if (rose (y.pa + i)).1 = chan then memRead d.mem (x.pa + i) else memRead d.mem (y.pa + i))
          ∧ (∀ m, m < y.pa ∨ y.pa + 0x20000 ≤ m → memRead t.chip.mem m = memRead d.mem m)
          ∧ PieceDone d t.chip cl.toNat q o 1 0))

/-- R133, R134, R433 and R411: the first command of a cluster's KV queue runs alone and leaves the queue; its token is signalled
with its status. A descriptor that cannot be read gives its kind's status and an `EPF` entry in the fault queue, a dense command on a pooled space or the reverse
`CLASS` (12), a zero frame status 8; a `KVMAP` in a dense space writes the frame and its ownership into the entry of the
version that its step names. -/
def Sys2Proof.Claims.KvCommandsRunInOrder : Prop :=
  ∀ (s : State) (cl : BitVec 7), s.keep.power.halted = false →
    ((s.chip.cluster cl.toNat).kvQ = [] ∨ s.chip.clusterRuns cl.toNat = false → exec (.kvCommandRun cl) s = .next s)
    ∧ ∀ q r, EnginesRun s cl.toNat → (s.chip.cluster cl.toNat).kvQ = q :: r →
      ∃ t st, exec (.kvCommandRun cl) s = .next t ∧ (t.chip.cluster cl.toNat).kvQ = r
        ∧ (q.cmd.tok ≠ 0 → (⟨none, false, false, .signal q.cmd.tok 1 st 3 none, .engine 2 q.cmd.cluster, 0, false⟩ : Flying) ∈ t.chip.msgs)
        ∧ (∀ f, s.chip.walkDesc q.handle q.cmd.asid = .inl f → st = 16 + f.1 ∧ t.chip.mem = s.chip.mem
          ∧ ∀ p, s.chip.partOf cl.toNat = some p → (s.chip.part p).unserved = false →
            ∃ e, e.cause = causeEpf ∧ e.faddr = q.handle ∧ (t.chip.fq p (cl.toNat / 32)).waiting = (s.chip.fq p (cl.toNat / 32)).waiting ++ [e])
        ∧ ∀ d, s.chip.walkDesc q.handle q.cmd.asid = .inr d →
          (q.op ∈ [3, 4] → d.pooled = true → st = 12 ∧ t.chip.mem = s.chip.mem)
          ∧ (q.op ∈ [8, 9] → d.pooled = false → st = 12 ∧ t.chip.mem = s.chip.mem)
          ∧ (q.op = 7 → q.arg.toNat % 2 ^ 32 = 0 → st = 8 ∧ t.chip.mem = s.chip.mem)
          ∧ (q.op ∈ [0, 1, 8, 9] → (q.op ∈ [8, 9] → d.pooled = true) → d.checkMap q.handle q.arg.toNat ≠ 0 →
            st = 16 + d.checkMap q.handle q.arg.toNat ∧ t.chip.mem = s.chip.mem)
          ∧ (q.op = 0 → d.checkMap q.handle q.arg.toNat = 0 → q.q0.toNat % 2 ^ 32 = 0 → st = 8 ∧ t.chip.mem = s.chip.mem)
          ∧ ∀ vs v pa, q.op = 0 → d.pooled = false → d.checkMap q.handle q.arg.toNat = 0 → q.q0.toNat % 2 ^ 32 ≠ 0 →
            ∀ c, s.chip.chartVersions d (hdlSeq q.handle) = (some vs, c) → namedVersion vs (hdlStep q.handle) = some v →
            pa = d.chartEntry v.chart (hdlLayer q.handle) (q.arg.toNat / d.bt) → c.tableOk pa = true → pa % 8 = 0 →
            c.residentPa pa = pa → c.Clean (lineOf pa) → Memory.wf c.mem →
            st = 0 ∧ memReadNat t.chip.mem pa 8 = q.q0.toNat % 2 ^ 32 + 2 ^ 32 * (q.q0.toNat / 2 ^ 32 % 2)
              ∧ ∀ m, m < pa ∨ pa + 8 ≤ m → memRead t.chip.mem m = memRead c.mem m

/-! ### Links between packages (R55-R69) -/

namespace Sys2Proof.Claims

/-- A network command at an index of a cluster's queue, the only one with its number. -/
structure NetAt (s : State) (cl idx : Nat) (q : NetCmd) : Prop where
  clocks : s.keep.power.halted = false
  here : (s.chip.cluster cl).netQ[idx]? = some q
  one : ∀ p ∈ (s.chip.cluster cl).netQ, p.cmd.id = q.cmd.id → p = q

/-- The command may send its next piece: its cluster runs, nothing that came back waits to be written, and nothing holds it
back; the first piece to send lies at an offset. -/
structure MaySend (s : State) (cl : Nat) (q : NetCmd) (o : Nat) : Prop where
  runs : s.chip.clusterRuns cl = true
  landed : ∀ f ∈ q.flight, f.back = none
  free : s.chip.netWaits cl q = false
  order : q.redo = [] ∧ q.next = o ∧ o < q.total

/-- A piece has left the package towards another, and its command waits for it (R58); poisoned data leaves as such and makes the
command's status `POISON` (4) (R59). -/
def Sent (c t : Chip) (cl : Nat) (q : NetCmd) (o n : Nat) (w : Wire) : Prop :=
  t.links.wire = c.links.wire ++ [w]
    ∧ (∃ p ∈ (t.cluster cl).netQ, p.cmd = { q.cmd with status := if w.status = 4 then worse q.cmd.status 4 else q.cmd.status }
      ∧ p.next = o + Max.max 1 n ∧ p.flight = q.flight ++ [⟨o, c.time, 1, w.data, decide (w.status = 4), none⟩])
    ∧ t.msgs = c.msgs ∧ t.mem = c.mem

/-- A piece of a command has ended with a status: the command, when it has nothing else left to do, leaves the queue and
signals its token with its lowest status that is not OK (R59, R60); else it goes on without the piece. -/
def PieceEnded (c t : Chip) (cl : Nat) (q : NetCmd) (o st : Nat) : Prop :=
  if q.total ≤ q.next ∧ q.redo = [] ∧ (∀ f ∈ q.flight, f.off = o) ∧ q.stalled = [] ∧ (q.op = 4 → q.wr ≠ []) then
    (∀ p ∈ (t.cluster cl).netQ, p.cmd.id ≠ q.cmd.id)
      ∧ t.msgs = c.msgs ++ (if q.cmd.tok = 0 then [] else
        [⟨none, false, false, .signal q.cmd.tok 1 (worse q.cmd.status st) 1 none, .engine 3 q.cmd.cluster, 0, false⟩])
  else
    (∃ p ∈ (t.cluster cl).netQ, p.cmd.id = q.cmd.id ∧ p.flight = q.flight.filter (fun f => f.off ≠ o)
      ∧ p.cmd.status = worse q.cmd.status st)
      ∧ t.msgs = c.msgs

/-- A piece of a command that has not come back. -/
def Flies (q : NetCmd) (f : Flight) : Prop := q.flight.find? (fun g => g.off = f.off && g.back.isNone) = some f

end Sys2Proof.Claims

/-- R55, R56, R58, R61, R435 and R436: a network command sends its pieces in turn to the node that its map entry gave: a signal
or an atomic as one piece, an `NPUT` the local bytes, poisoned or not, up to a 256-byte boundary of the window offset, an `NGET` a request;
`NAMO` with a reserved operation is `DENIED` (2), and while no port is up a piece fails with `UNREACH` (6). Nothing is sent
while the command waits. -/
def Sys2Proof.Claims.NetworkPiecesAreSent : Prop :=
  ∀ (s : State) (cl : BitVec 7) (idx : BitVec 6) (q : NetCmd) (o : Nat), NetAt s cl.toNat idx.toNat q →
    (q.finished = false → (∀ f ∈ q.flight, f.back = none) → s.chip.clusterRuns cl.toNat = false ∨ s.chip.netWaits cl.toNat q = true →
      exec (.networkPieceSend cl idx) s = .next s)
    ∧ (MaySend s cl.toNat q o → q.op ∈ [1, 2, 3] → (q.op = 2 → q.q0.toNat % 16 < 12) →
      podNode (if q.op = 1 then q.b else q.a) ≠ s.chip.links.id.toNat →
      ((∃ p ∈ s.chip.links.ual.toList, p.up = true) → ∃ t, exec (.networkPieceSend cl idx) s = .next t
        ∧ Sent s.chip t.chip cl.toNat q o (if q.op = 1 then Min.min (q.n - o) (256 - (podOffset q.b + o) % 256) else 0)
          { dest := q.dest, kind := q.op, addr := if q.op = 1 then q.b else q.a, off := o, status := 0
            data := if q.op = 2 then leBytes 8 q.b.toNat else [], op := if q.op = 2 then q.q0.toNat % 32 else 0
            u := if q.op = 1 then BitVec.ofNat 64 (Min.min (q.n - o) (256 - (podOffset q.b + o) % 256))
              else if q.op = 2 then q.q2 else q.b })
      ∧ ((∀ p ∈ s.chip.links.ual.toList, p.up = false) → q.op ≠ 1 → q.flight = [] → q.stalled = [] →
        ∃ t, exec (.networkPieceSend cl idx) s = .next t ∧ PieceEnded s.chip t.chip cl.toNat { q with next := q.total } o 6
          ∧ t.chip.links.wire = s.chip.links.wire))
    ∧ (MaySend s cl.toNat q o → q.op = 2 → 12 ≤ q.q0.toNat % 16 → q.flight = [] → q.stalled = [] →
      ∃ t, exec (.networkPieceSend cl idx) s = .next t ∧ PieceEnded s.chip t.chip cl.toNat { q with next := q.total } o 2
        ∧ t.chip.links.wire = s.chip.links.wire)
    ∧ (MaySend s cl.toNat q o → q.op = 0 → podNode q.a ≠ s.chip.links.id.toNat →
      ∀ n, n = Min.min (q.n - o) (256 - (podOffset q.a + o) % 256) → ∀ xs c bs c',
      s.chip.xlateFirst q.cmd.agent (linePieces 40 (q.b.toNat + o) n) .load = (.inr xs, c) → ∀ bad,
      c.readDelivered q.cmd.agent.spire xs = (bs, bad, c') → (∃ p ∈ c'.links.ual.toList, p.up = true) →
      c'.links.id = s.chip.links.id → (c'.cluster cl.toNat).netQ = (s.chip.cluster cl.toNat).netQ →
      ∃ t, exec (.networkPieceSend cl idx) s = .next t
        ∧ Sent c' t.chip cl.toNat q o n
          { dest := q.dest, kind := 0, addr := q.a, off := o, status := if bad then 4 else 0, data := bs })
    ∧ ∀ x c bs c' w, q.op = 4 → q.wr = [] → q.stalled = [] → s.chip.clusterRuns cl.toNat = true →
      (∀ r ∈ (s.chip.cluster cl.toNat).netQ, r.op = 4 → r.wr = [] → q.cmd.id ≤ r.cmd.id) → q.flight = [] → q.next = 0 → q.redo = [] →
      s.chip.xlate q.cmd.agent q.a.toNat .load false = (.inr x, c) → c.readL2 q.cmd.agent.spire x 64 false = (bs, c') → bs ≠ [] →
      (c'.cluster cl.toNat).netQ = (s.chip.cluster cl.toNat).netQ →
      w = { q with wr := bs, cmd := { q.cmd with tok := BitVec.ofNat 64 (leNat ((bs.drop 0x20).take 8)) } } →
      ∃ t, exec (.nsendRequestRead cl idx) s = .next t
        ∧ (bs.headD 0 ∉ [(1 : BitVec 8), 2] → PieceEnded c' t.chip cl.toNat { w with next := w.total } 0 2)
        ∧ (bs.headD 0 ∈ [(1 : BitVec 8), 2] → (c'.endpoint (leNat ((bs.drop 2).take 2))).job.getLsbD 31 = false →
          PieceEnded c' t.chip cl.toNat { w with next := w.total } 0 6)
        ∧ (bs.headD 0 ∈ [(1 : BitVec 8), 2] → (c'.endpoint (leNat ((bs.drop 2).take 2))).job.getLsbD 31 = true →
          (0 < w.total → w ∈ (t.chip.cluster cl.toNat).netQ ∧ t.chip.msgs = c'.msgs)
          ∧ (w.total = 0 → PieceEnded c' t.chip cl.toNat w 0 0))

/-- R57-R59, R61 and R436: a piece from another package is answered with its status. Outside a valid window, beyond its length
or without its permission it is `DENIED` (2) and changes nothing; a write through one translated line writes its bytes; a read
answers with the bytes, `POISON` (4) where they are poisoned; an atomic with a reserved operation or a misaligned offset is `DENIED`; a signal of a stale token is
`STALE` (1), and one of a current token is applied. -/
def Sys2Proof.Claims.RemotePiecesAreServed : Prop :=
  ∀ (s : State) (addr u : BitVec 64) (op : BitVec 5) (data : List (BitVec 8)) (w : Window) (off : Nat), s.keep.power.halted = false →
    w = s.chip.window (addr.toNat / 2 ^ 46 % 2 ^ 8) → off = addr.toNat % 2 ^ 46 → ∀ ans : Nat → List Byte → Wire,
    (∀ st bs, ans st bs = { dest := 0, kind := 6, addr := addr, off := 0, status := st, data := bs }) →
    (w.perm.getLsbD 7 = false ∨ w.len < off + data.length ∨ w.perm.getLsbD 1 = false →
      exec (.remotePieceReceive 0 addr op u data) s = .next { s with chip := s.chip.emit (ans 2 []) })
    ∧ (w.perm.getLsbD 7 = false ∨ w.len < off + u.toNat ∨ w.perm.getLsbD 0 = false →
      exec (.remotePieceReceive 1 addr op u data) s = .next { s with chip := s.chip.emit (ans 2 []) })
    ∧ (w.perm.getLsbD 7 = false ∨ w.perm.getLsbD 2 = false ∨ 12 ≤ op.toNat % 16 ∨ off % (if op.getLsbD 4 then 8 else 4) ≠ 0 →
      exec (.remotePieceReceive 2 addr op u data) s = .next { s with chip := s.chip.emit (ans 2 []) })
    ∧ ((s.chip.tokHere addr && s.chip.tokCurrent addr) = false →
      exec (.remotePieceReceive 3 addr op u data) s = .next { s with chip := s.chip.emit (ans 1 []) })
    ∧ ((s.chip.tokHere addr && s.chip.tokCurrent addr) = true → tokDie addr < 4 → tokIndex addr < 0xFE00 →
      ∃ t, exec (.remotePieceReceive 3 addr op u data) s = .next t ∧ t.chip.links.wire = s.chip.links.wire ++ [ans 0 []]
        ∧ (t.chip.tokBeacon addr).count.toInt = Max.max (-2 ^ 31) (Min.min (2 ^ 31 - 1)
          ((s.chip.tokBeacon addr).count.toInt - (u.setWidth 32 : BitVec 32).toInt)) ∧ t.chip.mem = s.chip.mem)
    ∧ (∀ x c bs d, s.chip.xlate w.agent ((w.base + off) % 2 ^ 64) .load false = (.inr x, c) → w.perm.getLsbD 7 = true →
      w.perm.getLsbD 0 = true → off + u.toNat ≤ w.len → 0 < u.toNat → (w.base + off) % 128 + u.toNat ≤ 128 →
      c.readL2 w.agent.spire x u.toNat false = (bs, d) →
      exec (.remotePieceReceive 1 addr op u data) s
        = .next { s with chip := d.emit (ans (if d.poisoned (lineOf x.pa) then 4 else 0) bs) })
    ∧ ∀ x c, s.chip.xlate w.agent ((w.base + off) % 2 ^ 64) .store false = (.inr x, c) → w.perm.getLsbD 7 = true → w.perm.getLsbD 1 = true →
      off + data.length ≤ w.len → 0 < data.length → (w.base + off) % 128 + data.length ≤ 128 → inWindow x.pa = false → x.pol < 2 →
      Memory.wf c.mem → Owns c w.agent.spire x →
      ∃ t, exec (.remotePieceReceive 0 addr (op &&& 15) u data) s = .next t ∧ t.chip.links.wire = c.links.wire ++ [ans 0 []]
        ∧ memReadBytes t.chip.mem x.pa data.length = data
        ∧ ∀ m, m < x.pa ∨ x.pa + data.length ≤ m → memRead t.chip.mem m = memRead c.mem m

/-- R60 and R66: an answer ends its piece with its status, one for a piece that is not in flight changes nothing, and an
`NGET` writes what came back before the piece ends; a piece unanswered after the time-out ends with `TIMEOUT` (5). A packet of an
`NSEND` is resent, over a port that is up, after 256 us, doubled at each sending, and fails with `UNREACH` (6) while none is up
(the model's choice, log entry 31); after the eighth the request fails with `TIMEOUT`. -/
def Sys2Proof.Claims.AnswersEndPieces : Prop :=
  ∀ (s : State) (cl : BitVec 7) (idx : BitVec 6) (q : NetCmd), NetAt s cl.toNat idx.toNat q →
    (∀ (o : BitVec 48) (st : BitVec 8) (data : List (BitVec 8)),
      (q.flight.find? (fun g => g.off = o.toNat && g.back.isNone) = none →
        exec (.remoteAck cl idx o st data) s = .next s ∧ exec (.remoteTimeout cl idx o) s = .next s)
      ∧ ∀ f, Flies q f → f.off = o.toNat →
        (q.op = 0 ∨ q.op = 3 ∨ (q.op = 2 ∧ q.q3 = 0) ∨ (q.op = 1 ∧ st ≠ 0 ∧ st ≠ 4) →
          ∃ t, exec (.remoteAck cl idx o st data) s = .next t ∧ PieceEnded s.chip t.chip cl.toNat q f.off st.toNat
            ∧ t.chip.mem = s.chip.mem)
        ∧ (q.op ≠ 4 → s.chip.time < f.sent + Max.max 100 s.chip.links.tmo.toNat * 1000 →
          exec (.remoteTimeout cl idx o) s = .next s)
        ∧ (q.op ≠ 4 → f.sent + Max.max 100 s.chip.links.tmo.toNat * 1000 ≤ s.chip.time →
          ∃ t, exec (.remoteTimeout cl idx o) s = .next t ∧ PieceEnded s.chip t.chip cl.toNat q f.off 5 ∧ t.chip.mem = s.chip.mem)
        ∧ ∀ x c va, q.op = 1 → st = 0 → va = q.a.toNat + f.off → 0 < data.length → va % 128 + data.length ≤ 128 →
          s.chip.xlate q.cmd.agent (va % 2 ^ 64) .store false = (.inr x, c) → inWindow x.pa = false → x.pol < 2 → Memory.wf c.mem →
          Owns c q.cmd.agent.spire x → (c.cluster cl.toNat).netQ = (s.chip.cluster cl.toNat).netQ →
          ∃ t, exec (.remoteAck cl idx o st data) s = .next t ∧ memReadBytes t.chip.mem x.pa data.length = data
            ∧ (∀ m, m < x.pa ∨ x.pa + data.length ≤ m → memRead t.chip.mem m = memRead c.mem m)
            ∧ PieceEnded c t.chip cl.toNat q f.off 0)
    ∧ (∀ (pkt : BitVec 20) (f : Flight), Flies q f → f.off = pkt.toNat * 4096 → q.op = 4 →
      (s.chip.time < f.sent + 256000 * 2 ^ (f.sends - 1) → exec (.ueRetransmitTimer cl idx pkt) s = .next s)
      ∧ (f.sent + 256000 * 2 ^ (f.sends - 1) ≤ s.chip.time →
        (f.sends < 8 → (∃ n < 4, (s.chip.links.ue.getD n ⟨false, 0, 0⟩).up = true) → ∃ t n,
          exec (.ueRetransmitTimer cl idx pkt) s = .next t ∧ n < 4 ∧ (s.chip.links.ue.getD n ⟨false, 0, 0⟩).up = true
          ∧ t.chip.links.wire = s.chip.links.wire ++ [
            { dest := q.wrDest, kind := if q.wrOp = 2 then 5 else 4
              addr := BitVec.ofNat 64 (q.wrField 0x10 8), off := f.off, status := if f.bad then 4 else 0, data := f.data
              op := q.wrOp + 256 * q.wrFlags, u := BitVec.ofNat 64 q.wrLen, key := q.wrField 0x18 4
              token := BitVec.ofNat 64 (q.wrField 0x28 8), port := n, time := s.chip.time }]
          ∧ (∃ p ∈ (t.chip.cluster cl.toNat).netQ, p.cmd = q.cmd
            ∧ p.flight = q.flight.map (fun g => if g.off = f.off then { g with sent := s.chip.time, sends := g.sends + 1 } else g)))
        ∧ (f.sends < 8 → (∀ n < 4, (s.chip.links.ue.getD n ⟨false, 0, 0⟩).up = false) → ∃ t,
          exec (.ueRetransmitTimer cl idx pkt) s = .next t ∧ PieceEnded s.chip t.chip cl.toNat q f.off 6
          ∧ t.chip.links.wire = s.chip.links.wire)
        ∧ (8 ≤ f.sends → q.wr ≠ [] → ∃ t, exec (.ueRetransmitTimer cl idx pkt) s = .next t
          ∧ PieceEnded s.chip t.chip cl.toNat { q with next := q.total, redo := [], flight := [], stalled := [] } f.off 5)))
    ∧ (q.op ≠ 4 → ∀ l d, exec (.ueSelectiveAck cl idx l d) s = .next s)
    ∧ ∀ (pkt st : Nat) (f : Flight) (d : List (BitVec 8)), q.op = 4 → q.wrOp = 1 → q.flight = [f] → f.back = none → f.off = pkt * 4096 →
      pkt < 2 ^ 20 →
      ∃ t, exec (.ueSelectiveAck cl idx [pkt + 2 ^ 20 * st] d) s = .next t ∧ PieceEnded s.chip t.chip cl.toNat q f.off st
        ∧ t.chip.mem = s.chip.mem

/-- R65 and R67: a receiver places each packet of a write at its offset in any order, and answers it; a duplicate is answered
and discarded; a wrong key is `DENIED`; once every byte is placed the remote token is signalled if the request asks for it;
a request that has received nothing for 1 s, not even a packet that is refused, is dropped. -/
def Sys2Proof.Claims.PacketsArePlacedOnce : Prop :=
  ∀ (s : State) (src : BitVec 32), s.keep.power.halted = false →
    (∀ (flags : BitVec 1) (len off : BitVec 32) (roff : BitVec 64) (rkey : BitVec 32) (token : BitVec 64) (data : List (BitVec 8))
      (r : UeRx) (w : Window) (k : Chip), r = s.chip.rxOf src.toNat 1 len.toNat roff.toNat rkey.toNat token (flags = 1) → r.op = 1 →
      r.src = src.toNat → w = s.chip.window (r.rkey / 2 ^ 24 % 2 ^ 8) → k = s.chip.setRx { r with last := s.chip.time } →
      ((∃ p ∈ r.got, p.1 = off.toNat) → exec (.uePacketReceive src 1 flags len off roff rkey token data) s
        = .next { s with chip := k.emit { dest := src.toNat, kind := 6, addr := 0, off := off.toNat, status := 0, data := [] } })
      ∧ ((∀ p ∈ r.got, p.1 ≠ off.toNat) →
        (r.rkey % 2 ^ 24 ≠ w.key → exec (.uePacketReceive src 1 flags len off roff rkey token data) s
          = .next { s with chip := k.emit { dest := src.toNat, kind := 6, addr := 0, off := off.toNat, status := 2, data := [] } })
        ∧ ∀ x c, r.rkey % 2 ^ 24 = w.key → k.xlate w.agent ((w.base + (r.roff + off.toNat)) % 2 ^ 64) .store false = (.inr x, c) →
          w.perm.getLsbD 7 = true → w.perm.getLsbD 1 = true → r.roff + off.toNat + data.length ≤ w.len → 0 < data.length →
          (w.base + (r.roff + off.toNat)) % 128 + data.length ≤ 128 → inWindow x.pa = false → x.pol < 2 → Memory.wf c.mem →
          Owns c w.agent.spire x →
          ∃ t, exec (.uePacketReceive src 1 flags len off roff rkey token data) s = .next t
            ∧ memReadBytes t.chip.mem x.pa data.length = data
            ∧ (∀ m, m < x.pa ∨ x.pa + data.length ≤ m → memRead t.chip.mem m = memRead c.mem m)
            ∧ t.chip.links.wire = c.links.wire ++ [{ dest := src.toNat, kind := 6, addr := 0, off := off.toNat, status := 0, data := [] }]
            ∧ (∃ r' ∈ t.chip.links.rx, r'.src = src.toNat ∧ r'.got = r.got ++ [(off.toNat, data.length)]
              ∧ r'.last = s.chip.time)
            ∧ t.chip.msgs = c.msgs ++ (if r.finished = false ∧ r.sigR = true ∧ r.len ≤ (r.got.map Prod.snd).sum + data.length
                then [⟨none, false, false, .signal r.token 1 0 0 none, .links, 0, false⟩] else [])))
    ∧ ∃ t, exec (.ueRequestAbandon src) s = .next t
      ∧ (∀ r, r ∈ t.chip.links.rx ↔ r ∈ s.chip.links.rx ∧ (r.src = src.toNat → s.chip.time < r.last + 1000000000))
      ∧ t.chip.mem = s.chip.mem ∧ t.chip.msgs = s.chip.msgs

/-- R68, R69 and R72: a port that is up counts a retrain, or goes down with a port-down event; an Ultra Ethernet port goes down
with its event; the master sends a timing message over every port that is up each 1 ms; elsewhere one sets `ERR` and, below 100 ns,
`LOCKED`, which clears with a time-lock event 100 ms later. -/
def Sys2Proof.Claims.PortsAndTimeSynchronisation : Prop :=
  ∀ (s : State), s.keep.power.halted = false →
    (∀ (port : BitVec 3) p, p = s.chip.links.ual.getD port.toNat ⟨false, 0, 0⟩ →
      (p.up = false → ∀ r, exec (.linkFault port r) s = .next s)
      ∧ (p.up = true → (∃ t, exec (.linkFault port true) s = .next t
          ∧ t.chip.links.ual.getD port.toNat ⟨false, 0, 0⟩ = { p with events := if p.events = 0xFFFF then p.events else p.events + 1 }
          ∧ t.chip.outbox = s.chip.outbox)
        ∧ ∃ t, exec (.linkFault port false) s = .next t
          ∧ t.chip.links.ual.getD port.toNat ⟨false, 0, 0⟩ = { p with up := false, width := 0 }
          ∧ t.chip.outbox = s.chip.outbox ++ [⟨0x0020, 4, BitVec.ofNat 64 port.toNat, 0, none⟩]
          ∧ ∀ n : BitVec 3, n ≠ port → t.chip.links.ual.getD n.toNat ⟨false, 0, 0⟩ = s.chip.links.ual.getD n.toNat ⟨false, 0, 0⟩))
    ∧ (∀ (port : BitVec 2) p, p = s.chip.links.ue.getD port.toNat ⟨false, 0, 0⟩ →
      (p.up = false → exec (.uePortDown port) s = .next s)
      ∧ (p.up = true → ∃ t, exec (.uePortDown port) s = .next t
        ∧ t.chip.links.ue.getD port.toNat ⟨false, 0, 0⟩ = { p with up := false }
        ∧ t.chip.outbox = s.chip.outbox ++ [⟨0x0020, 4, BitVec.ofNat 64 (16 + port.toNat), 0, none⟩]))
    ∧ (∀ err : BitVec 16, (s.chip.links.master = true →
        (s.chip.time < s.chip.links.lastSync + 1000000 → exec (.tsyncMessage err) s = .next s)
        ∧ (s.chip.links.lastSync + 1000000 ≤ s.chip.time → ∃ t, exec (.tsyncMessage err) s = .next t
          ∧ t.chip.links = { s.chip.links with
              lastSync := s.chip.time
              wire := s.chip.links.wire ++ ((List.range 8).filter (fun i => (s.chip.links.ual.getD i ⟨false, 0, 0⟩).up)).map (fun i =>
                { dest := 0, kind := 7, addr := 0, off := 0, status := 0, data := [], port := i, time := s.chip.time }) }
          ∧ t.chip.outbox = s.chip.outbox))
      ∧ (s.chip.links.master = false → ∃ t, exec (.tsyncMessage err) s = .next t
        ∧ t.chip.links = { s.chip.links with err := err, lastSync := s.chip.time, locked := decide (-100 < err.toInt ∧ err.toInt < 100) }
        ∧ t.chip.outbox = s.chip.outbox))
    ∧ (s.chip.links.locked = true → s.chip.links.master = false → s.chip.links.lastSync + 100000000 ≤ s.chip.time →
      ∃ t, exec .tsyncLockLost s = .next t ∧ t.chip.links.locked = false
        ∧ t.chip.outbox = s.chip.outbox ++ [⟨0x0021, 4, 0, 0, none⟩])
    ∧ (s.chip.links.locked = false ∨ s.chip.links.master = true ∨ s.chip.time < s.chip.links.lastSync + 100000000 →
      exec .tsyncLockLost s = .next s)

/-! ### Completion of selects, conversions, reservations, served pieces and link events -/

namespace Sys2Proof.Claims

/-- An atomic of a supervisor coroutine in ASID 0 to whole, clean memory, aligned, with nothing to wait for. -/
structure PlainAtomic (c : Chip) (key : Nat) (co : Coroutine) (a : BitVec 5) (n : Nat) : Prop where
  sup : co.sup = true
  asid : co.asid = 0
  quiet : co.quiet
  wf : Memory.wf c.mem
  ordered : c.behindN key = false
  accepted : c.storesPending key = false
  acked : c.remoteUnacked key = false
  aligned : (co.xr a).toNat % n = 0
  sound : Sound c (co.xr a).toNat n
  clean : c.Clean (lineOf (co.xr a).toNat)

/-- An export window of ASID 0 admits an access of `n` bytes at an offset, to whole, clean memory (R57, R58). -/
structure OpenWindow (c : Chip) (w : Window) (off n perm : Nat) : Prop where
  admits : w.perm.getLsbD 7 = true ∧ w.perm.getLsbD perm = true ∧ off + n ≤ w.len ∧ 0 < n
  asid : w.asid = 0
  recs : ∀ r ∈ (c.spire w.die).recs, r.asid ≠ 0
  wf : Memory.wf c.mem
  sound : Sound c (w.base + off) n
  clean : c.Clean (lineOf (w.base + off))

/-- The bytes of a range have become `bs`, and no other byte of memory has changed. -/
def Stored (s t : State) (a : Nat) (bs : List Byte) : Prop :=
  memReadBytes t.chip.mem a bs.length = bs ∧ ∀ m, m < a ∨ a + bs.length ≤ m → memRead t.chip.mem m = memRead s.chip.mem m

/-- What answers a piece (R58). -/
def answer (dest : Nat) (addr : Word) (off st : Nat) (bs : List Byte) : Wire :=
  { dest := dest, kind := 6, addr := addr, off := off, status := st, data := bs }

end Sys2Proof.Claims

/-- R313, R316, R332, R333 and R334: `FMIN` and `FMAX` always complete, with the lesser or the greater operand, the other one of a NaN
and a number, or the canonical NaN, and raise `NV` exactly for a signalling NaN; `FCMP` completes with 0 or 1; `FCVT` completes
where its rounding mode is one, a NaN becoming 0 with `NV` in an integer and the canonical NaN in a float, and an integral number in
an integer's range that integer, with no flag. -/
def Sys2Proof.Claims.FloatFormsComplete : Prop :=
  ∀ s key co, Issues s key co → ∀ (d a b : BitVec 5) (p : BitVec 1),
    (∀ (i : Instr) (pick : ℚ → ℚ → ℚ), (i, pick) ∈ [(Instr.fmin d a b p, Min.min), (.fmax d a b p, Max.max)] →
      ∃ z v fl, exec i s = .next (wroteFloat s key co d (BitVec.ofNat 64 v) fl) ∧ v = (roundNum z (scalarFmt p) 0).1
        ∧ (fl &&& flagNV = if (co.fr p a).isSig || (co.fr p b).isSig then flagNV else 0)
        ∧ ((co.fr p a).isNaN = true → (co.fr p b).isNaN = true → v = canonicalNaN (scalarFmt p))
        ∧ ((co.fr p a).isNaN = true → (co.fr p b).isNaN = false → z = co.fr p b)
        ∧ ((co.fr p a).isNaN = false → (co.fr p b).isNaN = true → z = co.fr p a)
        ∧ ∀ x y, co.fr p a = .fin x → co.fr p b = .fin y →
          ∃ w, z = .fin w ∧ (w = x ∨ w = y) ∧ exactValue w = pick (exactValue x) (exactValue y))
    ∧ (∀ k : BitVec 2, ∃ v fl, exec (.fcmp d a b k p) s = .next (wroteFloat s key co d v fl) ∧ (v = 0 ∨ v = 1)
      ∧ (k = 3 → (v = 1 ↔ (co.fr p a).isNaN = true ∨ (co.fr p b).isNaN = true))
      ∧ ∀ x y, co.fr p a = .fin x → co.fr p b = .fin y → fl = 0
        ∧ (k = 0 → (v = 1 ↔ exactValue x = exactValue y)) ∧ (k = 1 → (v = 1 ↔ exactValue x < exactValue y))
        ∧ (k = 2 → (v = 1 ↔ exactValue x ≤ exactValue y)))
    ∧ ∀ (st r dt : BitVec 3) (rm : Nat), (if cvtWidens dt.toNat st.toNat then rm = 0 else co.rounding r.toNat = some rm) →
      ∃ v fl, exec (.fcvt d a st r dt) s = .next (wroteFloat s key co d v fl)
        ∧ (∀ f, cvtFmt st.toNat = some f → (readFloat f (co.xr a).toNat).isNaN = true →
          (cvtFmt dt.toNat = none → v = 0 ∧ fl = flagNV)
          ∧ ∀ g, cvtFmt dt.toNat = some g → v = BitVec.ofNat 64 (canonicalNaN g)
            ∧ fl = if (readFloat f (co.xr a).toNat).isSig then flagNV else 0)
        ∧ (∀ f y (z : Int), cvtFmt st.toNat = some f → cvtFmt dt.toNat = none → readFloat f (co.xr a).toNat = .fin y →
          exactValue y = z → intLo (cvtInt dt.toNat).1 (cvtInt dt.toNat).2 ≤ z → z ≤ intHi (cvtInt dt.toNat).1 (cvtInt dt.toNat).2 →
          v = BitVec.ofInt 64 z ∧ fl = 0)

/-- R201, R202 and R390: in the physical space, `LR` gives the number in memory to `x[d]` and adds its line to the reservation set, at
once or when the line's reservation queue comes to it; `SC` writes `x[b]` and gives 0 where the set holds its line unbroken, and else
gives 1 and writes nothing; the set is empty after it. -/
def Sys2Proof.Claims.ReservationFormsComplete : Prop :=
  ∀ (s : State) key co (d a b : BitVec 5) (sc : BitVec 3) (rl aq wd : BitVec 1) (n ea : Nat), n = (if wd = 1 then 8 else 4) →
    ea = (co.xr a).toNat → PlainAtomic s.chip key co a n →
    (Issues s key co → s.chip.resq = [] →
      (∃ t, exec (.lr d a sc aq wd) s = .next t ∧ (∀ m, memRead t.chip.mem m = memRead s.chip.mem m)
        ∧ t.chip.co key = some { (co.setX d (atomicOld wd (memReadNat s.chip.mem ea n))).advance with
            resv := withLine co.resv (lineOf ea) })
      ∧ ((∃ r ∈ co.resv, r.line = lineOf ea ∧ r.broken = false) → ∃ t, exec (.sc d a b sc rl aq wd) s = .next t
        ∧ t.chip.co key = some { (co.setX d 0).advance with resv := [] }
        ∧ Stored s t ea (leBytes n ((co.xr b).toNat % 2 ^ (8 * n))))
      ∧ ((∀ r ∈ co.resv, r.line = lineOf ea → r.broken = true) → ∃ t, exec (.sc d a b sc rl aq wd) s = .next t
        ∧ t.chip.co key = some { (co.setX d 1).advance with resv := [] }
        ∧ ∀ m, memRead t.chip.mem m = memRead s.chip.mem m))
    ∧ ∀ (line : BitVec 48) (q : List ResReq), s.keep.power.halted = false → s.chip.co key = some co → co.state = .running →
      mget s.chip.resq line.toNat = some (⟨key / 256, key % 256, .lr d a sc aq wd⟩ :: q) →
      ∃ t, exec (.reservationGrant line) s = .next t ∧ mgetD t.chip.resq line.toNat [] = q
        ∧ t.chip.co key = some { (co.setX d (atomicOld wd (memReadNat s.chip.mem ea n))).advance with
            resv := withLine co.resv (lineOf ea) }

/-- R57-R59, R61, R65-R67 and R436: a piece from another package that a window admits is served: a write stores its bytes, a read
answers with them, an atomic answers with the old value and stores the new one; a signal of a current token lowers its count. A packet
of a write that begins a request is placed and answered, and the remote token is signalled if it is the whole request and asks for
it. A request without a packet for 1 s is dropped. An acknowledgement ends its packet. -/
def Sys2Proof.Claims.ServedPiecesComplete : Prop :=
  ∀ (s : State), s.keep.power.halted = false →
    (∀ (addr u : BitVec 64) (op : BitVec 5) (data : List (BitVec 8)) (w : Window) (off : Nat),
      w = s.chip.window (addr.toNat / 2 ^ 46 % 2 ^ 8) → off = addr.toNat % 2 ^ 46 →
      (OpenWindow s.chip w off data.length 1 → op.getLsbD 4 = false → ∃ t, exec (.remotePieceReceive 0 addr op u data) s = .next t
        ∧ Stored s t (w.base + off) data ∧ t.chip.links.wire = s.chip.links.wire ++ [answer 0 addr 0 0 []])
      ∧ (OpenWindow s.chip w off u.toNat 0 → ∃ t, exec (.remotePieceReceive 1 addr op u data) s = .next t
        ∧ (∀ m, memRead t.chip.mem m = memRead s.chip.mem m)
        ∧ t.chip.links.wire = s.chip.links.wire ++ [answer 0 addr 0 0 (memReadBytes s.chip.mem (w.base + off) u.toNat)])
      ∧ (∀ n wd old f, wd = (if op.getLsbD 4 then 1 else 0) → n = (if op.getLsbD 4 then 8 else 4) → off % n = 0 →
        OpenWindow s.chip w off n 2 → old = memReadNat s.chip.mem (w.base + off) n →
        (amoTable 0 0 0 0 0 0 0 (8 * n) (u.toNat % 2 ^ (8 * n)) (leNat data % 2 ^ 64 % 2 ^ (8 * n)) old)[op.toNat % 16]? = some f →
        ∃ t, exec (.remotePieceReceive 2 addr op u data) s = .next t ∧ Stored s t (w.base + off) (leBytes n f.2)
          ∧ t.chip.links.wire = s.chip.links.wire ++ [answer 0 addr 0 0 (leBytes 8 (atomicOld wd old).toNat)])
      ∧ ((s.chip.tokHere addr && s.chip.tokCurrent addr) = true → tokDie addr < 4 → tokIndex addr < 0xFE00 →
        ∃ t, exec (.remotePieceReceive 3 addr op u data) s = .next t
          ∧ t.chip.links.wire = s.chip.links.wire ++ [answer 0 addr 0 0 []]
          ∧ (0 ≤ (u.setWidth 32 : BitVec 32).toInt → (t.chip.tokBeacon addr).count.toInt
            = Max.max (-2 ^ 31) ((s.chip.tokBeacon addr).count.toInt - (u.setWidth 32 : BitVec 32).toInt))))
    ∧ (∀ (src : BitVec 32) (flags : BitVec 1) (len off : BitVec 32) (roff : BitVec 64) (rkey : BitVec 32) (token : BitVec 64)
      (data : List (BitVec 8)) (w : Window), (∀ r ∈ s.chip.links.rx, r.src ≠ src.toNat) →
      w = s.chip.window (rkey.toNat / 2 ^ 24) → rkey.toNat % 2 ^ 24 = w.key →
      OpenWindow s.chip w (roff.toNat + off.toNat) data.length 1 →
      ∃ t, exec (.uePacketReceive src 1 flags len off roff rkey token data) s = .next t
        ∧ Stored s t (w.base + (roff.toNat + off.toNat)) data
        ∧ t.chip.links.wire = s.chip.links.wire ++ [answer src.toNat 0 off.toNat 0 []]
        ∧ t.chip.links.rx = s.chip.links.rx ++ [⟨src.toNat, 1, len.toNat, roff.toNat, rkey.toNat, token, decide (flags = 1),
            [(off.toNat, data.length)], decide (len.toNat ≤ data.length), s.chip.time⟩]
        ∧ t.chip.msgs = s.chip.msgs ++ (if len.toNat ≤ data.length ∧ flags = 1
            then [⟨none, false, false, .signal token 1 0 0 none, .links, 0, false⟩] else []))
    ∧ (∀ src : BitVec 32, ∃ t, exec (.ueRequestAbandon src) s = .next t
      ∧ t.chip.links.rx = s.chip.links.rx.filter (fun r => decide (r.src ≠ src.toNat ∨ s.chip.time < r.last + 1000000000)))
    ∧ ∀ (cl : BitVec 7) (idx : BitVec 6) (q : NetCmd) (f : Flight) (pkt : BitVec 20), NetAt s cl.toNat idx.toNat q → q.op = 4 →
      q.wrOp = 1 → q.flight = [f] → f.back = none → f.off = pkt.toNat * 4096 →
      ∃ t, exec (.ueSelectiveAck cl idx [pkt.toNat] []) s = .next t ∧ PieceEnded s.chip t.chip cl.toNat q f.off 0

/-- R68, R69, R72 and R90: a UALink port that is up retrains, which it counts, or goes down with a port-down event; an Ultra Ethernet
port goes down with its event; a timing message is sent by the master, when it is time, and else taken; lock is lost, with an event,
after 100 ms without one. -/
def Sys2Proof.Claims.LinkEventsComplete : Prop :=
  ∀ (s : State), s.keep.power.halted = false →
    (∀ (port : BitVec 3) w e, s.chip.links.ual.getD port.toNat ⟨false, 0, 0⟩ = ⟨true, w, e⟩ →
      (∃ t, exec (.linkFault port true) s = .next t ∧ t.chip.outbox = s.chip.outbox
        ∧ t.chip.links.ual.getD port.toNat ⟨false, 0, 0⟩ = ⟨true, w, if e = 0xFFFF then e else e + 1⟩)
      ∧ ∃ t, exec (.linkFault port false) s = .next t ∧ t.chip.links.ual.getD port.toNat ⟨false, 0, 0⟩ = ⟨false, 0, e⟩
        ∧ t.chip.outbox = s.chip.outbox ++ [⟨0x0020, 4, port.setWidth 64, 0, none⟩])
    ∧ (∀ (port : BitVec 2) w e, s.chip.links.ue.getD port.toNat ⟨false, 0, 0⟩ = ⟨true, w, e⟩ →
      ∃ t, exec (.uePortDown port) s = .next t ∧ t.chip.links.ue.getD port.toNat ⟨false, 0, 0⟩ = ⟨false, w, e⟩
        ∧ t.chip.outbox = s.chip.outbox ++ [⟨0x0020, 4, 16 + port.setWidth 64, 0, none⟩])
    ∧ (∀ err : BitVec 16,
      (s.chip.links.master = false → ∃ t, exec (.tsyncMessage err) s = .next t ∧ t.chip.links.err = err
        ∧ t.chip.links.lastSync = s.chip.time ∧ (|err.toInt| < 100 → t.chip.links.locked = true))
      ∧ (s.chip.links.master = true → s.chip.links.lastSync + 1000000 ≤ s.chip.time →
        ∃ t, exec (.tsyncMessage err) s = .next t ∧ t.chip.links.lastSync = s.chip.time
          ∧ ∀ n < 8, (s.chip.links.ual.getD n ⟨false, 0, 0⟩).up = true →
            ∃ m ∈ t.chip.links.wire, m.kind = 7 ∧ m.port = n ∧ m.time = s.chip.time))
    ∧ (s.chip.links.locked = true → s.chip.links.master = false → s.chip.links.lastSync + 100000000 ≤ s.chip.time →
      ∃ t, exec .tsyncLockLost s = .next t ∧ t.chip.links.locked = false
        ∧ t.chip.outbox = s.chip.outbox ++ [⟨0x0021, 4, 0, 0, none⟩])

/-! ### The step, decoding and invariants -/

namespace Sys2Proof.Claims

/-- The state in which the front end of core `k` acts: the events raised so far have reached the pilot, time has passed, and
the agenda's head is gone. -/
def atCore (s : State) (k : Nat) (r : List Sched) : State := { s.settle.tick with agenda := r, cur := k }

/-- It is the turn of core `k`: the agenda names it, or, with no agenda, no engine, queue or message has anything to do and the
cores' order comes to it (log entry 1). -/
def TurnOf (s : State) (k : Nat) (r : List Sched) : Prop :=
  s.agenda = .issue k :: r
    ∨ (s.agenda = [] ∧ r = [] ∧ keepAct s.settle.tick = none ∧ s.settle.tick.chip.firstAct s.settle.tick.chip.acts = none
      ∧ s.settle.tick.chip.nextCore s.cur = some k)

/-- It is the turn of core `k`, which runs a coroutine. -/
structure Turn (s : State) (k : Nat) (r : List Sched) (key : Nat) (co : Coroutine) : Prop where
  head : TurnOf s k r
  clocks : s.settle.keep.power.halted = false
  running : (atCore s k r).chip.runningKey k = some key
  holds : (atCore s k r).chip.co key = some co

/-- Its front end is free to fetch: no trap waits for the coroutine to drain, and it gives way to no other. -/
structure Fetches (s : State) (k : Nat) (r : List Sched) (key : Nat) (co : Coroutine) : Prop where
  turn : Turn s k r key co
  free : co.due = none
  stays : (atCore s k r).chip.givesWay key co = false

end Sys2Proof.Claims

/-- R262, R264, R166, R282, R283 and R24: when it is a core's turn, a trap that its coroutine has taken is recorded once it has
drained, and a coroutine that gives way does so; else the word at the program counter of its running coroutine is fetched and
decoded: a step is `exec` of the instruction that it stands for, on that core, unless that reads what a queued one will write
(R235); an unassigned encoding traps `RSV` (cause 0x02) and a permanently illegal one `ILL` (0x01), with the word in `FADDR`. A
supervisor coroutine in ASID 0 fetches the four bytes at its program counter. A step of an event is `exec` of it. With nothing to
do, and after a thermal shutdown, a step leaves the package as it is. -/
def Obligations.StepRunsTheDecodedInstruction : Prop :=
  ∀ (s : State) (k : Nat) (r : List Sched),
    (∀ i, s.agenda = .event i :: r → step s = exec i { s.settle.tick with agenda := r })
    ∧ (TurnOf s k r → s.settle.keep.power.halted = false → (atCore s k r).chip.runningKey k = none → step s = .next (atCore s k r))
    ∧ (∀ key co, Turn s k r key co →
      (co.due.isSome = true → step s = .next { atCore s k r with chip := (atCore s k r).chip.settleDue key })
      ∧ (co.due = none → (atCore s k r).chip.givesWay key co = true →
        step s = .next { atCore s k r with chip := (atCore s k r).chip.quantumExpiry k }))
    ∧ (∀ key co w c, Fetches s k r key co → (atCore s k r).chip.fetch key co = (some w, c) →
      (∀ i, decode w = .ok i → (c.holds key co i = false → step s = exec i { atCore s k r with chip := c })
        ∧ (c.holds key co i = true → step s = .next { atCore s k r with chip := c }))
      ∧ (c.undrained key = false → c.co key = some co →
        (decode w = .rsv → step s = .next (State.trapped { atCore s k r with chip := c } key co 0x02 (w.setWidth 64)))
        ∧ (decode w = .ill → step s = .next (State.trapped { atCore s k r with chip := c } key co 0x01 (w.setWidth 64)))))
    ∧ (∀ key co i d, Fetches s k r key co → d = (atCore s k r).chip → co.sup = true → co.fetchAsid = 0 → Memory.wf d.mem →
      Sound d co.pc.toNat 4 → Current d (spireOf (key / 256)) (lineOf co.pc.toNat) → (d.core (key / 256)).l1i = [] →
      decode (BitVec.ofNat 32 (memReadNat d.mem co.pc.toNat 4)) = .ok i → d.holds key co i = false →
      ∃ t, step s = exec i t ∧ t.cur = k ∧ t.chip.runningKey k = some key ∧ t.chip.co key = some co
        ∧ (∀ a, memRead t.chip.mem a = memRead d.mem a) ∧ t.keep = s.settle.keep ∧ t.agenda = r)
    ∧ (s.agenda = [] → s.settle.keep.power.halted = true → step s = .next s.settle)
    ∧ (s.agenda = [] → s.settle.keep.power.halted = false → keepAct s.settle.tick = none →
      s.settle.tick.chip.firstAct s.settle.tick.chip.acts = none → s.settle.tick.chip.nextCore s.cur = none →
      step s = .next s.settle.tick)

/-- R281 and R283: words that the spec works out stand for the instructions that it gives with them, and its unassigned and
illegal words for none. -/
def Sys2Proof.Claims.WorkedWordsDecode : Prop :=
  (decode 0x02531C29 = .ok (.csel 5 6 7 9) ∧ decode 0x0484A802 = .ok (.mulhu 8 9 10) ∧ decode 0x06536203 = .ok (.bfx 5 6 8 3)
    ∧ decode 0x08531C90 = .ok (.fadd 5 6 7 1 1) ∧ decode 0x28534003 = .ok (.srai 5 6 3) ∧ decode 0x58532010 = .ok (.ldaq 5 6 2 0x010)
    ∧ decode 0x5A734FF8 = .ok (.sdrl 7 6 4 0xFF8) ∧ decode 0x64008000 = .ok (.jalr 0 1 0) ∧ decode 0x70500008 = .ok (.csrr 5 8)
    ∧ decode 0x70031003 = .ok (.csrw 0 6 3))
  ∧ (decode 0x86419640 = .ok (.vfadd 4 3 5 1 0 2) ∧ decode 0x94530015 = .ok (.vsetl 5 6 0x15)
    ∧ decode 0x8C628023 = .ok (.vcompress 6 5 0 1) ∧ decode 0xA0128010 = .ok (.vld 1 5 0 0 0 0 2)
    ∧ decode 0xA6429800 = .ok (.vldkv 4 5 6 0 0 0 0) ∧ decode 0x96308800 = .ok (.mopa 3 1 2 0 0 0))
  ∧ (decode 0x74531C04 = .ok (.spawn 5 6 7) ∧ decode 0x74031406 = .ok (.migrate 6 5) ∧ decode 0x78531E30 = .ok (.amoadd 5 6 7 4 0 1 1)
    ∧ decode 0x7A831E51 = .ok (.sc 8 6 7 4 1 0 1) ∧ decode 0xC02190C1 = .ok (.mma 2 3 1) ∧ decode 0xC05011C2 = .ok (.macq 5 2)
    ∧ decode 0xC05330C0 = .ok (.nsig 5 6) ∧ decode 0xC0707003 = .ok (.eset 7 3))
  ∧ decode 0x0A214C03 = .rsv ∧ decode 0x02531C12 = .rsv ∧ decode 0x70530008 = .rsv ∧ decode 0x28528040 = .rsv
  ∧ decode 0x00000000 = .ill ∧ decode 0xFFFFFFFF = .ill

/-- R281-R283: decoding the word of a well-formed instruction gives it back, with every operand at every value. -/
def Obligations.DecodingInvertsEncoding : Prop :=
  ∀ (i : Instr) (w : BitVec 32), i.wellFormed = true → encode i = some w → decode w = .ok i

/-- R281-R283: an instruction that a word decodes to is well formed, and the word is its only encoding: no bit of a word is
ignored. -/
def Obligations.EncodingInvertsDecoding : Prop :=
  ∀ (w : BitVec 32) (i : Instr), decode w = .ok i → i.wellFormed = true ∧ encode i = some w

/-- Every step keeps the canonical form of the package's memory. -/
def Obligations.StepsKeepMemoryCanonical : Prop :=
  ∀ s t : State, Memory.wf s.chip.mem → step s = .next t → Memory.wf t.chip.mem

/-- Every step keeps the canonical form of the host's memory and of the queue memory. -/
def Sys2Proof.Claims.StepsKeepHostMemoriesCanonical : Prop :=
  ∀ s t : State, Memory.wf s.keep.hostMem → Memory.wf s.keep.queueMem → step s = .next t →
    Memory.wf t.keep.hostMem ∧ Memory.wf t.keep.queueMem

/-- R11, R24: an instruction word changes nothing that the pilot, the power controller and the host interface hold, and not what the
agents do next; it has no next state once a thermal shutdown has stopped the clocks. -/
def Sys2Proof.Claims.WordsLeaveTheKeep : Prop :=
  ∀ (i : Instr) (w : BitVec 32) (s : State), encode i = some w →
    (∀ t, exec i s = .next t → t.keep = s.keep ∧ t.agenda = s.agenda ∧ t.cur = s.cur)
    ∧ (s.keep.power.halted = true → exec i s = .fault .clocksStopped)

/-- R9, R15, R70-R72, R78, R89, R153: right after reset every memory is canonical, no coroutine, launch or message exists, boot has
not started, every queue and partition is disabled, and the link block is at its reset values. -/
def Sys2Proof.Claims.ResetState : Prop :=
  Memory.wf State.reset.chip.mem ∧ Memory.wf State.reset.keep.hostMem ∧ Memory.wf State.reset.keep.queueMem
    ∧ State.reset.chip.cos = [] ∧ State.reset.chip.launches = [] ∧ State.reset.chip.msgs = [] ∧ State.reset.agenda = []
    ∧ State.reset.keep.boot.ready = false ∧ State.reset.keep.boot.stage = 0 ∧ State.reset.keep.power.halted = false
    ∧ (∀ q, q < 64 → State.reset.keep.hqs.getD q ⟨true, true, 1, 1⟩ = ⟨false, false, 0, 0⟩)
    ∧ State.reset.keep.pilot.en = false ∧ State.reset.keep.pilot.head = 0 ∧ State.reset.keep.pilot.tail = 0
    ∧ (∀ p, (State.reset.chip.part p).en = false ∧ (State.reset.chip.part p).state = 0)
    ∧ State.reset.chip.links.tmo = 2000 ∧ State.reset.chip.links.valid = false ∧ State.reset.chip.links.id = 0
    ∧ (∀ n, n < 8 → State.reset.chip.links.ual.getD n ⟨true, 1, 1⟩ = ⟨false, 0, 0⟩)

/-! ### The statements of several groups -/

/-- R324, R325: The integer register operations: their words, their results, and nothing else changed. -/
def Obligations.IntegerRegisterOperations : Prop :=
  IntegerRegisterResults ∧ IntegerRegisterEncodings

/-- R326: Products, quotients and remainders with their corners, and quotient × divisor + remainder. -/
def Obligations.MultiplyAndDivide : Prop :=
  MultiplyDivideResults ∧ QuotientTimesDivisorPlusRemainder

/-- R327: Bit counts, byte order, extensions and bit fields: words and results. -/
def Obligations.BitOperations : Prop :=
  BitOperationResults ∧ BitOperationEncodings

/-- R328, R329, R330: The immediate forms: words and results. -/
def Obligations.Immediates : Prop :=
  ImmediateResults ∧ ImmediateEncodings

/-- R332, R314: Scalar floating-point arithmetic is the exact result rounded once. -/
def Obligations.FloatArithmetic : Prop :=
  FloatArithmeticRoundsOnce ∧ FloatOperationsAreExact

/-- R312, R313: RoundTo stores the number that the mode names; special values, NV and DZ. -/
def Obligations.FloatRounding : Prop :=
  RoundToStoresTheNamedNumber ∧ FloatSpecialValues

/-- R333, R332, R316, R334, R310, R331: FCMP, FMIN, FMAX and FCVT, and the reserved dynamic rounding mode. -/
def Obligations.FloatComparesAndConversions : Prop :=
  FloatCompareResults ∧ FloatSelectAndConvertResults ∧ DynamicRoundingTrapsReserved

/-- R313, R316, R332-R334, R201, R202, R390, R57-R69: the forms that select, convert, reserve, serve other packages and follow the
links complete. -/
def Obligations.SelectsReservationsAndLinkEventsComplete : Prop :=
  FloatFormsComplete ∧ ReservationFormsComplete ∧ ServedPiecesComplete ∧ LinkEventsComplete

/-- R335, R197, R98: Loads write the bytes read: a buffered store's, or memory's. -/
def Obligations.Loads : Prop :=
  LoadsWriteTheBytesRead ∧ LoadsReadMemoryOrTheBufferedStore

/-- R336, R339, R389: Misaligned accesses and atomics trap ALIGN and have no effect. -/
def Obligations.MisalignedAccesses : Prop :=
  MisalignedAccessesTrapAlign ∧ MisalignedAtomicsTrapAlign

/-- R335, R197: Stores retire into the store buffer, and an accepted store writes exactly its bytes. -/
def Obligations.Stores : Prop :=
  StoresRetireIntoTheStoreBuffer ∧ AcceptedStoreWritesItsBytes

/-- R339, R340, R335, R338, R111: LDAQ, SDRL and PREF, and what loads leave unchanged. -/
def Obligations.AcquireReleaseAndPrefetch : Prop :=
  AcquireLoadAndReleaseStoreResults ∧ LoadAndPrefetchFrame

/-- R341, R342, R343: Jumps, branches and DBNZ: words, targets, links and counters. -/
def Obligations.ControlTransfers : Prop :=
  ControlTransferResults ∧ ControlTransferEncodings

/-- R345, R298: CSR accesses: the four forms, what reads back, and their traps. -/
def Obligations.CsrAccess : Prop :=
  CsrAccessResults ∧ CsrWriteReadsBack ∧ CsrAccessTraps

/-- R234, R260, R267, R272, R273: Traps: a user coroutine becomes faulted, a supervisor coroutine enters its handler. -/
def Obligations.TrapsAreTaken : Prop :=
  UserTrapMakesFaulted ∧ SupervisorTrapEntersHandler

/-- R346, R347: ECALL, EBREAK and TRET. -/
def Obligations.SystemCallsAndReturns : Prop :=
  SystemCallsTrapAfterThemselves ∧ TrapReturnGoesOnAtEpc

/-- R278, R279, R295, R296, R348, R193, R195: What follows a retired instruction, the prefix, fences and ISYNC. -/
def Obligations.AfterAnInstruction : Prop :=
  WhatFollowsARetiredInstruction ∧ PrefixAppliesToTakersOnly ∧ OrderingInstructionsComplete

/-- R390, R202: LR and SC with the reservation set, and the writes that break reservations. -/
def Obligations.ReservationsAndConditionalStores : Prop :=
  LoadReservedStoreConditionalResults ∧ WritesBreakReservationsOfOthers

/-- R395, R396, R397, R398, R393: Beacon instructions: allocation, freeing, setting, signalling, reading, and the token checks. -/
def Obligations.Beacons : Prop :=
  BeaconAllocates ∧ BeaconInstructionResults ∧ TokenChecksTrap

/-- R403, R404, R405: SPAWN, EXIT and MIGRATE. -/
def Obligations.SpawnExitAndMigrate : Prop :=
  SpawnAndExitResults ∧ MigrateResults

/-- R235, R353, R236, R359, R362, R372, R375, R377: Vector instructions enter their queue with captured values; reserved widths trap. -/
def Obligations.VectorIssue : Prop :=
  VectorInstructionsIssue ∧ VectorWidthsTrapReserved

/-- R363, R365, R366: Vector compares and mask operations, and the vector results that go to x registers. -/
def Obligations.VectorMasksAndScalars : Prop :=
  VectorMaskResults ∧ VectorScalarResults

/-- R358, R367, R368, R369, R371, R372, R373: Integer reductions, permutes and top-k selection. -/
def Obligations.VectorPermutesAndSelection : Prop :=
  VectorWholeResults ∧ VectorTopKResults

/-- R322, R367, R375: Floating-point reductions by the pairwise tree, and VROPE. -/
def Obligations.VectorReductionsAndRotation : Prop :=
  VectorFloatReductionResults ∧ VectorRotationResults

/-- R410, R426, R430, R433, R435, R56: Copy, KV and network commands enter their queues with their operands. -/
def Obligations.EngineCommandsEnterTheirQueues : Prop :=
  CopyCommandsEnterTheirQueue ∧ KvAndNetworkCommandsEnterTheirQueues

/-- R244, R243, R417, R424, R239, R227, R246: Matrix commands issue when their checks pass, and otherwise trap or suspend. -/
def Obligations.MatrixIssue : Prop :=
  MatrixCommandsIssue ∧ MatrixChecksStopCommands

/-- R100, R112, R113, R121, R147, R148, R149, R268, R218, R217, R167: Writes of the translation, KV, service-class, fault-queue, status and priority registers. -/
def Obligations.TranslationAndClassRegisters : Prop :=
  WalkFollowsThreeLevels ∧ TranslationWritesInvalidate ∧ KvbaseWritesReloadDescriptors ∧ ClassQueueStatusAndPriorityWrites

/-- R11, R24: Power windows and thermal sensors. -/
def Obligations.PowerAndSensors : Prop :=
  PowerWindowUpdatesLevels ∧ SensorsWarnTripAndShutDown

/-- R12, R13, R14, R19: Units enter power states and wake. -/
def Obligations.PowerStates : Prop :=
  UnitsEnterPowerStatesAndWake ∧ ToleranceWritesWakeUnits

/-- R78, R79, R54, R70, R73, R51, R52, R89, R94, R46, R71, R23, R43, R57, R64, R157, R158: Writes of the control-BAR registers. -/
def Obligations.ControlRegisters : Prop :=
  LaunchQueueAndNodeRegisterWrites ∧ ControlRegisterWritesStoreTheirFields

/-- R89, R91, R44, R32, R41, R42, R40: The event ring, and the recording of memory errors. -/
def Obligations.EventsAndErrors : Prop :=
  EventRingFollowsItsRegisters ∧ MemoryErrorsAreRecorded

/-- R53, R17, R46, R47, R183, R185, R186, R187: Host window accesses, memory retirement, and the compass transitions. -/
def Obligations.WindowsRetirementAndCompass : Prop :=
  WindowAccessesReachOnChipState ∧ RetirementFollowsItsOutcome ∧ CompassTransitionTable

/-- R15, R16, R17, R95, R94, R96, R97: Boot stages, firmware commands and the function-level reset. -/
def Obligations.BootFirmwareAndReset : Prop :=
  PowerGoodRunsTheBootStages ∧ FirmwareCommandResults ∧ FunctionLevelResetClears

/-- R156, R158, R159, R84, R268, R82, R174, R175, R177, R178: Partitions: enabling, disabling, the bell and resuming. -/
def Obligations.PartitionLifecycle : Prop :=
  EnablingStartsAPartition ∧ DisablingEndsAPartition ∧ BellStopAndResume

/-- R165, R271, R166, R169, R170, R171, R172, R405, R176, R213: Cores dispatch and preempt; messages place coroutines. -/
def Obligations.CoresAndMessages : Prop :=
  CoresDispatchAndPreempt ∧ MessagesPlaceCoroutines

/-- R199, R264, R267, R201, R388, R389: Faulting stores, fault-queue posts and queued atomics. -/
def Obligations.FaultedStoresAndQueuedAtomics : Prop :=
  StoreFaultsAndFaultQueuePosts ∧ GrantsPerformQueuedAtomics

/-- R79, R80, R81, R82, R83, R86, R87: Launch and signal records are taken; launches start and are admitted. -/
def Obligations.RecordsAndAdmission : Prop :=
  RecordsAreTakenFromQueues ∧ LaunchesStartAndAreAdmitted

/-- R161, R162, R84, R173, R82: Gangs are placed, and sweeps end launches (sampled at one instant: the model's choice, log entry 36). -/
def Obligations.GangsAndTermination : Prop :=
  GangsArePlaced ∧ SweepsEndLaunches

/-- R244, R429, R420, R425, R418, R419, R248, R249, R423, R424: Matrix queues, the dome's results, rotation and swap. -/
def Obligations.DomeAndTiles : Prop :=
  MatrixQueuesFeedTheDome ∧ DomeCommandResults ∧ TilesRotateAndSwap

/-- R250, R251, R427, R428, R206, R133, R433, R411: Copy pieces move bytes; KV commands run in order. -/
def Obligations.CopyAndKvEngines : Prop :=
  CopyPiecesMoveBytes ∧ KvCommandsRunInOrder

/-- R55, R56, R58, R61, R435, R436, R60, R66: Network commands send pieces, and answers and time-outs end them. -/
def Obligations.NetworkCommands : Prop :=
  NetworkPiecesAreSent ∧ AnswersEndPieces

/-- R57-R59, R61, R436, R65, R67, R68, R69, R72: Remote pieces and packets are served; ports and time synchronisation. -/
def Obligations.RemoteServiceAndPorts : Prop :=
  RemotePiecesAreServed ∧ PacketsArePlacedOnce ∧ PortsAndTimeSynchronisation

/-- R281, R283, R9, R15, R70-R72, R78, R89, R153: Words that the spec works out decode as it says; the state after reset. -/
def Obligations.WorkedWordsAndReset : Prop :=
  WorkedWordsDecode ∧ ResetState

/-- R11, R24: Every step keeps the host's memories canonical, and instruction words leave the keep alone. -/
def Obligations.StepsKeepHostMemories : Prop :=
  StepsKeepHostMemoriesCanonical ∧ WordsLeaveTheKeep
end

