-- ==== Sys2Proof/Laws/Map.lean ====
section
/-! SUPPORT. Laws of finite maps: what a key reads after a map is set or erased at a key. -/

namespace Sys2Proof.Machine

/-- A key reads back what was set at it. -/
@[simp] theorem mget_mset_self {α : Type} (m : AMap α) (k : Nat) (v : α) : mget (mset m k v) k = some v := by
  induction m with
  | nil => simp [mset, mget]
  | cons p r ih =>
    obtain ⟨j, u⟩ := p
    by_cases h : j = k
    · simp [mset, mget, h]
    · by_cases h2 : k < j <;> simp [mset, mget, h, h2, ih]

/-- Setting a key leaves every other key alone. -/
theorem mget_mset_ne {α : Type} (m : AMap α) {k j : Nat} (v : α) (h : j ≠ k) : mget (mset m k v) j = mget m j := by
  induction m with
  | nil => simp [mset, mget, Ne.symm h]
  | cons p r ih =>
    obtain ⟨i, u⟩ := p
    by_cases h1 : i = k
    · subst h1; simp [mset, mget, Ne.symm h]
    · by_cases h2 : k < i
      · simp [mset, mget, h1, h2, Ne.symm h]
      · simp [mset, mget, h1, h2, ih]

/-- A key reads back what was set at it, whatever the default. -/
@[simp] theorem mgetD_mset_self {α : Type} (m : AMap α) (k : Nat) (v d : α) : mgetD (mset m k v) k d = v := by
  simp [mgetD]

/-- Setting a key leaves every other key alone, whatever the default. -/
theorem mgetD_mset_ne {α : Type} (m : AMap α) {k j : Nat} (v d : α) (h : j ≠ k) : mgetD (mset m k v) j d = mgetD m j d := by
  simp [mgetD, mget_mset_ne m v h]

/-- Setting a key twice is setting it once. -/
theorem mset_mset {α : Type} (m : AMap α) (k : Nat) (v w : α) : mset (mset m k v) k w = mset m k w := by
  induction m with
  | nil => simp [mset]
  | cons p r ih =>
    obtain ⟨i, u⟩ := p
    by_cases h1 : i = k
    · simp [mset, h1]
    · by_cases h2 : k < i <;> simp [mset, h1, h2, ih]

/-- An erased key reads nothing. -/
@[simp] theorem mget_merase_self {α : Type} (m : AMap α) (k : Nat) : mget (merase m k) k = none := by
  induction m with
  | nil => rfl
  | cons p r ih =>
    obtain ⟨i, u⟩ := p
    by_cases h1 : i = k
    · subst h1; simpa [merase, mget] using ih
    · have h2 : (i != k) = true := by simp [h1]
      simpa [merase, mget, h1, h2, List.filter_cons] using ih

/-- A coroutine reads back as it was put. -/
@[simp] theorem Chip.co_setCo (c : Chip) (key : Nat) (co : Coroutine) : (c.setCo key co).co key = some co := by
  simp [Chip.co, Chip.setCo]

/-- Putting a coroutine leaves every other coroutine alone. -/
theorem Chip.co_setCo_ne (c : Chip) {key j : Nat} (co : Coroutine) (h : j ≠ key) : (c.setCo key co).co j = c.co j := by
  simp [Chip.co, Chip.setCo, mget_mset_ne _ _ h]

/-- Changing a coroutine that was just put. -/
@[simp] theorem Chip.modCo_setCo (c : Chip) (key : Nat) (co : Coroutine) (f : Coroutine → Coroutine) :
    (c.setCo key co).modCo key f = c.setCo key (f co) := by
  simp [Chip.modCo, Chip.setCo, mset_mset]

/-- A changed core reads as its change. -/
@[simp] theorem Chip.core_modCore (c : Chip) (k : Nat) (f : Core → Core) : (c.modCore k f).core k = f (c.core k) := by
  simp [Chip.core, Chip.modCore]

/-- Changing a core leaves every other core alone. -/
theorem Chip.core_modCore_ne (c : Chip) {k j : Nat} (f : Core → Core) (h : j ≠ k) : (c.modCore k f).core j = c.core j := by
  simp [Chip.core, Chip.modCore, mgetD_mset_ne _ _ _ h]

/-- A changed cluster reads as its change. -/
@[simp] theorem Chip.cluster_modCluster (c : Chip) (k : Nat) (f : Cluster → Cluster) :
    (c.modCluster k f).cluster k = f (c.cluster k) := by
  simp [Chip.cluster, Chip.modCluster]

/-- Changing a cluster leaves every other cluster alone. -/
theorem Chip.cluster_modCluster_ne (c : Chip) {k j : Nat} (f : Cluster → Cluster) (h : j ≠ k) :
    (c.modCluster k f).cluster j = c.cluster j := by
  simp [Chip.cluster, Chip.modCluster, mgetD_mset_ne _ _ _ h]

/-- A changed partition reads as its change. -/
@[simp] theorem Chip.part_modPart (c : Chip) (k : Nat) (f : Partition → Partition) : (c.modPart k f).part k = f (c.part k) := by
  simp [Chip.part, Chip.modPart]

/-- Changing a spire leaves every other spire alone. -/
theorem Chip.spire_modSpire_ne (c : Chip) {k j : Nat} (f : Spire → Spire) (h : j ≠ k) : (c.modSpire k f).spire j = c.spire j := by
  simp [Chip.spire, Chip.modSpire, Vector.getD, Ne.symm h]

/-- What a change of a spire does not touch is as it was. -/
theorem Chip.spire_modSpire_field {α : Type} (c : Chip) (k j : Nat) (f : Spire → Spire) (g : Spire → α)
    (h : g (f (c.spire k)) = g (c.spire k)) : g ((c.modSpire k f).spire j) = g (c.spire j) := by
  by_cases e : j = k
  · subst e
    by_cases b : j < 4
    · rw [← h]; simp [Chip.spire, Chip.modSpire, Vector.getD, b]
    · simp [Chip.spire, Chip.modSpire, Vector.getD, b]
  · rw [Chip.spire_modSpire_ne c f e]

end Sys2Proof.Machine
end

