-- ==== Sys2Proof/Laws/State.lean ====
section
/-! SUPPORT. What each update of the chip and of a coroutine leaves alone: one lemma per field and update, by `rfl`. -/

namespace Sys2Proof.Machine

/-! ### Putting a coroutine -/

@[simp] theorem Chip.time_setCo (c : Chip) (key : Nat) (x : Coroutine) : (c.setCo key x).time = c.time := rfl
@[simp] theorem Chip.cycle_setCo (c : Chip) (key : Nat) (x : Coroutine) : (c.setCo key x).cycle = c.cycle := rfl
@[simp] theorem Chip.free_setCo (c : Chip) (key : Nat) (x : Coroutine) : (c.setCo key x).free = c.free := rfl
@[simp] theorem Chip.version_setCo (c : Chip) (key : Nat) (x : Coroutine) : (c.setCo key x).version = c.version := rfl
@[simp] theorem Chip.devhash_setCo (c : Chip) (key : Nat) (x : Coroutine) : (c.setCo key x).devhash = c.devhash := rfl
@[simp] theorem Chip.saveKey_setCo (c : Chip) (key : Nat) (x : Coroutine) : (c.setCo key x).saveKey = c.saveKey := rfl
@[simp] theorem Chip.mem_setCo (c : Chip) (key : Nat) (x : Coroutine) : (c.setCo key x).mem = c.mem := rfl
@[simp] theorem Chip.dramOld_setCo (c : Chip) (key : Nat) (x : Coroutine) : (c.setCo key x).dramOld = c.dramOld := rfl
@[simp] theorem Chip.compass_setCo (c : Chip) (key : Nat) (x : Coroutine) : (c.setCo key x).compass = c.compass := rfl
@[simp] theorem Chip.combiner_setCo (c : Chip) (key : Nat) (x : Coroutine) : (c.setCo key x).combiner = c.combiner := rfl
@[simp] theorem Chip.latent_setCo (c : Chip) (key : Nat) (x : Coroutine) : (c.setCo key x).latent = c.latent := rfl
@[simp] theorem Chip.found_setCo (c : Chip) (key : Nat) (x : Coroutine) : (c.setCo key x).found = c.found := rfl
@[simp] theorem Chip.copies_setCo (c : Chip) (key : Nat) (x : Coroutine) : (c.setCo key x).copies = c.copies := rfl
@[simp] theorem Chip.uses_setCo (c : Chip) (key : Nat) (x : Coroutine) : (c.setCo key x).uses = c.uses := rfl
@[simp] theorem Chip.retired_setCo (c : Chip) (key : Nat) (x : Coroutine) : (c.setCo key x).retired = c.retired := rfl
@[simp] theorem Chip.roots_setCo (c : Chip) (key : Nat) (x : Coroutine) : (c.setCo key x).roots = c.roots := rfl
@[simp] theorem Chip.tlb_setCo (c : Chip) (key : Nat) (x : Coroutine) : (c.setCo key x).tlb = c.tlb := rfl
@[simp] theorem Chip.svcways_setCo (c : Chip) (key : Nat) (x : Coroutine) : (c.setCo key x).svcways = c.svcways := rfl
@[simp] theorem Chip.svcbw_setCo (c : Chip) (key : Nat) (x : Coroutine) : (c.setCo key x).svcbw = c.svcbw := rfl
@[simp] theorem Chip.svcmap_setCo (c : Chip) (key : Nat) (x : Coroutine) : (c.setCo key x).svcmap = c.svcmap := rfl
@[simp] theorem Chip.kvbase_setCo (c : Chip) (key : Nat) (x : Coroutine) : (c.setCo key x).kvbase = c.kvbase := rfl
@[simp] theorem Chip.kvdesc_setCo (c : Chip) (key : Nat) (x : Coroutine) : (c.setCo key x).kvdesc = c.kvdesc := rfl
@[simp] theorem Chip.spires_setCo (c : Chip) (key : Nat) (x : Coroutine) : (c.setCo key x).spires = c.spires := rfl
@[simp] theorem Chip.clusters_setCo (c : Chip) (key : Nat) (x : Coroutine) : (c.setCo key x).clusters = c.clusters := rfl
@[simp] theorem Chip.cores_setCo (c : Chip) (key : Nat) (x : Coroutine) : (c.setCo key x).cores = c.cores := rfl
@[simp] theorem Chip.gangs_setCo (c : Chip) (key : Nat) (x : Coroutine) : (c.setCo key x).gangs = c.gangs := rfl
@[simp] theorem Chip.nextGang_setCo (c : Chip) (key : Nat) (x : Coroutine) : (c.setCo key x).nextGang = c.nextGang := rfl
@[simp] theorem Chip.parts_setCo (c : Chip) (key : Nat) (x : Coroutine) : (c.setCo key x).parts = c.parts := rfl
@[simp] theorem Chip.launches_setCo (c : Chip) (key : Nat) (x : Coroutine) : (c.setCo key x).launches = c.launches := rfl
@[simp] theorem Chip.nextLid_setCo (c : Chip) (key : Nat) (x : Coroutine) : (c.setCo key x).nextLid = c.nextLid := rfl
@[simp] theorem Chip.nextOrder_setCo (c : Chip) (key : Nat) (x : Coroutine) : (c.setCo key x).nextOrder = c.nextOrder := rfl
@[simp] theorem Chip.nextCmd_setCo (c : Chip) (key : Nat) (x : Coroutine) : (c.setCo key x).nextCmd = c.nextCmd := rfl
@[simp] theorem Chip.nextSeq_setCo (c : Chip) (key : Nat) (x : Coroutine) : (c.setCo key x).nextSeq = c.nextSeq := rfl
@[simp] theorem Chip.msgs_setCo (c : Chip) (key : Nat) (x : Coroutine) : (c.setCo key x).msgs = c.msgs := rfl
@[simp] theorem Chip.resq_setCo (c : Chip) (key : Nat) (x : Coroutine) : (c.setCo key x).resq = c.resq := rfl
@[simp] theorem Chip.links_setCo (c : Chip) (key : Nat) (x : Coroutine) : (c.setCo key x).links = c.links := rfl
@[simp] theorem Chip.clmask_setCo (c : Chip) (key : Nat) (x : Coroutine) : (c.setCo key x).clmask = c.clmask := rfl
@[simp] theorem Chip.archive_setCo (c : Chip) (key : Nat) (x : Coroutine) : (c.setCo key x).archive = c.archive := rfl
@[simp] theorem Chip.outbox_setCo (c : Chip) (key : Nat) (x : Coroutine) : (c.setCo key x).outbox = c.outbox := rfl

/-! ### Changing a core -/

@[simp] theorem Chip.time_modCore (c : Chip) (k : Nat) (f : Core → Core) : (c.modCore k f).time = c.time := rfl
@[simp] theorem Chip.cycle_modCore (c : Chip) (k : Nat) (f : Core → Core) : (c.modCore k f).cycle = c.cycle := rfl
@[simp] theorem Chip.free_modCore (c : Chip) (k : Nat) (f : Core → Core) : (c.modCore k f).free = c.free := rfl
@[simp] theorem Chip.version_modCore (c : Chip) (k : Nat) (f : Core → Core) : (c.modCore k f).version = c.version := rfl
@[simp] theorem Chip.devhash_modCore (c : Chip) (k : Nat) (f : Core → Core) : (c.modCore k f).devhash = c.devhash := rfl
@[simp] theorem Chip.saveKey_modCore (c : Chip) (k : Nat) (f : Core → Core) : (c.modCore k f).saveKey = c.saveKey := rfl
@[simp] theorem Chip.mem_modCore (c : Chip) (k : Nat) (f : Core → Core) : (c.modCore k f).mem = c.mem := rfl
@[simp] theorem Chip.dramOld_modCore (c : Chip) (k : Nat) (f : Core → Core) : (c.modCore k f).dramOld = c.dramOld := rfl
@[simp] theorem Chip.compass_modCore (c : Chip) (k : Nat) (f : Core → Core) : (c.modCore k f).compass = c.compass := rfl
@[simp] theorem Chip.combiner_modCore (c : Chip) (k : Nat) (f : Core → Core) : (c.modCore k f).combiner = c.combiner := rfl
@[simp] theorem Chip.latent_modCore (c : Chip) (k : Nat) (f : Core → Core) : (c.modCore k f).latent = c.latent := rfl
@[simp] theorem Chip.found_modCore (c : Chip) (k : Nat) (f : Core → Core) : (c.modCore k f).found = c.found := rfl
@[simp] theorem Chip.copies_modCore (c : Chip) (k : Nat) (f : Core → Core) : (c.modCore k f).copies = c.copies := rfl
@[simp] theorem Chip.uses_modCore (c : Chip) (k : Nat) (f : Core → Core) : (c.modCore k f).uses = c.uses := rfl
@[simp] theorem Chip.retired_modCore (c : Chip) (k : Nat) (f : Core → Core) : (c.modCore k f).retired = c.retired := rfl
@[simp] theorem Chip.roots_modCore (c : Chip) (k : Nat) (f : Core → Core) : (c.modCore k f).roots = c.roots := rfl
@[simp] theorem Chip.tlb_modCore (c : Chip) (k : Nat) (f : Core → Core) : (c.modCore k f).tlb = c.tlb := rfl
@[simp] theorem Chip.svcways_modCore (c : Chip) (k : Nat) (f : Core → Core) : (c.modCore k f).svcways = c.svcways := rfl
@[simp] theorem Chip.svcbw_modCore (c : Chip) (k : Nat) (f : Core → Core) : (c.modCore k f).svcbw = c.svcbw := rfl
@[simp] theorem Chip.svcmap_modCore (c : Chip) (k : Nat) (f : Core → Core) : (c.modCore k f).svcmap = c.svcmap := rfl
@[simp] theorem Chip.kvbase_modCore (c : Chip) (k : Nat) (f : Core → Core) : (c.modCore k f).kvbase = c.kvbase := rfl
@[simp] theorem Chip.kvdesc_modCore (c : Chip) (k : Nat) (f : Core → Core) : (c.modCore k f).kvdesc = c.kvdesc := rfl
@[simp] theorem Chip.spires_modCore (c : Chip) (k : Nat) (f : Core → Core) : (c.modCore k f).spires = c.spires := rfl
@[simp] theorem Chip.clusters_modCore (c : Chip) (k : Nat) (f : Core → Core) : (c.modCore k f).clusters = c.clusters := rfl
@[simp] theorem Chip.cos_modCore (c : Chip) (k : Nat) (f : Core → Core) : (c.modCore k f).cos = c.cos := rfl
@[simp] theorem Chip.gangs_modCore (c : Chip) (k : Nat) (f : Core → Core) : (c.modCore k f).gangs = c.gangs := rfl
@[simp] theorem Chip.nextGang_modCore (c : Chip) (k : Nat) (f : Core → Core) : (c.modCore k f).nextGang = c.nextGang := rfl
@[simp] theorem Chip.parts_modCore (c : Chip) (k : Nat) (f : Core → Core) : (c.modCore k f).parts = c.parts := rfl
@[simp] theorem Chip.launches_modCore (c : Chip) (k : Nat) (f : Core → Core) : (c.modCore k f).launches = c.launches := rfl
@[simp] theorem Chip.nextLid_modCore (c : Chip) (k : Nat) (f : Core → Core) : (c.modCore k f).nextLid = c.nextLid := rfl
@[simp] theorem Chip.nextOrder_modCore (c : Chip) (k : Nat) (f : Core → Core) : (c.modCore k f).nextOrder = c.nextOrder := rfl
@[simp] theorem Chip.nextCmd_modCore (c : Chip) (k : Nat) (f : Core → Core) : (c.modCore k f).nextCmd = c.nextCmd := rfl
@[simp] theorem Chip.nextSeq_modCore (c : Chip) (k : Nat) (f : Core → Core) : (c.modCore k f).nextSeq = c.nextSeq := rfl
@[simp] theorem Chip.msgs_modCore (c : Chip) (k : Nat) (f : Core → Core) : (c.modCore k f).msgs = c.msgs := rfl
@[simp] theorem Chip.resq_modCore (c : Chip) (k : Nat) (f : Core → Core) : (c.modCore k f).resq = c.resq := rfl
@[simp] theorem Chip.links_modCore (c : Chip) (k : Nat) (f : Core → Core) : (c.modCore k f).links = c.links := rfl
@[simp] theorem Chip.clmask_modCore (c : Chip) (k : Nat) (f : Core → Core) : (c.modCore k f).clmask = c.clmask := rfl
@[simp] theorem Chip.archive_modCore (c : Chip) (k : Nat) (f : Core → Core) : (c.modCore k f).archive = c.archive := rfl
@[simp] theorem Chip.outbox_modCore (c : Chip) (k : Nat) (f : Core → Core) : (c.modCore k f).outbox = c.outbox := rfl

/-! ### Changing a cluster -/

@[simp] theorem Chip.time_modCluster (c : Chip) (k : Nat) (f : Cluster → Cluster) : (c.modCluster k f).time = c.time := rfl
@[simp] theorem Chip.cycle_modCluster (c : Chip) (k : Nat) (f : Cluster → Cluster) : (c.modCluster k f).cycle = c.cycle := rfl
@[simp] theorem Chip.free_modCluster (c : Chip) (k : Nat) (f : Cluster → Cluster) : (c.modCluster k f).free = c.free := rfl
@[simp] theorem Chip.version_modCluster (c : Chip) (k : Nat) (f : Cluster → Cluster) : (c.modCluster k f).version = c.version := rfl
@[simp] theorem Chip.devhash_modCluster (c : Chip) (k : Nat) (f : Cluster → Cluster) : (c.modCluster k f).devhash = c.devhash := rfl
@[simp] theorem Chip.saveKey_modCluster (c : Chip) (k : Nat) (f : Cluster → Cluster) : (c.modCluster k f).saveKey = c.saveKey := rfl
@[simp] theorem Chip.mem_modCluster (c : Chip) (k : Nat) (f : Cluster → Cluster) : (c.modCluster k f).mem = c.mem := rfl
@[simp] theorem Chip.dramOld_modCluster (c : Chip) (k : Nat) (f : Cluster → Cluster) : (c.modCluster k f).dramOld = c.dramOld := rfl
@[simp] theorem Chip.compass_modCluster (c : Chip) (k : Nat) (f : Cluster → Cluster) : (c.modCluster k f).compass = c.compass := rfl
@[simp] theorem Chip.combiner_modCluster (c : Chip) (k : Nat) (f : Cluster → Cluster) : (c.modCluster k f).combiner = c.combiner := rfl
@[simp] theorem Chip.latent_modCluster (c : Chip) (k : Nat) (f : Cluster → Cluster) : (c.modCluster k f).latent = c.latent := rfl
@[simp] theorem Chip.found_modCluster (c : Chip) (k : Nat) (f : Cluster → Cluster) : (c.modCluster k f).found = c.found := rfl
@[simp] theorem Chip.copies_modCluster (c : Chip) (k : Nat) (f : Cluster → Cluster) : (c.modCluster k f).copies = c.copies := rfl
@[simp] theorem Chip.uses_modCluster (c : Chip) (k : Nat) (f : Cluster → Cluster) : (c.modCluster k f).uses = c.uses := rfl
@[simp] theorem Chip.retired_modCluster (c : Chip) (k : Nat) (f : Cluster → Cluster) : (c.modCluster k f).retired = c.retired := rfl
@[simp] theorem Chip.roots_modCluster (c : Chip) (k : Nat) (f : Cluster → Cluster) : (c.modCluster k f).roots = c.roots := rfl
@[simp] theorem Chip.tlb_modCluster (c : Chip) (k : Nat) (f : Cluster → Cluster) : (c.modCluster k f).tlb = c.tlb := rfl
@[simp] theorem Chip.svcways_modCluster (c : Chip) (k : Nat) (f : Cluster → Cluster) : (c.modCluster k f).svcways = c.svcways := rfl
@[simp] theorem Chip.svcbw_modCluster (c : Chip) (k : Nat) (f : Cluster → Cluster) : (c.modCluster k f).svcbw = c.svcbw := rfl
@[simp] theorem Chip.svcmap_modCluster (c : Chip) (k : Nat) (f : Cluster → Cluster) : (c.modCluster k f).svcmap = c.svcmap := rfl
@[simp] theorem Chip.kvbase_modCluster (c : Chip) (k : Nat) (f : Cluster → Cluster) : (c.modCluster k f).kvbase = c.kvbase := rfl
@[simp] theorem Chip.kvdesc_modCluster (c : Chip) (k : Nat) (f : Cluster → Cluster) : (c.modCluster k f).kvdesc = c.kvdesc := rfl
@[simp] theorem Chip.spires_modCluster (c : Chip) (k : Nat) (f : Cluster → Cluster) : (c.modCluster k f).spires = c.spires := rfl
@[simp] theorem Chip.cores_modCluster (c : Chip) (k : Nat) (f : Cluster → Cluster) : (c.modCluster k f).cores = c.cores := rfl
@[simp] theorem Chip.cos_modCluster (c : Chip) (k : Nat) (f : Cluster → Cluster) : (c.modCluster k f).cos = c.cos := rfl
@[simp] theorem Chip.gangs_modCluster (c : Chip) (k : Nat) (f : Cluster → Cluster) : (c.modCluster k f).gangs = c.gangs := rfl
@[simp] theorem Chip.nextGang_modCluster (c : Chip) (k : Nat) (f : Cluster → Cluster) : (c.modCluster k f).nextGang = c.nextGang := rfl
@[simp] theorem Chip.parts_modCluster (c : Chip) (k : Nat) (f : Cluster → Cluster) : (c.modCluster k f).parts = c.parts := rfl
@[simp] theorem Chip.launches_modCluster (c : Chip) (k : Nat) (f : Cluster → Cluster) : (c.modCluster k f).launches = c.launches := rfl
@[simp] theorem Chip.nextLid_modCluster (c : Chip) (k : Nat) (f : Cluster → Cluster) : (c.modCluster k f).nextLid = c.nextLid := rfl
@[simp] theorem Chip.nextOrder_modCluster (c : Chip) (k : Nat) (f : Cluster → Cluster) : (c.modCluster k f).nextOrder = c.nextOrder := rfl
@[simp] theorem Chip.nextCmd_modCluster (c : Chip) (k : Nat) (f : Cluster → Cluster) : (c.modCluster k f).nextCmd = c.nextCmd := rfl
@[simp] theorem Chip.nextSeq_modCluster (c : Chip) (k : Nat) (f : Cluster → Cluster) : (c.modCluster k f).nextSeq = c.nextSeq := rfl
@[simp] theorem Chip.msgs_modCluster (c : Chip) (k : Nat) (f : Cluster → Cluster) : (c.modCluster k f).msgs = c.msgs := rfl
@[simp] theorem Chip.resq_modCluster (c : Chip) (k : Nat) (f : Cluster → Cluster) : (c.modCluster k f).resq = c.resq := rfl
@[simp] theorem Chip.links_modCluster (c : Chip) (k : Nat) (f : Cluster → Cluster) : (c.modCluster k f).links = c.links := rfl
@[simp] theorem Chip.clmask_modCluster (c : Chip) (k : Nat) (f : Cluster → Cluster) : (c.modCluster k f).clmask = c.clmask := rfl
@[simp] theorem Chip.archive_modCluster (c : Chip) (k : Nat) (f : Cluster → Cluster) : (c.modCluster k f).archive = c.archive := rfl
@[simp] theorem Chip.outbox_modCluster (c : Chip) (k : Nat) (f : Cluster → Cluster) : (c.modCluster k f).outbox = c.outbox := rfl

/-! ### Changing a partition -/

@[simp] theorem Chip.time_modPart (c : Chip) (k : Nat) (f : Partition → Partition) : (c.modPart k f).time = c.time := rfl
@[simp] theorem Chip.cycle_modPart (c : Chip) (k : Nat) (f : Partition → Partition) : (c.modPart k f).cycle = c.cycle := rfl
@[simp] theorem Chip.free_modPart (c : Chip) (k : Nat) (f : Partition → Partition) : (c.modPart k f).free = c.free := rfl
@[simp] theorem Chip.version_modPart (c : Chip) (k : Nat) (f : Partition → Partition) : (c.modPart k f).version = c.version := rfl
@[simp] theorem Chip.devhash_modPart (c : Chip) (k : Nat) (f : Partition → Partition) : (c.modPart k f).devhash = c.devhash := rfl
@[simp] theorem Chip.saveKey_modPart (c : Chip) (k : Nat) (f : Partition → Partition) : (c.modPart k f).saveKey = c.saveKey := rfl
@[simp] theorem Chip.mem_modPart (c : Chip) (k : Nat) (f : Partition → Partition) : (c.modPart k f).mem = c.mem := rfl
@[simp] theorem Chip.dramOld_modPart (c : Chip) (k : Nat) (f : Partition → Partition) : (c.modPart k f).dramOld = c.dramOld := rfl
@[simp] theorem Chip.compass_modPart (c : Chip) (k : Nat) (f : Partition → Partition) : (c.modPart k f).compass = c.compass := rfl
@[simp] theorem Chip.combiner_modPart (c : Chip) (k : Nat) (f : Partition → Partition) : (c.modPart k f).combiner = c.combiner := rfl
@[simp] theorem Chip.latent_modPart (c : Chip) (k : Nat) (f : Partition → Partition) : (c.modPart k f).latent = c.latent := rfl
@[simp] theorem Chip.found_modPart (c : Chip) (k : Nat) (f : Partition → Partition) : (c.modPart k f).found = c.found := rfl
@[simp] theorem Chip.copies_modPart (c : Chip) (k : Nat) (f : Partition → Partition) : (c.modPart k f).copies = c.copies := rfl
@[simp] theorem Chip.uses_modPart (c : Chip) (k : Nat) (f : Partition → Partition) : (c.modPart k f).uses = c.uses := rfl
@[simp] theorem Chip.retired_modPart (c : Chip) (k : Nat) (f : Partition → Partition) : (c.modPart k f).retired = c.retired := rfl
@[simp] theorem Chip.roots_modPart (c : Chip) (k : Nat) (f : Partition → Partition) : (c.modPart k f).roots = c.roots := rfl
@[simp] theorem Chip.tlb_modPart (c : Chip) (k : Nat) (f : Partition → Partition) : (c.modPart k f).tlb = c.tlb := rfl
@[simp] theorem Chip.svcways_modPart (c : Chip) (k : Nat) (f : Partition → Partition) : (c.modPart k f).svcways = c.svcways := rfl
@[simp] theorem Chip.svcbw_modPart (c : Chip) (k : Nat) (f : Partition → Partition) : (c.modPart k f).svcbw = c.svcbw := rfl
@[simp] theorem Chip.svcmap_modPart (c : Chip) (k : Nat) (f : Partition → Partition) : (c.modPart k f).svcmap = c.svcmap := rfl
@[simp] theorem Chip.kvbase_modPart (c : Chip) (k : Nat) (f : Partition → Partition) : (c.modPart k f).kvbase = c.kvbase := rfl
@[simp] theorem Chip.kvdesc_modPart (c : Chip) (k : Nat) (f : Partition → Partition) : (c.modPart k f).kvdesc = c.kvdesc := rfl
@[simp] theorem Chip.spires_modPart (c : Chip) (k : Nat) (f : Partition → Partition) : (c.modPart k f).spires = c.spires := rfl
@[simp] theorem Chip.clusters_modPart (c : Chip) (k : Nat) (f : Partition → Partition) : (c.modPart k f).clusters = c.clusters := rfl
@[simp] theorem Chip.cores_modPart (c : Chip) (k : Nat) (f : Partition → Partition) : (c.modPart k f).cores = c.cores := rfl
@[simp] theorem Chip.cos_modPart (c : Chip) (k : Nat) (f : Partition → Partition) : (c.modPart k f).cos = c.cos := rfl
@[simp] theorem Chip.gangs_modPart (c : Chip) (k : Nat) (f : Partition → Partition) : (c.modPart k f).gangs = c.gangs := rfl
@[simp] theorem Chip.nextGang_modPart (c : Chip) (k : Nat) (f : Partition → Partition) : (c.modPart k f).nextGang = c.nextGang := rfl
@[simp] theorem Chip.launches_modPart (c : Chip) (k : Nat) (f : Partition → Partition) : (c.modPart k f).launches = c.launches := rfl
@[simp] theorem Chip.nextLid_modPart (c : Chip) (k : Nat) (f : Partition → Partition) : (c.modPart k f).nextLid = c.nextLid := rfl
@[simp] theorem Chip.nextOrder_modPart (c : Chip) (k : Nat) (f : Partition → Partition) : (c.modPart k f).nextOrder = c.nextOrder := rfl
@[simp] theorem Chip.nextCmd_modPart (c : Chip) (k : Nat) (f : Partition → Partition) : (c.modPart k f).nextCmd = c.nextCmd := rfl
@[simp] theorem Chip.nextSeq_modPart (c : Chip) (k : Nat) (f : Partition → Partition) : (c.modPart k f).nextSeq = c.nextSeq := rfl
@[simp] theorem Chip.msgs_modPart (c : Chip) (k : Nat) (f : Partition → Partition) : (c.modPart k f).msgs = c.msgs := rfl
@[simp] theorem Chip.resq_modPart (c : Chip) (k : Nat) (f : Partition → Partition) : (c.modPart k f).resq = c.resq := rfl
@[simp] theorem Chip.links_modPart (c : Chip) (k : Nat) (f : Partition → Partition) : (c.modPart k f).links = c.links := rfl
@[simp] theorem Chip.clmask_modPart (c : Chip) (k : Nat) (f : Partition → Partition) : (c.modPart k f).clmask = c.clmask := rfl
@[simp] theorem Chip.archive_modPart (c : Chip) (k : Nat) (f : Partition → Partition) : (c.modPart k f).archive = c.archive := rfl
@[simp] theorem Chip.outbox_modPart (c : Chip) (k : Nat) (f : Partition → Partition) : (c.modPart k f).outbox = c.outbox := rfl

/-! ### Changing a spire -/

@[simp] theorem Chip.time_modSpire (c : Chip) (d : Nat) (f : Spire → Spire) : (c.modSpire d f).time = c.time := rfl
@[simp] theorem Chip.cycle_modSpire (c : Chip) (d : Nat) (f : Spire → Spire) : (c.modSpire d f).cycle = c.cycle := rfl
@[simp] theorem Chip.free_modSpire (c : Chip) (d : Nat) (f : Spire → Spire) : (c.modSpire d f).free = c.free := rfl
@[simp] theorem Chip.version_modSpire (c : Chip) (d : Nat) (f : Spire → Spire) : (c.modSpire d f).version = c.version := rfl
@[simp] theorem Chip.devhash_modSpire (c : Chip) (d : Nat) (f : Spire → Spire) : (c.modSpire d f).devhash = c.devhash := rfl
@[simp] theorem Chip.saveKey_modSpire (c : Chip) (d : Nat) (f : Spire → Spire) : (c.modSpire d f).saveKey = c.saveKey := rfl
@[simp] theorem Chip.mem_modSpire (c : Chip) (d : Nat) (f : Spire → Spire) : (c.modSpire d f).mem = c.mem := rfl
@[simp] theorem Chip.dramOld_modSpire (c : Chip) (d : Nat) (f : Spire → Spire) : (c.modSpire d f).dramOld = c.dramOld := rfl
@[simp] theorem Chip.compass_modSpire (c : Chip) (d : Nat) (f : Spire → Spire) : (c.modSpire d f).compass = c.compass := rfl
@[simp] theorem Chip.combiner_modSpire (c : Chip) (d : Nat) (f : Spire → Spire) : (c.modSpire d f).combiner = c.combiner := rfl
@[simp] theorem Chip.latent_modSpire (c : Chip) (d : Nat) (f : Spire → Spire) : (c.modSpire d f).latent = c.latent := rfl
@[simp] theorem Chip.found_modSpire (c : Chip) (d : Nat) (f : Spire → Spire) : (c.modSpire d f).found = c.found := rfl
@[simp] theorem Chip.copies_modSpire (c : Chip) (d : Nat) (f : Spire → Spire) : (c.modSpire d f).copies = c.copies := rfl
@[simp] theorem Chip.uses_modSpire (c : Chip) (d : Nat) (f : Spire → Spire) : (c.modSpire d f).uses = c.uses := rfl
@[simp] theorem Chip.retired_modSpire (c : Chip) (d : Nat) (f : Spire → Spire) : (c.modSpire d f).retired = c.retired := rfl
@[simp] theorem Chip.roots_modSpire (c : Chip) (d : Nat) (f : Spire → Spire) : (c.modSpire d f).roots = c.roots := rfl
@[simp] theorem Chip.tlb_modSpire (c : Chip) (d : Nat) (f : Spire → Spire) : (c.modSpire d f).tlb = c.tlb := rfl
@[simp] theorem Chip.svcways_modSpire (c : Chip) (d : Nat) (f : Spire → Spire) : (c.modSpire d f).svcways = c.svcways := rfl
@[simp] theorem Chip.svcbw_modSpire (c : Chip) (d : Nat) (f : Spire → Spire) : (c.modSpire d f).svcbw = c.svcbw := rfl
@[simp] theorem Chip.svcmap_modSpire (c : Chip) (d : Nat) (f : Spire → Spire) : (c.modSpire d f).svcmap = c.svcmap := rfl
@[simp] theorem Chip.kvbase_modSpire (c : Chip) (d : Nat) (f : Spire → Spire) : (c.modSpire d f).kvbase = c.kvbase := rfl
@[simp] theorem Chip.kvdesc_modSpire (c : Chip) (d : Nat) (f : Spire → Spire) : (c.modSpire d f).kvdesc = c.kvdesc := rfl
@[simp] theorem Chip.clusters_modSpire (c : Chip) (d : Nat) (f : Spire → Spire) : (c.modSpire d f).clusters = c.clusters := rfl
@[simp] theorem Chip.cores_modSpire (c : Chip) (d : Nat) (f : Spire → Spire) : (c.modSpire d f).cores = c.cores := rfl
@[simp] theorem Chip.cos_modSpire (c : Chip) (d : Nat) (f : Spire → Spire) : (c.modSpire d f).cos = c.cos := rfl
@[simp] theorem Chip.gangs_modSpire (c : Chip) (d : Nat) (f : Spire → Spire) : (c.modSpire d f).gangs = c.gangs := rfl
@[simp] theorem Chip.nextGang_modSpire (c : Chip) (d : Nat) (f : Spire → Spire) : (c.modSpire d f).nextGang = c.nextGang := rfl
@[simp] theorem Chip.parts_modSpire (c : Chip) (d : Nat) (f : Spire → Spire) : (c.modSpire d f).parts = c.parts := rfl
@[simp] theorem Chip.launches_modSpire (c : Chip) (d : Nat) (f : Spire → Spire) : (c.modSpire d f).launches = c.launches := rfl
@[simp] theorem Chip.nextLid_modSpire (c : Chip) (d : Nat) (f : Spire → Spire) : (c.modSpire d f).nextLid = c.nextLid := rfl
@[simp] theorem Chip.nextOrder_modSpire (c : Chip) (d : Nat) (f : Spire → Spire) : (c.modSpire d f).nextOrder = c.nextOrder := rfl
@[simp] theorem Chip.nextCmd_modSpire (c : Chip) (d : Nat) (f : Spire → Spire) : (c.modSpire d f).nextCmd = c.nextCmd := rfl
@[simp] theorem Chip.nextSeq_modSpire (c : Chip) (d : Nat) (f : Spire → Spire) : (c.modSpire d f).nextSeq = c.nextSeq := rfl
@[simp] theorem Chip.msgs_modSpire (c : Chip) (d : Nat) (f : Spire → Spire) : (c.modSpire d f).msgs = c.msgs := rfl
@[simp] theorem Chip.resq_modSpire (c : Chip) (d : Nat) (f : Spire → Spire) : (c.modSpire d f).resq = c.resq := rfl
@[simp] theorem Chip.links_modSpire (c : Chip) (d : Nat) (f : Spire → Spire) : (c.modSpire d f).links = c.links := rfl
@[simp] theorem Chip.clmask_modSpire (c : Chip) (d : Nat) (f : Spire → Spire) : (c.modSpire d f).clmask = c.clmask := rfl
@[simp] theorem Chip.archive_modSpire (c : Chip) (d : Nat) (f : Spire → Spire) : (c.modSpire d f).archive = c.archive := rfl
@[simp] theorem Chip.outbox_modSpire (c : Chip) (d : Nat) (f : Spire → Spire) : (c.modSpire d f).outbox = c.outbox := rfl

/-! ### Posting an event -/

@[simp] theorem Chip.time_post (c : Chip) (e : PEvent) : (c.post e).time = c.time := rfl
@[simp] theorem Chip.cycle_post (c : Chip) (e : PEvent) : (c.post e).cycle = c.cycle := rfl
@[simp] theorem Chip.free_post (c : Chip) (e : PEvent) : (c.post e).free = c.free := rfl
@[simp] theorem Chip.version_post (c : Chip) (e : PEvent) : (c.post e).version = c.version := rfl
@[simp] theorem Chip.devhash_post (c : Chip) (e : PEvent) : (c.post e).devhash = c.devhash := rfl
@[simp] theorem Chip.saveKey_post (c : Chip) (e : PEvent) : (c.post e).saveKey = c.saveKey := rfl
@[simp] theorem Chip.mem_post (c : Chip) (e : PEvent) : (c.post e).mem = c.mem := rfl
@[simp] theorem Chip.dramOld_post (c : Chip) (e : PEvent) : (c.post e).dramOld = c.dramOld := rfl
@[simp] theorem Chip.compass_post (c : Chip) (e : PEvent) : (c.post e).compass = c.compass := rfl
@[simp] theorem Chip.combiner_post (c : Chip) (e : PEvent) : (c.post e).combiner = c.combiner := rfl
@[simp] theorem Chip.latent_post (c : Chip) (e : PEvent) : (c.post e).latent = c.latent := rfl
@[simp] theorem Chip.found_post (c : Chip) (e : PEvent) : (c.post e).found = c.found := rfl
@[simp] theorem Chip.copies_post (c : Chip) (e : PEvent) : (c.post e).copies = c.copies := rfl
@[simp] theorem Chip.uses_post (c : Chip) (e : PEvent) : (c.post e).uses = c.uses := rfl
@[simp] theorem Chip.retired_post (c : Chip) (e : PEvent) : (c.post e).retired = c.retired := rfl
@[simp] theorem Chip.roots_post (c : Chip) (e : PEvent) : (c.post e).roots = c.roots := rfl
@[simp] theorem Chip.tlb_post (c : Chip) (e : PEvent) : (c.post e).tlb = c.tlb := rfl
@[simp] theorem Chip.svcways_post (c : Chip) (e : PEvent) : (c.post e).svcways = c.svcways := rfl
@[simp] theorem Chip.svcbw_post (c : Chip) (e : PEvent) : (c.post e).svcbw = c.svcbw := rfl
@[simp] theorem Chip.svcmap_post (c : Chip) (e : PEvent) : (c.post e).svcmap = c.svcmap := rfl
@[simp] theorem Chip.kvbase_post (c : Chip) (e : PEvent) : (c.post e).kvbase = c.kvbase := rfl
@[simp] theorem Chip.kvdesc_post (c : Chip) (e : PEvent) : (c.post e).kvdesc = c.kvdesc := rfl
@[simp] theorem Chip.spires_post (c : Chip) (e : PEvent) : (c.post e).spires = c.spires := rfl
@[simp] theorem Chip.clusters_post (c : Chip) (e : PEvent) : (c.post e).clusters = c.clusters := rfl
@[simp] theorem Chip.cores_post (c : Chip) (e : PEvent) : (c.post e).cores = c.cores := rfl
@[simp] theorem Chip.cos_post (c : Chip) (e : PEvent) : (c.post e).cos = c.cos := rfl
@[simp] theorem Chip.gangs_post (c : Chip) (e : PEvent) : (c.post e).gangs = c.gangs := rfl
@[simp] theorem Chip.nextGang_post (c : Chip) (e : PEvent) : (c.post e).nextGang = c.nextGang := rfl
@[simp] theorem Chip.parts_post (c : Chip) (e : PEvent) : (c.post e).parts = c.parts := rfl
@[simp] theorem Chip.launches_post (c : Chip) (e : PEvent) : (c.post e).launches = c.launches := rfl
@[simp] theorem Chip.nextLid_post (c : Chip) (e : PEvent) : (c.post e).nextLid = c.nextLid := rfl
@[simp] theorem Chip.nextOrder_post (c : Chip) (e : PEvent) : (c.post e).nextOrder = c.nextOrder := rfl
@[simp] theorem Chip.nextCmd_post (c : Chip) (e : PEvent) : (c.post e).nextCmd = c.nextCmd := rfl
@[simp] theorem Chip.nextSeq_post (c : Chip) (e : PEvent) : (c.post e).nextSeq = c.nextSeq := rfl
@[simp] theorem Chip.msgs_post (c : Chip) (e : PEvent) : (c.post e).msgs = c.msgs := rfl
@[simp] theorem Chip.resq_post (c : Chip) (e : PEvent) : (c.post e).resq = c.resq := rfl
@[simp] theorem Chip.links_post (c : Chip) (e : PEvent) : (c.post e).links = c.links := rfl
@[simp] theorem Chip.clmask_post (c : Chip) (e : PEvent) : (c.post e).clmask = c.clmask := rfl
@[simp] theorem Chip.archive_post (c : Chip) (e : PEvent) : (c.post e).archive = c.archive := rfl

/-! ### Moving past an instruction -/

@[simp] theorem Coroutine.state_advance (co : Coroutine)  : (co.advance ).state = co.state := rfl
@[simp] theorem Coroutine.prior_advance (co : Coroutine)  : (co.advance ).prior = co.prior := rfl
@[simp] theorem Coroutine.wait_advance (co : Coroutine)  : (co.advance ).wait = co.wait := rfl
@[simp] theorem Coroutine.sup_advance (co : Coroutine)  : (co.advance ).sup = co.sup := rfl
@[simp] theorem Coroutine.fetchAsid_advance (co : Coroutine)  : (co.advance ).fetchAsid = co.fetchAsid := rfl
@[simp] theorem Coroutine.x_advance (co : Coroutine)  : (co.advance ).x = co.x := rfl
@[simp] theorem Coroutine.v_advance (co : Coroutine)  : (co.advance ).v = co.v := rfl
@[simp] theorem Coroutine.m_advance (co : Coroutine)  : (co.advance ).m = co.m := rfl
@[simp] theorem Coroutine.k_advance (co : Coroutine)  : (co.advance ).k = co.k := rfl
@[simp] theorem Coroutine.q_advance (co : Coroutine)  : (co.advance ).q = co.q := rfl
@[simp] theorem Coroutine.topk_advance (co : Coroutine)  : (co.advance ).topk = co.topk := rfl
@[simp] theorem Coroutine.pp_advance (co : Coroutine)  : (co.advance ).pp = co.pp := rfl
@[simp] theorem Coroutine.su_advance (co : Coroutine)  : (co.advance ).su = co.su := rfl
@[simp] theorem Coroutine.mu_advance (co : Coroutine)  : (co.advance ).mu = co.mu := rfl
@[simp] theorem Coroutine.qu_advance (co : Coroutine)  : (co.advance ).qu = co.qu := rfl
@[simp] theorem Coroutine.ku_advance (co : Coroutine)  : (co.advance ).ku = co.ku := rfl
@[simp] theorem Coroutine.inl_advance (co : Coroutine)  : (co.advance ).inl = co.inl := rfl
@[simp] theorem Coroutine.pfx_advance (co : Coroutine)  : (co.advance ).pfx = co.pfx := rfl
@[simp] theorem Coroutine.vl_advance (co : Coroutine)  : (co.advance ).vl = co.vl := rfl
@[simp] theorem Coroutine.vstart_advance (co : Coroutine)  : (co.advance ).vstart = co.vstart := rfl
@[simp] theorem Coroutine.vtype_advance (co : Coroutine)  : (co.advance ).vtype = co.vtype := rfl
@[simp] theorem Coroutine.live_advance (co : Coroutine)  : (co.advance ).live = co.live := rfl
@[simp] theorem Coroutine.dlive_advance (co : Coroutine)  : (co.advance ).dlive = co.dlive := rfl
@[simp] theorem Coroutine.ropecfg_advance (co : Coroutine)  : (co.advance ).ropecfg = co.ropecfg := rfl
@[simp] theorem Coroutine.mshape_advance (co : Coroutine)  : (co.advance ).mshape = co.mshape := rfl
@[simp] theorem Coroutine.quantum_advance (co : Coroutine)  : (co.advance ).quantum = co.quantum := rfl
@[simp] theorem Coroutine.level_advance (co : Coroutine)  : (co.advance ).level = co.level := rfl
@[simp] theorem Coroutine.ceil_advance (co : Coroutine)  : (co.advance ).ceil = co.ceil := rfl
@[simp] theorem Coroutine.fflags_advance (co : Coroutine)  : (co.advance ).fflags = co.fflags := rfl
@[simp] theorem Coroutine.frm_advance (co : Coroutine)  : (co.advance ).frm = co.frm := rfl
@[simp] theorem Coroutine.asid_advance (co : Coroutine)  : (co.advance ).asid = co.asid := rfl
@[simp] theorem Coroutine.asidSel_advance (co : Coroutine)  : (co.advance ).asidSel = co.asidSel := rfl
@[simp] theorem Coroutine.svcsel_advance (co : Coroutine)  : (co.advance ).svcsel = co.svcsel := rfl
@[simp] theorem Coroutine.topkn_advance (co : Coroutine)  : (co.advance ).topkn = co.topkn := rfl
@[simp] theorem Coroutine.rtime_advance (co : Coroutine)  : (co.advance ).rtime = co.rtime := rfl
@[simp] theorem Coroutine.estepEl_advance (co : Coroutine)  : (co.advance ).estepEl = co.estepEl := rfl
@[simp] theorem Coroutine.estepIs_advance (co : Coroutine)  : (co.advance ).estepIs = co.estepIs := rfl
@[simp] theorem Coroutine.epc_advance (co : Coroutine)  : (co.advance ).epc = co.epc := rfl
@[simp] theorem Coroutine.cause_advance (co : Coroutine)  : (co.advance ).cause = co.cause := rfl
@[simp] theorem Coroutine.faddr_advance (co : Coroutine)  : (co.advance ).faddr = co.faddr := rfl
@[simp] theorem Coroutine.finfo_advance (co : Coroutine)  : (co.advance ).finfo = co.finfo := rfl
@[simp] theorem Coroutine.hact_advance (co : Coroutine)  : (co.advance ).hact = co.hact := rfl
@[simp] theorem Coroutine.nobk_advance (co : Coroutine)  : (co.advance ).nobk = co.nobk := rfl
@[simp] theorem Coroutine.trapped_advance (co : Coroutine)  : (co.advance ).trapped = co.trapped := rfl
@[simp] theorem Coroutine.token_advance (co : Coroutine)  : (co.advance ).token = co.token := rfl
@[simp] theorem Coroutine.posx_advance (co : Coroutine)  : (co.advance ).posx = co.posx := rfl
@[simp] theorem Coroutine.vpc_advance (co : Coroutine)  : (co.advance ).vpc = co.vpc := rfl
@[simp] theorem Coroutine.pend_advance (co : Coroutine)  : (co.advance ).pend = co.pend := rfl
@[simp] theorem Coroutine.block_advance (co : Coroutine)  : (co.advance ).block = co.block := rfl
@[simp] theorem Coroutine.resv_advance (co : Coroutine)  : (co.advance ).resv = co.resv := rfl
@[simp] theorem Coroutine.fresh_advance (co : Coroutine)  : (co.advance ).fresh = co.fresh := rfl
@[simp] theorem Coroutine.due_advance (co : Coroutine)  : (co.advance ).due = co.due := rfl
@[simp] theorem Coroutine.again_advance (co : Coroutine)  : (co.advance ).again = co.again := rfl
@[simp] theorem Coroutine.evicted_advance (co : Coroutine)  : (co.advance ).evicted = co.evicted := rfl
@[simp] theorem Coroutine.left_advance (co : Coroutine)  : (co.advance ).left = co.left := rfl
@[simp] theorem Coroutine.recWord_advance (co : Coroutine)  : (co.advance ).recWord = co.recWord := rfl
@[simp] theorem Coroutine.remote_advance (co : Coroutine)  : (co.advance ).remote = co.remote := rfl
@[simp] theorem Coroutine.lid_advance (co : Coroutine)  : (co.advance ).lid = co.lid := rfl
@[simp] theorem Coroutine.gid_advance (co : Coroutine)  : (co.advance ).gid = co.gid := rfl
@[simp] theorem Coroutine.gsize_advance (co : Coroutine)  : (co.advance ).gsize = co.gsize := rfl
@[simp] theorem Coroutine.grank_advance (co : Coroutine)  : (co.advance ).grank = co.grank := rfl
@[simp] theorem Coroutine.gang_advance (co : Coroutine)  : (co.advance ).gang = co.gang := rfl
@[simp] theorem Coroutine.tbase_advance (co : Coroutine)  : (co.advance ).tbase = co.tbase := rfl
@[simp] theorem Coroutine.tcount_advance (co : Coroutine)  : (co.advance ).tcount = co.tcount := rfl
@[simp] theorem Coroutine.abase_advance (co : Coroutine)  : (co.advance ).abase = co.abase := rfl
@[simp] theorem Coroutine.acount_advance (co : Coroutine)  : (co.advance ).acount = co.acount := rfl

/-! ### Raising flags -/

@[simp] theorem Coroutine.state_raise (co : Coroutine) (f : Flags) : (co.raise f).state = co.state := rfl
@[simp] theorem Coroutine.prior_raise (co : Coroutine) (f : Flags) : (co.raise f).prior = co.prior := rfl
@[simp] theorem Coroutine.wait_raise (co : Coroutine) (f : Flags) : (co.raise f).wait = co.wait := rfl
@[simp] theorem Coroutine.sup_raise (co : Coroutine) (f : Flags) : (co.raise f).sup = co.sup := rfl
@[simp] theorem Coroutine.pc_raise (co : Coroutine) (f : Flags) : (co.raise f).pc = co.pc := rfl
@[simp] theorem Coroutine.fetchAsid_raise (co : Coroutine) (f : Flags) : (co.raise f).fetchAsid = co.fetchAsid := rfl
@[simp] theorem Coroutine.x_raise (co : Coroutine) (f : Flags) : (co.raise f).x = co.x := rfl
@[simp] theorem Coroutine.v_raise (co : Coroutine) (f : Flags) : (co.raise f).v = co.v := rfl
@[simp] theorem Coroutine.m_raise (co : Coroutine) (f : Flags) : (co.raise f).m = co.m := rfl
@[simp] theorem Coroutine.k_raise (co : Coroutine) (f : Flags) : (co.raise f).k = co.k := rfl
@[simp] theorem Coroutine.q_raise (co : Coroutine) (f : Flags) : (co.raise f).q = co.q := rfl
@[simp] theorem Coroutine.topk_raise (co : Coroutine) (f : Flags) : (co.raise f).topk = co.topk := rfl
@[simp] theorem Coroutine.pp_raise (co : Coroutine) (f : Flags) : (co.raise f).pp = co.pp := rfl
@[simp] theorem Coroutine.su_raise (co : Coroutine) (f : Flags) : (co.raise f).su = co.su := rfl
@[simp] theorem Coroutine.mu_raise (co : Coroutine) (f : Flags) : (co.raise f).mu = co.mu := rfl
@[simp] theorem Coroutine.qu_raise (co : Coroutine) (f : Flags) : (co.raise f).qu = co.qu := rfl
@[simp] theorem Coroutine.ku_raise (co : Coroutine) (f : Flags) : (co.raise f).ku = co.ku := rfl
@[simp] theorem Coroutine.inl_raise (co : Coroutine) (f : Flags) : (co.raise f).inl = co.inl := rfl
@[simp] theorem Coroutine.pfx_raise (co : Coroutine) (f : Flags) : (co.raise f).pfx = co.pfx := rfl
@[simp] theorem Coroutine.vl_raise (co : Coroutine) (f : Flags) : (co.raise f).vl = co.vl := rfl
@[simp] theorem Coroutine.vstart_raise (co : Coroutine) (f : Flags) : (co.raise f).vstart = co.vstart := rfl
@[simp] theorem Coroutine.vtype_raise (co : Coroutine) (f : Flags) : (co.raise f).vtype = co.vtype := rfl
@[simp] theorem Coroutine.live_raise (co : Coroutine) (f : Flags) : (co.raise f).live = co.live := rfl
@[simp] theorem Coroutine.dlive_raise (co : Coroutine) (f : Flags) : (co.raise f).dlive = co.dlive := rfl
@[simp] theorem Coroutine.ropecfg_raise (co : Coroutine) (f : Flags) : (co.raise f).ropecfg = co.ropecfg := rfl
@[simp] theorem Coroutine.mshape_raise (co : Coroutine) (f : Flags) : (co.raise f).mshape = co.mshape := rfl
@[simp] theorem Coroutine.quantum_raise (co : Coroutine) (f : Flags) : (co.raise f).quantum = co.quantum := rfl
@[simp] theorem Coroutine.level_raise (co : Coroutine) (f : Flags) : (co.raise f).level = co.level := rfl
@[simp] theorem Coroutine.ceil_raise (co : Coroutine) (f : Flags) : (co.raise f).ceil = co.ceil := rfl
@[simp] theorem Coroutine.frm_raise (co : Coroutine) (f : Flags) : (co.raise f).frm = co.frm := rfl
@[simp] theorem Coroutine.asid_raise (co : Coroutine) (f : Flags) : (co.raise f).asid = co.asid := rfl
@[simp] theorem Coroutine.asidSel_raise (co : Coroutine) (f : Flags) : (co.raise f).asidSel = co.asidSel := rfl
@[simp] theorem Coroutine.svcsel_raise (co : Coroutine) (f : Flags) : (co.raise f).svcsel = co.svcsel := rfl
@[simp] theorem Coroutine.topkn_raise (co : Coroutine) (f : Flags) : (co.raise f).topkn = co.topkn := rfl
@[simp] theorem Coroutine.rtime_raise (co : Coroutine) (f : Flags) : (co.raise f).rtime = co.rtime := rfl
@[simp] theorem Coroutine.estepEl_raise (co : Coroutine) (f : Flags) : (co.raise f).estepEl = co.estepEl := rfl
@[simp] theorem Coroutine.estepIs_raise (co : Coroutine) (f : Flags) : (co.raise f).estepIs = co.estepIs := rfl
@[simp] theorem Coroutine.epc_raise (co : Coroutine) (f : Flags) : (co.raise f).epc = co.epc := rfl
@[simp] theorem Coroutine.cause_raise (co : Coroutine) (f : Flags) : (co.raise f).cause = co.cause := rfl
@[simp] theorem Coroutine.faddr_raise (co : Coroutine) (f : Flags) : (co.raise f).faddr = co.faddr := rfl
@[simp] theorem Coroutine.finfo_raise (co : Coroutine) (f : Flags) : (co.raise f).finfo = co.finfo := rfl
@[simp] theorem Coroutine.hact_raise (co : Coroutine) (f : Flags) : (co.raise f).hact = co.hact := rfl
@[simp] theorem Coroutine.nobk_raise (co : Coroutine) (f : Flags) : (co.raise f).nobk = co.nobk := rfl
@[simp] theorem Coroutine.trapped_raise (co : Coroutine) (f : Flags) : (co.raise f).trapped = co.trapped := rfl
@[simp] theorem Coroutine.token_raise (co : Coroutine) (f : Flags) : (co.raise f).token = co.token := rfl
@[simp] theorem Coroutine.posx_raise (co : Coroutine) (f : Flags) : (co.raise f).posx = co.posx := rfl
@[simp] theorem Coroutine.vpc_raise (co : Coroutine) (f : Flags) : (co.raise f).vpc = co.vpc := rfl
@[simp] theorem Coroutine.pend_raise (co : Coroutine) (f : Flags) : (co.raise f).pend = co.pend := rfl
@[simp] theorem Coroutine.block_raise (co : Coroutine) (f : Flags) : (co.raise f).block = co.block := rfl
@[simp] theorem Coroutine.resv_raise (co : Coroutine) (f : Flags) : (co.raise f).resv = co.resv := rfl
@[simp] theorem Coroutine.fresh_raise (co : Coroutine) (f : Flags) : (co.raise f).fresh = co.fresh := rfl
@[simp] theorem Coroutine.due_raise (co : Coroutine) (f : Flags) : (co.raise f).due = co.due := rfl
@[simp] theorem Coroutine.again_raise (co : Coroutine) (f : Flags) : (co.raise f).again = co.again := rfl
@[simp] theorem Coroutine.evicted_raise (co : Coroutine) (f : Flags) : (co.raise f).evicted = co.evicted := rfl
@[simp] theorem Coroutine.left_raise (co : Coroutine) (f : Flags) : (co.raise f).left = co.left := rfl
@[simp] theorem Coroutine.recWord_raise (co : Coroutine) (f : Flags) : (co.raise f).recWord = co.recWord := rfl
@[simp] theorem Coroutine.remote_raise (co : Coroutine) (f : Flags) : (co.raise f).remote = co.remote := rfl
@[simp] theorem Coroutine.lid_raise (co : Coroutine) (f : Flags) : (co.raise f).lid = co.lid := rfl
@[simp] theorem Coroutine.gid_raise (co : Coroutine) (f : Flags) : (co.raise f).gid = co.gid := rfl
@[simp] theorem Coroutine.gsize_raise (co : Coroutine) (f : Flags) : (co.raise f).gsize = co.gsize := rfl
@[simp] theorem Coroutine.grank_raise (co : Coroutine) (f : Flags) : (co.raise f).grank = co.grank := rfl
@[simp] theorem Coroutine.gang_raise (co : Coroutine) (f : Flags) : (co.raise f).gang = co.gang := rfl
@[simp] theorem Coroutine.tbase_raise (co : Coroutine) (f : Flags) : (co.raise f).tbase = co.tbase := rfl
@[simp] theorem Coroutine.tcount_raise (co : Coroutine) (f : Flags) : (co.raise f).tcount = co.tcount := rfl
@[simp] theorem Coroutine.abase_raise (co : Coroutine) (f : Flags) : (co.raise f).abase = co.abase := rfl
@[simp] theorem Coroutine.acount_raise (co : Coroutine) (f : Flags) : (co.raise f).acount = co.acount := rfl

/-! ### Writing a vector register -/

@[simp] theorem Coroutine.state_setV (co : Coroutine) (r : BitVec 5) (v : VReg) : (co.setV r v).state = co.state := rfl
@[simp] theorem Coroutine.prior_setV (co : Coroutine) (r : BitVec 5) (v : VReg) : (co.setV r v).prior = co.prior := rfl
@[simp] theorem Coroutine.wait_setV (co : Coroutine) (r : BitVec 5) (v : VReg) : (co.setV r v).wait = co.wait := rfl
@[simp] theorem Coroutine.sup_setV (co : Coroutine) (r : BitVec 5) (v : VReg) : (co.setV r v).sup = co.sup := rfl
@[simp] theorem Coroutine.pc_setV (co : Coroutine) (r : BitVec 5) (v : VReg) : (co.setV r v).pc = co.pc := rfl
@[simp] theorem Coroutine.fetchAsid_setV (co : Coroutine) (r : BitVec 5) (v : VReg) : (co.setV r v).fetchAsid = co.fetchAsid := rfl
@[simp] theorem Coroutine.x_setV (co : Coroutine) (r : BitVec 5) (v : VReg) : (co.setV r v).x = co.x := rfl
@[simp] theorem Coroutine.m_setV (co : Coroutine) (r : BitVec 5) (v : VReg) : (co.setV r v).m = co.m := rfl
@[simp] theorem Coroutine.k_setV (co : Coroutine) (r : BitVec 5) (v : VReg) : (co.setV r v).k = co.k := rfl
@[simp] theorem Coroutine.q_setV (co : Coroutine) (r : BitVec 5) (v : VReg) : (co.setV r v).q = co.q := rfl
@[simp] theorem Coroutine.topk_setV (co : Coroutine) (r : BitVec 5) (v : VReg) : (co.setV r v).topk = co.topk := rfl
@[simp] theorem Coroutine.pp_setV (co : Coroutine) (r : BitVec 5) (v : VReg) : (co.setV r v).pp = co.pp := rfl
@[simp] theorem Coroutine.su_setV (co : Coroutine) (r : BitVec 5) (v : VReg) : (co.setV r v).su = co.su := rfl
@[simp] theorem Coroutine.mu_setV (co : Coroutine) (r : BitVec 5) (v : VReg) : (co.setV r v).mu = co.mu := rfl
@[simp] theorem Coroutine.qu_setV (co : Coroutine) (r : BitVec 5) (v : VReg) : (co.setV r v).qu = co.qu := rfl
@[simp] theorem Coroutine.ku_setV (co : Coroutine) (r : BitVec 5) (v : VReg) : (co.setV r v).ku = co.ku := rfl
@[simp] theorem Coroutine.inl_setV (co : Coroutine) (r : BitVec 5) (v : VReg) : (co.setV r v).inl = co.inl := rfl
@[simp] theorem Coroutine.pfx_setV (co : Coroutine) (r : BitVec 5) (v : VReg) : (co.setV r v).pfx = co.pfx := rfl
@[simp] theorem Coroutine.vl_setV (co : Coroutine) (r : BitVec 5) (v : VReg) : (co.setV r v).vl = co.vl := rfl
@[simp] theorem Coroutine.vstart_setV (co : Coroutine) (r : BitVec 5) (v : VReg) : (co.setV r v).vstart = co.vstart := rfl
@[simp] theorem Coroutine.vtype_setV (co : Coroutine) (r : BitVec 5) (v : VReg) : (co.setV r v).vtype = co.vtype := rfl
@[simp] theorem Coroutine.live_setV (co : Coroutine) (r : BitVec 5) (v : VReg) : (co.setV r v).live = co.live := rfl
@[simp] theorem Coroutine.dlive_setV (co : Coroutine) (r : BitVec 5) (v : VReg) : (co.setV r v).dlive = co.dlive := rfl
@[simp] theorem Coroutine.ropecfg_setV (co : Coroutine) (r : BitVec 5) (v : VReg) : (co.setV r v).ropecfg = co.ropecfg := rfl
@[simp] theorem Coroutine.mshape_setV (co : Coroutine) (r : BitVec 5) (v : VReg) : (co.setV r v).mshape = co.mshape := rfl
@[simp] theorem Coroutine.quantum_setV (co : Coroutine) (r : BitVec 5) (v : VReg) : (co.setV r v).quantum = co.quantum := rfl
@[simp] theorem Coroutine.level_setV (co : Coroutine) (r : BitVec 5) (v : VReg) : (co.setV r v).level = co.level := rfl
@[simp] theorem Coroutine.ceil_setV (co : Coroutine) (r : BitVec 5) (v : VReg) : (co.setV r v).ceil = co.ceil := rfl
@[simp] theorem Coroutine.fflags_setV (co : Coroutine) (r : BitVec 5) (v : VReg) : (co.setV r v).fflags = co.fflags := rfl
@[simp] theorem Coroutine.frm_setV (co : Coroutine) (r : BitVec 5) (v : VReg) : (co.setV r v).frm = co.frm := rfl
@[simp] theorem Coroutine.asid_setV (co : Coroutine) (r : BitVec 5) (v : VReg) : (co.setV r v).asid = co.asid := rfl
@[simp] theorem Coroutine.asidSel_setV (co : Coroutine) (r : BitVec 5) (v : VReg) : (co.setV r v).asidSel = co.asidSel := rfl
@[simp] theorem Coroutine.svcsel_setV (co : Coroutine) (r : BitVec 5) (v : VReg) : (co.setV r v).svcsel = co.svcsel := rfl
@[simp] theorem Coroutine.topkn_setV (co : Coroutine) (r : BitVec 5) (v : VReg) : (co.setV r v).topkn = co.topkn := rfl
@[simp] theorem Coroutine.rtime_setV (co : Coroutine) (r : BitVec 5) (v : VReg) : (co.setV r v).rtime = co.rtime := rfl
@[simp] theorem Coroutine.estepEl_setV (co : Coroutine) (r : BitVec 5) (v : VReg) : (co.setV r v).estepEl = co.estepEl := rfl
@[simp] theorem Coroutine.estepIs_setV (co : Coroutine) (r : BitVec 5) (v : VReg) : (co.setV r v).estepIs = co.estepIs := rfl
@[simp] theorem Coroutine.epc_setV (co : Coroutine) (r : BitVec 5) (v : VReg) : (co.setV r v).epc = co.epc := rfl
@[simp] theorem Coroutine.cause_setV (co : Coroutine) (r : BitVec 5) (v : VReg) : (co.setV r v).cause = co.cause := rfl
@[simp] theorem Coroutine.faddr_setV (co : Coroutine) (r : BitVec 5) (v : VReg) : (co.setV r v).faddr = co.faddr := rfl
@[simp] theorem Coroutine.finfo_setV (co : Coroutine) (r : BitVec 5) (v : VReg) : (co.setV r v).finfo = co.finfo := rfl
@[simp] theorem Coroutine.hact_setV (co : Coroutine) (r : BitVec 5) (v : VReg) : (co.setV r v).hact = co.hact := rfl
@[simp] theorem Coroutine.nobk_setV (co : Coroutine) (r : BitVec 5) (v : VReg) : (co.setV r v).nobk = co.nobk := rfl
@[simp] theorem Coroutine.trapped_setV (co : Coroutine) (r : BitVec 5) (v : VReg) : (co.setV r v).trapped = co.trapped := rfl
@[simp] theorem Coroutine.token_setV (co : Coroutine) (r : BitVec 5) (v : VReg) : (co.setV r v).token = co.token := rfl
@[simp] theorem Coroutine.posx_setV (co : Coroutine) (r : BitVec 5) (v : VReg) : (co.setV r v).posx = co.posx := rfl
@[simp] theorem Coroutine.vpc_setV (co : Coroutine) (r : BitVec 5) (v : VReg) : (co.setV r v).vpc = co.vpc := rfl
@[simp] theorem Coroutine.pend_setV (co : Coroutine) (r : BitVec 5) (v : VReg) : (co.setV r v).pend = co.pend := rfl
@[simp] theorem Coroutine.block_setV (co : Coroutine) (r : BitVec 5) (v : VReg) : (co.setV r v).block = co.block := rfl
@[simp] theorem Coroutine.resv_setV (co : Coroutine) (r : BitVec 5) (v : VReg) : (co.setV r v).resv = co.resv := rfl
@[simp] theorem Coroutine.fresh_setV (co : Coroutine) (r : BitVec 5) (v : VReg) : (co.setV r v).fresh = co.fresh := rfl
@[simp] theorem Coroutine.due_setV (co : Coroutine) (r : BitVec 5) (v : VReg) : (co.setV r v).due = co.due := rfl
@[simp] theorem Coroutine.again_setV (co : Coroutine) (r : BitVec 5) (v : VReg) : (co.setV r v).again = co.again := rfl
@[simp] theorem Coroutine.evicted_setV (co : Coroutine) (r : BitVec 5) (v : VReg) : (co.setV r v).evicted = co.evicted := rfl
@[simp] theorem Coroutine.left_setV (co : Coroutine) (r : BitVec 5) (v : VReg) : (co.setV r v).left = co.left := rfl
@[simp] theorem Coroutine.recWord_setV (co : Coroutine) (r : BitVec 5) (v : VReg) : (co.setV r v).recWord = co.recWord := rfl
@[simp] theorem Coroutine.remote_setV (co : Coroutine) (r : BitVec 5) (v : VReg) : (co.setV r v).remote = co.remote := rfl
@[simp] theorem Coroutine.lid_setV (co : Coroutine) (r : BitVec 5) (v : VReg) : (co.setV r v).lid = co.lid := rfl
@[simp] theorem Coroutine.gid_setV (co : Coroutine) (r : BitVec 5) (v : VReg) : (co.setV r v).gid = co.gid := rfl
@[simp] theorem Coroutine.gsize_setV (co : Coroutine) (r : BitVec 5) (v : VReg) : (co.setV r v).gsize = co.gsize := rfl
@[simp] theorem Coroutine.grank_setV (co : Coroutine) (r : BitVec 5) (v : VReg) : (co.setV r v).grank = co.grank := rfl
@[simp] theorem Coroutine.gang_setV (co : Coroutine) (r : BitVec 5) (v : VReg) : (co.setV r v).gang = co.gang := rfl
@[simp] theorem Coroutine.tbase_setV (co : Coroutine) (r : BitVec 5) (v : VReg) : (co.setV r v).tbase = co.tbase := rfl
@[simp] theorem Coroutine.tcount_setV (co : Coroutine) (r : BitVec 5) (v : VReg) : (co.setV r v).tcount = co.tcount := rfl
@[simp] theorem Coroutine.abase_setV (co : Coroutine) (r : BitVec 5) (v : VReg) : (co.setV r v).abase = co.abase := rfl
@[simp] theorem Coroutine.acount_setV (co : Coroutine) (r : BitVec 5) (v : VReg) : (co.setV r v).acount = co.acount := rfl

/-! ### Writing a mask register -/

@[simp] theorem Coroutine.state_setM (co : Coroutine) (n : Nat) (v : BitVec 256) : (co.setM n v).state = co.state := rfl
@[simp] theorem Coroutine.prior_setM (co : Coroutine) (n : Nat) (v : BitVec 256) : (co.setM n v).prior = co.prior := rfl
@[simp] theorem Coroutine.wait_setM (co : Coroutine) (n : Nat) (v : BitVec 256) : (co.setM n v).wait = co.wait := rfl
@[simp] theorem Coroutine.sup_setM (co : Coroutine) (n : Nat) (v : BitVec 256) : (co.setM n v).sup = co.sup := rfl
@[simp] theorem Coroutine.pc_setM (co : Coroutine) (n : Nat) (v : BitVec 256) : (co.setM n v).pc = co.pc := rfl
@[simp] theorem Coroutine.fetchAsid_setM (co : Coroutine) (n : Nat) (v : BitVec 256) : (co.setM n v).fetchAsid = co.fetchAsid := rfl
@[simp] theorem Coroutine.x_setM (co : Coroutine) (n : Nat) (v : BitVec 256) : (co.setM n v).x = co.x := rfl
@[simp] theorem Coroutine.v_setM (co : Coroutine) (n : Nat) (v : BitVec 256) : (co.setM n v).v = co.v := rfl
@[simp] theorem Coroutine.k_setM (co : Coroutine) (n : Nat) (v : BitVec 256) : (co.setM n v).k = co.k := rfl
@[simp] theorem Coroutine.q_setM (co : Coroutine) (n : Nat) (v : BitVec 256) : (co.setM n v).q = co.q := rfl
@[simp] theorem Coroutine.topk_setM (co : Coroutine) (n : Nat) (v : BitVec 256) : (co.setM n v).topk = co.topk := rfl
@[simp] theorem Coroutine.pp_setM (co : Coroutine) (n : Nat) (v : BitVec 256) : (co.setM n v).pp = co.pp := rfl
@[simp] theorem Coroutine.su_setM (co : Coroutine) (n : Nat) (v : BitVec 256) : (co.setM n v).su = co.su := rfl
@[simp] theorem Coroutine.qu_setM (co : Coroutine) (n : Nat) (v : BitVec 256) : (co.setM n v).qu = co.qu := rfl
@[simp] theorem Coroutine.ku_setM (co : Coroutine) (n : Nat) (v : BitVec 256) : (co.setM n v).ku = co.ku := rfl
@[simp] theorem Coroutine.inl_setM (co : Coroutine) (n : Nat) (v : BitVec 256) : (co.setM n v).inl = co.inl := rfl
@[simp] theorem Coroutine.pfx_setM (co : Coroutine) (n : Nat) (v : BitVec 256) : (co.setM n v).pfx = co.pfx := rfl
@[simp] theorem Coroutine.vl_setM (co : Coroutine) (n : Nat) (v : BitVec 256) : (co.setM n v).vl = co.vl := rfl
@[simp] theorem Coroutine.vstart_setM (co : Coroutine) (n : Nat) (v : BitVec 256) : (co.setM n v).vstart = co.vstart := rfl
@[simp] theorem Coroutine.vtype_setM (co : Coroutine) (n : Nat) (v : BitVec 256) : (co.setM n v).vtype = co.vtype := rfl
@[simp] theorem Coroutine.live_setM (co : Coroutine) (n : Nat) (v : BitVec 256) : (co.setM n v).live = co.live := rfl
@[simp] theorem Coroutine.dlive_setM (co : Coroutine) (n : Nat) (v : BitVec 256) : (co.setM n v).dlive = co.dlive := rfl
@[simp] theorem Coroutine.ropecfg_setM (co : Coroutine) (n : Nat) (v : BitVec 256) : (co.setM n v).ropecfg = co.ropecfg := rfl
@[simp] theorem Coroutine.mshape_setM (co : Coroutine) (n : Nat) (v : BitVec 256) : (co.setM n v).mshape = co.mshape := rfl
@[simp] theorem Coroutine.quantum_setM (co : Coroutine) (n : Nat) (v : BitVec 256) : (co.setM n v).quantum = co.quantum := rfl
@[simp] theorem Coroutine.level_setM (co : Coroutine) (n : Nat) (v : BitVec 256) : (co.setM n v).level = co.level := rfl
@[simp] theorem Coroutine.ceil_setM (co : Coroutine) (n : Nat) (v : BitVec 256) : (co.setM n v).ceil = co.ceil := rfl
@[simp] theorem Coroutine.fflags_setM (co : Coroutine) (n : Nat) (v : BitVec 256) : (co.setM n v).fflags = co.fflags := rfl
@[simp] theorem Coroutine.frm_setM (co : Coroutine) (n : Nat) (v : BitVec 256) : (co.setM n v).frm = co.frm := rfl
@[simp] theorem Coroutine.asid_setM (co : Coroutine) (n : Nat) (v : BitVec 256) : (co.setM n v).asid = co.asid := rfl
@[simp] theorem Coroutine.asidSel_setM (co : Coroutine) (n : Nat) (v : BitVec 256) : (co.setM n v).asidSel = co.asidSel := rfl
@[simp] theorem Coroutine.svcsel_setM (co : Coroutine) (n : Nat) (v : BitVec 256) : (co.setM n v).svcsel = co.svcsel := rfl
@[simp] theorem Coroutine.topkn_setM (co : Coroutine) (n : Nat) (v : BitVec 256) : (co.setM n v).topkn = co.topkn := rfl
@[simp] theorem Coroutine.rtime_setM (co : Coroutine) (n : Nat) (v : BitVec 256) : (co.setM n v).rtime = co.rtime := rfl
@[simp] theorem Coroutine.estepEl_setM (co : Coroutine) (n : Nat) (v : BitVec 256) : (co.setM n v).estepEl = co.estepEl := rfl
@[simp] theorem Coroutine.estepIs_setM (co : Coroutine) (n : Nat) (v : BitVec 256) : (co.setM n v).estepIs = co.estepIs := rfl
@[simp] theorem Coroutine.epc_setM (co : Coroutine) (n : Nat) (v : BitVec 256) : (co.setM n v).epc = co.epc := rfl
@[simp] theorem Coroutine.cause_setM (co : Coroutine) (n : Nat) (v : BitVec 256) : (co.setM n v).cause = co.cause := rfl
@[simp] theorem Coroutine.faddr_setM (co : Coroutine) (n : Nat) (v : BitVec 256) : (co.setM n v).faddr = co.faddr := rfl
@[simp] theorem Coroutine.finfo_setM (co : Coroutine) (n : Nat) (v : BitVec 256) : (co.setM n v).finfo = co.finfo := rfl
@[simp] theorem Coroutine.hact_setM (co : Coroutine) (n : Nat) (v : BitVec 256) : (co.setM n v).hact = co.hact := rfl
@[simp] theorem Coroutine.nobk_setM (co : Coroutine) (n : Nat) (v : BitVec 256) : (co.setM n v).nobk = co.nobk := rfl
@[simp] theorem Coroutine.trapped_setM (co : Coroutine) (n : Nat) (v : BitVec 256) : (co.setM n v).trapped = co.trapped := rfl
@[simp] theorem Coroutine.token_setM (co : Coroutine) (n : Nat) (v : BitVec 256) : (co.setM n v).token = co.token := rfl
@[simp] theorem Coroutine.posx_setM (co : Coroutine) (n : Nat) (v : BitVec 256) : (co.setM n v).posx = co.posx := rfl
@[simp] theorem Coroutine.vpc_setM (co : Coroutine) (n : Nat) (v : BitVec 256) : (co.setM n v).vpc = co.vpc := rfl
@[simp] theorem Coroutine.pend_setM (co : Coroutine) (n : Nat) (v : BitVec 256) : (co.setM n v).pend = co.pend := rfl
@[simp] theorem Coroutine.block_setM (co : Coroutine) (n : Nat) (v : BitVec 256) : (co.setM n v).block = co.block := rfl
@[simp] theorem Coroutine.resv_setM (co : Coroutine) (n : Nat) (v : BitVec 256) : (co.setM n v).resv = co.resv := rfl
@[simp] theorem Coroutine.fresh_setM (co : Coroutine) (n : Nat) (v : BitVec 256) : (co.setM n v).fresh = co.fresh := rfl
@[simp] theorem Coroutine.due_setM (co : Coroutine) (n : Nat) (v : BitVec 256) : (co.setM n v).due = co.due := rfl
@[simp] theorem Coroutine.again_setM (co : Coroutine) (n : Nat) (v : BitVec 256) : (co.setM n v).again = co.again := rfl
@[simp] theorem Coroutine.evicted_setM (co : Coroutine) (n : Nat) (v : BitVec 256) : (co.setM n v).evicted = co.evicted := rfl
@[simp] theorem Coroutine.left_setM (co : Coroutine) (n : Nat) (v : BitVec 256) : (co.setM n v).left = co.left := rfl
@[simp] theorem Coroutine.recWord_setM (co : Coroutine) (n : Nat) (v : BitVec 256) : (co.setM n v).recWord = co.recWord := rfl
@[simp] theorem Coroutine.remote_setM (co : Coroutine) (n : Nat) (v : BitVec 256) : (co.setM n v).remote = co.remote := rfl
@[simp] theorem Coroutine.lid_setM (co : Coroutine) (n : Nat) (v : BitVec 256) : (co.setM n v).lid = co.lid := rfl
@[simp] theorem Coroutine.gid_setM (co : Coroutine) (n : Nat) (v : BitVec 256) : (co.setM n v).gid = co.gid := rfl
@[simp] theorem Coroutine.gsize_setM (co : Coroutine) (n : Nat) (v : BitVec 256) : (co.setM n v).gsize = co.gsize := rfl
@[simp] theorem Coroutine.grank_setM (co : Coroutine) (n : Nat) (v : BitVec 256) : (co.setM n v).grank = co.grank := rfl
@[simp] theorem Coroutine.gang_setM (co : Coroutine) (n : Nat) (v : BitVec 256) : (co.setM n v).gang = co.gang := rfl
@[simp] theorem Coroutine.tbase_setM (co : Coroutine) (n : Nat) (v : BitVec 256) : (co.setM n v).tbase = co.tbase := rfl
@[simp] theorem Coroutine.tcount_setM (co : Coroutine) (n : Nat) (v : BitVec 256) : (co.setM n v).tcount = co.tcount := rfl
@[simp] theorem Coroutine.abase_setM (co : Coroutine) (n : Nat) (v : BitVec 256) : (co.setM n v).abase = co.abase := rfl
@[simp] theorem Coroutine.acount_setM (co : Coroutine) (n : Nat) (v : BitVec 256) : (co.setM n v).acount = co.acount := rfl

/-! ### Writing a scale register -/

@[simp] theorem Coroutine.state_setK (co : Coroutine) (n : Nat) (v : BitVec 16) : (co.setK n v).state = co.state := rfl
@[simp] theorem Coroutine.prior_setK (co : Coroutine) (n : Nat) (v : BitVec 16) : (co.setK n v).prior = co.prior := rfl
@[simp] theorem Coroutine.wait_setK (co : Coroutine) (n : Nat) (v : BitVec 16) : (co.setK n v).wait = co.wait := rfl
@[simp] theorem Coroutine.sup_setK (co : Coroutine) (n : Nat) (v : BitVec 16) : (co.setK n v).sup = co.sup := rfl
@[simp] theorem Coroutine.pc_setK (co : Coroutine) (n : Nat) (v : BitVec 16) : (co.setK n v).pc = co.pc := rfl
@[simp] theorem Coroutine.fetchAsid_setK (co : Coroutine) (n : Nat) (v : BitVec 16) : (co.setK n v).fetchAsid = co.fetchAsid := rfl
@[simp] theorem Coroutine.x_setK (co : Coroutine) (n : Nat) (v : BitVec 16) : (co.setK n v).x = co.x := rfl
@[simp] theorem Coroutine.v_setK (co : Coroutine) (n : Nat) (v : BitVec 16) : (co.setK n v).v = co.v := rfl
@[simp] theorem Coroutine.m_setK (co : Coroutine) (n : Nat) (v : BitVec 16) : (co.setK n v).m = co.m := rfl
@[simp] theorem Coroutine.q_setK (co : Coroutine) (n : Nat) (v : BitVec 16) : (co.setK n v).q = co.q := rfl
@[simp] theorem Coroutine.topk_setK (co : Coroutine) (n : Nat) (v : BitVec 16) : (co.setK n v).topk = co.topk := rfl
@[simp] theorem Coroutine.pp_setK (co : Coroutine) (n : Nat) (v : BitVec 16) : (co.setK n v).pp = co.pp := rfl
@[simp] theorem Coroutine.mu_setK (co : Coroutine) (n : Nat) (v : BitVec 16) : (co.setK n v).mu = co.mu := rfl
@[simp] theorem Coroutine.qu_setK (co : Coroutine) (n : Nat) (v : BitVec 16) : (co.setK n v).qu = co.qu := rfl
@[simp] theorem Coroutine.ku_setK (co : Coroutine) (n : Nat) (v : BitVec 16) : (co.setK n v).ku = co.ku := rfl
@[simp] theorem Coroutine.inl_setK (co : Coroutine) (n : Nat) (v : BitVec 16) : (co.setK n v).inl = co.inl := rfl
@[simp] theorem Coroutine.pfx_setK (co : Coroutine) (n : Nat) (v : BitVec 16) : (co.setK n v).pfx = co.pfx := rfl
@[simp] theorem Coroutine.vl_setK (co : Coroutine) (n : Nat) (v : BitVec 16) : (co.setK n v).vl = co.vl := rfl
@[simp] theorem Coroutine.vstart_setK (co : Coroutine) (n : Nat) (v : BitVec 16) : (co.setK n v).vstart = co.vstart := rfl
@[simp] theorem Coroutine.vtype_setK (co : Coroutine) (n : Nat) (v : BitVec 16) : (co.setK n v).vtype = co.vtype := rfl
@[simp] theorem Coroutine.live_setK (co : Coroutine) (n : Nat) (v : BitVec 16) : (co.setK n v).live = co.live := rfl
@[simp] theorem Coroutine.dlive_setK (co : Coroutine) (n : Nat) (v : BitVec 16) : (co.setK n v).dlive = co.dlive := rfl
@[simp] theorem Coroutine.ropecfg_setK (co : Coroutine) (n : Nat) (v : BitVec 16) : (co.setK n v).ropecfg = co.ropecfg := rfl
@[simp] theorem Coroutine.mshape_setK (co : Coroutine) (n : Nat) (v : BitVec 16) : (co.setK n v).mshape = co.mshape := rfl
@[simp] theorem Coroutine.quantum_setK (co : Coroutine) (n : Nat) (v : BitVec 16) : (co.setK n v).quantum = co.quantum := rfl
@[simp] theorem Coroutine.level_setK (co : Coroutine) (n : Nat) (v : BitVec 16) : (co.setK n v).level = co.level := rfl
@[simp] theorem Coroutine.ceil_setK (co : Coroutine) (n : Nat) (v : BitVec 16) : (co.setK n v).ceil = co.ceil := rfl
@[simp] theorem Coroutine.fflags_setK (co : Coroutine) (n : Nat) (v : BitVec 16) : (co.setK n v).fflags = co.fflags := rfl
@[simp] theorem Coroutine.frm_setK (co : Coroutine) (n : Nat) (v : BitVec 16) : (co.setK n v).frm = co.frm := rfl
@[simp] theorem Coroutine.asid_setK (co : Coroutine) (n : Nat) (v : BitVec 16) : (co.setK n v).asid = co.asid := rfl
@[simp] theorem Coroutine.asidSel_setK (co : Coroutine) (n : Nat) (v : BitVec 16) : (co.setK n v).asidSel = co.asidSel := rfl
@[simp] theorem Coroutine.svcsel_setK (co : Coroutine) (n : Nat) (v : BitVec 16) : (co.setK n v).svcsel = co.svcsel := rfl
@[simp] theorem Coroutine.topkn_setK (co : Coroutine) (n : Nat) (v : BitVec 16) : (co.setK n v).topkn = co.topkn := rfl
@[simp] theorem Coroutine.rtime_setK (co : Coroutine) (n : Nat) (v : BitVec 16) : (co.setK n v).rtime = co.rtime := rfl
@[simp] theorem Coroutine.estepEl_setK (co : Coroutine) (n : Nat) (v : BitVec 16) : (co.setK n v).estepEl = co.estepEl := rfl
@[simp] theorem Coroutine.estepIs_setK (co : Coroutine) (n : Nat) (v : BitVec 16) : (co.setK n v).estepIs = co.estepIs := rfl
@[simp] theorem Coroutine.epc_setK (co : Coroutine) (n : Nat) (v : BitVec 16) : (co.setK n v).epc = co.epc := rfl
@[simp] theorem Coroutine.cause_setK (co : Coroutine) (n : Nat) (v : BitVec 16) : (co.setK n v).cause = co.cause := rfl
@[simp] theorem Coroutine.faddr_setK (co : Coroutine) (n : Nat) (v : BitVec 16) : (co.setK n v).faddr = co.faddr := rfl
@[simp] theorem Coroutine.finfo_setK (co : Coroutine) (n : Nat) (v : BitVec 16) : (co.setK n v).finfo = co.finfo := rfl
@[simp] theorem Coroutine.hact_setK (co : Coroutine) (n : Nat) (v : BitVec 16) : (co.setK n v).hact = co.hact := rfl
@[simp] theorem Coroutine.nobk_setK (co : Coroutine) (n : Nat) (v : BitVec 16) : (co.setK n v).nobk = co.nobk := rfl
@[simp] theorem Coroutine.trapped_setK (co : Coroutine) (n : Nat) (v : BitVec 16) : (co.setK n v).trapped = co.trapped := rfl
@[simp] theorem Coroutine.token_setK (co : Coroutine) (n : Nat) (v : BitVec 16) : (co.setK n v).token = co.token := rfl
@[simp] theorem Coroutine.posx_setK (co : Coroutine) (n : Nat) (v : BitVec 16) : (co.setK n v).posx = co.posx := rfl
@[simp] theorem Coroutine.vpc_setK (co : Coroutine) (n : Nat) (v : BitVec 16) : (co.setK n v).vpc = co.vpc := rfl
@[simp] theorem Coroutine.pend_setK (co : Coroutine) (n : Nat) (v : BitVec 16) : (co.setK n v).pend = co.pend := rfl
@[simp] theorem Coroutine.block_setK (co : Coroutine) (n : Nat) (v : BitVec 16) : (co.setK n v).block = co.block := rfl
@[simp] theorem Coroutine.resv_setK (co : Coroutine) (n : Nat) (v : BitVec 16) : (co.setK n v).resv = co.resv := rfl
@[simp] theorem Coroutine.fresh_setK (co : Coroutine) (n : Nat) (v : BitVec 16) : (co.setK n v).fresh = co.fresh := rfl
@[simp] theorem Coroutine.due_setK (co : Coroutine) (n : Nat) (v : BitVec 16) : (co.setK n v).due = co.due := rfl
@[simp] theorem Coroutine.again_setK (co : Coroutine) (n : Nat) (v : BitVec 16) : (co.setK n v).again = co.again := rfl
@[simp] theorem Coroutine.evicted_setK (co : Coroutine) (n : Nat) (v : BitVec 16) : (co.setK n v).evicted = co.evicted := rfl
@[simp] theorem Coroutine.left_setK (co : Coroutine) (n : Nat) (v : BitVec 16) : (co.setK n v).left = co.left := rfl
@[simp] theorem Coroutine.recWord_setK (co : Coroutine) (n : Nat) (v : BitVec 16) : (co.setK n v).recWord = co.recWord := rfl
@[simp] theorem Coroutine.remote_setK (co : Coroutine) (n : Nat) (v : BitVec 16) : (co.setK n v).remote = co.remote := rfl
@[simp] theorem Coroutine.lid_setK (co : Coroutine) (n : Nat) (v : BitVec 16) : (co.setK n v).lid = co.lid := rfl
@[simp] theorem Coroutine.gid_setK (co : Coroutine) (n : Nat) (v : BitVec 16) : (co.setK n v).gid = co.gid := rfl
@[simp] theorem Coroutine.gsize_setK (co : Coroutine) (n : Nat) (v : BitVec 16) : (co.setK n v).gsize = co.gsize := rfl
@[simp] theorem Coroutine.grank_setK (co : Coroutine) (n : Nat) (v : BitVec 16) : (co.setK n v).grank = co.grank := rfl
@[simp] theorem Coroutine.gang_setK (co : Coroutine) (n : Nat) (v : BitVec 16) : (co.setK n v).gang = co.gang := rfl
@[simp] theorem Coroutine.tbase_setK (co : Coroutine) (n : Nat) (v : BitVec 16) : (co.setK n v).tbase = co.tbase := rfl
@[simp] theorem Coroutine.tcount_setK (co : Coroutine) (n : Nat) (v : BitVec 16) : (co.setK n v).tcount = co.tcount := rfl
@[simp] theorem Coroutine.abase_setK (co : Coroutine) (n : Nat) (v : BitVec 16) : (co.setK n v).abase = co.abase := rfl
@[simp] theorem Coroutine.acount_setK (co : Coroutine) (n : Nat) (v : BitVec 16) : (co.setK n v).acount = co.acount := rfl

/-! ### Writing a staging register -/

@[simp] theorem Coroutine.state_setQ (co : Coroutine) (n : Nat) (v : Word) : (co.setQ n v).state = co.state := rfl
@[simp] theorem Coroutine.prior_setQ (co : Coroutine) (n : Nat) (v : Word) : (co.setQ n v).prior = co.prior := rfl
@[simp] theorem Coroutine.wait_setQ (co : Coroutine) (n : Nat) (v : Word) : (co.setQ n v).wait = co.wait := rfl
@[simp] theorem Coroutine.sup_setQ (co : Coroutine) (n : Nat) (v : Word) : (co.setQ n v).sup = co.sup := rfl
@[simp] theorem Coroutine.pc_setQ (co : Coroutine) (n : Nat) (v : Word) : (co.setQ n v).pc = co.pc := rfl
@[simp] theorem Coroutine.fetchAsid_setQ (co : Coroutine) (n : Nat) (v : Word) : (co.setQ n v).fetchAsid = co.fetchAsid := rfl
@[simp] theorem Coroutine.x_setQ (co : Coroutine) (n : Nat) (v : Word) : (co.setQ n v).x = co.x := rfl
@[simp] theorem Coroutine.v_setQ (co : Coroutine) (n : Nat) (v : Word) : (co.setQ n v).v = co.v := rfl
@[simp] theorem Coroutine.m_setQ (co : Coroutine) (n : Nat) (v : Word) : (co.setQ n v).m = co.m := rfl
@[simp] theorem Coroutine.k_setQ (co : Coroutine) (n : Nat) (v : Word) : (co.setQ n v).k = co.k := rfl
@[simp] theorem Coroutine.topk_setQ (co : Coroutine) (n : Nat) (v : Word) : (co.setQ n v).topk = co.topk := rfl
@[simp] theorem Coroutine.pp_setQ (co : Coroutine) (n : Nat) (v : Word) : (co.setQ n v).pp = co.pp := rfl
@[simp] theorem Coroutine.su_setQ (co : Coroutine) (n : Nat) (v : Word) : (co.setQ n v).su = co.su := rfl
@[simp] theorem Coroutine.mu_setQ (co : Coroutine) (n : Nat) (v : Word) : (co.setQ n v).mu = co.mu := rfl
@[simp] theorem Coroutine.ku_setQ (co : Coroutine) (n : Nat) (v : Word) : (co.setQ n v).ku = co.ku := rfl
@[simp] theorem Coroutine.inl_setQ (co : Coroutine) (n : Nat) (v : Word) : (co.setQ n v).inl = co.inl := rfl
@[simp] theorem Coroutine.pfx_setQ (co : Coroutine) (n : Nat) (v : Word) : (co.setQ n v).pfx = co.pfx := rfl
@[simp] theorem Coroutine.vl_setQ (co : Coroutine) (n : Nat) (v : Word) : (co.setQ n v).vl = co.vl := rfl
@[simp] theorem Coroutine.vstart_setQ (co : Coroutine) (n : Nat) (v : Word) : (co.setQ n v).vstart = co.vstart := rfl
@[simp] theorem Coroutine.vtype_setQ (co : Coroutine) (n : Nat) (v : Word) : (co.setQ n v).vtype = co.vtype := rfl
@[simp] theorem Coroutine.live_setQ (co : Coroutine) (n : Nat) (v : Word) : (co.setQ n v).live = co.live := rfl
@[simp] theorem Coroutine.dlive_setQ (co : Coroutine) (n : Nat) (v : Word) : (co.setQ n v).dlive = co.dlive := rfl
@[simp] theorem Coroutine.ropecfg_setQ (co : Coroutine) (n : Nat) (v : Word) : (co.setQ n v).ropecfg = co.ropecfg := rfl
@[simp] theorem Coroutine.mshape_setQ (co : Coroutine) (n : Nat) (v : Word) : (co.setQ n v).mshape = co.mshape := rfl
@[simp] theorem Coroutine.quantum_setQ (co : Coroutine) (n : Nat) (v : Word) : (co.setQ n v).quantum = co.quantum := rfl
@[simp] theorem Coroutine.level_setQ (co : Coroutine) (n : Nat) (v : Word) : (co.setQ n v).level = co.level := rfl
@[simp] theorem Coroutine.ceil_setQ (co : Coroutine) (n : Nat) (v : Word) : (co.setQ n v).ceil = co.ceil := rfl
@[simp] theorem Coroutine.fflags_setQ (co : Coroutine) (n : Nat) (v : Word) : (co.setQ n v).fflags = co.fflags := rfl
@[simp] theorem Coroutine.frm_setQ (co : Coroutine) (n : Nat) (v : Word) : (co.setQ n v).frm = co.frm := rfl
@[simp] theorem Coroutine.asid_setQ (co : Coroutine) (n : Nat) (v : Word) : (co.setQ n v).asid = co.asid := rfl
@[simp] theorem Coroutine.asidSel_setQ (co : Coroutine) (n : Nat) (v : Word) : (co.setQ n v).asidSel = co.asidSel := rfl
@[simp] theorem Coroutine.svcsel_setQ (co : Coroutine) (n : Nat) (v : Word) : (co.setQ n v).svcsel = co.svcsel := rfl
@[simp] theorem Coroutine.topkn_setQ (co : Coroutine) (n : Nat) (v : Word) : (co.setQ n v).topkn = co.topkn := rfl
@[simp] theorem Coroutine.rtime_setQ (co : Coroutine) (n : Nat) (v : Word) : (co.setQ n v).rtime = co.rtime := rfl
@[simp] theorem Coroutine.estepEl_setQ (co : Coroutine) (n : Nat) (v : Word) : (co.setQ n v).estepEl = co.estepEl := rfl
@[simp] theorem Coroutine.estepIs_setQ (co : Coroutine) (n : Nat) (v : Word) : (co.setQ n v).estepIs = co.estepIs := rfl
@[simp] theorem Coroutine.epc_setQ (co : Coroutine) (n : Nat) (v : Word) : (co.setQ n v).epc = co.epc := rfl
@[simp] theorem Coroutine.cause_setQ (co : Coroutine) (n : Nat) (v : Word) : (co.setQ n v).cause = co.cause := rfl
@[simp] theorem Coroutine.faddr_setQ (co : Coroutine) (n : Nat) (v : Word) : (co.setQ n v).faddr = co.faddr := rfl
@[simp] theorem Coroutine.finfo_setQ (co : Coroutine) (n : Nat) (v : Word) : (co.setQ n v).finfo = co.finfo := rfl
@[simp] theorem Coroutine.hact_setQ (co : Coroutine) (n : Nat) (v : Word) : (co.setQ n v).hact = co.hact := rfl
@[simp] theorem Coroutine.nobk_setQ (co : Coroutine) (n : Nat) (v : Word) : (co.setQ n v).nobk = co.nobk := rfl
@[simp] theorem Coroutine.trapped_setQ (co : Coroutine) (n : Nat) (v : Word) : (co.setQ n v).trapped = co.trapped := rfl
@[simp] theorem Coroutine.token_setQ (co : Coroutine) (n : Nat) (v : Word) : (co.setQ n v).token = co.token := rfl
@[simp] theorem Coroutine.posx_setQ (co : Coroutine) (n : Nat) (v : Word) : (co.setQ n v).posx = co.posx := rfl
@[simp] theorem Coroutine.vpc_setQ (co : Coroutine) (n : Nat) (v : Word) : (co.setQ n v).vpc = co.vpc := rfl
@[simp] theorem Coroutine.pend_setQ (co : Coroutine) (n : Nat) (v : Word) : (co.setQ n v).pend = co.pend := rfl
@[simp] theorem Coroutine.block_setQ (co : Coroutine) (n : Nat) (v : Word) : (co.setQ n v).block = co.block := rfl
@[simp] theorem Coroutine.resv_setQ (co : Coroutine) (n : Nat) (v : Word) : (co.setQ n v).resv = co.resv := rfl
@[simp] theorem Coroutine.fresh_setQ (co : Coroutine) (n : Nat) (v : Word) : (co.setQ n v).fresh = co.fresh := rfl
@[simp] theorem Coroutine.due_setQ (co : Coroutine) (n : Nat) (v : Word) : (co.setQ n v).due = co.due := rfl
@[simp] theorem Coroutine.again_setQ (co : Coroutine) (n : Nat) (v : Word) : (co.setQ n v).again = co.again := rfl
@[simp] theorem Coroutine.evicted_setQ (co : Coroutine) (n : Nat) (v : Word) : (co.setQ n v).evicted = co.evicted := rfl
@[simp] theorem Coroutine.left_setQ (co : Coroutine) (n : Nat) (v : Word) : (co.setQ n v).left = co.left := rfl
@[simp] theorem Coroutine.recWord_setQ (co : Coroutine) (n : Nat) (v : Word) : (co.setQ n v).recWord = co.recWord := rfl
@[simp] theorem Coroutine.remote_setQ (co : Coroutine) (n : Nat) (v : Word) : (co.setQ n v).remote = co.remote := rfl
@[simp] theorem Coroutine.lid_setQ (co : Coroutine) (n : Nat) (v : Word) : (co.setQ n v).lid = co.lid := rfl
@[simp] theorem Coroutine.gid_setQ (co : Coroutine) (n : Nat) (v : Word) : (co.setQ n v).gid = co.gid := rfl
@[simp] theorem Coroutine.gsize_setQ (co : Coroutine) (n : Nat) (v : Word) : (co.setQ n v).gsize = co.gsize := rfl
@[simp] theorem Coroutine.grank_setQ (co : Coroutine) (n : Nat) (v : Word) : (co.setQ n v).grank = co.grank := rfl
@[simp] theorem Coroutine.gang_setQ (co : Coroutine) (n : Nat) (v : Word) : (co.setQ n v).gang = co.gang := rfl
@[simp] theorem Coroutine.tbase_setQ (co : Coroutine) (n : Nat) (v : Word) : (co.setQ n v).tbase = co.tbase := rfl
@[simp] theorem Coroutine.tcount_setQ (co : Coroutine) (n : Nat) (v : Word) : (co.setQ n v).tcount = co.tcount := rfl
@[simp] theorem Coroutine.abase_setQ (co : Coroutine) (n : Nat) (v : Word) : (co.setQ n v).abase = co.abase := rfl
@[simp] theorem Coroutine.acount_setQ (co : Coroutine) (n : Nat) (v : Word) : (co.setQ n v).acount = co.acount := rfl

/-! ### Writing a scalar register (`x0` discards the write) -/

@[simp] theorem Coroutine.state_setX (co : Coroutine) (r : BitVec 5) (v : Word) : (co.setX r v).state = co.state := by
  unfold Coroutine.setX; split <;> rfl
@[simp] theorem Coroutine.prior_setX (co : Coroutine) (r : BitVec 5) (v : Word) : (co.setX r v).prior = co.prior := by
  unfold Coroutine.setX; split <;> rfl
@[simp] theorem Coroutine.wait_setX (co : Coroutine) (r : BitVec 5) (v : Word) : (co.setX r v).wait = co.wait := by
  unfold Coroutine.setX; split <;> rfl
@[simp] theorem Coroutine.sup_setX (co : Coroutine) (r : BitVec 5) (v : Word) : (co.setX r v).sup = co.sup := by
  unfold Coroutine.setX; split <;> rfl
@[simp] theorem Coroutine.pc_setX (co : Coroutine) (r : BitVec 5) (v : Word) : (co.setX r v).pc = co.pc := by
  unfold Coroutine.setX; split <;> rfl
@[simp] theorem Coroutine.fetchAsid_setX (co : Coroutine) (r : BitVec 5) (v : Word) : (co.setX r v).fetchAsid = co.fetchAsid := by
  unfold Coroutine.setX; split <;> rfl
@[simp] theorem Coroutine.v_setX (co : Coroutine) (r : BitVec 5) (v : Word) : (co.setX r v).v = co.v := by
  unfold Coroutine.setX; split <;> rfl
@[simp] theorem Coroutine.m_setX (co : Coroutine) (r : BitVec 5) (v : Word) : (co.setX r v).m = co.m := by
  unfold Coroutine.setX; split <;> rfl
@[simp] theorem Coroutine.k_setX (co : Coroutine) (r : BitVec 5) (v : Word) : (co.setX r v).k = co.k := by
  unfold Coroutine.setX; split <;> rfl
@[simp] theorem Coroutine.q_setX (co : Coroutine) (r : BitVec 5) (v : Word) : (co.setX r v).q = co.q := by
  unfold Coroutine.setX; split <;> rfl
@[simp] theorem Coroutine.topk_setX (co : Coroutine) (r : BitVec 5) (v : Word) : (co.setX r v).topk = co.topk := by
  unfold Coroutine.setX; split <;> rfl
@[simp] theorem Coroutine.pp_setX (co : Coroutine) (r : BitVec 5) (v : Word) : (co.setX r v).pp = co.pp := by
  unfold Coroutine.setX; split <;> rfl
@[simp] theorem Coroutine.su_setX (co : Coroutine) (r : BitVec 5) (v : Word) : (co.setX r v).su = co.su := by
  unfold Coroutine.setX; split <;> rfl
@[simp] theorem Coroutine.mu_setX (co : Coroutine) (r : BitVec 5) (v : Word) : (co.setX r v).mu = co.mu := by
  unfold Coroutine.setX; split <;> rfl
@[simp] theorem Coroutine.qu_setX (co : Coroutine) (r : BitVec 5) (v : Word) : (co.setX r v).qu = co.qu := by
  unfold Coroutine.setX; split <;> rfl
@[simp] theorem Coroutine.ku_setX (co : Coroutine) (r : BitVec 5) (v : Word) : (co.setX r v).ku = co.ku := by
  unfold Coroutine.setX; split <;> rfl
@[simp] theorem Coroutine.inl_setX (co : Coroutine) (r : BitVec 5) (v : Word) : (co.setX r v).inl = co.inl := by
  unfold Coroutine.setX; split <;> rfl
@[simp] theorem Coroutine.pfx_setX (co : Coroutine) (r : BitVec 5) (v : Word) : (co.setX r v).pfx = co.pfx := by
  unfold Coroutine.setX; split <;> rfl
@[simp] theorem Coroutine.vl_setX (co : Coroutine) (r : BitVec 5) (v : Word) : (co.setX r v).vl = co.vl := by
  unfold Coroutine.setX; split <;> rfl
@[simp] theorem Coroutine.vstart_setX (co : Coroutine) (r : BitVec 5) (v : Word) : (co.setX r v).vstart = co.vstart := by
  unfold Coroutine.setX; split <;> rfl
@[simp] theorem Coroutine.vtype_setX (co : Coroutine) (r : BitVec 5) (v : Word) : (co.setX r v).vtype = co.vtype := by
  unfold Coroutine.setX; split <;> rfl
@[simp] theorem Coroutine.live_setX (co : Coroutine) (r : BitVec 5) (v : Word) : (co.setX r v).live = co.live := by
  unfold Coroutine.setX; split <;> rfl
@[simp] theorem Coroutine.dlive_setX (co : Coroutine) (r : BitVec 5) (v : Word) : (co.setX r v).dlive = co.dlive := by
  unfold Coroutine.setX; split <;> rfl
@[simp] theorem Coroutine.ropecfg_setX (co : Coroutine) (r : BitVec 5) (v : Word) : (co.setX r v).ropecfg = co.ropecfg := by
  unfold Coroutine.setX; split <;> rfl
@[simp] theorem Coroutine.mshape_setX (co : Coroutine) (r : BitVec 5) (v : Word) : (co.setX r v).mshape = co.mshape := by
  unfold Coroutine.setX; split <;> rfl
@[simp] theorem Coroutine.quantum_setX (co : Coroutine) (r : BitVec 5) (v : Word) : (co.setX r v).quantum = co.quantum := by
  unfold Coroutine.setX; split <;> rfl
@[simp] theorem Coroutine.level_setX (co : Coroutine) (r : BitVec 5) (v : Word) : (co.setX r v).level = co.level := by
  unfold Coroutine.setX; split <;> rfl
@[simp] theorem Coroutine.ceil_setX (co : Coroutine) (r : BitVec 5) (v : Word) : (co.setX r v).ceil = co.ceil := by
  unfold Coroutine.setX; split <;> rfl
@[simp] theorem Coroutine.fflags_setX (co : Coroutine) (r : BitVec 5) (v : Word) : (co.setX r v).fflags = co.fflags := by
  unfold Coroutine.setX; split <;> rfl
@[simp] theorem Coroutine.frm_setX (co : Coroutine) (r : BitVec 5) (v : Word) : (co.setX r v).frm = co.frm := by
  unfold Coroutine.setX; split <;> rfl
@[simp] theorem Coroutine.asid_setX (co : Coroutine) (r : BitVec 5) (v : Word) : (co.setX r v).asid = co.asid := by
  unfold Coroutine.setX; split <;> rfl
@[simp] theorem Coroutine.asidSel_setX (co : Coroutine) (r : BitVec 5) (v : Word) : (co.setX r v).asidSel = co.asidSel := by
  unfold Coroutine.setX; split <;> rfl
@[simp] theorem Coroutine.svcsel_setX (co : Coroutine) (r : BitVec 5) (v : Word) : (co.setX r v).svcsel = co.svcsel := by
  unfold Coroutine.setX; split <;> rfl
@[simp] theorem Coroutine.topkn_setX (co : Coroutine) (r : BitVec 5) (v : Word) : (co.setX r v).topkn = co.topkn := by
  unfold Coroutine.setX; split <;> rfl
@[simp] theorem Coroutine.rtime_setX (co : Coroutine) (r : BitVec 5) (v : Word) : (co.setX r v).rtime = co.rtime := by
  unfold Coroutine.setX; split <;> rfl
@[simp] theorem Coroutine.estepEl_setX (co : Coroutine) (r : BitVec 5) (v : Word) : (co.setX r v).estepEl = co.estepEl := by
  unfold Coroutine.setX; split <;> rfl
@[simp] theorem Coroutine.estepIs_setX (co : Coroutine) (r : BitVec 5) (v : Word) : (co.setX r v).estepIs = co.estepIs := by
  unfold Coroutine.setX; split <;> rfl
@[simp] theorem Coroutine.epc_setX (co : Coroutine) (r : BitVec 5) (v : Word) : (co.setX r v).epc = co.epc := by
  unfold Coroutine.setX; split <;> rfl
@[simp] theorem Coroutine.cause_setX (co : Coroutine) (r : BitVec 5) (v : Word) : (co.setX r v).cause = co.cause := by
  unfold Coroutine.setX; split <;> rfl
@[simp] theorem Coroutine.faddr_setX (co : Coroutine) (r : BitVec 5) (v : Word) : (co.setX r v).faddr = co.faddr := by
  unfold Coroutine.setX; split <;> rfl
@[simp] theorem Coroutine.finfo_setX (co : Coroutine) (r : BitVec 5) (v : Word) : (co.setX r v).finfo = co.finfo := by
  unfold Coroutine.setX; split <;> rfl
@[simp] theorem Coroutine.hact_setX (co : Coroutine) (r : BitVec 5) (v : Word) : (co.setX r v).hact = co.hact := by
  unfold Coroutine.setX; split <;> rfl
@[simp] theorem Coroutine.nobk_setX (co : Coroutine) (r : BitVec 5) (v : Word) : (co.setX r v).nobk = co.nobk := by
  unfold Coroutine.setX; split <;> rfl
@[simp] theorem Coroutine.trapped_setX (co : Coroutine) (r : BitVec 5) (v : Word) : (co.setX r v).trapped = co.trapped := by
  unfold Coroutine.setX; split <;> rfl
@[simp] theorem Coroutine.token_setX (co : Coroutine) (r : BitVec 5) (v : Word) : (co.setX r v).token = co.token := by
  unfold Coroutine.setX; split <;> rfl
@[simp] theorem Coroutine.posx_setX (co : Coroutine) (r : BitVec 5) (v : Word) : (co.setX r v).posx = co.posx := by
  unfold Coroutine.setX; split <;> rfl
@[simp] theorem Coroutine.vpc_setX (co : Coroutine) (r : BitVec 5) (v : Word) : (co.setX r v).vpc = co.vpc := by
  unfold Coroutine.setX; split <;> rfl
@[simp] theorem Coroutine.pend_setX (co : Coroutine) (r : BitVec 5) (v : Word) : (co.setX r v).pend = co.pend := by
  unfold Coroutine.setX; split <;> rfl
@[simp] theorem Coroutine.block_setX (co : Coroutine) (r : BitVec 5) (v : Word) : (co.setX r v).block = co.block := by
  unfold Coroutine.setX; split <;> rfl
@[simp] theorem Coroutine.resv_setX (co : Coroutine) (r : BitVec 5) (v : Word) : (co.setX r v).resv = co.resv := by
  unfold Coroutine.setX; split <;> rfl
@[simp] theorem Coroutine.fresh_setX (co : Coroutine) (r : BitVec 5) (v : Word) : (co.setX r v).fresh = co.fresh := by
  unfold Coroutine.setX; split <;> rfl
@[simp] theorem Coroutine.due_setX (co : Coroutine) (r : BitVec 5) (v : Word) : (co.setX r v).due = co.due := by
  unfold Coroutine.setX; split <;> rfl
@[simp] theorem Coroutine.again_setX (co : Coroutine) (r : BitVec 5) (v : Word) : (co.setX r v).again = co.again := by
  unfold Coroutine.setX; split <;> rfl
@[simp] theorem Coroutine.evicted_setX (co : Coroutine) (r : BitVec 5) (v : Word) : (co.setX r v).evicted = co.evicted := by
  unfold Coroutine.setX; split <;> rfl
@[simp] theorem Coroutine.left_setX (co : Coroutine) (r : BitVec 5) (v : Word) : (co.setX r v).left = co.left := by
  unfold Coroutine.setX; split <;> rfl
@[simp] theorem Coroutine.recWord_setX (co : Coroutine) (r : BitVec 5) (v : Word) : (co.setX r v).recWord = co.recWord := by
  unfold Coroutine.setX; split <;> rfl
@[simp] theorem Coroutine.remote_setX (co : Coroutine) (r : BitVec 5) (v : Word) : (co.setX r v).remote = co.remote := by
  unfold Coroutine.setX; split <;> rfl
@[simp] theorem Coroutine.lid_setX (co : Coroutine) (r : BitVec 5) (v : Word) : (co.setX r v).lid = co.lid := by
  unfold Coroutine.setX; split <;> rfl
@[simp] theorem Coroutine.gid_setX (co : Coroutine) (r : BitVec 5) (v : Word) : (co.setX r v).gid = co.gid := by
  unfold Coroutine.setX; split <;> rfl
@[simp] theorem Coroutine.gsize_setX (co : Coroutine) (r : BitVec 5) (v : Word) : (co.setX r v).gsize = co.gsize := by
  unfold Coroutine.setX; split <;> rfl
@[simp] theorem Coroutine.grank_setX (co : Coroutine) (r : BitVec 5) (v : Word) : (co.setX r v).grank = co.grank := by
  unfold Coroutine.setX; split <;> rfl
@[simp] theorem Coroutine.gang_setX (co : Coroutine) (r : BitVec 5) (v : Word) : (co.setX r v).gang = co.gang := by
  unfold Coroutine.setX; split <;> rfl
@[simp] theorem Coroutine.tbase_setX (co : Coroutine) (r : BitVec 5) (v : Word) : (co.setX r v).tbase = co.tbase := by
  unfold Coroutine.setX; split <;> rfl
@[simp] theorem Coroutine.tcount_setX (co : Coroutine) (r : BitVec 5) (v : Word) : (co.setX r v).tcount = co.tcount := by
  unfold Coroutine.setX; split <;> rfl
@[simp] theorem Coroutine.abase_setX (co : Coroutine) (r : BitVec 5) (v : Word) : (co.setX r v).abase = co.abase := by
  unfold Coroutine.setX; split <;> rfl
@[simp] theorem Coroutine.acount_setX (co : Coroutine) (r : BitVec 5) (v : Word) : (co.setX r v).acount = co.acount := by
  unfold Coroutine.setX; split <;> rfl

/-! ### Registers read after a write -/

@[simp] theorem Coroutine.pc_advance (co : Coroutine) : co.advance.pc = co.pc + 4 := rfl

/-- `x0` reads zero (R282). -/
@[simp] theorem Coroutine.xr_zero (co : Coroutine) : co.xr 0 = 0 := rfl

/-- `x0` discards a write (R282). -/
@[simp] theorem Coroutine.setX_zero (co : Coroutine) (v : Word) : co.setX 0 v = co := rfl

/-- A scalar register other than `x0` reads back what was written. -/
theorem Coroutine.xr_setX_self (co : Coroutine) {r : BitVec 5} (v : Word) (h : r ≠ 0) : (co.setX r v).xr r = v := by
  simp [Coroutine.xr, Coroutine.setX, show r ≠ 0#5 from h]

/-- Writing a scalar register leaves every other one alone. -/
theorem Coroutine.xr_setX_ne (co : Coroutine) {r q : BitVec 5} (v : Word) (h : q ≠ r) : (co.setX r v).xr q = co.xr q := by
  have hn : r.toNat ≠ q.toNat := fun e => h (BitVec.eq_of_toNat_eq e.symm)
  by_cases hr : r = 0
  · subst hr; rfl
  · simp [Coroutine.xr, Coroutine.setX, show r ≠ 0#5 from hr, hn]

/-- A vector register reads back what was written. -/
@[simp] theorem Coroutine.vr_setV_self (co : Coroutine) (r : BitVec 5) (v : VReg) : (co.setV r v).vr r = v := by
  simp [Coroutine.vr, Coroutine.setV]

/-- Writing a vector register leaves every other one alone. -/
theorem Coroutine.vr_setV_ne (co : Coroutine) {r q : BitVec 5} (v : VReg) (h : q ≠ r) : (co.setV r v).vr q = co.vr q := by
  have hn : r.toNat ≠ q.toNat := fun e => h (BitVec.eq_of_toNat_eq e.symm)
  simp [Coroutine.vr, Coroutine.setV, hn]

end Sys2Proof.Machine
end

