-- ==== Sys2Proof/Laws/Issue.lean ====
section
/-! SUPPORT. What issuing an instruction word can do, said once: the statements about instructions cite these. -/

namespace Sys2Proof.Machine

theorem Issues.taker {s : State} {key : Nat} {co : Coroutine} (h : Issues s key co) : IssuesTaker s key co :=
  ⟨h.clocks, h.running, h.holds⟩

theorem IssuesBehindPrefix.taker {s : State} {key : Nat} {co : Coroutine} (h : IssuesBehindPrefix s key co) :
    IssuesTaker s key co :=
  ⟨h.clocks, h.running, h.holds⟩

/-- A word behind no prefix, with no decode check of its own, is its body. -/
theorem runWord_issues {s : State} {key : Nat} {co : Coroutine} (h : Issues s key co) (t : Bool) (f : WordBody) :
    runWord t f s = .next ((f s.chip key co).state s key co t) := by
  simp [runWord, runChecked, h.clocks, h.running, h.holds, h.plain]

/-- A taker is its body, behind a prefix or not. -/
theorem runWord_taker {s : State} {key : Nat} {co : Coroutine} (h : IssuesTaker s key co) (f : WordBody) :
    runWord true f s = .next ((f s.chip key co).state s key co true) := by
  simp [runWord, runChecked, h.clocks, h.running, h.holds]

/-- A word that passes its decode check is its body. -/
theorem runChecked_issues {s : State} {key : Nat} {co : Coroutine} (h : Issues s key co) {pre : Coroutine → Option Nat}
    (hp : pre co = none) (i : Instr) (t : Bool) (f : WordBody) :
    runChecked pre i t f s = .next ((f s.chip key co).state s key co t) := by
  simp [runChecked, h.clocks, h.running, h.holds, h.plain, hp]

/-- A taker that passes its decode check is its body. -/
theorem runChecked_taker {s : State} {key : Nat} {co : Coroutine} (h : IssuesTaker s key co) {pre : Coroutine → Option Nat}
    (hp : pre co = none) (i : Instr) (f : WordBody) :
    runChecked pre i true f s = .next ((f s.chip key co).state s key co true) := by
  simp [runChecked, h.clocks, h.running, h.holds, hp]

/-- An instruction that only changes its coroutine retires with the coroutine changed. -/
theorem runWord_retireCo {s : State} {key : Nat} {co : Coroutine} (h : Issues s key co) (f : Coroutine → Coroutine) :
    runWord false (retireCo f) s = .next (s.retired key co (f co).advance) := by
  rw [runWord_issues h]; rfl

/-- An instruction that only writes `x[d]` retires with it written. -/
theorem runWord_writeX {s : State} {key : Nat} {co : Coroutine} (h : Issues s key co) (d : BitVec 5) (v : Coroutine → Word) :
    runWord false (writeX d v) s = .next (s.wrote key co d (v co)) := by
  rw [writeX, runWord_retireCo h]; rfl

/-- Nothing follows the instruction of a quiet coroutine that has no prefix to use up. -/
theorem Chip.afterRetire_quiet (c : Chip) (key : Nat) {co : Coroutine} (h : co.quiet) : c.afterRetire key co false = c := by
  simp [Chip.afterRetire, h.1, h.2]

/-- A retired instruction of a quiet coroutine leaves the coroutine that it made. -/
theorem State.retired_quiet (s : State) (key : Nat) {co : Coroutine} (co' : Coroutine) (h : co.quiet) :
    s.retired key co co' = { s with chip := s.chip.setCo key co' } := by
  simp [State.retired, State.retiredWith, Chip.afterRetire_quiet _ _ h]

/-- A trap that a drained coroutine takes is recorded at once. -/
theorem Chip.trap_drained {c : Chip} {key : Nat} (t : Trap) (h : c.undrained key = false) : c.trap key t = c.takeTrap key t 0 := by
  simp [Chip.trap, Chip.take, Chip.deliver, h]

/-- Putting a coroutine changes nothing that it has to drain. -/
@[simp] theorem Chip.undrained_setCo (c : Chip) (key : Nat) (co : Coroutine) (k : Nat) :
    (c.setCo key co).undrained k = c.undrained k := rfl

/-- An instruction word that traps before it, of a drained coroutine. -/
theorem trapB_drained {c : Chip} {key : Nat} (co : Coroutine) (cause : Nat) (faddr : Word) (h : c.undrained key = false) :
    trapB c key co cause faddr = .gone ((c.setCo key co).takeTrap key (plainTrap cause co.pc faddr) 0) := by
  rw [trapB, Chip.trapDrained, Chip.trap_drained _ (by simpa using h)]

end Sys2Proof.Machine
end

