-- ==== Sys2Proof/Laws/Memory.lean ====
section
/-! SUPPORT. Laws of memory: read after write, and that every memory operation keeps the canonical form. -/

namespace Sys2Proof.Machine

/-- Every listed address of a memory lies above a bound. -/
def memAbove (n : Nat) (m : Memory) : Prop := ∀ c ∈ m, n < c.1

/-- A byte below every listed address reads 0. -/
theorem memRead_above {m : Memory} {a : Nat} (h : memAbove a m) : memRead m a = 0 := by
  induction m with
  | nil => rfl
  | cons p r ih =>
    obtain ⟨b, v⟩ := p
    have hb : a < b := h (b, v) (by simp)
    have hr : memAbove a r := fun c hc => h c (by simp [hc])
    simp [memRead, Nat.ne_of_gt hb, ih hr]

/-- The tail of a canonical memory is canonical. -/
theorem Memory.wf_tail {p : Host.Cell} {m : Memory} (h : Memory.wf (p :: m)) : Memory.wf m :=
  ⟨(List.pairwise_cons.1 h.1).2, fun c hc => h.2 c (by simp [hc])⟩

/-- The addresses after the first of a canonical memory lie above it. -/
theorem Memory.wf_above {p : Host.Cell} {m : Memory} (h : Memory.wf (p :: m)) : memAbove p.1 m :=
  (List.pairwise_cons.1 h.1).1

/-- A cell below a canonical memory, not zero, may stand before it. -/
theorem Memory.wf_cons {a : Nat} {v : Byte} {m : Memory} (hm : Memory.wf m) (ha : memAbove a m) (hv : v ≠ 0) :
    Memory.wf ((a, v) :: m) :=
  ⟨List.pairwise_cons.2 ⟨ha, hm.1⟩, by
    intro c hc
    rcases List.mem_cons.1 hc with rfl | hc
    · exact hv
    · exact hm.2 c hc⟩

/-- A write above a bound keeps the memory above it. -/
theorem memWrite_above {m : Memory} {a n : Nat} {v : Byte} (hm : memAbove n m) (ha : n < a) : memAbove n (memWrite m a v) := by
  induction m with
  | nil =>
    unfold memWrite; split
    · intro c hc; simp at hc
    · intro c hc; simp at hc; subst hc; exact ha
  | cons p r ih =>
    obtain ⟨b, u⟩ := p
    have hb : n < b := hm (b, u) (by simp)
    have hr : memAbove n r := fun c hc => hm c (by simp [hc])
    unfold memWrite
    split
    · split
      · exact hr
      · intro c hc
        rcases List.mem_cons.1 hc with rfl | hc
        · exact ha
        · exact hr c hc
    · split
      · split
        · exact hm
        · intro c hc
          rcases List.mem_cons.1 hc with rfl | hc
          · exact ha
          · exact hm c hc
      · intro c hc
        rcases List.mem_cons.1 hc with rfl | hc
        · exact hb
        · exact ih hr c hc

/-- Writing one byte keeps the canonical form. -/
theorem memWrite_wf {m : Memory} (a : Nat) (v : Byte) (h : Memory.wf m) : Memory.wf (memWrite m a v) := by
  induction m with
  | nil =>
    unfold memWrite; split
    · exact h
    · rename_i hv; exact Memory.wf_cons h (fun c hc => by simp at hc) hv
  | cons p r ih =>
    obtain ⟨b, u⟩ := p
    have hr := Memory.wf_tail h
    have hab : memAbove b r := Memory.wf_above h
    unfold memWrite
    split
    · rename_i hba; subst hba
      split
      · exact hr
      · rename_i hv; exact Memory.wf_cons hr hab hv
    · split
      · rename_i hlt
        split
        · exact h
        · rename_i hv
          refine Memory.wf_cons h ?_ hv
          intro c hc
          rcases List.mem_cons.1 hc with rfl | hc
          · exact hlt
          · exact Nat.lt_trans hlt (hab c hc)
      · rename_i hne hge
        exact Memory.wf_cons (ih hr) (memWrite_above hab (by omega)) (h.2 (b, u) (by simp))

/-- Writing bytes keeps the canonical form. -/
theorem memWriteBytes_wf {m : Memory} (a : Nat) (bs : List Byte) (h : Memory.wf m) : Memory.wf (memWriteBytes m a bs) := by
  induction bs generalizing m a with
  | nil => exact h
  | cons b r ih => exact ih (a + 1) (memWrite_wf a b h)

/-- Writing a number keeps the canonical form. -/
theorem memWriteNat_wf {m : Memory} (a n v : Nat) (h : Memory.wf m) : Memory.wf (memWriteNat m a n v) :=
  memWriteBytes_wf a _ h

/-- What passes a test of a canonical memory is canonical. -/
theorem filter_wf {m : Memory} (p : Host.Cell → Bool) (h : Memory.wf m) : Memory.wf (m.filter p) :=
  ⟨h.1.sublist List.filter_sublist, fun c hc => h.2 c (List.mem_of_mem_filter hc)⟩

/-- Clearing a range keeps the canonical form. -/
theorem memClear_wf {m : Memory} (a n : Nat) (h : Memory.wf m) : Memory.wf (memClear m a n) := filter_wf _ h

/-- A byte reads back as it was written. -/
theorem memRead_memWrite_self {m : Memory} (a : Nat) (v : Byte) (h : Memory.wf m) : memRead (memWrite m a v) a = v := by
  induction m with
  | nil => by_cases hv : v = 0#8 <;> simp [memWrite, memRead, hv]
  | cons p r ih =>
    obtain ⟨b, u⟩ := p
    have hab : memAbove b r := Memory.wf_above h
    by_cases hba : b = a
    · subst hba
      by_cases hv : v = 0#8
      · simp [memWrite, hv, memRead_above hab]
      · simp [memWrite, memRead, hv]
    · by_cases hlt : a < b
      · by_cases hv : v = 0#8
        · have : memAbove a ((b, u) :: r) := by
            intro c hc
            rcases List.mem_cons.1 hc with rfl | hc
            · exact hlt
            · exact Nat.lt_trans hlt (hab c hc)
          simp [memWrite, hba, hlt, hv, memRead_above this]
        · simp [memWrite, memRead, hba, hlt, hv]
      · simp [memWrite, memRead, hba, hlt, ih (Memory.wf_tail h)]

/-- Writing a byte leaves every other byte alone. -/
theorem memRead_memWrite_ne {m : Memory} {a x : Nat} (v : Byte) (h : Memory.wf m) (hx : x ≠ a) :
    memRead (memWrite m a v) x = memRead m x := by
  induction m with
  | nil => by_cases hv : v = 0#8 <;> simp [memWrite, memRead, hv, Ne.symm hx]
  | cons p r ih =>
    obtain ⟨b, u⟩ := p
    by_cases hba : b = a
    · subst hba
      by_cases hv : v = 0#8 <;> simp [memWrite, memRead, hv, Ne.symm hx]
    · by_cases hlt : a < b
      · by_cases hv : v = 0#8 <;> simp [memWrite, memRead, hba, hlt, hv, Ne.symm hx]
      · simp [memWrite, memRead, hba, hlt, ih (Memory.wf_tail h)]

/-- Writing bytes leaves every byte outside them alone. -/
theorem memRead_memWriteBytes_outside {m : Memory} {a x : Nat} (bs : List Byte) (h : Memory.wf m)
    (hx : x < a ∨ a + bs.length ≤ x) : memRead (memWriteBytes m a bs) x = memRead m x := by
  induction bs generalizing m a with
  | nil => rfl
  | cons b r ih =>
    simp only [List.length_cons] at hx
    have hne : x ≠ a := by omega
    rw [memWriteBytes, ih (memWrite_wf a b h) (by omega), memRead_memWrite_ne b h hne]

/-- A byte of what was written reads back. -/
theorem memRead_memWriteBytes_inside {m : Memory} {a i : Nat} (bs : List Byte) (h : Memory.wf m) (hi : i < bs.length) :
    memRead (memWriteBytes m a bs) (a + i) = bs[i] := by
  induction bs generalizing m a i with
  | nil => simp at hi
  | cons b r ih =>
    cases i with
    | zero =>
      rw [memWriteBytes, memRead_memWriteBytes_outside r (memWrite_wf a b h) (by omega)]
      simpa using memRead_memWrite_self a b h
    | succ k =>
      rw [memWriteBytes]
      have := ih (m := memWrite m a b) (a := a + 1) (i := k) (memWrite_wf a b h) (by simpa using hi)
      simpa [Nat.add_assoc, Nat.add_comm 1 k] using this

end Sys2Proof.Machine
end

