-- ==== Sys2Proof/Laws/Outcome.lean ====
section
/-! SUPPORT. How a word or an event can end, said once, and what reading back a number or bytes gives. -/

namespace Sys2Proof.Machine

/-- Issuing a word ends in one of three ways: the clocks have stopped, the core runs no coroutine, or a next
state whose chip alone may differ. -/
theorem runChecked_outcome (pre : Coroutine → Option Nat) (i : Instr) (t : Bool) (f : WordBody) (s : State) :
    (s.keep.power.halted = true ∧ runChecked pre i t f s = .fault .clocksStopped)
    ∨ runChecked pre i t f s = .refused .noCoroutine
    ∨ ∃ c, runChecked pre i t f s = .next { s with chip := c } := by
  have st : ∀ key co (r : Issue), ∃ c, r.state s key co t = { s with chip := c } := by
    intro key co r
    cases r with
    | stall => exact ⟨s.chip, rfl⟩
    | retire c => exact ⟨_, rfl⟩
    | gone c => exact ⟨_, rfl⟩
  unfold runChecked
  by_cases hh : s.keep.power.halted = true
  · exact .inl ⟨hh, by simp [hh]⟩
  · refine .inr ?_
    simp only [hh]
    cases s.chip.runningKey s.cur with
    | none => exact .inl rfl
    | some key =>
      cases hc : s.chip.co key with
      | none => exact .inl (by simp [hc])
      | some co =>
        refine .inr ?_
        simp only [hc]
        cases pre co with
        | some cause =>
          obtain ⟨c, e⟩ := st key co (trapWord s.chip key co cause i)
          exact ⟨c, by simp [e]⟩
        | none =>
          by_cases h2 : (co.pp && !t) = true
          · obtain ⟨c, e⟩ := st key co (s.chip.prefixTrap key co)
            exact ⟨c, by simp [h2, e]⟩
          · obtain ⟨c, e⟩ := st key co (f s.chip key co)
            exact ⟨c, by simp [h2, e]⟩

/-- A word changes only the chip. -/
theorem runChecked_next {pre : Coroutine → Option Nat} {i : Instr} {t : Bool} {f : WordBody} {s u : State}
    (h : runChecked pre i t f s = .next u) : u.keep = s.keep ∧ u.agenda = s.agenda ∧ u.cur = s.cur := by
  obtain ⟨_, e⟩ | e | ⟨c, e⟩ := runChecked_outcome pre i t f s
  · rw [e] at h; cases h
  · rw [e] at h; cases h
  · rw [e] at h; cases h; exact ⟨rfl, rfl, rfl⟩

/-- The same of a word without a decode check of its own. -/
theorem runWord_next {t : Bool} {f : WordBody} {s u : State} (h : runWord t f s = .next u) :
    u.keep = s.keep ∧ u.agenda = s.agenda ∧ u.cur = s.cur := runChecked_next h

/-- Once a thermal shutdown has stopped the clocks no word runs (R24). -/
theorem runChecked_halted {s : State} (h : s.keep.power.halted = true) (pre : Coroutine → Option Nat) (i : Instr) (t : Bool)
    (f : WordBody) : runChecked pre i t f s = .fault .clocksStopped := by
  simp [runChecked, h]

/-- An event of the chip changes only the chip. -/
theorem onChip_next {f : Chip → Chip} {s u : State} (h : onChip f s = .next u) :
    u.keep = s.keep ∧ u.agenda = s.agenda ∧ u.cur = s.cur ∧ (u.chip = s.chip ∨ u.chip = f s.chip) := by
  unfold onChip at h
  cases h
  split <;> simp

@[simp] theorem leBytes_length (n v : Nat) : (leBytes n v).length = n := by
  induction n generalizing v with
  | zero => rfl
  | succ k ih => simp [leBytes, ih]

/-- The number that the lowest `n` bytes of a number stand for. -/
theorem leNat_leBytes (n v : Nat) : leNat (leBytes n v) = v % 256 ^ n := by
  induction n generalizing v with
  | zero => simp [leBytes, leNat, Nat.mod_one]
  | succ k ih =>
    show (BitVec.ofNat 8 v).toNat + 256 * leNat (leBytes k (v / 256)) = _
    rw [ih, BitVec.toNat_ofNat, pow_succ' (256 : ℕ) k, Nat.mod_mul]

@[simp] theorem memReadBytes_length (m : Memory) (a n : Nat) : (memReadBytes m a n).length = n := by simp [memReadBytes]

/-- Bytes written read back. -/
theorem memReadBytes_memWriteBytes (m : Memory) (a : Nat) (bs : List Byte) (h : Memory.wf m) :
    memReadBytes (memWriteBytes m a bs) a bs.length = bs := by
  apply List.ext_getElem (by simp)
  intro i h1 h2
  simp [memReadBytes, memRead_memWriteBytes_inside bs h h2]

/-- A number written reads back, modulo its bytes. -/
theorem memReadNat_memWriteNat (m : Memory) (a n v : Nat) (h : Memory.wf m) : memReadNat (memWriteNat m a n v) a n = v % 256 ^ n := by
  have := memReadBytes_memWriteBytes m a (leBytes n v) h
  rw [leBytes_length] at this
  rw [memReadNat, memWriteNat, this, leNat_leBytes]

/-- Bytes outside what is written read as before. -/
theorem memReadBytes_memWriteBytes_apart {m : Memory} {a b n : Nat} (bs : List Byte) (h : Memory.wf m)
    (hd : b + n ≤ a ∨ a + bs.length ≤ b) : memReadBytes (memWriteBytes m a bs) b n = memReadBytes m b n := by
  apply List.ext_getElem (by simp)
  intro i h1 h2
  have hi : i < n := by simpa using h1
  simp only [memReadBytes, List.getElem_map, List.getElem_range]
  exact memRead_memWriteBytes_outside bs h (by omega)

end Sys2Proof.Machine
end

