-- ==== Sys2Proof/Laws/Slices.lean ====
section
/-! SUPPORT. What moving lines between the slices and DRAM can do, said once: no byte of a clean line changes, nor of a line that
is not moved, and nothing but what slices, DRAM and the compass hold. -/

namespace Sys2Proof.Machine

theorem of_mem_mset {α : Type} {m : AMap α} {k : Nat} {v : α} {p : Nat × α} (h : p ∈ mset m k v) : p = (k, v) ∨ p ∈ m := by
  induction m with
  | nil => simp [mset] at h; exact .inl h
  | cons q r ih =>
    obtain ⟨j, u⟩ := q
    unfold mset at h
    split at h
    · rcases List.mem_cons.1 h with h | h
      · exact .inl h
      · exact .inr (by simp [h])
    · split at h
      · rcases List.mem_cons.1 h with h | h
        · exact .inl h
        · exact .inr h
      · rcases List.mem_cons.1 h with h | h
        · exact .inr (by simp [h])
        · rcases ih h with h | h
          · exact .inl h
          · exact .inr (by simp [h])

theorem mem_of_mget {α : Type} {m : AMap α} {k : Nat} {v : α} (h : mget m k = some v) : (k, v) ∈ m := by
  induction m with
  | nil => cases h
  | cons q r ih =>
    obtain ⟨j, u⟩ := q
    unfold mget at h
    split at h
    · rename_i e; cases h; simp [e]
    · simp [ih h]

@[simp] theorem copyKey_line (d l : Nat) : copyKey d l / 4 = l := by unfold copyKey; omega

theorem copyAt_mem {c : Chip} {d l : Nat} {p : LineCopy} (h : c.copyAt d l = some p) : (copyKey d l, p) ∈ c.copies := mem_of_mget h

/-- A slice's copy of a clean line shows memory's bytes. -/
theorem Chip.Clean.copy {c : Chip} {l : Nat} (h : c.Clean l) {d : Nat} {p : LineCopy} (hp : c.copyAt d l = some p) : p.data = none :=
  h.1 _ (copyAt_mem hp) (by simp)

/-- A line stays clean while its copies and the bytes for which DRAM is older only grow fewer. -/
theorem Chip.Clean.fewer {c d : Chip} {L : Nat} (h : c.Clean L) (hm : ∀ p ∈ d.copies, p ∈ c.copies)
    (hd : ∀ e ∈ d.dramOld, e.1 / 128 = L → e ∈ c.dramOld) : d.Clean L :=
  ⟨fun p hp => h.1 p (hm p hp), fun e he hl => h.2 e (hd e he hl) hl⟩

/-- A line stays clean when a copy is put that shows memory's bytes, or is of another line. -/
theorem Chip.Clean.put {c d : Chip} {L : Nat} (h : c.Clean L) (n l : Nat) (q : LineCopy) (hq : l = L → q.data = none)
    (hm : d.copies = mset c.copies (copyKey n l) q) (hd : ∀ e ∈ d.dramOld, e.1 / 128 = L → e ∈ c.dramOld) : d.Clean L := by
  refine ⟨fun p hp hl => ?_, fun e he hl => h.2 e (hd e he hl) hl⟩
  rw [hm] at hp
  rcases of_mem_mset hp with rfl | hp
  · exact hq (by simpa using hl)
  · exact h.1 p hp hl

/-! ### What moving lines does -/

/-- `d` is `c` after the lines of `T` have been moved: only what slices, DRAM and the compass hold has changed. What software
reads of memory is as before outside those lines, and in clean lines, which stay clean. -/
structure Moves (T : Nat → Prop) (c d : Chip) : Prop where
  frame : d = { c with mem := d.mem, dramOld := d.dramOld, compass := d.compass, combiner := d.combiner, latent := d.latent,
                       found := d.found, copies := d.copies, uses := d.uses, links := { c.links with cxlBad := d.links.cxlBad } }
  wf : Memory.wf c.mem → Memory.wf d.mem
  clean : ∀ L, c.Clean L → d.Clean L ∧ (Memory.wf c.mem → ∀ a, a / 128 = L → memRead d.mem a = memRead c.mem a)
  apart : Memory.wf c.mem → ∀ a, ¬ T (a / 128) → memRead d.mem a = memRead c.mem a

theorem Moves.refl (T : Nat → Prop) (c : Chip) : Moves T c c := ⟨rfl, id, fun _ h => ⟨h, fun _ _ _ => rfl⟩, fun _ _ _ => rfl⟩

theorem Moves.trans {T : Nat → Prop} {a b c : Chip} (h : Moves T a b) (k : Moves T b c) : Moves T a c := by
  refine ⟨?_, fun w => k.wf (h.wf w), fun L w => ?_, fun w x hx => (k.apart (h.wf w) x hx).trans (h.apart w x hx)⟩
  · rw [k.frame, h.frame]
  · exact ⟨(k.clean L (h.clean L w).1).1,
      fun v a ha => ((k.clean L (h.clean L w).1).2 (h.wf v) a ha).trans ((h.clean L w).2 v a ha)⟩

/-- More lines may be named than are moved. -/
theorem Moves.mono {T U : Nat → Prop} {c d : Chip} (h : Moves T c d) (k : ∀ L, T L → U L) : Moves U c d :=
  ⟨h.frame, h.wf, h.clean, fun w a ha => h.apart w a (fun t => ha (k _ t))⟩

theorem Moves.cos {T : Nat → Prop} {c d : Chip} (h : Moves T c d) : d.cos = c.cos := by rw [h.frame]
theorem Moves.cores {T : Nat → Prop} {c d : Chip} (h : Moves T c d) : d.cores = c.cores := by rw [h.frame]
theorem Moves.tlb {T : Nat → Prop} {c d : Chip} (h : Moves T c d) : d.tlb = c.tlb := by rw [h.frame]
theorem Moves.roots {T : Nat → Prop} {c d : Chip} (h : Moves T c d) : d.roots = c.roots := by rw [h.frame]
theorem Moves.msgs {T : Nat → Prop} {c d : Chip} (h : Moves T c d) : d.msgs = c.msgs := by rw [h.frame]
theorem Moves.outbox {T : Nat → Prop} {c d : Chip} (h : Moves T c d) : d.outbox = c.outbox := by rw [h.frame]

/-- Every byte reads as before when the lines moved are clean. -/
theorem Moves.mem {T : Nat → Prop} {c d : Chip} (h : Moves T c d) (w : Memory.wf c.mem) (k : ∀ L, T L → c.Clean L) (a : Nat) :
    memRead d.mem a = memRead c.mem a := by
  by_cases t : T (a / 128)
  · exact (h.clean _ (k _ t)).2 w a rfl
  · exact h.apart w a t

/-- A change of the compass, of latent errors, or of what is reported moves no line. -/
theorem Moves.quiet {T : Nat → Prop} {c d : Chip} (hm : d.mem = c.mem) (ho : d.dramOld = c.dramOld) (hc : d.copies = c.copies)
    (hf : d = { c with mem := d.mem, dramOld := d.dramOld, compass := d.compass, combiner := d.combiner, latent := d.latent,
                       found := d.found, copies := d.copies, uses := d.uses, links := { c.links with cxlBad := d.links.cxlBad } }) :
    Moves T c d :=
  ⟨hf, fun w => by rw [hm]; exact w,
    fun L h => ⟨h.fewer (by rw [hc]; exact fun _ => id) (by rw [ho]; exact fun _ h _ => h), fun _ a _ => by rw [hm]⟩,
    fun _ a _ => by rw [hm]⟩

variable {T : Nat → Prop}

theorem moves_setLatent (c : Chip) (l : Nat) (e : Latent) : Moves T c (c.setLatent l e) := .quiet rfl rfl rfl rfl
theorem moves_report (c : Chip) (e : MemErr) : Moves T c (c.report e) := .quiet rfl rfl rfl rfl
theorem moves_setCompass (c : Chip) (l : Nat) (w : BitVec 16) : Moves T c (c.setCompass l w) := .quiet rfl rfl rfl rfl
theorem moves_setPoison (c : Chip) (l : Nat) (p : Bool) : Moves T c (c.setPoison l p) := .quiet rfl rfl rfl rfl

theorem moves_grantCompass (c : Chip) (l : Nat) (w : BitVec 16) : Moves T c (c.grantCompass l w) := by
  unfold Chip.grantCompass
  simp only
  repeat' split
  all_goals first | exact .refl _ c | exact .quiet rfl rfl rfl rfl

theorem moves_flushPoison (c : Chip) (p : LineCopy) (l : Nat) : Moves T c (c.flushPoison p l) := by
  unfold Chip.flushPoison
  split
  · exact .quiet rfl rfl rfl rfl
  · exact .refl _ c

theorem moves_readSector (c : Chip) (l s : Nat) (b : Bool) : Moves T c (c.readSector l s b) := by
  unfold Chip.readSector
  simp only
  repeat' split
  all_goals first
    | exact .refl _ c
    | exact (moves_setLatent ..).trans (moves_report ..)
    | exact ((moves_setLatent ..).trans (moves_setPoison ..)).trans (moves_report ..)
    | exact moves_setLatent ..

theorem moves_readSectors (c : Chip) (l : Nat) (n : BitVec 2) : Moves T c (c.readSectors l n) := by
  unfold Chip.readSectors
  simp only
  repeat' split
  · exact (moves_readSector ..).trans (moves_readSector ..)
  · exact moves_readSector ..
  · exact moves_readSector ..
  · exact .refl _ c

/-- A copy is put that shows memory's bytes where its line is clean. -/
theorem moves_put {c d : Chip} (n l : Nat) (q : LineCopy) (hq : c.Clean l → q.data = none)
    (hf : d = { c with copies := mset c.copies (copyKey n l) q, uses := d.uses }) : Moves T c d := by
  rw [hf]
  exact ⟨rfl, id, fun L h => ⟨h.put n l q (by intro e; subst e; exact hq h) rfl (fun _ h _ => h), fun _ _ _ => rfl⟩, fun _ _ _ => rfl⟩

theorem moves_dropCopy (c : Chip) (n l : Nat) : Moves T c (c.dropCopy n l) :=
  ⟨rfl, id, fun _ h => ⟨h.fewer (fun _ => List.mem_of_mem_filter) (fun _ h _ => h), fun _ _ _ => rfl⟩, fun _ _ _ => rfl⟩

/-- A copy changes: it shows memory's bytes where its line is clean. -/
theorem moves_modCopy (c : Chip) (n l : Nat) (f : LineCopy → LineCopy)
    (hq : c.Clean l → ∀ p, c.copyAt n l = some p → (f p).data = none) : Moves T c (c.modCopy n l f) := by
  unfold Chip.modCopy
  cases h : c.copyAt n l with
  | none => exact .refl _ c
  | some p => exact moves_put n l (f p) (fun hc => hq hc p h) rfl

theorem moves_modCopy_data (c : Chip) (n l : Nat) (f : LineCopy → LineCopy) (hf : ∀ p, (f p).data = p.data) :
    Moves T c (c.modCopy n l f) :=
  moves_modCopy c n l f (fun h p hp => (hf p).trans (h.copy hp))

/-! ### Write-backs -/

/-- Bytes written to DRAM alone. -/
theorem placeAll_setDram (c : Chip) (pa : Nat) (vs : List Byte) :
    c.placeAll pa vs Chip.setDram = { c with dramOld := (c.placeAll pa vs Chip.setDram).dramOld }
      ∧ ∀ e ∈ (c.placeAll pa vs Chip.setDram).dramOld, e ∈ c.dramOld ∨ pa ≤ e.1 ∧ e.1 < pa + vs.length := by
  induction vs generalizing c pa with
  | nil => exact ⟨rfl, fun e he => .inl he⟩
  | cons v r ih =>
    obtain ⟨h1, h2⟩ := ih (c.setDram pa v) (pa + 1)
    refine ⟨h1, fun e he => ?_⟩
    rcases h2 e he with h | h
    · simp only [Chip.setDram] at h
      split at h
      · exact .inl (List.mem_of_mem_filter h)
      · rcases of_mem_mset h with rfl | h
        · exact .inr (by simp)
        · exact .inl h
    · exact .inr (by simp; omega)

theorem flushPoison_copies (c : Chip) (p : LineCopy) (l : Nat) : (c.flushPoison p l).copies = c.copies := by
  unfold Chip.flushPoison; split <;> rfl

theorem flushSector_copies (c : Chip) (p : LineCopy) (l s : Nat) : (c.flushSector p l s).copies = c.copies := by
  unfold Chip.flushSector
  cases p.data with
  | none => rfl
  | some b => simp only; rw [(placeAll_setDram ..).1]; rfl

theorem moves_flushSector (c : Chip) (p : LineCopy) (n l s : Nat) (hs : s < 2) (hp : (copyKey n l, p) ∈ c.copies) :
    Moves T c (c.flushSector p l s) := by
  unfold Chip.flushSector
  cases hd : p.data with
  | none =>
    exact ⟨rfl, id, fun L h => ⟨h.fewer (fun _ => id) (fun _ h _ => List.mem_of_mem_filter h), fun _ _ _ => rfl⟩, fun _ _ _ => rfl⟩
  | some b =>
    simp only
    refine (moves_setLatent c l ((c.latentOf l).setSector s 0)).trans ?_
    obtain ⟨h1, h2⟩ := placeAll_setDram (c.setLatent l ((c.latentOf l).setSector s 0)) (sectorBase l s) ((b.drop (64 * s)).take 64)
    rw [h1]
    refine ⟨rfl, id, fun L h => ⟨h.fewer (fun _ => id) (fun e he hl => ?_), fun _ _ _ => rfl⟩, fun _ _ _ => rfl⟩
    rcases h2 e he with h3 | ⟨h3, h4⟩
    · exact h3
    · have hl2 : L = l := by
        simp only [sectorBase, List.length_take] at h3 h4
        rw [← hl]; omega
      subst hl2
      have := h.1 _ hp (by simp)
      rw [hd] at this; cases this

theorem moves_flushCopy (c : Chip) (n l : Nat) : Moves T c (c.flushCopy n l) := by
  unfold Chip.flushCopy
  cases hp : c.copyAt n l with
  | none => exact .refl _ c
  | some p =>
    simp only
    have h0 : Moves T c (c.flushPoison p l) := moves_flushPoison ..
    have k0 : (copyKey n l, p) ∈ (c.flushPoison p l).copies := by rw [flushPoison_copies]; exact copyAt_mem hp
    refine Moves.trans ?_ (moves_modCopy_data _ n l _ (fun _ => rfl))
    have h1 : Moves T c (if p.dirty.getLsbD 0 = true then (c.flushPoison p l).flushSector p l 0 else c.flushPoison p l)
        ∧ (copyKey n l, p) ∈ (if p.dirty.getLsbD 0 = true then (c.flushPoison p l).flushSector p l 0 else c.flushPoison p l).copies := by
      split
      · exact ⟨h0.trans (moves_flushSector _ p n l 0 (by omega) k0), by rw [flushSector_copies]; exact k0⟩
      · exact ⟨h0, k0⟩
    split
    · exact h1.1.trans (moves_flushSector _ p n l 1 (by omega) h1.2)
    · exact h1.1

theorem moves_giveUp (c : Chip) (n l : Nat) : Moves T c (c.giveUp n l) := (moves_flushCopy ..).trans (moves_dropCopy ..)

theorem moves_flushSpires (c : Chip) (l : Nat) (ds : List Nat) : Moves T c (c.flushSpires l ds) := by
  induction ds generalizing c with
  | nil => exact .refl _ c
  | cons d r ih => exact (moves_giveUp c d l).trans (ih _)

theorem moves_dropMask (c : Chip) (l m : Nat) : Moves T c (c.dropMask l m) := moves_flushSpires ..

/-- A copy that is put where the copies of its line are `p` and `h` before, and shows memory's bytes if both do. -/
theorem moves_sendHome (c : Chip) (l home n : Nat) : Moves T c (c.sendHome l home n) := by
  unfold Chip.sendHome
  cases hp : c.copyAt n l with
  | none => exact .refl _ c
  | some p =>
    simp only
    split
    · exact moves_dropCopy ..
    · cases hh : c.copyAt home l with
      | some h =>
        simp only
        refine ⟨rfl, id, fun L k => ⟨?_, fun _ _ _ => rfl⟩, fun _ _ _ => rfl⟩
        have k' : (c.dropCopy n l).Clean L := ((moves_dropCopy (T := T) c n l).clean L k).1
        refine k'.put home l _ (fun e => ?_) rfl (fun _ h _ => h)
        subst e
        simp [k.copy hp, k.copy hh]
      | none =>
        simp only
        split
        · refine ⟨rfl, id, fun L k => ⟨?_, fun _ _ _ => rfl⟩, fun _ _ _ => rfl⟩
          have k' : (c.dropCopy n l).Clean L := ((moves_dropCopy (T := T) c n l).clean L k).1
          exact k'.put home l _ (fun e => by subst e; exact k.1 _ (copyAt_mem hp) (by simp)) rfl (fun _ h _ => h)
        · exact moves_giveUp ..

theorem moves_evict (c : Chip) (n l : Nat) : Moves T c (c.evict n l) := by
  unfold Chip.evict
  cases c.copyAt n l with
  | none => exact .refl _ c
  | some p => simp only; split <;> first | exact moves_giveUp .. | exact moves_sendHome ..

theorem moves_takeWay (c : Chip) (n l : Nat) (ws : List Nat) : Moves T c (c.takeWay n l ws).2 := by
  unfold Chip.takeWay
  repeat' split
  all_goals first | exact .refl _ c | exact moves_evict ..

theorem moves_putCopy (c : Chip) (n l : Nat) (p : LineCopy) (h : c.Clean l → p.data = none) : Moves T c (c.putCopy n l p) :=
  moves_put n l { p with used := c.uses } h rfl

theorem moves_newCopy (c : Chip) (n l : Nat) (m : CopyMode) (ws : List Nat) : Moves T c (c.newCopy n l m ws) :=
  (moves_takeWay c n l ws).trans (moves_putCopy _ n l _ (fun _ => rfl))

/-! ### Fills -/

theorem foldl_memWrite_wf (es : List (Nat × Byte)) (m : Memory) (h : Memory.wf m) :
    Memory.wf (es.foldl (fun m e => memWrite m e.1 e.2) m) := by
  induction es generalizing m with
  | nil => exact h
  | cons e r ih => exact ih _ (memWrite_wf _ _ h)

theorem foldl_memWrite_apart (es : List (Nat × Byte)) (m : Memory) (h : Memory.wf m) (a : Nat) (ha : ∀ e ∈ es, e.1 ≠ a) :
    memRead (es.foldl (fun m e => memWrite m e.1 e.2) m) a = memRead m a := by
  induction es generalizing m with
  | nil => rfl
  | cons e r ih =>
    rw [List.foldl_cons, ih _ (memWrite_wf _ _ h) (fun x hx => ha x (by simp [hx])),
      memRead_memWrite_ne _ h (Ne.symm (ha e (by simp)))]

theorem inSector_line {a l s : Nat} (hs : s < 2) (h : inSector a l s = true) : a / 128 = l := by
  simp only [inSector, decide_eq_true_eq] at h; omega

/-- A fill of a clean line's sector finds nothing that L2 does not show already. -/
theorem Chip.Clean.refill {c : Chip} {l : Nat} (h : c.Clean l) (s : Nat) (hs : s < 2) : c.refill l s = c := by
  have e : c.dramOld.filter (fun e => inSector e.1 l s) = [] := by
    rw [List.filter_eq_nil_iff]
    intro e he hi
    exact h.2 e he (inSector_line hs hi)
  simp [Chip.refill, e]

theorem moves_refill (c : Chip) (l s : Nat) (hs : s < 2) (hT : T l) : Moves T c (c.refill l s) := by
  refine ⟨rfl, fun w => foldl_memWrite_wf _ _ w, fun L h => ⟨h.fewer (fun _ => id) (fun e he _ => ?_), fun w a ha => ?_⟩, fun w a ha => ?_⟩
  · simp only [Chip.refill] at he
    split at he
    · exact he
    · exact List.mem_of_mem_filter he
  · have e : ∀ e ∈ c.dramOld.filter (fun e => inSector e.1 l s), e.1 / 128 = l := by
      intro e he
      exact inSector_line hs (by simpa using (List.mem_filter.1 he).2)
    by_cases hl : L = l
    · subst hl; rw [h.refill s hs]
    · exact foldl_memWrite_apart _ _ w a (fun x hx hxa => hl (by rw [← ha, ← hxa, e x hx]))
  · apply foldl_memWrite_apart _ _ w
    intro e he hea
    have := inSector_line hs (by simpa using (List.mem_filter.1 he).2)
    exact ha (by rw [← hea, this]; exact hT)

theorem Chip.Clean.sector {c : Chip} {l : Nat} (h : c.Clean l) (s : Nat) (hs : s < 2) :
    c.dramOld.any (fun e => inSector e.1 l s) = false := by
  rw [List.any_eq_false]
  intro e he hi
  exact h.2 e he (inSector_line hs hi)

/-- A copy is put after lines have moved: it shows memory's bytes where its line was clean. -/
theorem Moves.put {c d e : Chip} (h : Moves T c d) (n l : Nat) (q : LineCopy) (hq : c.Clean l → q.data = none)
    (hf : e = { d with copies := mset d.copies (copyKey n l) q, uses := e.uses }) : Moves T c e := by
  rw [hf]
  refine ⟨?_, h.wf, fun L k => ⟨(h.clean L k).1.put n l q (fun e => by subst e; exact hq k) rfl (fun _ h _ => h), (h.clean L k).2⟩, h.apart⟩
  conv_lhs => rw [h.frame]

theorem Moves.modCopy {c d : Chip} (h : Moves T c d) (n l : Nat) (f : LineCopy → LineCopy)
    (hq : c.Clean l → ∀ p, d.copyAt n l = some p → (f p).data = none) : Moves T c (d.modCopy n l f) := by
  unfold Chip.modCopy
  cases e : d.copyAt n l with
  | none => exact h
  | some p => exact h.put n l (f p) (fun k => hq k p e) rfl

theorem moves_readForFill (c : Chip) (n l s : Nat) (p : LineCopy) : Moves T c (c.readForFill n l s p) := by
  unfold Chip.readForFill
  simp only
  split
  · exact (moves_readSector ..).trans (moves_report ..)
  · exact moves_readSector ..

@[simp] theorem gains_data (p : LineCopy) (s : Nat) (b : Bool) : (p.gains s b).data = p.data := rfl

theorem moves_takeSector (c : Chip) (n l s : Nat) (p : LineCopy) (hs : s < 2) (hT : T l) (hp : c.Clean l → p.data = none) :
    Moves T c (c.takeSector n l s p) := by
  unfold Chip.takeSector
  simp only
  split
  · refine (moves_refill c l s hs hT).modCopy n l _ (fun k q _ => ?_)
    simp [hp k]
  · refine (Moves.refl T c).modCopy n l _ (fun k q _ => ?_)
    simp [hp k, k.sector s hs]

/-- A sector of a copy is filled from DRAM. -/
theorem moves_fillDram (c : Chip) (n l s : Nat) (p : LineCopy) (hs : s < 2) (hT : T l) (hp : c.copyAt n l = some p) :
    Moves T c (c.fillDram n l s p) := by
  refine (moves_readForFill c n l s p).trans (moves_takeSector _ n l s p hs hT (fun k => ?_))
  have e : (c.readForFill n l s p).copies = c.copies := by
    unfold Chip.readForFill Chip.readSector
    simp only
    repeat' split
    all_goals rfl
  exact k.1 (copyKey n l, p) (by rw [e]; exact copyAt_mem hp) (copyKey_line n l)

theorem moves_fillSector (c : Chip) (n l home s : Nat) (hs : s < 2) (hT : T l) : Moves T c (c.fillSector n l home s) := by
  unfold Chip.fillSector
  cases hp : c.copyAt n l with
  | none => exact .refl _ c
  | some p =>
    simp only
    split
    · exact .refl _ c
    · split
      · rename_i h hh
        split
        · refine (Moves.refl T c).modCopy n l _ (fun k q _ => ?_)
          have : c.copyAt home l = some h := by
            split at hh
            · cases hh
            · exact hh
          simp [k.copy hp, k.copy this]
        · exact moves_fillDram c n l s p hs hT hp
      · exact moves_fillDram c n l s p hs hT hp

theorem moves_fillSectors (c : Chip) (n l home : Nat) (need : BitVec 2) (hT : T l) : Moves T c (c.fillSectors n l home need) := by
  unfold Chip.fillSectors
  simp only
  have h : Moves T c (if need.getLsbD 0 = true then c.fillSector n l home 0 else c) := by
    split
    · exact moves_fillSector c n l home 0 (by omega) hT
    · exact .refl _ c
  split
  · exact h.trans (moves_fillSector _ n l home 1 (by omega) hT)
  · exact h

/-! ### Transactions -/

theorem moves_poisonRow (c : Chip) (l home : Nat) : Moves T c (c.poisonRow l home) := (moves_flushSpires ..).trans (moves_setCompass ..)

theorem moves_soundWord (c : Chip) (l home : Nat) : Moves T c (c.soundWord l home) := by
  have h : Moves T c (c.readWord l home) := by
    unfold Chip.readWord
    simp only
    repeat' split
    · exact .refl _ c
    · exact ((moves_setLatent ..).trans (moves_poisonRow ..)).trans (moves_report ..)
    · exact moves_setLatent ..
  refine h.trans ?_
  show Moves T _ ((c.readWord l home).resolveWord l home)
  unfold Chip.resolveWord
  split
  · exact moves_poisonRow ..
  · exact .refl _ _

theorem moves_recallNamed (c : Chip) (l home : Nat) : Moves T c (c.recallNamed l home) := by
  unfold Chip.recallNamed Chip.recallOwner
  simp only
  repeat' split
  · exact moves_dropMask ..
  · exact moves_sendHome ..
  · exact (moves_sendHome ..).trans (moves_dropMask ..)
  · exact .refl _ c

theorem moves_cleanHome (c : Chip) (l home : Nat) : Moves T c (c.cleanHome l home) := by
  unfold Chip.cleanHome
  split
  · exact moves_flushCopy ..
  · exact .refl _ c

theorem moves_held (c : Chip) (b : Bool) (d l : Nat) (m : CopyMode) (ws : List Nat) : Moves T c (if b then c else c.newCopy d l m ws) := by
  split
  · exact .refl _ c
  · exact moves_newCopy ..

theorem moves_homeRead (c : Chip) (l home : Nat) (ws : List Nat) (hT : T l) : Moves T c (c.homeRead l home ws) := by
  unfold Chip.homeRead Chip.recallOwner
  simp only
  have h : Moves T c (if cState (c.compassOf l) = 2 ∨ cState (c.compassOf l) = 3 then c.sendHome l home (cOwner (c.compassOf l)) else c) := by
    split
    · exact moves_sendHome ..
    · exact .refl _ c
  exact (h.trans (moves_held ..)).trans (moves_fillSectors _ home l home 3 hT)

theorem moves_homeWrite (c : Chip) (l home : Nat) (ws : List Nat) (need : BitVec 2) (hT : T l) : Moves T c (c.homeWrite l home ws need) := by
  unfold Chip.homeWrite
  simp only
  exact ((moves_recallNamed ..).trans (moves_held ..)).trans (moves_fillSectors _ home l home need hT)

theorem moves_copyFrom (c : Chip) (l n o : Nat) (m : CopyMode) (b : Bool) (ws : List Nat) : Moves T c (c.copyFrom l n o m b ws) := by
  unfold Chip.copyFrom
  cases hp : c.copyAt o l with
  | none => exact .refl _ c
  | some p => exact (moves_newCopy ..).modCopy n l _ (fun k q _ => k.1 _ (copyAt_mem hp) (by simp))

theorem moves_share (c : Chip) (l n : Nat) (w : BitVec 16) (ws : List Nat) : Moves T c (c.share l n w ws) :=
  (moves_grantCompass ..).trans (moves_newCopy ..)

theorem moves_shareFrom (c : Chip) (l n o : Nat) (w : BitVec 16) (m : CopyMode) (ws : List Nat) : Moves T c (c.shareFrom l n o w m ws) := by
  unfold Chip.shareFrom
  refine Moves.trans (Moves.trans (moves_grantCompass c l w) (moves_modCopy_data _ o l _ ?_)) (moves_copyFrom ..)
  exact fun _ => rfl

theorem moves_remoteRead (c : Chip) (l home n : Nat) (ws : List Nat) (hT : T l) : Moves T c (c.remoteRead l home n ws) := by
  unfold Chip.remoteRead
  simp only
  refine Moves.trans ((moves_cleanHome c l home).trans ?_) (moves_fillSectors _ n l home 3 hT)
  split
  · split
    · exact moves_shareFrom ..
    · exact moves_shareFrom ..
  · exact moves_share ..

theorem moves_takeLine (c : Chip) (l n o : Nat) (b : Bool) (ws : List Nat) : Moves T c (c.takeLine l n o b ws) := by
  unfold Chip.takeLine
  split
  · exact ((moves_giveUp ..).trans (moves_copyFrom ..)).trans (moves_dropCopy ..)
  · split
    · exact moves_modCopy_data _ _ _ _ (fun _ => rfl)
    · exact moves_newCopy ..

theorem moves_remoteWrite (c : Chip) (l home n : Nat) (ws : List Nat) (need : BitVec 2) (hT : T l) :
    Moves T c (c.remoteWrite l home n ws need) := by
  unfold Chip.remoteWrite
  simp only
  refine Moves.trans (Moves.trans (Moves.trans (Moves.trans ?_ (moves_takeLine ..)) (moves_grantCompass ..))
    (moves_fillSectors _ n l home need hT)) (moves_giveUp ..)
  split
  · exact (moves_cleanHome ..).trans (moves_dropMask ..)
  · exact moves_cleanHome ..

/-! ### Bringing a line to a spire -/

theorem moves_nameLine (c : Chip) (d l : Nat) (x : Xlat) : Moves T c (c.nameLine d l x) := by
  unfold Chip.nameLine
  exact Moves.trans (b := { c with uses := c.uses + 1 }) (.quiet rfl rfl rfl rfl) (moves_modCopy_data _ _ _ _ (fun _ => rfl))

/-- Bringing a line to a spire for reading moves that line, and others out of its way. -/
theorem moves_lineForRead (c : Chip) (spire : Nat) (x : Xlat) (l : Nat) (need : BitVec 2) (b : Bool) (hT : T l) :
    Moves T c (c.lineForRead spire x l need b) := by
  unfold Chip.lineForRead
  simp only
  refine Moves.trans ?_ (moves_nameLine ..)
  split
  · refine (moves_soundWord c l x.home).trans ?_
    split
    · exact moves_homeRead _ l _ _ hT
    · split
      · exact moves_fillSectors _ spire l x.home 3 hT
      · exact moves_remoteRead _ l _ _ _ hT
  · exact (moves_held ..).trans (moves_fillSectors _ _ l _ need hT)

/-- Bringing a line to a spire for writing moves that line, and others out of its way. -/
theorem moves_lineForWrite (c : Chip) (spire : Nat) (x : Xlat) (l : Nat) (need : BitVec 2) (b : Bool) (hT : T l) :
    Moves T c (c.lineForWrite spire x l need b) := by
  unfold Chip.lineForWrite
  simp only
  refine Moves.trans ?_ (moves_nameLine ..)
  split
  · refine (moves_soundWord c l x.home).trans ?_
    split
    · exact moves_homeWrite _ l _ _ need hT
    · split
      · exact moves_fillSectors _ spire l x.home need hT
      · exact moves_remoteWrite _ l _ _ _ need hT
  · exact (moves_held ..).trans (moves_fillSectors _ _ l _ need hT)

theorem moves_dropUnplaced (c : Chip) (d l : Nat) : Moves T c (c.dropUnplaced d l) := by
  unfold Chip.dropUnplaced
  repeat' split
  all_goals first | exact moves_evict .. | exact .refl _ c

/-! ### Reading -/

/-- What a copy of a clean line shows is memory's bytes. -/
theorem Chip.Clean.shown {c : Chip} {d pa n : Nat} (h : c.Clean (lineOf pa)) : c.shownBytes d pa n = memReadBytes c.mem pa n := by
  unfold Chip.shownBytes
  cases hp : c.copyAt d (lineOf pa) with
  | none => rfl
  | some p => simp [h.copy hp]

/-- A cached read within a clean line reads memory's bytes. -/
theorem readL2_clean (c : Chip) (spire : Nat) (x : Xlat) (n : Nat) (b : Bool) (w : Memory.wf c.mem) (h : c.Clean (lineOf x.pa))
    (hn : x.pa % 128 + n ≤ 128) (hw : inWindow ((c.wakeSpire x.home).residentPa x.pa) = false)
    (hr : (c.wakeSpire x.home).residentPa x.pa = x.pa) (hp : x.pol < 2) :
    (c.readL2 spire x n b).1 = memReadBytes c.mem x.pa n
      ∧ Moves (fun l => l = lineOf x.pa) (c.wakeSpire x.home) (c.readL2 spire x n b).2 := by
  have e : (c.wakeSpire x.home).mem = c.mem ∧ (c.wakeSpire x.home).copies = c.copies ∧ (c.wakeSpire x.home).dramOld = c.dramOld := by
    unfold Chip.wakeSpire; split <;> exact ⟨rfl, rfl, rfl⟩
  have h' : (c.wakeSpire x.home).Clean (lineOf x.pa) := ⟨by rw [e.2.1]; exact h.1, by rw [e.2.2]; exact h.2⟩
  have m := moves_lineForRead (T := fun l => l = lineOf x.pa) (c.wakeSpire x.home) spire x (lineOf x.pa) (sectorsOf x.pa n) b rfl
  have w' : Memory.wf (c.wakeSpire x.home).mem := by rw [e.1]; exact w
  have e2 : ¬ 2 ≤ x.pol := by omega
  rw [hr] at hw
  constructor
  · simp only [Chip.readL2, hr, hw, e2]
    rw [if_neg (by simp), if_neg (by simp), (m.clean _ h').1.shown]
    apply List.ext_getElem (by simp [memReadBytes])
    intro i h1 _
    have hi : i < n := by simpa [memReadBytes] using h1
    simp only [memReadBytes, List.getElem_map, List.getElem_range]
    rw [(m.clean _ h').2 w' (x.pa + i) (by simp only [lineOf]; omega), e.1]
  · simp only [Chip.readL2, hr, hw, e2]
    rw [if_neg (by simp), if_neg (by simp)]
    exact m.trans (moves_dropUnplaced ..)

end Sys2Proof.Machine
end

