-- ==== Sys2Proof/Laws/Walk.lean ====
section
/-! SUPPORT. What reading at L2, writing at L2 and a page-table walk do to memory and to the coroutines. -/

namespace Sys2Proof.Machine

/-- `d` is `c` after things have been looked up in it: lines of `T` have been moved, spires woken, translations noted. What
software reads of memory is as before outside those lines, and in clean lines, which stay clean. -/
structure Looks (T : Nat → Prop) (c d : Chip) : Prop where
  frame : d = { c with mem := d.mem, dramOld := d.dramOld, compass := d.compass, combiner := d.combiner, latent := d.latent,
                       found := d.found, copies := d.copies, uses := d.uses, links := { c.links with cxlBad := d.links.cxlBad },
                       spires := d.spires, tlb := d.tlb, free := d.free }
  resident : ∀ pa, d.residentPa pa = c.residentPa pa
  wf : Memory.wf c.mem → Memory.wf d.mem
  clean : ∀ L, c.Clean L → d.Clean L
  bytes : Memory.wf c.mem → ∀ a, c.Clean (a / 128) ∨ ¬ T (a / 128) → memRead d.mem a = memRead c.mem a

variable {T : Nat → Prop}

theorem Looks.refl (T : Nat → Prop) (c : Chip) : Looks T c c := ⟨rfl, fun _ => rfl, id, fun _ => id, fun _ _ _ => rfl⟩

theorem Looks.trans {a b c : Chip} (h : Looks T a b) (k : Looks T b c) : Looks T a c := by
  refine ⟨?_, fun pa => (k.resident pa).trans (h.resident pa), fun w => k.wf (h.wf w), fun L w => k.clean L (h.clean L w),
    fun w x hx => (k.bytes (h.wf w) x (hx.imp (h.clean _) id)).trans (h.bytes w x hx)⟩
  rw [k.frame, h.frame]

theorem Looks.mono {U : Nat → Prop} {c d : Chip} (h : Looks T c d) (k : ∀ L, T L → U L) : Looks U c d :=
  ⟨h.frame, h.resident, h.wf, h.clean, fun w a ha => h.bytes w a (ha.imp id (fun n t => n (k _ t)))⟩

theorem Looks.cos {c d : Chip} (h : Looks T c d) : d.cos = c.cos := by rw [h.frame]
theorem Looks.cores {c d : Chip} (h : Looks T c d) : d.cores = c.cores := by rw [h.frame]
theorem Looks.roots {c d : Chip} (h : Looks T c d) : d.roots = c.roots := by rw [h.frame]
theorem Looks.time {c d : Chip} (h : Looks T c d) : d.time = c.time := by rw [h.frame]

theorem Moves.looks {c d : Chip} (h : Moves T c d) : Looks T c d := by
  refine ⟨?_, ?_, h.wf, fun L k => (h.clean L k).1, fun w a ha => ha.elim (fun k => (h.clean _ k).2 w a rfl) (h.apart w a)⟩
  · conv_lhs => rw [h.frame]
    have e : d.spires = c.spires ∧ d.tlb = c.tlb ∧ d.free = c.free := by rw [h.frame]; exact ⟨rfl, rfl, rfl⟩
    simp [e.1, e.2.1, e.2.2]
  · intro pa
    have e : d.spires = c.spires := by rw [h.frame]
    unfold Chip.residentPa Chip.spire
    rw [e]

theorem looks_wakeSpire (c : Chip) (d : Nat) : Looks T c (c.wakeSpire d) := by
  unfold Chip.wakeSpire
  split
  · exact .refl T c
  · refine ⟨rfl, fun pa => ?_, id, fun L h => h, fun _ _ _ => rfl⟩
    have e : ∀ n, ((c.modSpire d fun s => { s with power := 0 }).spire n).frames = (c.spire n).frames :=
      fun n => Chip.spire_modSpire_field c d n _ (fun s => s.frames) rfl
    unfold Chip.residentPa
    simp only [e]

/-- A read at L2 or at memory moves the line it reads, and others out of its way. -/
theorem looks_readL2 (c : Chip) (spire : Nat) (x : Xlat) (n : Nat) (b : Bool) :
    Looks (fun l => l = lineOf (c.residentPa x.pa)) c (c.readL2 spire x n b).2 := by
  have h := looks_wakeSpire (T := fun l => l = lineOf (c.residentPa x.pa)) c x.home
  have e := h.resident x.pa
  unfold Chip.readL2
  simp only [e]
  split
  · exact h.trans ⟨rfl, fun _ => rfl, id, fun _ => id, fun _ _ _ => rfl⟩
  · split
    · exact h.trans (moves_readSectors ..).looks
    · refine (h.trans (moves_lineForRead (T := fun l => l = lineOf (c.residentPa x.pa)) _ spire x _ _ b ?_).looks).trans
        (moves_dropUnplaced ..).looks
      rfl

theorem looks_readSound (c : Chip) (spire : Nat) (x : Xlat) (n : Nat) (b : Bool) :
    Looks (fun l => l = lineOf (c.residentPa x.pa)) c (c.readSound spire x n b).2 := looks_readL2 ..

theorem identity_pa (spire va : Nat) : (identity spire va).pa = va := by unfold identity; split <;> rfl

/-- Reading an entry of a table moves its line, and others out of its way. -/
theorem looks_walkEntry (c : Chip) (spire ta i : Nat) :
    Looks (fun l => l = lineOf (c.residentPa (ta + 8 * i))) c (c.walkEntry spire ta i).2 := by
  have h := looks_readSound c spire (identity spire (ta + 8 * i)) 8 false
  rw [identity_pa] at h
  unfold Chip.walkEntry
  simp only
  split
  · exact .refl _ c
  · split <;> (rename_i e; rw [e] at h; exact h)

/-- A walk to a leaf moves the lines of the entries it reads, and others out of their way. -/
theorem looks_walkLeaf (c : Chip) (spire asid va : Nat) :
    Looks (c.WalkLine spire asid va) c (c.walkLeaf spire asid va).2 := by
  unfold Chip.walkLeaf
  split
  · exact .refl _ c
  · rename_i root hr
    split
    · exact .refl _ c
    · have h1 := (looks_walkEntry c spire root (bits va 51 41)).mono (U := c.WalkLine spire asid va)
        (fun L hL => ⟨_, ⟨root, hr, .inl rfl⟩, .inr hL⟩)
      split
      · rename_i e; rw [e] at h1; exact h1
      · rename_i e1 c1 q1
        rw [q1] at h1
        simp only at h1
        split
        · exact h1
        · have h2 := (looks_walkEntry c1 spire (bits e1 47 13 * 2 ^ 13) (bits va 40 31)).mono (U := c.WalkLine spire asid va)
            (fun L hL => ⟨_, ⟨root, hr, .inr ⟨e1, c1, q1, .inl rfl⟩⟩, .inr (by rw [hL, h1.resident])⟩)
          split
          · rename_i e; rw [e] at h2; exact h1.trans h2
          · rename_i e2 c2 q2
            rw [q2] at h2
            simp only at h2
            split
            · exact h1.trans h2
            · have h3 := (looks_walkEntry c2 spire (bits e2 47 13 * 2 ^ 13) (bits va 30 21)).mono (U := c.WalkLine spire asid va)
                (fun L hL => ⟨_, ⟨root, hr, .inr ⟨e1, c1, q1, .inr ⟨e2, c2, q2, rfl⟩⟩⟩, .inr (by rw [hL, h2.resident, h1.resident])⟩)
              split
              · rename_i e; rw [e] at h3; exact (h1.trans h2).trans h3
              · rename_i e; rw [e] at h3; exact (h1.trans h2).trans h3

/-! ### Writing a line -/

/-- Bytes placed at L2 are written one after another, and nothing else changes but what DRAM still holds. -/
theorem placeAll_cached (c : Chip) (pa : Nat) (vs : List Byte) :
    (c.placeAll pa vs Chip.placeCached)
      = { c with mem := memWriteBytes c.mem pa vs, dramOld := (c.placeAll pa vs Chip.placeCached).dramOld } := by
  induction vs generalizing c pa with
  | nil => rfl
  | cons v r ih => rw [Chip.placeAll, ih (c.placeCached pa v) (pa + 1)]; rfl

theorem placeAll_cached_mem (c : Chip) (pa : Nat) (vs : List Byte) :
    (c.placeAll pa vs Chip.placeCached).mem = memWriteBytes c.mem pa vs := by rw [placeAll_cached]

/-- A write-back changes no byte that L2 shows. -/
theorem flushCopy_mem (c : Chip) (n l : Nat) : (c.flushCopy n l).mem = c.mem := by
  have h : ∀ (c : Chip) p s, (c.flushSector p l s).mem = c.mem := by
    intro c p s
    unfold Chip.flushSector
    cases p.data with
    | none => rfl
    | some b => simp only; rw [(placeAll_setDram ..).1]; rfl
  unfold Chip.flushCopy
  cases c.copyAt n l with
  | none => rfl
  | some p =>
    have e : (c.flushPoison p l).mem = c.mem := by unfold Chip.flushPoison; split <;> rfl
    have m : ∀ d : Chip, (d.modCopy n l (fun q => { q with dirty := 0 })).mem = d.mem := by
      intro d; unfold Chip.modCopy; split <;> rfl
    simp only [m]
    repeat' split
    all_goals simp only [h, e]

theorem modCopy_mem (c : Chip) (n l : Nat) (f : LineCopy → LineCopy) : (c.modCopy n l f).mem = c.mem := by
  unfold Chip.modCopy; split <;> rfl

/-- A write of a clean PKG line writes its bytes. -/
theorem writeCopy_clean (c : Chip) (d pa : Nat) (vs : List Byte) (t : Bool) (h : c.Clean (lineOf pa)) :
    (c.writeCopy d pa vs true t).mem = memWriteBytes c.mem pa vs := by
  have e : (c.copyAt d (lineOf pa)).bind (fun p => p.data) = none := by
    cases hp : c.copyAt d (lineOf pa) with
    | none => rfl
    | some p => exact h.copy hp
  unfold Chip.writeCopy
  simp only [e, true_or, if_true]
  split
  · rw [flushCopy_mem, modCopy_mem, placeAll_cached_mem]
  · rw [modCopy_mem, placeAll_cached_mem]

/-- A write within one line leaves every other line alone, and the canonical form. -/
theorem writeCopy_apart (c : Chip) (d pa : Nat) (vs : List Byte) (k t : Bool) (hn : pa % 128 + vs.length ≤ 128) :
    (Memory.wf c.mem → Memory.wf (c.writeCopy d pa vs k t).mem)
      ∧ (Memory.wf c.mem → ∀ a, a / 128 ≠ lineOf pa → memRead (c.writeCopy d pa vs k t).mem a = memRead c.mem a) := by
  have h : ∀ b : Chip, b.mem = c.mem ∨ (∃ v, v.length ≤ 128 ∧ b.mem = memWriteBytes c.mem (lineOf pa * 128) v) →
      (Memory.wf c.mem → Memory.wf (memWriteBytes b.mem pa vs)) ∧ (Memory.wf c.mem → ∀ a, a / 128 ≠ lineOf pa →
        memRead (memWriteBytes b.mem pa vs) a = memRead c.mem a) := by
    intro b hb
    have wb : Memory.wf c.mem → Memory.wf b.mem := by
      rcases hb with e | ⟨v, -, e⟩
      · rw [e]; exact id
      · rw [e]; exact memWriteBytes_wf _ _
    refine ⟨fun w => memWriteBytes_wf _ _ (wb w), fun w a ha => ?_⟩
    rw [memRead_memWriteBytes_outside vs (wb w) (by simp only [lineOf] at ha; omega)]
    rcases hb with e | ⟨v, hv, e⟩
    · rw [e]
    · rw [e, memRead_memWriteBytes_outside v w (by simp only [lineOf] at ha; simp only [lineOf]; omega)]
  have q : ∀ b : Chip, (if t = true then b.flushCopy d (lineOf pa) else b).mem = b.mem := by
    intro b; split
    · exact flushCopy_mem ..
    · rfl
  unfold Chip.writeCopy
  simp only [q]
  split
  · rw [modCopy_mem, placeAll_cached_mem]
    split
    · exact h _ (.inr ⟨_, List.length_take_le .., by rw [modCopy_mem, placeAll_cached_mem]⟩)
    · exact h _ (.inl rfl)
  · rw [modCopy_mem]; exact ⟨id, fun _ _ _ => rfl⟩

theorem flushCopy_frame (c : Chip) (n l : Nat) : (c.flushCopy n l).cos = c.cos ∧ (c.flushCopy n l).cores = c.cores :=
  ⟨(moves_flushCopy (T := fun _ => True) c n l).cos, (moves_flushCopy (T := fun _ => True) c n l).cores⟩

theorem modCopy_frame (c : Chip) (n l : Nat) (f : LineCopy → LineCopy) :
    (c.modCopy n l f).cos = c.cos ∧ (c.modCopy n l f).cores = c.cores := by
  unfold Chip.modCopy; split <;> exact ⟨rfl, rfl⟩

/-- A write at L2 changes no coroutine and no core. -/
theorem writeCopy_frame (c : Chip) (d pa : Nat) (vs : List Byte) (k t : Bool) :
    (c.writeCopy d pa vs k t).cos = c.cos ∧ (c.writeCopy d pa vs k t).cores = c.cores := by
  have q : ∀ b : Chip, (if t = true then b.flushCopy d (lineOf pa) else b).cos = b.cos
      ∧ (if t = true then b.flushCopy d (lineOf pa) else b).cores = b.cores := by
    intro b; split
    · exact flushCopy_frame ..
    · exact ⟨rfl, rfl⟩
  have p : ∀ (b : Chip) pa vs, (b.placeAll pa vs Chip.placeCached).cos = b.cos ∧ (b.placeAll pa vs Chip.placeCached).cores = b.cores := by
    intro b pa vs; rw [placeAll_cached]; exact ⟨rfl, rfl⟩
  unfold Chip.writeCopy
  simp only [q]
  repeat' split
  all_goals simp only [modCopy_frame, p, and_self]

/-! ### A walk -/

/-- A leaf written back changes its own 8 bytes, and in a line that is not clean perhaps others of that line. -/
theorem writeTable_does (c : Chip) (spire ea e : Nat) (hea : ea % 128 + 8 ≤ 128) :
    (Memory.wf c.mem → Memory.wf (c.writeTable spire ea e).mem)
      ∧ (Memory.wf c.mem → ∀ a, a < ea ∨ ea + 8 ≤ a → c.Clean (a / 128) ∨ a / 128 ≠ lineOf ea →
          memRead (c.writeTable spire ea e).mem a = memRead c.mem a)
      ∧ (c.writeTable spire ea e).cos = c.cos ∧ (c.writeTable spire ea e).cores = c.cores := by
  unfold Chip.writeTable
  split
  · exact ⟨id, fun _ _ _ _ => rfl, rfl, rfl⟩
  · have m := moves_lineForWrite (T := fun l => l = lineOf ea) c spire (identity spire ea) (lineOf ea) (sectorsOf ea 8) false rfl
    have w := writeCopy_apart (c.lineForWrite spire (identity spire ea) (lineOf ea) (sectorsOf ea 8) false) spire ea (leBytes 8 e)
      true false (by simpa [leBytes] using hea)
    refine ⟨fun h => w.1 (m.wf h), fun h a ha hc => ?_, (writeCopy_frame ..).1.trans m.cos, (writeCopy_frame ..).2.trans m.cores⟩
    by_cases hl : a / 128 = lineOf ea
    · have k : c.Clean (lineOf ea) := hc.elim (fun k => by rwa [hl] at k) (fun n => absurd hl n)
      rw [writeCopy_clean _ _ _ _ _ (m.clean _ k).1, memRead_memWriteBytes_outside _ (m.wf h) (by simpa [leBytes] using ha)]
      exact (m.clean _ k).2 h a hl
    · rw [w.2 (m.wf h) a hl]
      exact m.apart h a hl

/-- The leaf that a walk finds is an entry that it reads, of 8 bytes that do not cross a line. -/
theorem walkLeaf_ea (c : Chip) (spire asid va : Nat) {t : TlbEntry} {d : Chip} (h : c.walkLeaf spire asid va = (.inr t, d)) :
    c.WalkReads spire asid va t.ea ∧ t.ea % 128 + 8 ≤ 128 := by
  unfold Chip.walkLeaf at h
  split at h
  · cases h
  · rename_i root hr
    have r8 : root % 8 = 0 := by
      unfold Chip.rootOf at hr
      split at hr
      · cases hr; omega
      · cases hr
    split at h
    · cases h
    · split at h
      · cases h
      · rename_i e1 c1 q1
        split at h
        · cases h; exact ⟨⟨root, hr, .inl rfl⟩, by simp only; omega⟩
        · split at h
          · cases h
          · rename_i e2 c2 q2
            split at h
            · cases h; exact ⟨⟨root, hr, .inr ⟨e1, c1, q1, .inl rfl⟩⟩, by simp only; omega⟩
            · split at h
              · cases h
              · split at h
                · cases h; exact ⟨⟨root, hr, .inr ⟨e1, c1, q1, .inr ⟨e2, c2, q2, rfl⟩⟩⟩, by simp only; omega⟩
                · cases h

/-- All that a walk may change of memory and of the coroutines: the bytes of the leaf it finds, and of the lines it brings in
those that DRAM and the slices held differently. -/
structure Walks (spire asid va : Nat) (c d : Chip) : Prop where
  wf : Memory.wf c.mem → Memory.wf d.mem
  bytes : Memory.wf c.mem → ∀ a, ¬ c.InLeaf spire asid va a →
    c.Clean (a / 128) ∨ ¬ c.WalkLine spire asid va (a / 128) →
    memRead d.mem a = memRead c.mem a
  cos : d.cos = c.cos
  cores : d.cores = c.cores

theorem walk_does (c : Chip) (spire asid va : Nat) (k : Acc) (sup back : Bool) :
    Walks spire asid va c (c.walk spire asid va k sup back).2 := by
  have h := looks_walkLeaf c spire asid va
  have q : ∀ d : Chip, Looks (c.WalkLine spire asid va) c d → Walks spire asid va c d :=
    fun d h => ⟨h.wf, fun w a _ ha => h.bytes w a ha, h.cos, h.cores⟩
  unfold Chip.walk
  split
  · rename_i e; rw [e] at h; exact q _ h
  · rename_i t d e
    rw [e] at h
    simp only at h
    obtain ⟨hr, h8⟩ := walkLeaf_ea c spire asid va e
    split
    · exact q _ h
    · by_cases u : ({ t with leaf := touchLeaf t.leaf k.w } : TlbEntry) = t
      · simp only [u, if_true]
        exact ⟨(q _ h).wf, (q _ h).bytes, h.cos, h.cores⟩
      · simp only [u, if_false]
        have w := writeTable_does d spire t.ea (touchLeaf t.leaf k.w) h8
        refine ⟨fun m => w.1 (h.wf m), fun m a ha hc => ?_, w.2.2.1.trans h.cos, w.2.2.2.trans h.cores⟩
        have o : a < t.ea ∨ t.ea + 8 ≤ a := by
          by_contra n
          exact ha ⟨t, d, e, by omega, by omega⟩
        refine (w.2.1 (h.wf m) a o (hc.imp (h.clean _) (fun k l => k ⟨_, hr, .inl l⟩))).trans (h.bytes m a hc)

/-- A translation may change no more than a walk may. -/
theorem translate_does (c : Chip) (spire asid va : Nat) (k : Acc) (sup back : Bool) :
    Walks spire asid va c (c.translate spire asid va k sup back).2 := by
  have r : Walks spire asid va c c := ⟨id, fun _ _ _ _ => rfl, rfl, rfl⟩
  have w := walk_does c spire asid va k sup back
  have rw : Walks spire asid va c (c.rewalk spire asid va k sup back).2 := by
    unfold Chip.rewalk
    split <;> (rename_i e; rw [e] at w; exact ⟨w.wf, w.bytes, w.cos, w.cores⟩)
  have b : ∀ t, Walks spire asid va c (c.byEntry t spire asid va k sup back).2 := by
    intro t
    unfold Chip.byEntry
    repeat' split
    · exact r
    · exact rw
    · exact r
  unfold Chip.translate
  split
  · exact r
  · split
    · exact b _
    · split
      · exact w
      · split
        · exact r
        · split
          · exact ⟨(b _).wf, (b _).bytes, (b _).cos, (b _).cores⟩
          · exact ⟨rw.wf, rw.bytes, rw.cos, rw.cores⟩

end Sys2Proof.Machine
end

