-- ==== Sys2Proof/Tests/Slice0.lean ====
section
/-! SUPPORT. Tests: ill-formed terms that `WellFormed` refuses, words of every instruction written out from the spec's table
of encodings, witnesses that meet the hypotheses of the statements, and single steps on the examples that the spec works
out. -/

namespace Sys2Proof.Tests

open Sys2Proof.Machine Sys2Proof.Claims

set_option maxRecDepth 8000

/-! ### Ill-formed terms: one for each check of `Instr.refusal` -/

/-- R283: a bit field beyond the register. -/
theorem test_refuses_bit_fields : (Instr.bfx 1 2 63 1).refusal = some .ill ∧ (Instr.bfi 1 2 1 63).refusal = some .ill
    ∧ (Instr.bfx 1 2 63 0).refusal = none := by decide

/-- R286: rounding codes 5 and 6, and the `FCVT` types. -/
theorem test_refuses_rounding_and_types : (∀ r ∈ [(5 : BitVec 3), 6], ∀ i ∈ [Instr.fadd 1 2 3 r 1, .fsub 1 2 3 r 1, .fmul 1 2 3 r 1,
      .fdiv 1 2 3 r 1, .fsqrt 1 2 r 1, .fma 1 2 3 r 1, .fcvt 1 2 0 r 1], i.refusal = some .rsv)
    ∧ (Instr.fcvt 1 2 7 0 0).refusal = some .rsv ∧ (Instr.fcvt 1 2 0 0 7).refusal = some .rsv
    ∧ (Instr.fcvt 1 2 1 0 1).refusal = some .rsv ∧ (Instr.fcvt 1 2 3 0 4).refusal = some .rsv ∧ (Instr.fcvt 1 2 2 0 6).refusal = none := by decide

/-- R287, R338 and R343: a prefetch kind, a branch condition, `DBNZ` of `x0`. -/
theorem test_refuses_prefetch_condition_and_count : (Instr.pref 3 1 0).refusal = some .rsv ∧ (Instr.bc 1 2 6 0).refusal = some .rsv
    ∧ (Instr.dbnz 0 1).refusal = some .rsv ∧ (Instr.bc 1 2 5 0).refusal = none := by decide

/-- R191: scopes 6 and 7. -/
theorem test_refuses_scopes : ∀ s ∈ [(6 : BitVec 3), 7], ∀ i ∈ [Instr.ldaq 1 2 s 0, .sdrl 1 2 s 0, .fence s 0 0 0 0, .amoadd 1 2 3 s 0 0 0,
    .amoand 1 2 3 s 0 0 0, .amoor 1 2 3 s 0 0 0, .amoxor 1 2 3 s 0 0 0, .amomin 1 2 3 s 0 0 0, .amomax 1 2 3 s 0 0 0,
    .amominu 1 2 3 s 0 0 0, .amomaxu 1 2 3 s 0 0 0, .amoswp 1 2 3 s 0 0 0, .amocas 1 2 3 s 0 0 0, .amoincw 1 2 3 s 0 0 0,
    .amoaddb 1 2 3 s 0 0 0, .lr 1 2 s 0 0, .sc 1 2 3 s 0 0 0], i.refusal = some .rsv := by decide

/-- R295 and R404: format codes, and the destinations of `AWAITQ` and `SPAWN`. -/
theorem test_refuses_formats_and_destinations : (Instr.fmt 22 1 1 0 0).refusal = some .rsv ∧ (Instr.fmt 1 22 1 0 0).refusal = some .rsv
    ∧ (Instr.fmt 1 1 22 0 0).refusal = some .rsv ∧ (Instr.awaitq 16 1 2).refusal = some .rsv ∧ (Instr.spawn 1 2 3).refusal = some .rsv
    ∧ (Instr.fmt 21 21 21 0 0).refusal = none := by decide

/-- R282 and R291: mask registers above 7, the condition of a compare, and the instructions that need a mask. -/
theorem test_refuses_mask_registers : ∀ i ∈ [Instr.vcmp 8 1 2 0 0 0, .vcmp 1 1 2 0 0 6, .vmerge 1 2 3 0 0 0, .vfcmp 8 1 2 0 0 0,
    .vcompress 1 2 0 0, .vmand 8 1 1, .vmor 1 8 1, .vmxor 1 1 8, .vmnot 8 1, .vmnot 1 8, .vmpopc 1 8, .vmfirst 1 8],
    i.refusal = some .rsv := by decide

/-- R292 and R354: `VTYPE` images with a reserved bit or block size. -/
theorem test_refuses_vtype_images : ∀ t ∈ [(0x40 : BitVec 8), 0x04, 0x08], (Instr.vsetl 1 2 t).refusal = some .rsv
    ∧ (Instr.vsetlg 1 2 t).refusal = some .rsv := by decide

/-- R282 and R433: the unused source field of `KVRET` and `KVALLOC`. -/
theorem test_refuses_kv_sources : (Instr.kvret 6 11).refusal = some .rsv ∧ (Instr.kvalloc 6 11).refusal = some .rsv
    ∧ (Instr.kvret 6 0).refusal = none ∧ (Instr.kvalloc 6 0).refusal = none := by decide

/-! ### Words: the fixed bits of the spec's table of encodings with a value in every field -/

/-- Words of the integer register operations (R281 to R286). -/
theorem test_words_integer_1 : decode 0x0265D400 = .ok (.add 6 11 21) ∧ decode 0x0265D401 = .ok (.sub 6 11 21) ∧ decode 0x0265D402 = .ok (.and 6 11
    21) ∧ decode 0x0265D403 = .ok (.or 6 11 21) ∧ decode 0x0265D404 = .ok (.xor 6 11 21) ∧ decode 0x0265D405 = .ok (.andn
    6 11 21) ∧ decode 0x0265D406 = .ok (.orn 6 11 21) ∧ decode 0x0265D407 = .ok (.sll 6 11 21) ∧ decode 0x0265D408 = .ok
    (.srl 6 11 21) ∧ decode 0x0265D409 = .ok (.sra 6 11 21) ∧ decode 0x0265D40A = .ok (.rot 6 11 21) ∧ decode 0x0265D40B =
    .ok (.slt 6 11 21) ∧ decode 0x0265D40C = .ok (.sltu 6 11 21) ∧ decode 0x0265D40D = .ok (.seq 6 11 21) ∧ decode
    0x0265D40E = .ok (.min 6 11 21) ∧ decode 0x0265D40F = .ok (.max 6 11 21) := by decide

/-- Words of the integer register operations (R281 to R286). -/
theorem test_words_integer_2 : decode 0x0265D410 = .ok (.minu 6 11 21) ∧ decode 0x0265D411 = .ok (.maxu 6 11 21) ∧ decode 0x0265D42D = .ok (.csel 6
    11 21 13) ∧ decode 0x0465D400 = .ok (.mul 6 11 21) ∧ decode 0x0465D401 = .ok (.mulh 6 11 21) ∧ decode 0x0465D402 = .ok
    (.mulhu 6 11 21) ∧ decode 0x0465D403 = .ok (.div 6 11 21) ∧ decode 0x0465D404 = .ok (.divu 6 11 21) ∧ decode
    0x0465D405 = .ok (.rem 6 11 21) ∧ decode 0x0465D406 = .ok (.remu 6 11 21) ∧ decode 0x06658000 = .ok (.clz 6 11) ∧
    decode 0x06659000 = .ok (.ctz 6 11) ∧ decode 0x0665A000 = .ok (.popc 6 11) ∧ decode 0x0665B000 = .ok (.bswap 6 11) ∧
    decode 0x0665C015 = .ok (.sext 6 11 21) ∧ decode 0x0665D015 = .ok (.zext 6 11 21) := by decide

/-- Words of the integer register operations (R281 to R286). -/
theorem test_words_integer_3 : decode 0x0665E54D = .ok (.bfx 6 11 21 13) ∧ decode 0x0665F54D = .ok (.bfi 6 11 21 13) := by decide

/-- Words of scalar floating point (R286). -/
theorem test_words_float : decode 0x0865D490 = .ok (.fadd 6 11 21 1 1) ∧ decode 0x0865D491 = .ok (.fsub 6 11 21 1 1) ∧ decode 0x0865D492 = .ok
    (.fmul 6 11 21 1 1) ∧ decode 0x0865D493 = .ok (.fdiv 6 11 21 1 1) ∧ decode 0x08658094 = .ok (.fsqrt 6 11 1 1) ∧ decode
    0x0865D495 = .ok (.fma 6 11 21 1 1) ∧ decode 0x0865D416 = .ok (.fmin 6 11 21 1) ∧ decode 0x0865D417 = .ok (.fmax 6 11
    21 1) ∧ decode 0x0865D438 = .ok (.fcmp 6 11 21 1 1) ∧ decode 0x08658629 = .ok (.fcvt 6 11 1 4 2) := by decide

/-- Words of the immediate forms (R281, R282). -/
theorem test_words_immediate : decode 0x2065C015 = .ok (.addi 6 11 16405) ∧ decode 0x2265C015 = .ok (.andi 6 11 16405) ∧ decode 0x2465C015 = .ok
    (.ori 6 11 16405) ∧ decode 0x2665C015 = .ok (.xori 6 11 16405) ∧ decode 0x28658015 = .ok (.slli 6 11 21) ∧ decode
    0x2865A015 = .ok (.srli 6 11 21) ∧ decode 0x2865C015 = .ok (.srai 6 11 21) ∧ decode 0x2865E015 = .ok (.roti 6 11 21) ∧
    decode 0x2A65C015 = .ok (.slti 6 11 16405) ∧ decode 0x2C65C015 = .ok (.sltui 6 11 16405) ∧ decode 0x2E65C015 = .ok
    (.seqi 6 11 16405) ∧ decode 0x3068000B = .ok (.lhi 6 524299) ∧ decode 0x3268000B = .ok (.pcadd 6 524299) := by decide

/-- Words of loads and stores (R287). -/
theorem test_words_memory : decode 0x4065C015 = .ok (.lb 6 11 16405) ∧ decode 0x4265C015 = .ok (.lbu 6 11 16405) ∧ decode 0x4465C015 = .ok (.lh 6
    11 16405) ∧ decode 0x4665C015 = .ok (.lhu 6 11 16405) ∧ decode 0x4865C015 = .ok (.lw 6 11 16405) ∧ decode 0x4A65C015 =
    .ok (.lwu 6 11 16405) ∧ decode 0x4C65C015 = .ok (.ld 6 11 16405) ∧ decode 0x4E15C015 = .ok (.pref 1 11 16405) ∧ decode
    0x5065C015 = .ok (.sb 6 11 16405) ∧ decode 0x5265C015 = .ok (.sh 6 11 16405) ∧ decode 0x5465C015 = .ok (.sw 6 11
    16405) ∧ decode 0x5665C015 = .ok (.sd 6 11 16405) ∧ decode 0x5865D80D = .ok (.ldaq 6 11 5 2061) ∧ decode 0x5A65D80D =
    .ok (.sdrl 6 11 5 2061) := by decide

/-- Words of control transfer, CSR access, ordering, coroutines and beacons (R287 to R290). -/
theorem test_words_control_1 : decode 0x61000006 = .ok (.jmp 16777222) ∧ decode 0x63000006 = .ok (.jal 16777222) ∧ decode 0x6465C015 = .ok (.jalr 6
    11 16405) ∧ decode 0x6665D80D = .ok (.bc 6 11 5 2061) ∧ decode 0x6868000B = .ok (.dbnz 6 524299) ∧ decode 0x7060080B =
    .ok (.csrr 6 2059) ∧ decode 0x70659815 = .ok (.csrw 6 11 2069) ∧ decode 0x7065A815 = .ok (.csrs 6 11 2069) ∧ decode
    0x7065B815 = .ok (.csrc 6 11 2069) ∧ decode 0x70004000 = .ok .ecall ∧ decode 0x70004001 = .ok .ebreak ∧ decode
    0x70004002 = .ok .tret ∧ decode 0x70004003 = .ok .isync ∧ decode 0x70004004 = .ok .fenceSv ∧ decode 0x70004005 = .ok
    .fenceVs ∧ decode 0x70004006 = .ok .fenceVv := by decide

/-- Words of control transfer, CSR access, ordering, coroutines and beacons (R287 to R290). -/
theorem test_words_control_2 : decode 0x7000580F = .ok (.fence 4 1 1 1 1) ∧ decode 0x7265D5A5 = .ok (.fmt 6 11 21 13 5) ∧ decode 0x7465D400 = .ok
    (.await 6 11 21) ∧ decode 0x7465D401 = .ok (.awaitq 6 11 21) ∧ decode 0x74030002 = .ok (.yield 6) ∧ decode 0x74000003
    = .ok .exit ∧ decode 0x7465D404 = .ok (.spawn 6 11 21) ∧ decode 0x74030005 = .ok (.gbar 6) ∧ decode 0x74032C06 = .ok
    (.migrate 6 11) ∧ decode 0x74030007 = .ok (.cresume 6) ∧ decode 0x74030008 = .ok (.ckill 6) ∧ decode 0x76658000 = .ok
    (.beacon 6 11) ∧ decode 0x76030001 = .ok (.bfree 6) ∧ decode 0x76032C02 = .ok (.bset 6 11) ∧ decode 0x76032C03 = .ok
    (.bsig 6 11) ∧ decode 0x76658004 = .ok (.bread 6 11) := by decide

/-- Words of atomics and reservations (R290). -/
theorem test_words_atomic : decode 0x7865D6F0 = .ok (.amoadd 6 11 21 5 1 1 1) ∧ decode 0x7865D6F1 = .ok (.amoand 6 11 21 5 1 1 1) ∧ decode
    0x7865D6F2 = .ok (.amoor 6 11 21 5 1 1 1) ∧ decode 0x7865D6F3 = .ok (.amoxor 6 11 21 5 1 1 1) ∧ decode 0x7865D6F4 =
    .ok (.amomin 6 11 21 5 1 1 1) ∧ decode 0x7865D6F5 = .ok (.amomax 6 11 21 5 1 1 1) ∧ decode 0x7865D6F6 = .ok (.amominu
    6 11 21 5 1 1 1) ∧ decode 0x7865D6F7 = .ok (.amomaxu 6 11 21 5 1 1 1) ∧ decode 0x7865D6F8 = .ok (.amoswp 6 11 21 5 1 1
    1) ∧ decode 0x7865D6F9 = .ok (.amocas 6 11 21 5 1 1 1) ∧ decode 0x7865D6FA = .ok (.amoincw 6 11 21 5 1 1 1) ∧ decode
    0x7865D6FB = .ok (.amoaddb 6 11 21 5 1 1 1) ∧ decode 0x7A6582B0 = .ok (.lr 6 11 5 1 1) ∧ decode 0x7A65D6F1 = .ok (.sc
    6 11 21 5 1 1 1) ∧ decode 0x7A030002 = .ok (.waitrs 6) := by decide

/-- Words of vector integer operations (R291). -/
theorem test_words_vectorInteger_1 : decode 0x8065D760 = .ok (.vadd 6 11 21 1 1 3) ∧ decode 0x8065D761 = .ok (.vsub 6 11 21 1 1 3) ∧ decode 0x8065D762 =
    .ok (.vmul 6 11 21 1 1 3) ∧ decode 0x8065D763 = .ok (.vmulh 6 11 21 1 1 3) ∧ decode 0x8065D764 = .ok (.vmac 6 11 21 1
    1 3) ∧ decode 0x8065D765 = .ok (.vmin 6 11 21 1 1 3) ∧ decode 0x8065D766 = .ok (.vmax 6 11 21 1 1 3) ∧ decode
    0x8065D767 = .ok (.vminu 6 11 21 1 1 3) ∧ decode 0x8065D768 = .ok (.vmaxu 6 11 21 1 1 3) ∧ decode 0x8065D769 = .ok
    (.vsadd 6 11 21 1 1 3) ∧ decode 0x8065D76A = .ok (.vssub 6 11 21 1 1 3) ∧ decode 0x806582AB = .ok (.vabs 6 11 1 5) ∧
    decode 0x8265D760 = .ok (.vand 6 11 21 1 1 3) ∧ decode 0x8265D761 = .ok (.vor 6 11 21 1 1 3) ∧ decode 0x8265D762 = .ok
    (.vxor 6 11 21 1 1 3) ∧ decode 0x8265D763 = .ok (.vsll 6 11 21 1 1 3) := by decide

/-- Words of vector integer operations (R291). -/
theorem test_words_vectorInteger_2 : decode 0x8265D764 = .ok (.vsrl 6 11 21 1 1 3) ∧ decode 0x8265D765 = .ok (.vsra 6 11 21 1 1 3) ∧ decode 0x8465D703 =
    .ok (.vcmp 6 11 21 1 1 3) ∧ decode 0x8465D770 = .ok (.vmerge 6 11 21 1 1 3) := by decide

/-- Words of vector floating point and masks (R291). -/
theorem test_words_vectorFloat_1 : decode 0x8665D760 = .ok (.vfadd 6 11 21 1 1 3) ∧ decode 0x8665D761 = .ok (.vfsub 6 11 21 1 1 3) ∧ decode 0x8665D762 =
    .ok (.vfmul 6 11 21 1 1 3) ∧ decode 0x8665D763 = .ok (.vfma 6 11 21 1 1 3) ∧ decode 0x8665D764 = .ok (.vfnma 6 11 21 1
    1 3) ∧ decode 0x8665D765 = .ok (.vfmin 6 11 21 1 1 3) ∧ decode 0x8665D766 = .ok (.vfmax 6 11 21 1 1 3) ∧ decode
    0x8665D767 = .ok (.vfdiv 6 11 21 1 1 3) ∧ decode 0x866582A8 = .ok (.vfsqrt 6 11 1 5) ∧ decode 0x866582A9 = .ok (.vfrsq
    6 11 1 5) ∧ decode 0x866582AA = .ok (.vfexp2 6 11 1 5) ∧ decode 0x8665D76B = .ok (.vfsgn 6 11 21 1 1 3) ∧ decode
    0x8865D703 = .ok (.vfcmp 6 11 21 1 1 3) ∧ decode 0x886582B5 = .ok (.vfcvt 6 11 1 5 5) ∧ decode 0x8A65D760 = .ok
    (.vredsum 6 11 21 1 1 3) ∧ decode 0x8A65D761 = .ok (.vredmax 6 11 21 1 1 3) := by decide

/-- Words of vector floating point and masks (R291). -/
theorem test_words_vectorFloat_2 : decode 0x8A65D762 = .ok (.vredmin 6 11 21 1 1 3) ∧ decode 0x8A65D763 = .ok (.vfredsum 6 11 21 1 1 3) ∧ decode
    0x8A65D764 = .ok (.vfredmax 6 11 21 1 1 3) ∧ decode 0x8A65D765 = .ok (.vfredmin 6 11 21 1 1 3) := by decide

/-- Words of permutes, reductions, lengths, scales and outer products (R291, R292). -/
theorem test_words_vectorPermute_1 : decode 0x8C65D6A0 = .ok (.vslideup 6 11 21 1 5) ∧ decode 0x8C65D6A1 = .ok (.vslidedn 6 11 21 1 5) ∧ decode 0x8C65D762
    = .ok (.vgather 6 11 21 1 1 3) ∧ decode 0x8C6582A3 = .ok (.vcompress 6 11 1 5) ∧ decode 0x8C6582A4 = .ok (.vscan 6 11
    1 5) ∧ decode 0x8C030005 = .ok (.vtopki 6) ∧ decode 0x8C032FA6 = .ok (.vtopk 6 11 1 1 5) ∧ decode 0x8C658007 = .ok
    (.vtopkr 6 11) ∧ decode 0x8E628C00 = .ok (.vmand 6 5 3) ∧ decode 0x8E628C01 = .ok (.vmor 6 5 3) ∧ decode 0x8E628C02 =
    .ok (.vmxor 6 5 3) ∧ decode 0x8E628003 = .ok (.vmnot 6 5) ∧ decode 0x8F528004 = .ok (.vmpopc 21 5) ∧ decode 0x8F528005
    = .ok (.vmfirst 21 5) ∧ decode 0x906580A0 = .ok (.vmvx 6 11 5) ∧ decode 0x9065D601 = .ok (.vmvs 6 11 21 1) := by decide

/-- Words of permutes, reductions, lengths, scales and outer products (R291, R292). -/
theorem test_words_vectorPermute_2 : decode 0x90600062 = .ok (.vid 6 3) ∧ decode 0x906582A3 = .ok (.vshape 6 11 1 5) ∧ decode 0x9265D760 = .ok (.vrope 6 11
    21 1 1 3) ∧ decode 0x9265D401 = .ok (.vscld 6 11 21) ∧ decode 0x9265D402 = .ok (.vscst 6 11 21) ∧ decode 0x94658016 =
    .ok (.vsetl 6 11 22) ∧ decode 0x94658116 = .ok (.vsetlg 6 11 22) ∧ decode 0x9465D600 = .ok (.kvsetrun 6 11 21) ∧
    decode 0x9665D760 = .ok (.mopa 6 11 21 1 1 3) := by decide

/-- Words of vector memory (R293, R294). -/
theorem test_words_vectorMemory : decode 0xA0658768 = .ok (.vld 6 11 1 1 1 3 1) ∧ decode 0xA065D769 = .ok (.vlds 6 11 21 1 1 3 1) ∧ decode 0xA065D76A =
    .ok (.vldx 6 11 21 1 1 3 1) ∧ decode 0xA065876B = .ok (.vldff 6 11 1 1 1 3 1) ∧ decode 0xA2658768 = .ok (.vst 6 11 1 1
    1 3 1) ∧ decode 0xA265D769 = .ok (.vsts 6 11 21 1 1 3 1) ∧ decode 0xA265D76A = .ok (.vstx 6 11 21 1 1 3 1) ∧ decode
    0xA465D4A0 = .ok (.vldt 6 11 21 5) ∧ decode 0xA465D4A1 = .ok (.vstt 6 11 21 5) ∧ decode 0xA465D4A2 = .ok (.vldtt 6 11
    21 5) ∧ decode 0xA665D762 = .ok (.vldkv 6 11 21 1 1 3 1) ∧ decode 0xA665D763 = .ok (.vstkv 6 11 21 1 1 3 1) := by decide

/-- Words of engine commands (R296). -/
theorem test_words_engine_1 : decode 0xC0658000 = .ok (.cpy 6 11) ∧ decode 0xC0658040 = .ok (.cpy2d 6 11) ∧ decode 0xC0658080 = .ok (.cpyf 6 11) ∧
    decode 0xC06580C0 = .ok (.cpysh 6 11) ∧ decode 0xC0600100 = .ok (.publish 6) ∧ decode 0xC0658140 = .ok (.cpymm 6 11) ∧
    decode 0xC0658180 = .ok (.rowcopy 6 11) ∧ decode 0xC06581C0 = .ok (.rowfill 6 11) ∧ decode 0xC0659000 = .ok (.tcfg 6
    11) ∧ decode 0xC0659040 = .ok (.tstate 6 11) ∧ decode 0xC0659080 = .ok (.mshape 6 11) ∧ decode 0xC06590C5 = .ok (.mma
    6 11 5) ∧ decode 0xC0659105 = .ok (.mmag 6 11 5) ∧ decode 0xC0659145 = .ok (.mmrot 6 11 5) ∧ decode 0xC0601180 = .ok
    (.mswap 6) ∧ decode 0xC06011CB = .ok (.macq 6 11) := by decide

/-- Words of engine commands (R296). -/
theorem test_words_engine_2 : decode 0xC0001206 = .ok (.mrel 6) ∧ decode 0xC060124B = .ok (.mdrain 6 11) ∧ decode 0xC060128B = .ok (.mfill 6 11) ∧
    decode 0xC00012C6 = .ok (.mzero 6) ∧ decode 0xC0001306 = .ok (.mreclaim 6) ∧ decode 0xC060134B = .ok (.mstat 6 11) ∧
    decode 0xC065A000 = .ok (.kvmap 6 11) ∧ decode 0xC065A040 = .ok (.kvunmap 6 11) ∧ decode 0xC065A080 = .ok (.kvlook 6
    11) ∧ decode 0xC065A0C0 = .ok (.kvver 6 11) ∧ decode 0xC0602100 = .ok (.kvret 6 0) ∧ decode 0xC065A140 = .ok (.kvhash
    6 11) ∧ decode 0xC0602180 = .ok (.kvalloc 6 0) ∧ decode 0xC065A1C0 = .ok (.kvfree 6 11) ∧ decode 0xC065A200 = .ok
    (.kvpin 6 11) ∧ decode 0xC065A240 = .ok (.kvunpin 6 11) := by decide

/-- Words of engine commands (R296). -/
theorem test_words_engine_3 : decode 0xC065A280 = .ok (.kvappend 6 11) ∧ decode 0xC065B000 = .ok (.nput 6 11) ∧ decode 0xC065B040 = .ok (.nget 6 11)
    ∧ decode 0xC065B080 = .ok (.namo 6 11) ∧ decode 0xC065B0C0 = .ok (.nsig 6 11) ∧ decode 0xC0603100 = .ok (.nsend 6) ∧
    decode 0xC060700B = .ok (.eset 6 11) ∧ decode 0xC060704B = .ok (.eget 6 11) := by decide

/-- Words that the spec gives with the instructions they stand for. -/
theorem test_worked_words_1 : decode 0x4C550000 = .ok (.ld 5 10 0) ∧ decode 0x66600006 = .ok (.bc 6 0 0 6) ∧ decode 0x20738001 = .ok (.addi 7 7 1) ∧
    decode 0x686FFFFC = .ok (.dbnz 6 0xffffc) ∧ decode 0x74000003 = .ok .exit ∧ decode 0x02531C00 = .ok (.add 5 6 7) ∧
    decode 0x86419640 = .ok (.vfadd 4 3 5 1 0 2) ∧ decode 0xC0707003 = .ok (.eset 7 3) ∧ decode 0xC0507042 = .ok (.eget 5
    2) ∧ decode 0x73328400 = .ok (.fmt 0x13 5 1 0 0) ∧ decode 0x02531C29 = .ok (.csel 5 6 7 9) ∧ decode 0x0484A802 = .ok
    (.mulhu 8 9 10) ∧ decode 0x06536203 = .ok (.bfx 5 6 8 3) ∧ decode 0x08531C90 = .ok (.fadd 5 6 7 1 1) ∧ decode
    0x28534003 = .ok (.srai 5 6 3) ∧ decode 0x58532010 = .ok (.ldaq 5 6 2 0x010) := by decide

/-- Words that the spec gives with the instructions they stand for. -/
theorem test_worked_words_2 : decode 0x5A734FF8 = .ok (.sdrl 7 6 4 0xFF8) ∧ decode 0x64008000 = .ok (.jalr 0 1 0) ∧ decode 0x70500008 = .ok (.csrr 5
    8) ∧ decode 0x70031003 = .ok (.csrw 0 6 3) ∧ decode 0x085304B9 = .ok (.fcvt 5 6 1 1 3) ∧ decode 0x94530015 = .ok
    (.vsetl 5 6 0x15) ∧ decode 0x80110C00 = .ok (.vadd 1 2 3 0 0 0) ∧ decode 0x84110C02 = .ok (.vcmp 1 2 3 0 0 2) ∧ decode
    0x8C628023 = .ok (.vcompress 6 5 0 1) ∧ decode 0x92952C00 = .ok (.vrope 9 10 11 0 0 0) ∧ decode 0xA0128010 = .ok (.vld
    1 5 0 0 0 0 2) ∧ decode 0xA4310001 = .ok (.vstt 3 2 0 0) ∧ decode 0xA6429800 = .ok (.vldkv 4 5 6 0 0 0 0) ∧ decode
    0xC02190C1 = .ok (.mma 2 3 1) ∧ decode 0xC0441100 = .ok (.mmag 4 8 0) ∧ decode 0xC05011C2 = .ok (.macq 5 2) := by decide

/-- Words that the spec gives with the instructions they stand for. -/
theorem test_worked_words_3 : decode 0x96308800 = .ok (.mopa 3 1 2 0 0 0) ∧ decode 0xC0530000 = .ok (.cpy 5 6) ∧ decode 0xC0500100 = .ok (.publish
    5) ∧ decode 0xC0531000 = .ok (.tcfg 5 6) ∧ decode 0x94531E00 = .ok (.kvsetrun 5 6 7) ∧ decode 0x74621400 = .ok (.await
    6 4 5) ∧ decode 0x74329801 = .ok (.awaitq 3 5 6) ∧ decode 0x74028002 = .ok (.yield 5) ∧ decode 0x74531C04 = .ok
    (.spawn 5 6 7) ∧ decode 0x7476A404 = .ok (.spawn 7 13 9) ∧ decode 0x74028005 = .ok (.gbar 5) ∧ decode 0x74031406 = .ok
    (.migrate 6 5) ∧ decode 0x74030007 = .ok (.cresume 6) ∧ decode 0x74030008 = .ok (.ckill 6) ∧ decode 0x76B28000 = .ok
    (.beacon 11 5) ∧ decode 0x76028001 = .ok (.bfree 5) := by decide

/-- Words that the spec gives with the instructions they stand for. -/
theorem test_worked_words_4 : decode 0x76029802 = .ok (.bset 5 6) ∧ decode 0x76059803 = .ok (.bsig 11 6) ∧ decode 0x76728004 = .ok (.bread 7 5) ∧
    decode 0x78531E30 = .ok (.amoadd 5 6 7 4 0 1 1) ∧ decode 0x78531E0A = .ok (.amoincw 5 6 7 4 0 0 0) ∧ decode 0x7A530210
    = .ok (.lr 5 6 4 0 1) ∧ decode 0x7A831E51 = .ok (.sc 8 6 7 4 1 0 1) ∧ decode 0x7A048002 = .ok (.waitrs 9) ∧ decode
    0x70005806 = .ok (.fence 4 0 1 1 0) ∧ decode 0xC05330C0 = .ok (.nsig 5 6) ∧ decode 0x31600020 = .ok (.lhi 0x16 0x20) ∧
    decode 0xC00110C0 = .ok (.mma 0 2 0) ∧ decode 0x70004000 = .ok .ecall ∧ decode 0x70004001 = .ok .ebreak ∧ decode
    0x70004002 = .ok .tret ∧ decode 0x70004003 = .ok .isync := by decide

/-- R282 and R283: words with a set unused bit, or of no instruction. -/
theorem test_words_of_no_instruction : decode 0x0A214C03 = .rsv ∧ decode 0x02531C12 = .rsv
    ∧ decode 0xC065A100 = .rsv ∧ decode 0xC065A180 = .rsv ∧ decode 0x70530008 = .rsv ∧ decode 0x28528040 = .rsv
    ∧ decode 0x00000000 = .ill ∧ decode 0xFFFFFFFF = .ill := by decide

/-! ### The state of the tests -/

/-- The coroutine of the tests: a supervisor coroutine in ASID 0, changed by `f`. -/
def coAt (f : Coroutine → Coroutine) : Coroutine := f (bootedCoroutine 0x200000)

/-- A package in which core 0 runs it, changed by `g`. -/
def runs (g : Chip → Chip) (f : Coroutine → Coroutine) : State :=
  { State.reset with chip := g { Chip.reset with
      parts := [(0, { Partition.reset with en := true, state := 1, clus := 1, asids := 2 })]
      gangs := [(0, ⟨0, 0xFFFF, 0, 0, 0, 0, 0, none, none⟩)]
      nextGang := 1
      cos := [(0, coAt f)]
      cores := [(0, { Core.reset with running := some 0 })] } }

/-- Set `x[r]`. -/
def withX (r : BitVec 5) (v : Word) (co : Coroutine) : Coroutine := co.setX r v

theorem running_of (f : Coroutine → Coroutine) : (runs id f).chip.runningKey (runs id f).cur = some 0 := by
  simp [runs, Chip.runningKey, Chip.core, mgetD, mget, State.reset, coKey]

theorem holds_of (f : Coroutine → Coroutine) : (runs id f).chip.co 0 = some (coAt f) := by simp [runs, Chip.co, mget]

theorem issues_of (f : Coroutine → Coroutine) (h : (coAt f).pp = false) : Issues (runs id f) 0 (coAt f) :=
  ⟨rfl, running_of f, holds_of f, h⟩

theorem taker_of (f : Coroutine → Coroutine) : IssuesTaker (runs id f) 0 (coAt f) := ⟨rfl, running_of f, holds_of f⟩

theorem behind_of (f : Coroutine → Coroutine) (h : (coAt f).pp = true) : IssuesBehindPrefix (runs id f) 0 (coAt f) :=
  ⟨rfl, running_of f, holds_of f, h⟩

/-! ### Witnesses: hypotheses of the statements that a state meets -/

theorem witness_IntegerRegisterOperations : Issues (runs id id) 0 (coAt id)
    ∧ (∀ fn ∈ [(0x012 : BitVec 10), 0x01F, 0x040, 0x3FF], 0x012 ≤ fn.toNat ∧ fn.toNat ≤ 0x01F ∨ 0x040 ≤ fn.toNat) :=
  ⟨issues_of _ rfl, by decide⟩

theorem witness_MultiplyAndDivide : Issues (runs id (withX 3 1)) 0 (coAt (withX 3 1)) ∧ (coAt (withX 3 1)).quiet
    ∧ (coAt (withX 3 1)).xr 3 ≠ 0 ∧ (31 : BitVec 5) ≠ 0 := ⟨issues_of _ rfl, ⟨rfl, rfl⟩, by decide, by decide⟩

theorem witness_BitOperations : Issues (runs id (withX 3 1)) 0 (coAt (withX 3 1))
    ∧ (0 : BitVec 6).toNat + (63 : BitVec 6).toNat + 1 ≤ 64 ∧ (63 : BitVec 6).toNat + (0 : BitVec 6).toNat + 1 ≤ 64 :=
  ⟨issues_of _ rfl, by decide, by decide⟩

theorem witness_Immediates : Issues (runs id id) 0 (coAt id) := issues_of _ rfl

theorem witness_FloatArithmetic : Issues (runs id id) 0 (coAt id) ∧ (coAt id).rounding 7 = some 0 ∧ (coAt id).rounding 4 = some 4
    ∧ (Exact.ofInt 3).sticky = false ∧ (Exact.ofInt 3).mant ≠ 0 ∧ (Exact.ofInt 3).neg = false :=
  ⟨issues_of _ rfl, by decide, by decide, by decide, by decide, by decide⟩

theorem witness_FloatRounding : fmtF64 ∈ formats ∧ fmtF4 ∈ formats ∧ (Exact.ofInt 3).sticky = false
    ∧ (∀ rm ∈ [0, 1, 2, 3, 4], (roundTo (.ofInt 3) fmtF64 rm).2 &&& flagOF = 0) ∧ (FNum.nan false false).isNaN = true
    ∧ (Exact.zero true).mant = 0 ∧ (Exact.zero true).neg = true ∧ (Exact.zero false).neg = false
    ∧ (Exact.ofInt (-3)).mant ≠ 0 ∧ (Exact.ofInt (-3)).neg = true := by decide

theorem witness_FloatComparesAndConversions : Issues (runs id (fun c => { c with frm := 5 })) 0 (coAt (fun c => { c with frm := 5 }))
    ∧ (runs id (fun c => { c with frm := 5 })).chip.undrained 0 = false ∧ 5 ≤ (coAt (fun c => { c with frm := 5 })).frm.toNat
    ∧ cvtWidens 0 0 = false ∧ (coAt id).rounding 7 = some 0 ∧ (∃ x, (coAt id).fr 1 3 = .fin x) :=
  ⟨issues_of _ rfl, by decide, by decide, by decide, by decide, _, rfl⟩

/-- A store of 8 bytes at 0x201000 that core 0 has buffered. -/
def buffered8 : Store := ⟨0, 0x201000, 0x1122334455667788, 8, false, 0, 0, true⟩

/-- A chip whose core 0 holds a store in its buffer. -/
def withStore (n : Nat) (c : Chip) : Chip := c.modCore 0 (fun k => { k with sb := List.replicate n buffered8 })

theorem witness_Loads : Issues (runs id (withX 3 0x201000)) 0 (coAt (withX 3 0x201000)) ∧ (runs id (withX 3 0x201000)).chip.behindN 0 = false
    ∧ (∃ v c, (runs id (withX 3 0x201000)).chip.scalarLoad 0 (coAt (withX 3 0x201000)) 0x201000 8 false = (.bytes v, c))
    ∧ (withStore 1 Chip.reset).buffered 0 0 0 0x201004 4 = some buffered8
    ∧ (runs id (withX 3 0x201000)).chip.buffered 0 0 0 0x201000 8 = none :=
  ⟨issues_of _ rfl, by decide, ⟨_, _, rfl⟩, by decide, by decide⟩

/-- Without copies, and with DRAM as it reads, every line is clean. -/
theorem clean_of {c : Chip} (h : c.copies = []) (g : c.dramOld = []) (l : Nat) : c.Clean l := by simp [Chip.Clean, h, g]

theorem witness_LoadsInSpace : Sound Chip.reset 0x3FFFF8 8 ∧ Sound Chip.reset 0x7FFFFFFFF8 8 ∧ ¬ Sound Chip.reset 0x3FFFF9 8
    ∧ Memory.wf Chip.reset.mem ∧ Current Chip.reset 0 (lineOf 0x3FFFF8) ∧ Chip.reset.buffered 0 0 0 0x3FFFF8 8 = none
    ∧ (Chip.reset.core 0).l1d = [] ∧ Chip.reset.deviceWaits 0 0 ((coAt id).agent 0) 0x3FFFF8 .load = false
    ∧ ∃ bs cs c1 c2, Chip.reset.loadPiece 0 ((coAt id).agent 0) 0x20107C 4 false = (.inr bs, c1)
      ∧ c1.loadPiece 0 ((coAt id).agent 0) 0x201080 4 false = (.inr cs, c2) ∧ 128 < 0x20107C % 128 + 8 := by
  refine ⟨by unfold Sound; decide, by unfold Sound; decide, by unfold Sound; decide, by decide, .inl (clean_of rfl rfl _), by decide, by decide,
    by decide, _, _, _, _, rfl, rfl, by decide⟩

theorem witness_MisalignedAccesses : Issues (runs id (withX 3 0x3FFFF9)) 0 (coAt (withX 3 0x3FFFF9))
    ∧ (runs id (withX 3 0x3FFFF9)).chip.behindN 0 = false ∧ (runs id (withX 3 0x3FFFF9)).chip.undrained 0 = false
    ∧ ¬ WithinRegion ((coAt (withX 3 0x3FFFF9)).xr 3 + (0 : BitVec 15).signExtend 64) 8
    ∧ ((coAt (withX 3 0x3FFFF9)).xr 3 + (0 : BitVec 12).signExtend 64).toNat % 8 ≠ 0 :=
  ⟨issues_of _ rfl, by decide, by decide, by unfold WithinRegion; decide, by decide⟩

theorem witness_Stores : (runs id (withX 3 0x201000)).chip.behindN 0 = false
    ∧ WithinRegion ((coAt (withX 3 0x201000)).xr 3 + (0 : BitVec 15).signExtend 64) 8
    ∧ ((runs (withStore 31) id).chip.core 0).sb.length < 32 ∧ 32 ≤ ((runs (withStore 32) id).chip.core 0).sb.length :=
  ⟨by decide, by unfold WithinRegion; decide, by decide, by decide⟩

theorem witness_AcceptedStore : (runs (withStore 1) id).keep.power.halted = false ∧ Memory.wf (runs (withStore 1) id).chip.mem
    ∧ ((runs (withStore 1) id).chip.core 0).sb[0]? = some buffered8 ∧ buffered8.size ∈ [1, 2, 4, 8] ∧ buffered8.slot < 256
    ∧ ((runs (withStore 1) id).chip.coD (coKey 0 buffered8.slot)).due = none
    ∧ (runs (withStore 1) id).chip.storeWaits 0 [] buffered8 = false ∧ ((runs (withStore 1) id).chip.coD 0).sup = true
    ∧ buffered8.va % 2 ^ 21 + buffered8.size ≤ 2 ^ 21 ∧ (∀ i < buffered8.size, (runs (withStore 1) id).chip.isRetired (0x201000 + i) = false
      ∧ (runs (withStore 1) id).chip.residentPa (0x201000 + i) = 0x201000 + i ∧ (runs (withStore 1) id).chip.Clean (lineOf (0x201000 + i)))
    ∧ ∃ x c, (runs (withStore 1) id).chip.xlate { ((runs (withStore 1) id).chip.coD 0).agent 0 with asid := 0, sup := true } 0x201000
      .store false = (.inr x, c) ∧ x.pol < 2 ∧ inWindow x.pa = false ∧ Owns c 0 x :=
  ⟨rfl, by decide, by decide, by decide, by decide, by decide, by decide, by decide, by decide,
    fun i h => ⟨(by decide : ∀ i < 8, (runs (withStore 1) id).chip.isRetired (0x201000 + i) = false) i h,
      (by decide : ∀ i < 8, (runs (withStore 1) id).chip.residentPa (0x201000 + i) = 0x201000 + i) i h, clean_of rfl rfl _⟩,
    _, _, rfl, by decide, by decide, by decide, .inl rfl, .inl (clean_of rfl rfl _)⟩

/-- In the physical space no byte can change but of the lines brought in, and none of a clean line. -/
theorem loadKept_of (va m : Nat) (f : Coroutine → Coroutine) (h : (coAt f).asid = 0)
    (hx : ∀ x d, (runs id f).chip.xlate ((coAt f).agent 0) va .load false = (.inr x, d) → d.copies = [] ∧ d.dramOld = []) :
    LoadKept (runs id f).chip 0 (coAt f) va m := by
  refine ⟨⟨?_, .inl (clean_of rfl rfl _)⟩, fun x d e _ => clean_of (hx x d e).1 (hx x d e).2 _⟩
  rintro ⟨t, d, e, -⟩
  rw [h] at e
  have r : (runs id f).chip.rootOf 0 = none := by simp [Chip.rootOf, runs, Chip.reset, mgetD, mget, bit]
  simp [Chip.walkLeaf, r] at e

theorem witness_LoadAndPrefetchFrame (m : Nat) : LoadKept (runs id (withX 3 0x201000)).chip 0 (coAt (withX 3 0x201000)) 0x201000 m
    ∧ 0x201000 % 128 + 8 ≤ 128 :=
  ⟨loadKept_of _ _ _ rfl (fun x d e => by
    have h : (runs id (withX 3 0x201000)).chip.xlate ((coAt (withX 3 0x201000)).agent 0) 0x201000 .load false = (.inr _, _) := rfl
    obtain ⟨-, rfl⟩ := Prod.mk.inj (h.symm.trans e)
    exact ⟨rfl, rfl⟩), by decide⟩

theorem witness_AcquireReleaseAndPrefetch : Issues (runs id (withX 3 0x201000)) 0 (coAt (withX 3 0x201000)) ∧ (coAt (withX 3 0x201000)).quiet
    ∧ (runs id (withX 3 0x201000)).chip.behindN 0 = false ∧ Memory.wf (runs id (withX 3 0x201000)).chip.mem
    ∧ ((coAt (withX 3 0x201000)).xr 3 + (0 : BitVec 12).signExtend 64).toNat % 8 = 0
    ∧ (∃ v c, (runs id (withX 3 0x201000)).chip.scalarLoad 0 (coAt (withX 3 0x201000)) 0x201000 8 true = (.bytes v, c))
    ∧ (runs id (withX 3 0x201000)).chip.storesPending 0 = false ∧ (runs (withStore 1) id).chip.storesPending 0 = true :=
  ⟨issues_of _ rfl, ⟨rfl, rfl⟩, by decide, by decide, by decide, ⟨_, _, rfl⟩, by decide, by decide⟩

/-- A space 1 whose page 0 is mapped readable and writable, its page 1 not at all. -/
def mapped : Chip :=
  { Chip.reset with
    roots := [(1, 0x400001)]
    mem := memWriteNat (memWriteNat (memWriteNat [] 0x400000 8 0x402001) 0x402000 8 0x404001) 0x404000 8 0x60002F }

set_option maxRecDepth 60000 in
theorem witness_WalkFollowsThreeLevels : Memory.wf mapped.mem
    ∧ (∀ ta ∈ [0x400000, 0x402000, 0x404000, 0x404008], Sound mapped ta 8 ∧ Current mapped 0 (lineOf ta))
    ∧ memReadNat mapped.mem 0x404008 8 % 2 = 0 ∧ memReadNat mapped.mem 0x404000 8 % 2 = 1 ∧ mapped.rootOf 1 = some 0x400000
    ∧ (∃ c1 c2 c3, mapped.walkEntry 0 0x400000 0 = (.inr 0x402001, c1) ∧ c1.walkEntry 0 0x402000 0 = (.inr 0x404001, c2)
      ∧ c2.walkEntry 0 0x404000 0 = (.inr 0x60002F, c3) ∧ 0x60002F % 4 = 3)
    ∧ (∃ c1 c2 c3, mapped.walkEntry 0 0x400000 0 = (.inr 0x402001, c1) ∧ c1.walkEntry 0 0x402000 0 = (.inr 0x404001, c2)
      ∧ c2.walkEntry 0 0x404000 1 = (.inl 1, c3))
    ∧ mapped.namedLine 0 1 0x1FFFFF = none ∧ mget mapped.tlb (tlbKey 0 1 0x1FFFFF) = none
    ∧ ∃ t d, mapped.walkLeaf 0 1 0x1FFFFF = (.inr t, d) ∧ t.lvl = 3 ∧ bit t.leaf 14 = false
      ∧ (∀ k ∈ [Acc.load, Acc.store], d.checkLeaf t.leaf 3 0x7FFFFF k false = 0) ∧ Memory.wf d.mem ∧ d.Clean (lineOf t.ea)
      ∧ inWindow (d.residentPa t.ea) = false ∧ memReadNat d.mem t.ea 8 = t.leaf := by
  refine ⟨by decide, fun ta h => ⟨?_, .inl (clean_of rfl rfl _)⟩, by decide, by decide, by decide, ⟨_, _, _, rfl, rfl, rfl, by decide⟩,
    ⟨_, _, _, rfl, rfl, rfl⟩, by decide, by decide, _, _, rfl, by decide, by decide, by decide, by decide, ?_, by decide, by decide⟩
  · simp only [List.mem_cons, List.not_mem_nil, or_false] at h
    rcases h with rfl | rfl | rfl | rfl <;> (unfold Sound; decide)
  · unfold Chip.Clean
    decide

theorem witness_ControlTransfers : Issues (runs id id) 0 (coAt id) ∧ (0 : BitVec 3).toNat < 6 ∧ (5 : BitVec 3).toNat < 6 :=
  ⟨issues_of _ rfl, by decide, by decide⟩

/-- The coroutine of the tests in user mode. -/
def user (co : Coroutine) : Coroutine := { co with sup := false }

theorem witness_CsrAccess : Issues (runs id id) 0 (coAt id) ∧ Issues (runs id user) 0 (coAt user) ∧ (coAt id).quiet
    ∧ (runs id id).chip.undrained 0 = false ∧ CsrReady (runs id id).chip 0 (coAt id) 0x001 false
    ∧ CsrReady (runs id id).chip 0 (coAt id) 0x001 true ∧ isCsr 0xFFF = false ∧ isCsr 0x100 = true ∧ isCsr 0x113 = true
    ∧ (coAt user).sup = false ∧ csrReadOnly 0x008 = true ∧ isCsr 0x008 = true :=
  ⟨issues_of _ rfl, issues_of _ rfl, ⟨rfl, rfl⟩, by decide, by unfold CsrReady; decide, by unfold CsrReady; decide, by decide, by decide,
    by decide, by decide, by decide, by decide⟩

/-- Partition 0 served by a supervisor at an address. -/
def served (c : Chip) : Chip :=
  { c with parts := [(0, { Partition.reset with en := true, state := 1, clus := 1, sventry := 0x300000, fqs := Vector.replicate 4 { FaultQ.reset with tvec := 0x300000 } })] }

theorem witness_TrapsAreTaken : (runs served user).chip.co 0 = some (coAt user) ∧ (coAt user).sup = false
    ∧ (runs served user).chip.partOf 0 = some 0 ∧ ((runs served user).chip.part 0).unserved = false ∧ (coAt user).state = .running ∧ Memory.wf (runs served user).chip.mem
    ∧ ((runs served user).chip.core 0).running = some 0 ∧ (coAt id).hact = false ∧ (runs served id).chip.handler 0 ≠ 0
    ∧ (runs id id).chip.handler 0 = 0 ∧ (coAt (fun c => { c with hact := true })).hact = true :=
  ⟨by simp [runs, served, Chip.co, mget], by decide, by decide, by decide, by decide, by decide, by decide, by decide, by decide, by decide,
    by decide⟩

/-- Every line of the same state is clean, that of the spill slot included. -/
theorem witness_TrapsWriteTheSpillSlot (a : Nat) : (runs served user).chip.Clean (lineOf a) := clean_of rfl rfl _

theorem witness_SystemCallsAndReturns : Issues (runs id id) 0 (coAt id) ∧ Issues (runs id user) 0 (coAt user)
    ∧ (runs id user).chip.undrained 0 = false ∧ (coAt id).sup = true ∧ (coAt id).quiet := ⟨issues_of _ rfl, issues_of _ rfl, by decide, by decide, ⟨rfl, rfl⟩⟩

theorem witness_AfterAnInstruction : (coAt (fun c => { c with estepIs := true })).estepIs = true ∧ (coAt id).state = .running
    ∧ (runs id (fun c => { c with estepIs := true })).chip.undrained 0 = false ∧ (runs (withStore 1) id).chip.undrained 0 = true
    ∧ IssuesBehindPrefix (runs id (fun c => { c with pp := true })) 0 (coAt (fun c => { c with pp := true }))
    ∧ takesPrefix (.add 1 2 3) = false ∧ DecodeChecksPass (.add 1 2 3) (coAt id) ∧ encode (.add 1 2 3) = some 0x02110C00
    ∧ (runs id id).chip.vectorPending 0 = false ∧ (runs (withStore 1) id).chip.storesPending 0 = true
    ∧ (coAt (fun c => { c with estepIs := true })).due = none ∧ ((runs id id).chip.core (0 / 256)).vq.length < 32
    ∧ 32 ≤ ((runs (fun c => c.modCore 0 (fun k => { k with vq := List.replicate 32 (entryOf .fenceVv 0 (coAt id) 0 0) })) id).chip.core
      (0 / 256)).vq.length :=
  ⟨by decide, by decide, by decide, by decide, behind_of _ rfl, by decide, ⟨by decide, trivial⟩, by decide, by decide, by decide, rfl,
    by decide, by decide⟩

theorem witness_AtomicMemoryOperationResults : ∃ x c, AtomicReady (runs id (withX 3 0x201000)) 0 (coAt (withX 3 0x201000)) 3 8 .amo x c := by
  refine ⟨_, _, issues_of _ rfl, ⟨rfl, rfl⟩, by decide, by decide, by decide, by decide, rfl, by decide, rfl, by decide, by decide,
    by decide, by decide, .inl ?_, fun _ => ⟨by decide, .inl rfl, .inl ?_⟩, by decide⟩ <;> (unfold Chip.Clean; decide)

/-- A coroutine with a reservation of the line at 0x201000. -/
def reserved (b : Bool) (co : Coroutine) : Coroutine := { co.setX 3 0x201000 with resv := [⟨0x201000 / 128, b⟩] }

theorem witness_ReservationsAndConditionalStores : (∃ x c, AtomicReady (runs id (reserved false)) 0 (coAt (reserved false)) 3 4 .lr x c)
    ∧ (∃ x c, AtomicReady (runs id (reserved true)) 0 (coAt (reserved true)) 3 4 .amo x c ∧ x.pa = 0x201000)
    ∧ (∃ r ∈ (coAt (reserved false)).resv, r.line = 0x201000 / 128 ∧ r.broken = false)
    ∧ (∀ r ∈ (coAt (reserved true)).resv, r.line = 0x201000 / 128 → r.broken = true)
    ∧ (runs id (reserved true)).chip.co 0 = some (coAt (reserved true)) := by
  refine ⟨⟨_, _, issues_of _ rfl, ⟨rfl, rfl⟩, by decide, by decide, by decide, by decide, rfl, by decide, rfl, by decide, by decide,
      by decide, by decide, .inl ?_, (nomatch ·), by decide⟩,
    ⟨_, _, ⟨issues_of _ rfl, ⟨rfl, rfl⟩, by decide, by decide, by decide, by decide, rfl, by decide, rfl, by decide, by decide,
      by decide, by decide, .inl ?_, fun _ => ⟨by decide, .inl rfl, .inl ?_⟩, by decide⟩, by decide⟩, by decide, by decide, holds_of _⟩
    <;> (unfold Chip.Clean; decide)

/-- A chip whose beacon 5 of spire 0 has a count, in generation 1. -/
def withBeacon (n : BitVec 32) (c : Chip) : Chip := c.modBeacon 0 5 (fun b => { b with alloc := true, gen := 1, count := n })

/-- Its token. -/
def token5 : Word := BitVec.ofNat 64 (1 + 2 ^ 36 * 5)

/-- A coroutine that has the token in `x3`. -/
def holder (co : Coroutine) : Coroutine := co.setX 3 token5

theorem witness_BeaconsIssue : Issues (runs (withBeacon 1) holder) 0 (coAt holder) := by
  refine ⟨rfl, by decide, ?_, rfl⟩; simp [runs, withBeacon, Chip.co, Chip.modBeacon, Chip.modSpire, mget]

theorem witness_Beacons : (runs (withBeacon 1) holder).chip.undrained 0 = false ∧ (coAt holder).quiet
    ∧ ((runs id id).chip.beacon 0 0).alloc = false ∧ TokenPasses (runs (withBeacon 1) holder).chip .set (coAt holder) ((coAt holder).xr 3)
    ∧ TokenPasses (runs (withBeacon 1) holder).chip .signal (coAt holder) ((coAt holder).xr 3)
    ∧ TokenPasses (runs (withBeacon 1) holder).chip .wait (coAt holder) ((coAt holder).xr 3)
    ∧ (runs (withBeacon 1) holder).chip.enrolled token5 = [] ∧ (runs (withBeacon 1) holder).chip.storesPending 0 = false
    ∧ (runs id id).chip.tokHere (2 ^ 54) = false ∧ tokenRefused .set true (tokIndex (BitVec.ofNat 64 (2 ^ 36 * 0xFE00))) = true
    ∧ (runs id id).chip.tokHere (BitVec.ofNat 64 (2 ^ 36 * 0xFE00)) = true ∧ (runs id id).chip.tokCurrent token5 = false
    ∧ (runs id id).chip.tokHere token5 = true :=
  ⟨by decide, ⟨rfl, rfl⟩, by decide, by unfold TokenPasses; decide, by unfold TokenPasses; decide, by unfold TokenPasses; decide,
    by decide, by decide, by decide, by decide, by decide, by decide, by decide⟩

/-- A chip with a signal of the token in flight. -/
def signalled (st : Nat) (c : Chip) : Chip := { withBeacon 1 c with msgs := [⟨none, false, false, .signal token5 1 st 3 none, .links, 0, false⟩] }

theorem witness_SignalsLowerTheCountAndWake : (runs (signalled 2) id).keep.power.halted = false
    ∧ (runs (signalled 2) id).chip.msgs[0]? = some ⟨none, false, false, .signal token5 1 2 3 none, .links, 0, false⟩
    ∧ (runs (signalled 2) id).chip.tokHere token5 = true ∧ (runs (signalled 2) id).chip.tokCurrent token5 = true ∧ tokDie token5 < 4
    ∧ tokIndex token5 < 0xFE00 ∧ ((runs (signalled 2) id).chip.tokBeacon token5).err = 0 :=
  ⟨rfl, rfl, by decide, by decide, by decide, by decide, by decide⟩

/-- A chip with a count and a signal of core 1 for the token in flight. -/
def counted (c : Chip) : Chip :=
  { withBeacon 1 c with msgs := [⟨none, false, false, .setCount token5 9 none, .core 1, 0, false⟩, ⟨none, false, false, .signal token5 1 0 3 none, .core 1, 0, false⟩] }

/-- R155: the signal waits behind the count, and one with nothing before it does not. -/
theorem witness_Overtakes : Overtakes (runs counted id).chip 1 ⟨none, false, false, .signal token5 1 0 3 none, .core 1, 0, false⟩
    ∧ ¬ Overtakes (runs (signalled 2) id).chip 0 ⟨none, false, false, .signal token5 1 2 3 none, .links, 0, false⟩ := by
  refine ⟨⟨rfl, _, List.mem_cons_self .., rfl, rfl, rfl, rfl⟩, fun ⟨_, _, h, _⟩ => nomatch h⟩

theorem witness_WaitingInstructionResults : Runs (runs (withBeacon 1) holder) 0
    ∧ ((runs (withBeacon 1) holder).chip.tokBeacon token5).count.toInt < signedOf 32 2
    ∧ signedOf 32 1 ≤ ((runs (withBeacon 1) holder).chip.tokBeacon token5).count.toInt ∧ (coAt id).gid = 0xFFFF
    ∧ (coAt (fun c => { c with gid := 0, gsize := 2 })).gid ≠ 0xFFFF ∧ (coAt id).resv = []
    ∧ (coAt (reserved false)).resv ≠ [] ∧ (∀ r ∈ (coAt (reserved false)).resv, r.broken = false)
    ∧ (∃ r ∈ (coAt (reserved true)).resv, r.broken = true)
    ∧ (runs (withBeacon 1) holder).chip.cacheUse 0 + (coAt holder).units ≤ 1536
    ∧ 1536 < (runs (withBeacon 1) holder).chip.cacheUse 0 + 1537 :=
  ⟨by unfold Runs; decide, by decide, by decide, by decide, by decide, by decide, by decide, by decide, by decide, by decide, by decide⟩

theorem witness_SpawnExitAndMigrate : Issues (runs id (withX 3 2)) 0 (coAt (withX 3 2)) ∧ (coAt (withX 3 2)).quiet
    ∧ (runs id (withX 3 2)).chip.targetBad ((runs id (withX 3 2)).chip.partNum 0) ((coAt (withX 3 2)).xr 3) = false
    ∧ (∃ core slot, (runs id (withX 3 2)).chip.reserveOn ((runs id (withX 3 2)).chip.targetCores ((runs id (withX 3 2)).chip.partNum 0) 0
        ((coAt (withX 3 2)).xr 3)) = some (core, slot) ∧ core ≠ 0)
    ∧ (runs id id).chip.targetBad ((runs id id).chip.partNum 0) 0xFFFFFFFFFFFFFFFF = true ∧ (coAt id).solo = true
    ∧ (runs id (withX 3 2)).chip.storesPending 0 = false ∧ Runs (runs id (withX 3 2)) 0 ∧ (coAt id).inl = 0
    ∧ (coAt (fun c => { c with inl := 1 })).inl ≠ 0 :=
  ⟨issues_of _ rfl, ⟨rfl, rfl⟩, by decide, ⟨_, _, rfl, by decide⟩, by decide, by decide, by decide, by unfold Runs; decide, by decide, by decide⟩

/-- A faulted coroutine beside the running one. -/
def faulted1 (c : Chip) : Chip := { c with cos := c.cos ++ [(1, { Coroutine.blank with state := .faulted, lid := 3 })] }

/-- A supervisor that names it. -/
def names1 (co : Coroutine) : Coroutine := co.setX 3 (BitVec.ofNat 64 (1 + 2 ^ 32 * 3))

theorem witness_SupervisorControlResults : Issues (runs id user) 0 (coAt user) ∧ ((coAt names1).xr 3).toNat % 2 ^ 17 = 1
    ∧ ((coAt names1).xr 3).toNat / 2 ^ 32 = 3 ∧ (runs faulted1 names1).chip.undrained 0 = false
    ∧ ((runs faulted1 names1).chip.part ((runs faulted1 names1).chip.partNum 0)).clus.getLsbD 0 = true
    ∧ (∃ m, (runs faulted1 names1).chip.co 1 = some m ∧ m.lid = 3 ∧ m.state = .faulted ∧ m.cause ≠ 0x14)
    ∧ ((runs faulted1 names1).chip.readSlot 1).2.slotPoisoned 1 ((runs faulted1 names1).chip.readSlot 1).1 = false ∧ (runs faulted1 names1).chip.openedBy 0 1 = none
    ∧ (runs id names1).chip.co 1 = none ∧ (coAt names1).state = .running :=
  ⟨issues_of _ rfl, by decide, by decide, by decide, by decide, ⟨_, rfl, by decide, by decide, by decide⟩, by decide, by decide, by decide, rfl⟩

/-! ### Vector instructions -/

/-- The oldest vector entry of core 0 is `e`. -/
def headed (e : VEntry) (c : Chip) : Chip := c.modCore 0 (fun k => { k with vq := [e] })

/-- Two elements of 32 bits are in range. -/
def two (co : Coroutine) : Coroutine := { co with vl := 2, vtype := 2 }

/-- An entry of that coroutine. -/
def entry (i : Instr) : VEntry := entryOf i 0 (coAt two) 0 0

theorem heads_of (e : VEntry) (f : Coroutine → Coroutine) (hs : e.slot = 0) (hl : (coAt f).state ≠ .exited)
    (hd : (coAt f).due = none) (hw : (coAt f).estepEl = false) (hf : e.seqs = [])
    (hr : (runs (headed e) f).chip.entryWaits (coKey 0 e.slot) (coAt f) e = false) : Heads (runs (headed e) f) 0 e [] (coAt f) := by
  refine ⟨rfl, ?_, by simp [hs], ?_, hl, hd, hw, hf, hr⟩
  · simp [runs, headed, Chip.core, Chip.modCore, mgetD, mget, mset]
  · simp [runs, headed, Chip.co, Chip.modCore, mget, coKey, hs]

theorem entry_slot (i : Instr) : (entry i).slot = 0 := rfl

theorem heads_two (i : Instr) : Heads (runs (headed (entry i)) two) 0 (entry i) [] (coAt two) :=
  heads_of _ _ rfl (by decide) rfl rfl rfl (by
    simp [Chip.entryWaits, Chip.storesPending, runs, headed, Chip.core, Chip.modCore, mgetD, mget, mset, Core.reset, coKey, Chip.reset,
      entry_slot])

theorem witness_VectorIssue : Issues (runs id two) 0 (coAt two) ∧ (coAt two).estepEl = false
    ∧ (∀ f ∈ vectorWords 1 2 3 0 0 0 0 0 0 0 (coAt two), vectorPre f.1 (coAt two) = none)
    ∧ scalarPathSpec (entry (.vfadd 1 2 3 0 0 0)) (coAt two) = none
    ∧ ((runs id two).chip.core 0).vq.length < 32 ∧ (runs id two).chip.pathFree 0 (.vadd 1 2 3 0 0 0) = true
    ∧ (scalarPathSpec { entry (.vmvx 1 2 0) with vl := 64 } (coAt two)).isSome = true
    ∧ (runs id two).chip.undrained 0 = false ∧ sewBits 0 = 8 ∧ sewBits 3 = 64 ∧ sewBits 1 = 16 ∧ sewBits (coAt two).vtype < 8 * 2 ^ (3 : BitVec 2).toNat :=
  ⟨issues_of _ rfl, by decide, by decide, by decide, by decide, by decide, by decide, by decide, by decide, by decide, by decide, by decide⟩

theorem witness_VectorLengthResults : Issues (runs id two) 0 (coAt two) ∧ (coAt two).quiet
    ∧ (∃ g, mget (runs id two).chip.gangs (coAt two).gang = some g ∧ g.grant = none)
    ∧ (coAt two).sup = true :=
  ⟨issues_of _ rfl, ⟨rfl, rfl⟩, ⟨_, rfl, rfl⟩, rfl⟩

theorem mask_clear : ((coAt two).mr 3)[1] = false := by decide

theorem governed_ends (i : Instr) : Governed (entry i) (coAt two) 0 0 ∧ Governed (entry i) (coAt two) 0 1
    ∧ ¬ Governed (entry i) (coAt two) 0 2 ∧ ¬ Governed (entry i) (coAt two) 3 1 ∧ GovernedWhole (entry i) (coAt two) 0 1
    ∧ ¬ GovernedWhole (entry i) (coAt two) 0 2 := by
  have hv : (entry i).vl = 2 := rfl
  have hs : (entry i).vstart = 0 := rfl
  have hm : ((coAt two).mr 3)[1] = false := mask_clear
  unfold Governed GovernedWhole
  simp [hv, hs, hm]

theorem witness_VectorIntegerElementResults : Heads (runs (headed (entry (.vadd 1 2 3 0 0 0))) two) 0 (entry (.vadd 1 2 3 0 0 0)) [] (coAt two)
    ∧ (∃ f ∈ integerTable 1 2 3 0 0 0 (coAt two) 32 0, (entry (.vadd 1 2 3 0 0 0)).op = f.1) ∧ (entry (.vadd 1 2 3 0 0 0)).sew = 32 :=
  ⟨heads_two _, ⟨_, List.mem_cons_self .., rfl⟩, rfl⟩

theorem witness_VectorFloatElementResults : Heads (runs (headed (entry (.vfadd 1 2 3 0 0 0))) two) 0 (entry (.vfadd 1 2 3 0 0 0)) [] (coAt two)
    ∧ (∃ f ∈ floatTable 1 2 3 0 0 0 32 0, (entry (.vfadd 1 2 3 0 0 0)).op = f.1 ∧ widthRefused f.1 32 = false)
    ∧ (entry (.vfadd 1 2 3 0 0 0)).sew ≠ 8 := ⟨heads_two _, ⟨_, List.mem_cons_self .., rfl, rfl⟩, by decide⟩

theorem witness_VectorMasksAndScalars : Heads (runs (headed (entry (.vcmp 7 2 3 0 0 5))) two) 0 (entry (.vcmp 7 2 3 0 0 5)) [] (coAt two)
    ∧ (7 : BitVec 5).toNat < 8 ∧ (entry (.vcmp 7 2 3 0 0 5)).op = .vcmp 7 2 3 0 0 5 ∧ (entry (.vmpopc 5 0)).op = .vmpopc 5 0
    ∧ Heads (runs (headed (entry (.vmpopc 5 0))) two) 0 (entry (.vmpopc 5 0)) [] (coAt two) :=
  ⟨heads_two _, by decide, rfl, rfl, heads_two _⟩

theorem witness_VectorPermutesAndSelection : Heads (runs (headed (entry (.vcompress 1 2 0 3))) two) 0 (entry (.vcompress 1 2 0 3)) [] (coAt two)
    ∧ (3 : BitVec 3) ≠ 0 ∧ Heads (runs (headed (entry (.vtopk 1 2 0 0 0))) two) 0 (entry (.vtopk 1 2 0 0 0)) [] (coAt two)
    ∧ (coAt two).topk.Pairwise RanksNoLater :=
  ⟨heads_two _, by decide, heads_two _, List.Pairwise.nil⟩

theorem witness_VectorReductionsAndRotation : Heads (runs (headed (entry (.vfredsum 1 2 3 0 0 0))) two) 0 (entry (.vfredsum 1 2 3 0 0 0)) [] (coAt two)
    ∧ (entry (.vfredsum 1 2 3 0 0 0)).sew ≠ 8 ∧ (entry (.vfredsum 1 2 3 0 0 0)).vl ≤ 2 ^ 1 ∧ 2 ^ 0 < (entry (.vfredsum 1 2 3 0 0 0)).vl
    ∧ (entry (.vrope 1 2 3 0 0 0)).sew = 32 ∧ Governed (entry (.vrope 1 2 3 0 0 0)) (coAt two) 0 (2 * 0)
    ∧ 2 * 0 + 1 < (entry (.vrope 1 2 3 0 0 0)).vl ∧ ropeValid (entry (.vrope 1 2 3 0 0 0)).rope = false
    ∧ ropeValid 0x80461C4000 = true :=
  ⟨heads_two _, by decide, by decide, by decide, rfl, (governed_ends _).1, by decide, by decide, by decide⟩

/-- One element in range. -/
def one (co : Coroutine) : Coroutine := { co with vl := 1, vtype := 2 }

/-- The entry of a load of that element. -/
def loadOne (u : Word) : VEntry := entryOf (.vld 1 5 0 0 0 0 2) 0 (coAt one) u 0

theorem witness_VectorMemoryElementResults : Heads (runs (headed (loadOne 0x201000)) one) 0 (loadOne 0x201000) [] (coAt one)
    ∧ Memory.wf (runs (headed (loadOne 0x201000)) one).chip.mem ∧ 8 * 2 ^ (2 : BitVec 2).toNat ≤ (loadOne 0x201000).sew
    ∧ Lone (loadOne 0x201000) (coAt one) 0 0 ∧ (0x201000 : Word).toNat % 2 ^ 2 = 0 ∧ (0x201001 : Word).toNat % 2 ^ 2 ≠ 0
    ∧ (∃ x c, (runs (headed (loadOne 0x201000)) one).chip.xlate (entryAgent 0 (loadOne 0x201000) (coAt one)) 0x201000 .load false = (.inr x, c)
      ∧ x.pol < 2 ∧ inWindow x.pa = false ∧ c.poisoned (lineOf x.pa) = false ∧ c.latentOf (lineOf x.pa) = Latent.none
      ∧ c.residentPa x.pa = x.pa ∧ Current c (x.server 0) (lineOf x.pa))
    ∧ (∃ x c, (runs (headed (loadOne 0x201000)) one).chip.xlate (entryAgent 0 (loadOne 0x201000) (coAt one)) 0x201000 .store false = (.inr x, c)
      ∧ x.pol < 2 ∧ inWindow x.pa = false ∧ Owns c 0 x)
    ∧ (coAt one).state = .running ∧ (coAt one).block = [] ∧ (coAt user).sup = false ∧ (runs (headed (loadOne 0x201001)) one).chip.storesPending 0 = false := by
  refine ⟨heads_of _ _ rfl (by decide) rfl rfl rfl rfl, by decide, by decide, ?_, by decide, by decide,
    ⟨_, _, rfl, by decide, by decide, by decide, by decide, by decide, .inl (clean_of rfl rfl _)⟩,
    ⟨_, _, rfl, by decide, by decide, by decide, .inl rfl, .inl (clean_of rfl rfl _)⟩, rfl, rfl, rfl, by decide⟩
  unfold Lone Governed
  intro j
  show (0 ≤ j ∧ j < 1 ∧ _) ↔ _
  simp

/-! ### Engine instructions -/

/-- Tile 0 and tile 1 of cluster 0 hold 8 rows of 8 elements of F16, and the running coroutine holds slot 0. -/
def tiled (c : Chip) : Chip :=
  c.modCluster 0 (fun k => { k with
    tiles := [(0, ⟨3, 8, 8, true, 0, 0⟩), (1, ⟨3, 8, 8, true, 0, 0⟩)]
    slots := [(0, ⟨true, false, 0, 0, 0, false, 1, 0⟩), (2, ⟨true, false, 1, 0, 7, false, 1, 0⟩)] })

/-- A coroutine with a window of 3 tiles and 3 slots. -/
def worker (co : Coroutine) : Coroutine := { co with tbase := 0, tcount := 3, abase := 0, acount := 3, vtype := 2, vl := 8 }

theorem worker_issues (g : Coroutine → Coroutine) (h : (coAt (fun c => g (worker c))).pp = false) :
    Issues (runs tiled (fun c => g (worker c))) 0 (coAt (fun c => g (worker c))) := by
  refine ⟨rfl, by simp [runs, tiled, Chip.runningKey, Chip.core, Chip.modCluster, mgetD, mget, State.reset, coKey], ?_, h⟩
  simp [runs, tiled, Chip.co, Chip.modCluster, mget]

theorem witness_EngineRegisterResults : Issues (runs tiled worker) 0 (coAt worker)
    ∧ (2 : BitVec 5).toNat < (coAt worker).tcount ∧ (coAt worker).tcount ≤ (3 : BitVec 5).toNat
    ∧ (runs tiled worker).chip.undrained 0 = false :=
  ⟨worker_issues id rfl, by decide, by decide, by decide⟩

/-- A coroutine whose `q0` is `n`. -/
def length (n : Word) (co : Coroutine) : Coroutine := { co with q := co.q.set 0 n, qu := true }

/-- A node map with itself and node 1 and a valid node identifier. -/
def linked (c : Chip) : Chip := { c with links := { c.links with valid := true, map := [(1, (1, true))] } }

theorem witness_EngineCommandsEnterTheirQueues : Issues (runs id (length 64)) 0 (coAt (length 64))
    ∧ TokenReady (runs id (length 64)).chip (coAt (length 64)) ∧ (runs id (length 64)).chip.storesPending 0 = false
    ∧ (coAt (length 64)).quiet ∧ (∀ f ∈ copyTable 0 0 (coAt (length 64)), f.2.1 ≠ 1 → f.2.2.1 * f.2.2.2 ≠ 0)
    ∧ (∀ f ∈ copyTable 0 0 (coAt id), f.2.2.1 * f.2.2.2 = 0) ∧ ((runs id id).chip.cluster 0).copyQ.length < 64
    ∧ (runs (withStore 1) id).chip.storesPending 0 = true ∧ (runs id id).chip.undrained 0 = false
    ∧ ((coAt (withX 3 0x1FFFF)).xr 3).toNat % 2 ^ 17 ≠ 0 ∧ ((coAt (withX 3 0x20000)).xr 3).toNat % 2 ^ 17 = 0
    ∧ ((runs id id).chip.cluster 0).kvQ.length < 64 ∧ ((runs id id).chip.cluster 0).netQ.length < 64
    ∧ (runs id id).chip.noLink 5 = true ∧ (∃ n, (runs linked id).chip.noLink n = false) ∧ (runs linked id).chip.links.valid = true :=
  ⟨issues_of _ rfl, .inl rfl, by decide, ⟨rfl, rfl⟩, by decide, by decide, by decide, by decide, by decide, by decide, by decide,
    by decide, by decide, by decide, ⟨1, by decide⟩, by decide⟩

/-- A pooled space 0 of ASID 0, with one frame, number 5, in its free ring. -/
def pooled (c : Chip) : Chip :=
  { c with
    kvdesc := [(0, [3, 0, 0, 3, 1, 0, 1, 0, 16, 0, 0, 0, 8, 0, 0, 0, 0, 0, 0x40, 0, 0, 0, 0, 0, 1, 0, 0, 0, 8, 6, 0, 0,
      0, 0, 0x41, 0, 0, 0, 0, 0, 0, 0, 0x42, 0, 0, 0, 0, 0, 2, 0, 0, 0, 0, 0, 0, 0, 0, 0, 0, 0, 0, 0, 0, 0])]
    mem := memWriteNat (memWriteNat c.mem 0x410004 4 1) 0x410040 4 5 }

theorem witness_SynchronousKvResults : (∃ v c, (runs pooled id).chip.kvLook 0 0 0 = (.inr v, c))
    ∧ (∃ ds, (runs pooled id).chip.walkDesc 0 0 = .inr ds ∧ ds.checkCoords 0 7 = 0 ∧ ds.checkCoords 0 8 ≠ 0 ∧ ds.pooled = true
      ∧ ds.checkMap 0 0 = 0
      ∧ (∃ c, (runs pooled id).chip.readFrame ds 0 0 = (.inr 0, c)) ∧ ∃ c c', (runs pooled id).chip.ringHeader ds = (some (0, 1), c)
      ∧ c.kvRead (ds.free + 64 + 4 * (0 % 2 ^ ds.freelog)) 4 = (some 5, c') ∧ Memory.wf c'.mem ∧ c'.tableOk ds.free = true
      ∧ Owns c' (hbmHome ds.free) (kvXlat ds.free))
    ∧ Memory.wf (runs pooled id).chip.mem ∧ (∃ f, (runs pooled id).chip.walkDesc 0 1 = .inl f)
    ∧ (∃ l c, (runs id id).chip.readList 0 ((coAt id).agent 0) 0x201000 (Min.min 0 256) 0 = (.inr l, c))
    ∧ (runs pooled id).chip.undrained 0 = false ∧ (runs pooled id).chip.storesPending 0 = false :=
  ⟨⟨_, _, rfl⟩, ⟨_, rfl, by decide, by decide, by decide, by decide, ⟨_, rfl⟩, _, _, rfl, rfl, by decide, by decide, by decide, .inl rfl,
    .inl (by unfold Chip.Clean; decide)⟩, by decide, ⟨_, rfl⟩, ⟨_, _, rfl⟩, by decide, by decide⟩

theorem witness_MatrixIssue : Issues (runs tiled worker) 0 (coAt worker) ∧ Runs (runs tiled worker) 0 ∧ (coAt worker).quiet
    ∧ (∃ f ∈ matrixTable 0 1 0 (coAt worker), f.1 = .mma 0 1 0
      ∧ MatrixReady (runs tiled worker) 0 (coAt worker) f.1 (matrixOf (runs tiled worker) 0 (coAt worker) f.1 f.2.1 f.2.2))
    ∧ blkOf (coAt worker).vtype = 0 ∧ ((runs tiled worker).chip.core 0).mq.length < 16
    ∧ swapOf 0 = 0 ∧ swapOf 1 ≠ 1
    ∧ (∃ t ∈ namedTiles (.mma 0 3 0) 0, (coAt worker).tcount ≤ t)
    ∧ (∃ t ∈ namedTiles (.mma 0 2 0) 0, ((runs tiled worker).chip.cluster 0 |>.tile t).state ≠ 3)
    ∧ matrixSlot (.mma 0 1 3) = some 3 ∧ (slotOf (runs tiled worker) 0 (coAt worker) (.mma 0 1 2)).tagFor 0 (coAt worker).lid = .other
    ∧ (slotOf (runs tiled worker) 0 (coAt worker) (.mma 0 1 1)).tagFor 0 (coAt worker).lid = .free := by
  refine ⟨worker_issues id rfl, by unfold Runs; decide, ⟨rfl, rfl⟩, ⟨_, List.mem_cons_self .., rfl, ⟨?_, ?_, ?_, ?_, ?_, ?_⟩⟩, by decide,
    by decide, by decide, by decide, ?_, ?_, by decide, by decide, by decide⟩
  · decide
  · intro n h; cases h; decide
  · decide
  · intro n h; cases h; exact .inl (by decide)
  · decide
  · decide
  · exact ⟨3, by decide, by decide⟩
  · exact ⟨2, by decide, by decide⟩

/-- The staging register `q2` holds the word of `mma t0, t1, acc0`. -/
def follows (co : Coroutine) : Coroutine := { worker co with q := (co.q.set 2 0xC00110C0).set 0 64, qu := true }

theorem witness_TileInstructionsIssue : (∃ t, ((coAt (fun c => withX 3 2 (worker c))).xr 3).toNat % 32 = t
      ∧ t < (coAt (fun c => withX 3 2 (worker c))).tcount) ∧ configOk (3 + 8 * 2 ^ 8 + 8 * 2 ^ 20) = true ∧ configOk 0 = false
    ∧ (coAt worker).tcount ≤ (3 : Word).toNat % 32
    ∧ ((runs tiled worker).chip.cluster 0 |>.tile 0).state = 3 ∧ tileWidthOk 3 32 = true
    ∧ ((coAt worker).xr 0).toNat < ((runs tiled worker).chip.cluster 0 |>.tile 0).rows
    ∧ (coAt worker).vl ≤ ((runs tiled worker).chip.cluster 0 |>.tile 0).cols
    ∧ (coAt worker).estepEl = false
    ∧ followOn ((coAt follows).qr 2) = some (.mma 0 2 0, none) ∧ TokenReady (runs tiled follows).chip (coAt follows)
    ∧ (runs tiled follows).chip.vectorPending 0 = false ∧ (runs tiled follows).chip.storesPending 0 = false :=
  ⟨⟨_, rfl, by decide⟩, by decide, by decide, by decide, by decide, by decide, by decide, by decide, by decide, by decide, .inl rfl,
    by decide, by decide⟩

/-! ### Registers, power, errors and coherence -/

theorem witness_TranslationAndClassRegisters : RunsOn (runs id id) 0 (coAt id) ∧ (coAt id).sup = true ∧ (coAt id).asidSel = 0
    ∧ (coAt (fun c => { c with asidSel := 5 })).asidSel ≠ 0
    ∧ (runs id id).chip.undrained 0 = false ∧ (runs (withStore 1) id).chip.undrained 0 = true
    ∧ (∀ i < 256, (runs id id).chip.residentPa (0 + 64 * i) = 0 + 64 * i ∧ (runs id id).chip.Clean (lineOf (0 + 64 * i)))
    ∧ (runs id id).chip.tableOk 0 = true ∧ Sound (runs id id).chip 0 64 ∧ (runs id id).chip.partOf 0 = some 0
    ∧ (((3 : Word).setWidth 32 : BitVec 32) - 0).toNat ≤ ((3 : BitVec 32) - 0).toNat
    ∧ ((3 : BitVec 32) - 0).toNat < (((4 : Word).setWidth 32 : BitVec 32) - 0).toNat :=
  ⟨⟨rfl, running_of _, holds_of _, by decide⟩, rfl, by decide, by decide, by decide, by decide,
    fun i h => ⟨(by decide : ∀ i < 256, (runs id id).chip.residentPa (0 + 64 * i) = 0 + 64 * i) i h, clean_of rfl rfl _⟩, by decide,
    by unfold Sound; decide, by decide, by decide, by decide⟩

/-- Sensor 0 at a temperature, tripped. -/
def hot (temp : BitVec 16) (s : State) : State :=
  { s with
    chip := { s.chip with time := 100000000 }
    keep := { s.keep with power := { s.keep.power with sensors := s.keep.power.sensors.setIfInBounds 0 ⟨temp, true, true, true, true, 0, true⟩ } } }

theorem witness_PowerAndSensors : ((hot 880 State.reset).keep.power.sensor 0).tripped = true
    ∧ ((hot 880 State.reset).keep.power.sensor 0).stayed = true ∧ (State.reset.keep.power.sensor 12).stayed = false ∧ (hot 880 State.reset).keep.power.halted = false
    ∧ ((hot 880 State.reset).keep.power.sensor 0).tripAt + 100000000 ≤ (hot 880 State.reset).chip.time
    ∧ (∃ n, n < 5 ∧ ((hot 880 State.reset).keep.power.sensor n).warm = true)
    ∧ (∀ n, n < 5 → (State.reset.keep.power.sensor n).warm = false)
    ∧ (∀ n, n < 13 → (State.reset.keep.power.sensor n).tripped = false) ∧ (0 : BitVec 4).toNat < 13 :=
  ⟨by decide, by decide, by decide, by decide, by decide, ⟨0, by decide, by decide⟩, by decide, by decide, by decide⟩

/-- A partition of all clusters with a tolerance. -/
def tolerates (n : BitVec 24) (c : Chip) : Chip :=
  { c with parts := [(0, { Partition.reset with en := true, state := 1, clus := ~~~0, tol := n })], cos := [], cores := [], gangs := [] }

/-- Two ready coroutines on core 0, which is idle, the second of a higher level. -/
def readied (c : Chip) : Chip :=
  { c with
    cores := []
    cos := [(0, { Coroutine.blank with state := .ready, rtime := 1 }), (1, { Coroutine.blank with state := .ready, level := 3, rtime := 9 })] }

/-- A message on its way in partition 0. -/
def carrying (m : Msg) (c : Chip) : Chip := { c with msgs := [⟨some 0, false, false, m, .core 1, 0, false⟩] }

theorem witness_PowerStates : (runs (tolerates 40) id).keep.power.halted = false ∧ (runs (tolerates 40) id).chip.idle 127 = true
    ∧ 40 ≤ (runs (tolerates 40) id).chip.clusterTol 127 ∧ 2 ≤ (runs (tolerates 39) id).chip.clusterTol 0
    ∧ (runs (tolerates 39) id).chip.clusterTol 0 < 40 ∧ ((runs (tolerates 39) id).chip.cluster 0).power < 1
    ∧ (runs (tolerates 40) id).chip.clmask.getLsbD 127 = false ∧ (∀ k, k < 128 → (runs (tolerates 20000) id).chip.idle k = true)
    ∧ 1000 ≤ (runs (tolerates 20000) id).chip.spireTol 3 ∧ 20000 ≤ (runs (tolerates 20000) id).chip.packageTol
    ∧ (runs (carrying (.migrate 0 1 Coroutine.blank)) id).chip.aimedAt 0 = true ∧ (runs (tolerates 40) id).chip.aimedAt 0 = false
    ∧ exitLatency ((runs (tolerates 40) id).chip.cluster 0).power ≤ (runs (tolerates 40) id).chip.clusterTol 0
    ∧ (∀ i < 4, (runs (tolerates 40) id).chip.busyOn (4 * 0 + i) = 0) ∧ 0 < (runs readied id).chip.busyOn (4 * 0 + 0)
    ∧ (runs (carrying (.hop 0 5 Coroutine.blank)) id).chip.spireWakes 0 = true
    ∧ (runs (carrying (.hop 0 5 Coroutine.blank)) id).chip.hopsTo 0 = true ∧ (runs (tolerates 20000) id).chip.spireWakes 3 = false :=
  ⟨rfl, by decide, by decide, by decide, by decide, by decide, by decide, by decide, by decide, by decide, by decide, by decide, by decide, by decide, by decide, by decide, by decide, by decide⟩

theorem witness_ControlRegisters : State.reset.chip.launches = [] ∧ (State.reset.keep.hqs.getD 63 ⟨false, false, 0, 0⟩).head < 1024
    ∧ (State.reset.keep.hqs.getD 63 ⟨false, false, 0, 0⟩).tail < 1024
    ∧ (State.reset.keep.hqs.getD 63 ⟨false, false, 0, 0⟩).en = false
    ∧ (mgetD State.reset.chip.links.windows 255 ⟨0, 0, 0, 0, 0, 0⟩).base < 2 ^ 52
    ∧ (mgetD State.reset.chip.links.endpoints 4095 ⟨0, 0, 0⟩).job &&& 0x7F000000 = 0
    ∧ (0x1550 : BitVec 22).toNat = 0x1520 + 4 * 12 ∧ (0x2060 : BitVec 22).toNat = 0x2000 + 0x20 * 3
    ∧ (0x21FE0 : BitVec 22).toNat = 0x20000 + 32 * 255 ∧ (0x5FFF4 : BitVec 22).toNat = 0x40014 + 32 * 4095
    ∧ (0x123FC8 : BitVec 22).toNat = 0x120048 + 0x80 * 127 ∧ State.reset.keep.power.halted = false
    ∧ ¬ (0x1000 ≤ (0xFFF : BitVec 22).toNat ∧ (0xFFF : BitVec 22).toNat < 0x2000)
    ∧ ¬ (0x1000 ≤ (0x2000 : BitVec 22).toNat ∧ (0x2000 : BitVec 22).toNat < 0x2000) := by decide

/-- A pilot whose ring of 256 entries is enabled and holds an event back. -/
def holding (s : State) : State :=
  { s with keep := { s.keep with pilot := { s.keep.pilot with
      en := true, log2n := 8, head := 0, tail := 255, held := [⟨1, 2, 3, 4, none⟩], usec := 1, unsignalled := 1, since := 0 } }
           chip := { s.chip with time := 1000 } }

/-- A pilot that has buffered an event while its ring was disabled. -/
def buffering (s : State) : State :=
  { s with keep := { s.keep with pilot := { s.keep.pilot with buffer := [(⟨1, 2, 3, 4, none⟩, 7)] } } }

theorem witness_EventsAndErrors : State.reset.keep.pilot.buffer = [] ∧ State.reset.keep.pilot.held = [] ∧ State.reset.keep.pilot.en = false
    ∧ (17 : BitVec 32).getLsbD 0 = true ∧ (17 : BitVec 32).toNat / 2 % 32 = 8 ∧ (33 : BitVec 32).toNat / 2 % 32 = 16
    ∧ (∃ e t, (buffering State.reset).keep.pilot.buffer = [(e, t)]) ∧ Memory.wf (holding State.reset).keep.hostMem
    ∧ (∃ e, (holding State.reset).keep.pilot.held = [e]) ∧ (holding State.reset).keep.pilot.tail.toNat < 2 ^ (holding State.reset).keep.pilot.log2n
    ∧ ((holding State.reset).keep.pilot.tail.toNat + 2 ^ 8 - (1 : BitVec 32).toNat % 2 ^ 16 % 2 ^ 8) % 2 ^ 8 < 2 ^ 8 - 1
    ∧ (holding State.reset).keep.pilot.since + 1000 * (holding State.reset).keep.pilot.usec.toNat ≤ (holding State.reset).chip.time
    ∧ place ((0 : BitVec 48).toNat * 128) = .hbm ∧ (faqOf State.reset 3).entries.length < 256
    ∧ State.reset.keep.power.halted = false ∧ State.reset.chip.found = [] ∧ State.reset.chip.latentOf 0 = Latent.none
    ∧ 0x10000000000 / 128 ∉ State.reset.chip.links.cxlBad ∧ Memory.wf State.reset.chip.mem
    ∧ State.reset.chip.Clean (0x10000000000 / 128) :=
  ⟨by decide, by decide, by decide, by decide, by decide, by decide, ⟨_, _, rfl⟩, by decide, ⟨_, rfl⟩, by decide, by decide, by decide,
    by decide, by decide, rfl, rfl, by decide, by decide, by decide, clean_of rfl rfl _⟩

/-- A line of spire 0 that spire 1 holds exclusively, dirty. -/
def owned (s : State) : State :=
  { s with chip := (s.chip.setCompass 5 (cWith 0 2 1 0)).putCopy 1 5 ⟨.exclusive, 3, 3, false, 0, 0, none, none⟩ }

theorem witness_WindowsRetirementAndCompass : State.reset.keep.boot.ready = false ∧ place (0x800000000000 + (0x1FFFFF : BitVec 33).toNat) = .tile 0
    ∧ place (0x800000000000 + (0x200000 : BitVec 33).toNat) = .hole ∧ place (0x800000000000 + (0x4FFFFF : BitVec 33).toNat) = .slot 0
    ∧ place (0x800000000000 + (0x100000000 : BitVec 33).toNat) = .beacon 0
    ∧ State.reset.keep.retire.busy = false ∧ (7 ∉ State.reset.keep.store.badPages)
    ∧ compass (owned State.reset).chip 5 = (2, 1, 0, false) ∧ cMalformed ((owned State.reset).chip.compassOf 5) 0 = false
    ∧ cMalformed ((owned State.reset).chip.compassOf 5) 1 = true ∧ (owned State.reset).chip.dirtyAt 1 5 = true
    ∧ (owned State.reset).chip.copyAt 2 5 = none ∧ place (5 * 128) = .hbm ∧ 5 * 128 / 2 ^ 37 % 4 = 0
    ∧ (owned State.reset).chip.isRetired (5 * 128) = false ∧ (owned State.reset).chip.latentOf 5 = Latent.none
    ∧ Memory.wf (owned State.reset).chip.mem ∧ (owned State.reset).chip.Clean 5 ∧ HasWay (owned State.reset).chip 0 5
    ∧ DirtyCovered (owned State.reset).chip 5
    ∧ ({ (owned State.reset).chip with retired := [0] } : Chip).isRetired (5 * 128) = true :=
  ⟨by decide, by decide, by decide, by decide, by decide, by decide, by decide, by decide, by decide, by decide, by decide, by decide,
    by decide, by decide, by decide, by decide, by decide, by unfold Chip.Clean; decide, by unfold HasWay; decide,
    ⟨by decide, fun _ h => nomatch h⟩, by decide⟩

/-- A package whose boot has begun. -/
def begun (s : State) : State := { s with keep := { s.keep with boot := { s.keep.boot with started := true } } }

/-- A host access reaches to the end of a tile store and no further; a wide one is 512 bytes long when it writes (R49, R53). -/
theorem witness_WindowAccesses : (begun State.reset).keep.power.halted = false
    ∧ (∀ i < 512, place (0x800000000000 + (0x1FFE00 : BitVec 33).toNat + i) ≠ .hole)
    ∧ place (0x800000000000 + (0x1FFE00 : BitVec 33).toNat) = .tile 0 ∧ (512 : BitVec 13).toNat ≤ 512 ∧ (4096 : BitVec 13).toNat ≤ 4096
    ∧ place (0x800000000000 + (0x1FFE00 : BitVec 33).toNat + 512) = .hole ∧ (List.replicate 512 (0 : BitVec 8)).length = (512 : BitVec 13).toNat
    ∧ Memory.wf State.reset.chip.mem :=
  ⟨rfl, (by decide : ∀ i < 512, place (0x800000000000 + (0x1FFE00 : BitVec 33).toNat + i) ≠ .hole), by decide, by decide, by decide,
    by decide, by decide, by decide⟩

/-! ### Boot, firmware and partitions -/

/-- A package whose firmware part is at work, or has been given a length. -/
def atWork (busy : Bool) (len : BitVec 32) (s : State) : State :=
  { s with keep := { s.keep with fw := { s.keep.fw with busy := busy, len := len } } }

theorem witness_BootFirmwareAndReset : (begun State.reset).keep.boot.started = true ∧ State.reset.keep.boot.started = false
    ∧ State.reset.keep.boot.ready = false ∧ State.reset.keep.boot.err = 0 ∧ (atWork true 0 State.reset).keep.fw.busy = true
    ∧ (atWork false 0x4000001 State.reset).keep.fw.busy = false ∧ 2 ^ 26 < (atWork false 0x4000001 State.reset).keep.fw.len.toNat
    ∧ (atWork false 0x4000000 State.reset).keep.fw.len.toNat ≤ 2 ^ 26 ∧ Memory.wf State.reset.keep.hostMem
    ∧ State.reset.keep.power.halted = false
    ∧ ({ State.reset.keep.boot with err := 0x11 } : Boot).err ≠ 0
    ∧ State.reset.keep.pilot.buffer.length + State.reset.keep.pilot.held.length ≤ 1024 :=
  ⟨rfl, rfl, rfl, rfl, rfl, rfl, by decide, by decide, by decide, rfl, by decide, by decide⟩

/-- A package whose partition 0 is as `f` makes it. -/
def partitioned (f : Partition → Partition) : State :=
  { State.reset with chip := { Chip.reset with parts := [(0, f { Partition.reset with clus := 1 })], time := 5000 } }

/-- Enabled, in a state. -/
def inState (n : Nat) (q : Partition) : Partition := { q with en := true, state := n }

/-- With a bell that has rung. -/
def rung (q : Partition) : Partition := { inState 1 q with bell := 5000, armed := true }

/-- A partition that was enabled without a supervisor, and a faulted coroutine of it. -/
def stuck (s : State) : State :=
  { s with chip := (s.chip.modPart 0 (fun q => { q with unserved := true })).setCo 5 { Coroutine.blank with state := .faulted } }

/-- A network command with a piece under way in cluster 0. -/
def flying (s : State) : State :=
  { s with chip := s.chip.modCluster 0 (fun k => { k with netQ := [⟨⟨1, 0, 0, 0, 0, 0, true, true, 0⟩, 0, 0, 0, 64, 0, 0, 0, 1, [], [], 64, [],
    [⟨0, 0, 1, [], false, none⟩], []⟩] }) }

theorem witness_PartitionLifecycle : ((partitioned id).chip.part 0).en = false ∧ ((partitioned id).chip.part 0).clus ≠ 0
    ∧ (∀ e ∈ (partitioned id).chip.parts, e.1 ≠ 0 → e.2.en = true → e.2.clus &&& ((partitioned id).chip.part 0).clus = 0)
    ∧ ((partitioned id).chip.part 0).clus &&& (partitioned id).chip.clmask = 0 ∧ (State.reset.chip.part 127).clus = 0
    ∧ LowestOn 1 0 0 ∧ LowestOn (3 * 2 ^ 64) 2 64 ∧ (partitioned id).chip.freeSlot (4 * 0) = some 0
    ∧ ((partitioned (inState 1)).chip.part 0).en = true ∧ (∀ e ∈ (partitioned (inState 1)).chip.launches, e.2.part ≠ 0)
    ∧ ((partitioned (inState 5)).chip.part 0).state = 5 ∧ ((partitioned (inState 3)).chip.part 0).state = 3
    ∧ ((partitioned rung).chip.part 0).bell ≠ 0 ∧ ((partitioned rung).chip.part 0).bell.toNat ≤ (partitioned rung).chip.time
    ∧ (partitioned rung).chip.time + 2000 < 2 ^ 64 ∧ ((partitioned (inState 2)).chip.part 0).state = 2
    ∧ ((partitioned rung).chip.part 0).armed = true ∧ ((partitioned (inState 1)).chip.part 0).armed = false
    ∧ (stuck (partitioned (inState 1))).chip.stuckFault 0 = true ∧ ((stuck (partitioned (inState 1))).chip.part 0).unserved = true
    ∧ (partitioned (inState 1)).chip.stuckFault 0 = false ∧ ((partitioned (inState 2)).chip.cluster 0).netQ = []
    ∧ (∃ n ∈ ((flying (partitioned (inState 2))).chip.cluster 0).netQ, n.flight ≠ [] ∧ n.stalled = [])
    ∧ Fits (partitioned id).chip 0 (supervisorOf 0 0 0 0x300000).units ∧ ¬ Fits (partitioned id).chip 0 1537 := by
  have f : Fits (partitioned id).chip 0 (supervisorOf 0 0 0 0x300000).units ∧ ¬ Fits (partitioned id).chip 0 1537 := by
    unfold Fits
    decide
  refine ⟨by decide, by decide, by decide, by decide, by decide, ?_, ?_, by decide, by decide, by decide, by decide, by decide, by decide,
    by decide, by decide, by decide, by decide, by decide, by decide, by decide, by decide, by decide,
    ⟨_, List.mem_cons_self .., by decide, rfl⟩, f⟩
  · exact ⟨by decide, by decide, fun k h => absurd h (Nat.not_lt_zero k)⟩
  · exact ⟨by decide, by decide, by decide⟩

/-- An image of nothing. -/
def nothing : Image :=
  { cos := [], gangs := [], clusters := [(0, Cluster.reset)], window := [], mqs := [], msgs := [], launches := [],
    fqs := Vector.replicate 4 FaultQ.reset, sects := [] }

/-- A partition that holds it at 0x500000. -/
def saved (n op : Nat) (q : Partition) : Partition :=
  { inState n q with save := 0x500000, savelen := 256, pendingOp := op, image := some nothing }

/-- The header of an image of version 0. -/
def header (s : State) : State :=
  { s with chip := { s.chip with mem := memWriteNat (memWriteNat s.chip.mem 0x500000 4 0x49564153) 0x500010 8 256 } }

/-- A sealed header, known to the part. -/
def sealedHeader (s : State) : State :=
  { s with chip := { s.chip with
      mem := [(0x50001C, 1)] ++ memWriteBytes [] 0x500030 (sha384 [])
      archive := [⟨sha384 [], sha384 (memReadBytes ([(0x50001C, 1)] ++ memWriteBytes [] 0x500030 (sha384 [])) 0x500000 96),
        List.replicate 96 0, nothing⟩] } }

theorem witness_SavedImagesMoveThroughTheStates : ((partitioned (saved 3 0)).chip.part 0).state = 3 ∧ ((partitioned (saved 3 0)).chip.part 0).save ≠ 0
    ∧ ((partitioned (saved 4 2)).chip.part 0).pendingOp = 2 ∧ ((partitioned (saved 6 3)).chip.part 0).pendingOp = 3
    ∧ (∀ i, i < 256 → (partitioned (saved 4 2)).chip.tableOk (0x500000 + i) = true)
    ∧ ((partitioned id).chip.imageAt 0).1 = none ∧ ((header (partitioned (saved 5 0))).chip.imageAt 0).1 = some nothing
    ∧ (header (partitioned (saved 5 0))).chip.sameCounts 0 nothing = true ∧ (header (partitioned (saved 5 0))).chip.sharesCluster 0 = false
    ∧ memReadNat (header (partitioned (saved 5 0))).chip.mem 0x500000 4 = 0x49564153
    ∧ memReadNat (header (partitioned (saved 5 0))).chip.mem 0x500010 8 = 256
    ∧ memReadNat (header (partitioned (saved 5 0))).chip.mem 0x500007 1 = (header (partitioned (saved 5 0))).chip.version.toNat / 2 ^ 24
    ∧ (header (partitioned (saved 5 0))).chip.sharesCluster 0 = false ∧ 256 ≤ ((partitioned (saved 5 0)).chip.part 0).savelen.toNat
    ∧ (∃ c h, ((header (partitioned (saved 5 0))).chip.imageAt 0).2 = c ∧ (c.imageBytes 0x500000 256).1 = h ∧ 256 ≤ h.length
      ∧ leNat (h.take 4) = 0x49564153 ∧ leNat ((h.drop 0x10).take 8) = 256 ∧ leNat ((h.drop 7).take 1) = 0)
    ∧ (∀ i < 256, (partitioned (saved 5 0)).chip.Clean (lineOf (0x500000 + i)))
    ∧ (∀ e ∈ (partitioned (saved 4 2)).chip.cos, e.2.evicted = false ∧ e.2.state ≠ .exited)
    ∧ Memory.wf (header (partitioned (saved 5 0))).chip.mem ∧ (((header (partitioned (saved 5 0))).chip.imageAt 0).2.badSects 0x500000 nothing.sects).1 = [] :=
  ⟨by decide, by decide, by decide, by decide, by decide, by decide, by decide, by decide, by decide, by decide, by decide, by decide,
    by decide, by decide, ⟨_, _, rfl, rfl, by decide, by decide, by decide, by decide⟩, fun _ _ => clean_of rfl rfl _,
    by decide, by decide, by decide⟩

theorem witness_SealedImage : ((sealedHeader (partitioned (saved 1 0))).chip.sealedAt 0).1.isSome = true := by decide +kernel

/-- FIPS 180-4 names SHA-384, whose digest of the three bytes `abc` begins so (R274). -/
theorem test_sha384_abc : (sha384 [0x61, 0x62, 0x63]).take 8 = [0xCB, 0x00, 0x75, 0x3F, 0x45, 0xA3, 0x5E, 0x8B] := by decide +kernel

/-! ### Scheduling and launches -/

/-- A running user coroutine whose quantum has passed beside a ready one of its level. -/
def expired (co : Coroutine) : Coroutine := { co with sup := false, quantum := 1 }

/-- Beside it, a ready coroutine; `TIME` is 7. -/
def rival (c : Chip) : Chip := { c with time := 7, cos := c.cos ++ [(1, { Coroutine.blank with state := .ready })] }

/-- An exited coroutine at identifier 1. -/
def gone (c : Chip) : Chip := { c with cos := c.cos ++ [(1, { Coroutine.blank with state := .exited })] }

set_option maxRecDepth 60000 in
theorem witness_CoresAndMessages : (runs readied id).chip.clusterRuns 0 = true ∧ ((runs readied id).chip.core 0).running = none
    ∧ (∃ e ∈ (runs readied id).chip.cos, e.1 = 1 ∧ e.2.state = .ready
      ∧ ∀ f ∈ (runs readied id).chip.cos, f.1 / 256 = 0 → f.2.state = .ready → f ≠ e → ChosenBefore 0 e f)
    ∧ (runs rival expired).chip.runningKey 0 = some 0
    ∧ (runs rival expired).chip.undrained 0 = false ∧ (coAt expired).quantum ≠ 0
    ∧ ((runs rival expired).chip.core 0).dispatched + (coAt expired).quantum.toNat ≤ (runs rival expired).chip.time
    ∧ (∃ e ∈ (runs rival expired).chip.cos, e.1 / 256 = 0 ∧ e.2.state = .ready ∧ (coAt expired).level.toNat ≤ e.2.levelAt 7)
    ∧ (∃ f, (runs (carrying (.spawn 0 1 Coroutine.blank)) id).chip.msgs[(0 : BitVec 16).toNat]? = some f ∧ f.dropped = false
      ∧ f.part = some 0 ∧ ((runs (carrying (.spawn 0 1 Coroutine.blank)) id).chip.part 0).state = 1)
    ∧ (∃ f, (runs (carrying (.migrate 0 1 Coroutine.blank)) id).chip.msgs[(0 : BitVec 16).toNat]? = some f
      ∧ f.msg = .migrate 0 1 Coroutine.blank)
    ∧ (∃ f, (runs (carrying (.hop 0 5 Coroutine.blank)) id).chip.msgs[(0 : BitVec 16).toNat]? = some f ∧ f.waiting = false
      ∧ ∀ g ∈ (runs (carrying (.hop 0 5 Coroutine.blank)) id).chip.msgs, g.waiting = true → g.part ≠ f.part)
    ∧ (∃ slot, (runs (carrying (.hop 0 5 Coroutine.blank)) id).chip.freeSlot 0 = some slot)
    ∧ (∃ co, (runs gone id).chip.co 1 = some co ∧ co.state = .exited) ∧ (runs gone id).chip.undrained 1 = false
    ∧ (runs gone id).chip.requested 1 = false
    ∧ (∃ co c, (runs readied id).chip.fetchRecord 1 co = (.inr co, c) ∧ (runs readied id).chip.co 1 = some co ∧ co.evicted = false
      ∧ co.hact = false)
    ∧ (∃ c, (runs (fun c => c.setPoison 128 true) id).chip.fetchRecord 1 { Coroutine.blank with state := .ready, evicted := true } = (.inl 0x13, c))
    ∧ (coAt expired).due = none ∧ ((runs id id).chip.spire 0).spill % 128 = 0 ∧ Memory.wf (runs id id).chip.mem
    ∧ Fits (runs rival expired).chip 0 (coAt expired).units := by
  refine ⟨by decide, by decide, ⟨_, List.mem_cons_of_mem _ (List.mem_cons_self ..), rfl, rfl, ?_⟩, by decide, by decide, by decide,
    by decide, ⟨_, List.mem_cons_of_mem _ (List.mem_cons_self ..), by decide, rfl, by decide⟩, ⟨_, rfl, rfl, rfl, by decide⟩,
    ⟨_, rfl, rfl⟩, ⟨_, rfl, rfl, by decide⟩, ⟨_, rfl⟩, ⟨_, rfl, rfl⟩, by decide, by decide,
    ⟨_, _, rfl, rfl, rfl, rfl⟩, ⟨_, rfl⟩, rfl, by decide, by decide, by unfold Fits; decide⟩
  unfold ChosenBefore
  decide

/-- A user store of 8 bytes at 0x201000 in ASID 1, which has no table. -/
def unmapped8 : Store := { buffered8 with asid := 1, sup := false }

/-- A served partition whose user coroutine has buffered a store that no page maps. -/
def stray (c : Chip) : Chip := (served c).modCore 0 (fun k => { k with sb := [unmapped8] })

/-- A fault queue with an entry waiting and room for it. -/
def posting (c : Chip) : Chip :=
  { c with parts := [(0, { Partition.reset with
      en := true, state := 1, clus := 1
      fqs := Vector.replicate 4 ⟨true, 0x404000, 0, 0, 0, [⟨2, 0, 0, 0x200000, 0, 0, 0⟩]⟩ })] }

/-- The same state with a request at the head of the line's queue. -/
def queueing (i : Instr) (c : Chip) : Chip := { c with resq := [(0x201000 / 128, [⟨0, 0, i⟩])] }

theorem witness_FaultedStoresAndQueuedAtomics : ((runs stray user).chip.core 0).sb[(0 : BitVec 5).toNat]? = some unmapped8
    ∧ (runs stray user).chip.co 0 = some (coAt user) ∧ (coAt user).state = .running
    ∧ (∃ k c, (runs stray user).chip.performStore 0 (coAt user) unmapped8 = (some (.kind k), c) ∧ k ∉ [5, 6, 7, 9, 10, 11]
      ∧ c.partOf 0 = some 0 ∧ (c.part 0).sventry ≠ 0)
    ∧ (∃ e r, ((runs posting id).chip.fq 0 3).waiting = e :: r) ∧ ((runs posting id).chip.fq 0 3).en = true
    ∧ (((runs posting id).chip.fq 0 3).tail - ((runs posting id).chip.fq 0 3).head).toNat < 256
    ∧ (runs posting id).chip.tableOk 0x404000 = true ∧ 0x404000 % 2 ^ 14 = 0 ∧ (runs posting id).chip.residentPa 0x404000 = 0x404000
    ∧ (runs posting id).chip.Clean (lineOf 0x404000) ∧ (coAt user).due = none
    ∧ (∃ x c, AtomicReady { runs (queueing (.amoadd 5 3 4 4 0 0 1)) (withX 3 0x201000) with
        chip := { (runs (queueing (.amoadd 5 3 4 4 0 0 1)) (withX 3 0x201000)).chip with resq := [] } } 0 (coAt (withX 3 0x201000)) 3 8 .amo x c)
    ∧ mget (runs (queueing (.amoadd 5 3 4 4 0 0 1)) (withX 3 0x201000)).chip.resq (0x201000 / 128) = some [⟨0, 0, .amoadd 5 3 4 4 0 0 1⟩]
    := by
  refine ⟨by decide, by simp [runs, stray, served, Chip.co, Chip.modCore, mget], by decide, ⟨_, _, rfl, ?_, ?_, ?_⟩,
    ⟨_, _, rfl⟩, by decide, by decide, by decide, by decide, by decide, clean_of rfl rfl _, rfl, ⟨_, _, ⟨rfl, by decide, by simp [runs, queueing, Chip.co, mget], rfl⟩, ⟨rfl, rfl⟩,
      by decide, by decide, by decide, by decide, rfl, by decide, rfl, by decide, by decide, by decide, by decide, .inl ?_,
      fun _ => ⟨by decide, .inl rfl, .inl ?_⟩, by decide⟩, by decide⟩
  any_goals decide
  all_goals (unfold Chip.Clean; decide)

/-- A launch record in launch queue 0: kind, version, partition, ASID, gangs, members, and one tile. -/
def recorded0 (kind : Nat) (s : State) : State :=
  { s with keep := { s.keep with
      boot := { s.keep.boot with ready := true }
      hqs := s.keep.hqs.setIfInBounds 0 ⟨true, false, 1, 0⟩
      queueMem := memWriteBytes [] 0 (leBytes 1 kind ++ [1, 0, 1, 1, 0, 1, 0, 0, 1]) } }

theorem witness_RecordsAreTaken : RecordAt (recorded0 1 (runs id id)) 0 (memReadBytes (recorded0 1 (runs id id)).keep.queueMem 0 256)
    ∧ Claims.fld (memReadBytes (recorded0 1 (runs id id)).keep.queueMem 0 256) 0 1 = 1
    ∧ Claims.fld (memReadBytes (recorded0 2 (runs id id)).keep.queueMem 0 256) 0 1 = 2
    ∧ ShapeOk (memReadBytes (recorded0 1 (runs id id)).keep.queueMem 0 256)
    ∧ ((runs id id).chip.part 0).asids.getLsbD 1 = true ∧ (runs id id).chip.nextLid ≠ 0 ∧ (runs id id).chip.nextLid < 2 ^ 32
    ∧ (runs id id).chip.launch (runs id id).chip.nextLid = none ∧ (runs (withBeacon 1) id).chip.goodToken token5 = true
    ∧ (runs id id).chip.goodToken token5 = false := by
  refine ⟨⟨rfl, rfl, by decide, congrArg (fun n => memReadBytes (recorded0 1 (runs id id)).keep.queueMem n 256)
    (by decide : 0 = (0 : BitVec 6).toNat * 0x40000 + ((recorded0 1 (runs id id)).keep.hqs.getD 0 ⟨false, false, 0, 0⟩).head * 0x100)⟩, by decide, by decide, ?_, by decide, by decide, by decide, by decide, by decide, by decide⟩
  exact ⟨by decide, by decide, by decide, by decide, by decide, by decide, by decide, by decide, by decide, by decide, by decide, by decide⟩

/-- A launch of two gangs of one member on one tile. -/
def launch0 (ph : LaunchPhase) (last : Option Sweep) : Launch :=
  ⟨0, 1, 2, 1, 0, 0, 1, 0, 0, 0, 0x200000, 0, 0, 0, [], 0, 7, 0, ph, 0, 0, 0, 0, 0, [], [], last⟩

/-- A chip on which it lives as launch 1. -/
def living (ph : LaunchPhase) (last : Option Sweep) (c : Chip) : Chip := { c with launches := [(1, launch0 ph last)] }

theorem witness_RecordsAndAdmission : (runs (living .waiting none) id).chip.launch (1 : BitVec 32).toNat = some (launch0 .waiting none)
    ∧ (launch0 .waiting none).waits = [] ∧ ((runs (living .started none) id).chip.part 0).state = 1
    ∧ (1, launch0 .started none) ∈ (runs (living .started none) id).chip.launches
    ∧ (∀ e ∈ (runs (living .started none) id).chip.launches, e.2.part = 0 → e.2.phase = .started → e ≠ (1, launch0 .started none) → False)
    ∧ (∀ e ∈ (runs (living .started none) id).chip.launches, e.2.part = 0 → e.2.phase = .admitted → e.2.slot ≠ 0) :=
  ⟨by decide, by decide, by decide, by decide, by decide, by decide⟩

/-- A launch of no gangs, all of which have been placed, whose last sweep would end it. -/
def spent (last : Option Sweep) : Launch := { launch0 .admitted last with gangs := 0 }

theorem witness_GangsAndTermination : (runs (living .admitted none) id).chip.launch (1 : BitVec 32).toNat = some (launch0 .admitted none)
    ∧ (launch0 .admitted none).placed < (launch0 .admitted none).gangs
    ∧ (runs (living .admitted none) id).chip.earlierFits (launch0 .admitted none) = false
    ∧ (runs (living .admitted none) id).chip.gangCluster (launch0 .admitted none) = some 0
    ∧ ((runs (living .admitted none) id).chip.launches.map Prod.fst).Nodup
    ∧ (∃ w : Sweep, w = ⟨(runs (fun c => { c with launches := [(1, spent none)] }) id).chip.liveCount 1 = 0 && (spent none).placed = (spent none).gangs, 0, 0⟩
      ∧ w.flag = true ∧ w.sent = w.recv)
    ∧ (∀ e ∈ (runs (living .admitted none) id).chip.cos, e.2.lid = 1 → e.2.state ≠ .exited)
    ∧ (∀ k < 4, Fits (runs (living .admitted none) id).chip (4 * 0 + k)
      ((launch0 .admitted none).gsize * (memberOf (launch0 .admitted none) 1 0 0 0).units)) :=
  ⟨by decide, by decide, by decide, by decide, by decide, ⟨_, rfl, by decide, by decide⟩, by decide, by unfold Fits; decide⟩

/-! ### Engines, links and the step -/

/-- An entry of a matrix command of core 0's coroutine, whose slot holds F32. -/
def matrix (i : Instr) : MEntry := matrixEntry i 0 (coAt worker) 0 0 1 none

/-- The command at the head of core 0's matrix queue. -/
def waits (e : MEntry) (c : Chip) : Chip := (tiled c).modCore 0 (fun k => { k with mq := [e] })

/-- The command in the dome of cluster 0. -/
def domed (e : MEntry) (c : Chip) : Chip := (tiled c).modCluster 0 (fun k => { k with dome := some e })

/-- Every cluster of spire 0 has a rotation of tiles 1 and 2 to move. -/
def turning (s : State) : State :=
  { s with chip := { s.chip with clusters := [0, 1, 2, 3, 8, 16, 24].map (fun n =>
      (n, { Cluster.reset with moves := [matrix (.mmrot 1 2 0)] })) } }

/-- Two mirror clusters have a swap of tile 3 to move. -/
def mirrored (s : State) : State :=
  { s with chip := { s.chip with clusters := [1, 8].map (fun n => (n, { Cluster.reset with moves := [matrix (.mswap 3)] })) } }

/-- A property of every entry and of the default holds of the value at any key. -/
theorem value_of {α : Type} (p : α → Prop) {l : AMap α} {d : α} (h : ∀ e ∈ l, p e.2) (hd : p d) (n : Nat) : p (mgetD l n d) := by
  induction l with
  | nil => exact hd
  | cons e r ih =>
    unfold mgetD mget
    by_cases k : e.1 = n
    · simpa [k] using h e (List.mem_cons_self ..)
    · simpa [k, mgetD] using ih (fun e m => h e (List.mem_cons_of_mem _ m))

theorem witness_DomeAndTiles : NextInDome (runs (waits (matrix (.mma 0 1 0))) worker) 0 0 (matrix (.mma 0 1 0)) []
    ∧ NextInDome (runs (waits (matrix (.mswap 0))) worker) 0 0 (matrix (.mswap 0)) []
    ∧ ((runs (waits (matrix (.tcfg 1 2))) worker).chip.core 0).mq = [matrix (.tcfg 1 2)]
    ∧ NoEndedSlots (runs (waits (matrix (.tcfg 1 2))) worker) 0
    ∧ InDome (runs (domed (matrix (.mma 0 1 0))) worker) 0 (matrix (.mma 0 1 0))
    ∧ InDome (runs (domed (matrix (.macq 5 1))) worker) 0 (matrix (.macq 5 1))
    ∧ (∀ k ∈ ringOf 0 true, ((turning State.reset).chip.cluster k).moveReady true = true
      ∧ (∀ e, ((turning State.reset).chip.cluster k).rotating true = some e → e.movedTile true = 2)
      ∧ NoEndedSlots (turning State.reset) k)
    ∧ (∀ k ∈ ringOf 0 false, ((turning State.reset).chip.cluster k).moveReady false = true
      ∧ (∀ e, ((turning State.reset).chip.cluster k).rotating false = some e → e.movedTile false = 1)
      ∧ NoEndedSlots (turning State.reset) k)
    ∧ swapOf 1 = 8 ∧ ((mirrored State.reset).chip.cluster 8).moves = [matrix (.mswap 3)]
    ∧ ((mirrored State.reset).chip.cluster 1).clear (matrix (.mswap 3)).seqs = true
    ∧ NoEndedSlots (mirrored State.reset) 1 ∧ NoEndedSlots (mirrored State.reset) 8
    ∧ (∀ k ∈ [0, 1, 2, 3, 8, 16, 24], (turning State.reset).chip.clusterRuns k = true)
    ∧ (mirrored State.reset).chip.clusterRuns 1 = true ∧ (mirrored State.reset).chip.clusterRuns 8 = true
    ∧ (matrix (.mmrot 1 2 0)).forgotten.contains 2 = false ∧ (matrix (.mswap 3)).forgotten.contains 3 = false := by
  have ring : ∀ k ∈ [0, 1, 2, 3, 8, 16, 24], (turning State.reset).chip.cluster k = { Cluster.reset with moves := [matrix (.mmrot 1 2 0)] } := by
    simp [turning, Chip.cluster, mgetD, mget]
  have slots : ∀ (k : Cluster), (∀ e ∈ k.slots, e.2.held = false ∨ e.2.ended = false) →
      ∀ n, (k.slot n).held = false ∨ (k.slot n).ended = false :=
    fun k h n => value_of (fun t : Slot => t.held = false ∨ t.ended = false) h (by decide) n
  refine ⟨⟨⟨rfl, by decide⟩, by decide, ⟨0, by decide, by decide, by decide⟩, rfl, rfl, rfl, .inl rfl, fun _ h => nomatch h⟩,
    ⟨⟨rfl, by decide⟩, by decide, ⟨0, by decide, by decide, by decide⟩, rfl, rfl, rfl, .inr rfl, fun _ h => nomatch h⟩, rfl,
    slots _ (by decide), ⟨rfl, rfl, by decide, by decide, slots _ (by decide)⟩, ⟨rfl, rfl, by decide, by decide, slots _ (by decide)⟩,
    ?_, ?_, by decide, rfl, by decide, slots _ (by decide), slots _ (by decide), by decide,
    by decide, by decide, by decide, by decide⟩
  · intro k h
    unfold NoEndedSlots
    rw [ring k ((by decide : ∀ k ∈ ringOf 0 true, k ∈ [0, 1, 2, 3, 8, 16, 24]) k h)]
    exact ⟨by decide, by intro e h; cases h; decide, slots _ (by decide)⟩
  · intro k h
    unfold NoEndedSlots
    rw [ring k ((by decide : ∀ k ∈ ringOf 0 false, k ∈ [0, 1, 2, 3, 8, 16, 24]) k h)]
    exact ⟨by decide, by intro e h; cases h; decide, slots _ (by decide)⟩

/-- A command of core 0's coroutine in a supervisor's address space, with a token. -/
def command (n : Nat) : Cmd := ⟨n, 0, 0, 0, token5, 0, true, true, 0⟩

/-- A copy of 64 bytes. -/
def copy64 (op : Nat) : CopyCmd := ⟨command 1, op, 0x202000, 0x201000, 64, 1, 0, 0, 0, [], [], [], [], [], false, false, [], []⟩

/-- A copy of one stripe. -/
def stripe1 (op : Nat) : CopyCmd := ⟨command 1, op, 0x240000, 0x200000, 1, 1, 0, 0, 0, [], [], [], [], [], false, false, [], []⟩

/-- The command at the head of cluster 0's copy queue. -/
def copying (q : CopyCmd) (c : Chip) : Chip := c.modCluster 0 (fun k => { k with copyQ := [q] })

/-- A `KVMAP` of sequence 0 at the head of cluster 0's KV queue. -/
def mapping (c : Chip) : Chip := (pooled c).modCluster 0 (fun k => { k with kvQ := [⟨command 1, 0, 0, 0, 5⟩] })

theorem witness_CopyAndKvEngines : CopyAt (runs (copying (copy64 0)) id) 0 0 (copy64 0) ∧ CopyAt (runs (copying (stripe1 6)) id) 0 0 (stripe1 6)
    ∧ (copy64 0).mayRun 0 = true ∧ (stripe1 6).mayRun 63 = true ∧ (copy64 0).pieceLen 0 = 64
    ∧ (∃ x c y d, (runs (copying (copy64 0)) id).chip.xlate (copy64 0).cmd.agent ((copy64 0).srcAt 0) .load false = (.inr x, c)
      ∧ inWindow x.pa = false ∧ c.poisoned (lineOf x.pa) = false
      ∧ (c.readL2 (copy64 0).cmd.agent.spire x 64 false).2.xlate (copy64 0).cmd.agent ((copy64 0).dstAt 0) .store false = (.inr y, d)
      ∧ inWindow y.pa = false ∧ y.pol < 2 ∧ Memory.wf d.mem
      ∧ (c.readL2 (copy64 0).cmd.agent.spire x 64 false).1.length = 64 ∧ Owns d 0 y)
    ∧ (∃ x c y d, (runs (copying (stripe1 6)) id).chip.xlate (stripe1 6).cmd.agent 0x200000 .load false = (.inr x, c)
      ∧ c.xlate (stripe1 6).cmd.agent 0x240000 .store false = (.inr y, d) ∧ x.pa % 0x20000 = 0 ∧ y.pa % 0x20000 = 0 ∧ x.pa ≠ y.pa
      ∧ place x.pa = .hbm ∧ place y.pa = .hbm ∧ (∀ l, d.Clean l) ∧ (∀ l, l / 1024 = x.pa / 0x20000 → d.Clean l)
      ∧ d.poisoned (lineOf x.pa) = false ∧ d.latentOf (lineOf x.pa) = Latent.none)
    ∧ (∃ x c y d, (runs (copying { stripe1 6 with dst := 0x200000 }) id).chip.xlate (stripe1 6).cmd.agent 0x200000 .load false = (.inr x, c)
      ∧ c.xlate (stripe1 6).cmd.agent 0x200000 .store false = (.inr y, d) ∧ x.pa % 0x20000 = 0 ∧ x.pa = y.pa ∧ Memory.wf d.mem)
    ∧ (∃ f, (runs mapping id).chip.walkDesc 0x0000FF0000000000 0 = .inl f) ∧ (runs mapping id).chip.partOf 0 = some 0
    ∧ ((runs mapping id).chip.part 0).unserved = false
    ∧ EnginesRun (runs mapping id) 0 ∧ (∃ q r, ((runs mapping id).chip.cluster 0).kvQ = q :: r)
    ∧ (∃ d, (runs mapping id).chip.walkDesc 0 0 = .inr d ∧ d.checkMap 0 0 = 0 ∧ d.pooled = true) := by
  refine ⟨⟨⟨rfl, by decide⟩, by decide, by decide, by decide, by decide⟩, ⟨⟨rfl, by decide⟩, by decide, by decide, by decide, by decide⟩, by decide,
    by decide, by decide, ⟨_, _, _, _, rfl, by decide, by decide, rfl, by decide, by decide, by decide, by decide, by decide, .inl rfl,
      .inl (by unfold Chip.Clean; decide)⟩,
    ⟨_, _, _, _, rfl, rfl, by decide, by decide, by decide, by decide, by decide, clean_of rfl rfl, fun l _ => clean_of rfl rfl l, by decide,
      by decide⟩, ⟨_, _, _, _, rfl, rfl, by decide, by decide, by decide⟩, ⟨_, rfl⟩, by decide, by decide, ⟨rfl, by decide⟩, ⟨_, _, rfl⟩,
    ⟨_, rfl, by decide, by decide⟩⟩

/-- A network command of core 0's coroutine, naming node 1. -/
def net (op n next : Nat) (wr : List Byte) (fl : List Flight) : NetCmd :=
  ⟨command 1, op, BitVec.ofNat 64 (2 ^ 54), 0x201000, n, 4, 0, 0, 1, wr, [], next, [], fl, []⟩

/-- The command at the head of cluster 0's network queue, one port up. -/
def netted (q : NetCmd) (c : Chip) : Chip :=
  { c.modCluster 0 (fun k => { k with netQ := [q] }) with
    links := { c.links with ual := c.links.ual.setIfInBounds 0 ⟨true, 4, 0⟩ }, time := 2000000 }

/-- A piece that has been sent at time 0. -/
def sent (off n : Nat) : Flight := ⟨off, 0, n, [], false, none⟩

theorem witness_NetworkCommands : NetAt (runs (netted (net 0 64 0 [] [])) id) 0 0 (net 0 64 0 [] [])
    ∧ MaySend (runs (netted (net 0 64 0 [] [])) id) 0 (net 0 64 0 [] []) 0 ∧ podNode (net 0 64 0 [] []).a ≠ 0
    ∧ (∃ p ∈ (runs (netted (net 0 64 0 [] [])) id).chip.links.ual.toList, p.up = true)
    ∧ (∀ p ∈ (runs id id).chip.links.ual.toList, p.up = false)
    ∧ (∃ xs c, (runs (netted (net 0 64 0 [] [])) id).chip.xlateFirst (net 0 64 0 [] []).cmd.agent (linePieces 40 0x201000 64) .load = (.inr xs, c)
      ∧ ∃ bs c', c.readDelivered (net 0 64 0 [] []).cmd.agent.spire xs = (bs, false, c') ∧ c'.links.id = 0
        ∧ (∃ p ∈ c'.links.ual.toList, p.up = true) ∧ (c'.cluster 0).netQ = [net 0 64 0 [] []])
    ∧ (∃ x c bs c', (runs id id).chip.xlate (net 4 64 0 [] []).cmd.agent 0x201000 .load false = (.inr x, c)
      ∧ c.readL2 (net 4 64 0 [] []).cmd.agent.spire x 64 false = (bs, c') ∧ bs ≠ [])
    ∧ (net 2 1 0 [] []).q0.toNat % 16 < 12 ∧ Flies (net 3 1 1 [] [sent 0 1]) (sent 0 1)
    ∧ (sent 0 1).sent + Max.max 100 ((runs (netted (net 3 1 1 [] [sent 0 1])) id).chip.links.tmo.toNat) * 1000 ≤ 2000000
    ∧ Flies (net 4 64 0 [1, 0] [sent 4096 8]) (sent 4096 8) ∧ (sent 4096 8).off = (1 : BitVec 20).toNat * 4096
    ∧ (sent 4096 1).sent + 256000 * 2 ^ ((sent 4096 1).sends - 1) ≤ 2000000
    ∧ (net 3 1 1 [] []).flight.find? (fun g => g.off = 0 && g.back.isNone) = none
    ∧ (net 4 64 0 [1, 0] [sent 0 1]).wrOp = 1
    ∧ (∃ n < 4, ((runs (fun c => { c with links := { c.links with ue := c.links.ue.setIfInBounds 3 ⟨true, 1, 0⟩ } }) id).chip.links.ue.getD n
      ⟨false, 0, 0⟩).up = true) ∧ (∀ n < 4, ((runs id id).chip.links.ue.getD n ⟨false, 0, 0⟩).up = false) := by
  refine ⟨⟨rfl, rfl, by decide⟩, ⟨by decide, by decide, by decide, by decide⟩, by decide, ⟨_, List.mem_cons_self .., rfl⟩, by decide,
    ⟨_, _, rfl, _, _, rfl, rfl, ⟨_, List.mem_cons_self .., rfl⟩, rfl⟩, ⟨_, _, _, _, rfl, rfl, by decide⟩, by decide, by unfold Flies; decide, by decide,
    by unfold Flies; decide, by decide, by decide, by decide, by decide, ⟨3, by decide, by decide⟩, by decide⟩

/-- Export window 0 gives all of ASID 0 to every access. -/
def exported (c : Chip) : Chip :=
  { c with links := { c.links with windows := [(0, ⟨0, 2 ^ 40, 0, 0x87, 0, 0⟩)], locked := true }, time := 100000000 }

theorem witness_RemoteServiceAndPorts : ((runs exported id).chip.window 0).perm.getLsbD 7 = true
    ∧ ((runs exported id).chip.window 0).perm.getLsbD 1 = true ∧ ((runs id id).chip.window 0).perm.getLsbD 7 = false
    ∧ ((runs (withBeacon 1) id).chip.tokHere token5 && (runs (withBeacon 1) id).chip.tokCurrent token5) = true
    ∧ ((runs id id).chip.tokHere token5 && (runs id id).chip.tokCurrent token5) = false
    ∧ (∃ r, r = (runs exported id).chip.rxOf 9 1 8 0 0 token5 true ∧ r.op = 1 ∧ r.src = 9 ∧ r.got = [] ∧ r.rkey % 2 ^ 24 = 0
      ∧ r.rkey % 2 ^ 24 ≠ 1)
    ∧ ((runs (netted (net 0 64 0 [] [])) id).chip.links.ual.getD 0 ⟨false, 0, 0⟩).up = true
    ∧ ((runs id id).chip.links.ual.getD 7 ⟨false, 0, 0⟩).up = false ∧ (runs id id).chip.links.master = false
    ∧ (runs exported id).chip.links.locked = true ∧ (runs exported id).chip.links.lastSync + 100000000 ≤ (runs exported id).chip.time
    ∧ (∃ x c, (runs exported id).chip.xlate ((runs exported id).chip.window 0).agent (0x201000 % 2 ^ 64) .store false = (.inr x, c)
      ∧ inWindow x.pa = false ∧ x.pol < 2 ∧ Memory.wf c.mem ∧ Owns c ((runs exported id).chip.window 0).agent.spire x) :=
  ⟨by decide, by decide, by decide, by decide, by decide, ⟨_, rfl, by decide, by decide, by decide, by decide, by decide⟩, by decide,
    by decide, by decide, by decide, by decide,
    ⟨_, _, rfl, by decide, by decide, by decide, by decide, .inl rfl, .inl (clean_of rfl rfl _)⟩⟩

/-- The hypotheses of the statements that the selecting, reserving, serving and link forms complete. -/
theorem witness_SelectsReservationsAndLinkEventsComplete : Issues (runs id id) 0 (coAt id) ∧ cvtWidens 0 0 = false
    ∧ (coAt id).rounding 7 = some 0 ∧ (readFloat fmtF64 0x7FF8000000000000).isNaN = true
    ∧ Issues (runs id (reserved false)) 0 (coAt (reserved false)) ∧ (runs id (reserved false)).chip.resq = []
    ∧ PlainAtomic (runs id (reserved false)).chip 0 (coAt (reserved false)) 3 8
    ∧ PlainAtomic (runs (queueing (.lr 5 3 4 0 1)) (reserved false)).chip 0 (coAt (reserved false)) 3 8
    ∧ mget (runs (queueing (.lr 5 3 4 0 1)) (reserved false)).chip.resq (0x201000 / 128) = some [⟨0, 0, .lr 5 3 4 0 1⟩]
    ∧ (coAt (reserved false)).state = .running
    ∧ OpenWindow (runs exported id).chip ((runs exported id).chip.window 0) 0x201000 64 0
    ∧ OpenWindow (runs exported id).chip ((runs exported id).chip.window 0) 0x201000 64 1
    ∧ OpenWindow (runs exported id).chip ((runs exported id).chip.window 0) 0x201078 8 2
    ∧ (∃ f, (amoTable 0 0 0 0 0 0 0 64 1 2 3)[(0 : BitVec 5).toNat % 16]? = some f) ∧ (runs exported id).chip.links.rx = []
    ∧ NetAt (runs (netted (net 4 64 0 [1, 0] [sent 0 1])) id) 0 0 (net 4 64 0 [1, 0] [sent 0 1])
    ∧ (∃ w e, (runs (netted (net 0 64 0 [] [])) id).chip.links.ual.getD (0 : BitVec 3).toNat ⟨false, 0, 0⟩ = ⟨true, w, e⟩)
    ∧ (∃ w e, (runs (fun c => { c with links := { c.links with ue := c.links.ue.setIfInBounds 3 ⟨true, 1, 0⟩ } }) id).chip.links.ue.getD
      (3 : BitVec 2).toNat ⟨false, 0, 0⟩ = ⟨true, w, e⟩) := by
  have plain : ∀ g, (runs g (reserved false)).chip.copies = [] → (runs g (reserved false)).chip.dramOld = [] →
      Memory.wf (runs g (reserved false)).chip.mem → (runs g (reserved false)).chip.behindN 0 = false →
      (runs g (reserved false)).chip.storesPending 0 = false → (runs g (reserved false)).chip.remoteUnacked 0 = false →
      Sound (runs g (reserved false)).chip 0x201000 8 → PlainAtomic (runs g (reserved false)).chip 0 (coAt (reserved false)) 3 8 :=
    fun g h1 h2 h3 h4 h5 h6 h7 => ⟨rfl, rfl, ⟨rfl, rfl⟩, h3, h4, h5, h6, by decide, h7, clean_of h1 h2 _⟩
  refine ⟨issues_of _ rfl, by decide, by decide, by decide, issues_of _ rfl, rfl,
    plain _ rfl rfl (by decide) (by decide) (by decide) (by decide) (by unfold Sound; decide),
    plain _ rfl rfl (by decide) (by decide) (by decide) (by decide) (by unfold Sound; decide), by decide, rfl,
    ⟨by decide, by decide, by decide, by decide, by unfold Sound; decide, clean_of rfl rfl _⟩,
    ⟨by decide, by decide, by decide, by decide, by unfold Sound; decide, clean_of rfl rfl _⟩,
    ⟨by decide, by decide, by decide, by decide, by unfold Sound; decide, clean_of rfl rfl _⟩, ⟨_, rfl⟩, by decide,
    ⟨rfl, rfl, by decide⟩, ⟨_, _, rfl⟩, ⟨_, _, rfl⟩⟩

/-- The package of the tests with the word of `addi x7, x7, 1` at the program counter and core 0's issue next. -/
def placed : State :=
  let s := runs id id
  { s with agenda := [.issue 0], chip := { s.chip with mem := memWriteNat s.chip.mem 0x200000 4 0x20738001 } }

theorem witness_StepRunsTheDecodedInstruction : Fetches placed 0 [] 0 (coAt id) ∧ (coAt id).sup = true ∧ (coAt id).fetchAsid = 0
    ∧ Sound (atCore placed 0 []).chip (coAt id).pc.toNat 4 ∧ Current (atCore placed 0 []).chip (spireOf (0 / 256)) (lineOf (coAt id).pc.toNat)
    ∧ Memory.wf (atCore placed 0 []).chip.mem ∧ ((atCore placed 0 []).chip.core 0).l1i = []
    ∧ (atCore placed 0 []).chip.holds 0 (coAt id) (.addi 7 7 1) = false
    ∧ decode (BitVec.ofNat 32 (memReadNat placed.chip.mem (coAt id).pc.toNat 4)) = .ok (.addi 7 7 1)
    ∧ State.reset.agenda = [] ∧ State.reset.settle.keep.power.halted = false := by
  have none : (atCore placed 0 []).chip.readyOn 0 = [] := rfl
  refine ⟨⟨⟨.inl rfl, rfl, by decide, rfl⟩, rfl, by simp [Chip.givesWay, none, coAt, bootedCoroutine, Coroutine.blank]⟩, rfl, rfl, by unfold Sound; decide, .inl ?_, by decide, by decide, by decide, by decide,
    rfl, rfl⟩
  unfold Chip.Clean
  decide

/-- The same package, booted, with no partition and no agenda. -/
def lonely : State :=
  { placed with
    agenda := [], cur := 511, chip := { placed.chip with parts := [] }
    keep := { placed.keep with boot := { placed.keep.boot with started := true } } }

/-- A turn that no agenda gives: core 0's, when nothing else has anything to do. -/
theorem witness_TurnWithoutAgenda : TurnOf lonely 0 [] := by
  refine .inr ⟨rfl, rfl, ?_, ?_, by decide⟩
  · have q : lonely.settle.tick.keep.nextQueue = none := by decide
    have b : lonely.settle.tick.keep.boot.started = true := rfl
    have f : lonely.settle.tick.keep.fw.busy = false := rfl
    have r : lonely.settle.tick.keep.retire.busy = false := rfl
    simp [keepAct, keepActs, powerGood, Keep.endCommand, retireDone, q, b, f, r]
  · have l : lonely.settle.tick.chip.acts = [] := rfl
    simp [l, Chip.firstAct]

/-- A trap that waits for its coroutine to drain, and a coroutine that gives way (R264, R166). -/
theorem witness_TurnsOfTraps : (coAt (fun c => { c with due := some (.trap (plainTrap 1 0 0) 0) })).due.isSome = true
    ∧ (runs rival expired).chip.givesWay 0 (coAt expired) = true := ⟨rfl, by decide⟩

theorem witness_DecodingInvertsEncoding : (Instr.addi 7 7 1).wellFormed = true ∧ encode (.addi 7 7 1) = some 0x20738001 := by decide

theorem witness_EncodingInvertsDecoding : decode 0x20738001 = .ok (.addi 7 7 1) := by decide

theorem witness_StepsKeepMemoryCanonical : ∃ t, Memory.wf placed.chip.mem ∧ step { placed with agenda := [.event .tsyncLockLost] } = .next t :=
  ⟨_, by decide, rfl⟩

theorem witness_StepsKeepHostMemories : Memory.wf placed.keep.hostMem ∧ Memory.wf placed.keep.queueMem
    ∧ (∃ t, exec (.addi 7 7 1) placed = .next t) := ⟨by decide, by decide, _, rfl⟩

/-! ### One step on the examples that the spec works out -/

/-- Core 0's coroutine after an instruction. -/
def after (i : Instr) (s : State) : Option Coroutine :=
  match exec i s with
  | .next t => t.chip.co 0
  | _ => none

/-- A coroutine of the tests after an instruction, as a pair that `f` reads. -/
def seen {α : Type} (i : Instr) (g : Coroutine → Coroutine) (f : Coroutine → α) : Option α := (after i (runs id g)).map f

/-- R334's table for `FCVT.I32.F64.RTZ x5, x6`. -/
theorem test_fcvt_to_i32 : seen (.fcvt 5 6 1 1 3) (withX 6 0x400E000000000000) (fun c => (c.xr 5, c.fflags)) = some (3, flagNX)
    ∧ seen (.fcvt 5 6 1 1 3) (withX 6 0xBFE0000000000000) (fun c => (c.xr 5, c.fflags)) = some (0, flagNX)
    ∧ seen (.fcvt 5 6 1 1 3) (withX 6 0xC270000000000000) (fun c => (c.xr 5, c.fflags)) = some (0xFFFFFFFF80000000, flagNV)
    ∧ seen (.fcvt 5 6 1 1 3) (withX 6 0x7FF0000000000001) (fun c => (c.xr 5, c.fflags)) = some (0, flagNV) := by decide +kernel

/-- R334: the same values as N32. -/
theorem test_fcvt_to_n32 : seen (.fcvt 5 6 1 1 4) (withX 6 0x400E000000000000) (fun c => (c.xr 5, c.fflags)) = some (3, flagNX)
    ∧ seen (.fcvt 5 6 1 1 4) (withX 6 0xBFE0000000000000) (fun c => (c.xr 5, c.fflags)) = some (0, flagNX)
    ∧ seen (.fcvt 5 6 1 1 4) (withX 6 0xC270000000000000) (fun c => (c.xr 5, c.fflags)) = some (0, flagNV) := by decide +kernel

/-- R326's corners. -/
theorem test_div_corners : seen (.div 5 6 0) (withX 6 7) (fun c => c.xr 5) = some 0xFFFFFFFFFFFFFFFF
    ∧ seen (.div 5 6 7) (fun c => withX 6 0x8000000000000000 (withX 7 0xFFFFFFFFFFFFFFFF c)) (fun c => c.xr 5) = some 0x8000000000000000 := by decide

/-- R326: the remainder takes the sign of the dividend. -/
theorem test_rem_sign : seen (.rem 5 6 7) (fun c => withX 6 (-7) (withX 7 2 c)) (fun c => c.xr 5) = some (-1)
    ∧ seen (.rem 5 6 0) (withX 6 (-7)) (fun c => c.xr 5) = some (-7) := by decide

/-- R326: the high halves of -1 times -1. -/
theorem test_mulh : seen (.mulh 5 6 6) (withX 6 (-1)) (fun c => c.xr 5) = some 0
    ∧ seen (.mulhu 5 6 6) (withX 6 (-1)) (fun c => c.xr 5) = some (-2) := by decide

/-- R343: a count of 0 wraps and branches; a count of 1 ends the loop. -/
theorem test_dbnz : seen (.dbnz 6 0xFFFFC) (withX 6 0) (fun c => (c.xr 6, c.pc)) = some (-1, 0x1FFFF0)
    ∧ seen (.dbnz 6 0xFFFFC) (withX 6 1) (fun c => (c.xr 6, c.pc)) = some (0, 0x200004) := by decide

/-- R341: `JALR` reads its base before it writes the link. -/
theorem test_jalr_same_register : seen (.jalr 6 6 7) (withX 6 0x300000) (fun c => (c.xr 6, c.pc)) = some (0x200004, 0x300004) := by decide

/-- R335 and R339: `LW` across 0x001F_FFFE traps `ALIGN` with the address; `LH` stays in the region. -/
theorem test_load_across_a_region : seen (.lw 6 5 0) (withX 5 0x1FFFFE) (fun c => (c.cause, c.faddr)) = some (0x04, 0x1FFFFE)
    ∧ seen (.lh 6 5 0) (withX 5 0x1FFFFE) (fun c => (c.cause, c.pc)) = some (0, 0x200004) := by decide +kernel

/-- R389's table for `AMOINCW.W`: the values left in memory. -/
theorem test_amoincw_table : (amoNew 10 32 0 5 3, amoNew 10 32 0 5 4, amoNew 10 32 0 5 5, amoNew 10 32 0 5 9, amoNew 10 32 0 0 0,
    amoNew 10 32 0 0xFFFFFFFF 0xFFFFFFFE) = (some 4, some 5, some 0, some 0, some 0, some 0xFFFFFFFF) := by decide

/-- R389's table for `AMOADDB.W`. -/
theorem test_amoaddb_table : [amoNew 11 32 100 5 90, amoNew 11 32 100 20 90, amoNew 11 32 100 0 90, amoNew 11 32 100 1 100,
    amoNew 11 32 100 1 150, amoNew 11 32 0 7 0, amoNew 11 32 0xFFFFFFFF 0x100 0xFFFFFFF0]
    = [some 95, some 100, some 90, none, none, none, some 0xFFFFFFFF] := by decide

/-- A package with the number 4 at 0x201000. -/
def four (c : Chip) : Chip := { c with mem := memWriteNat c.mem 0x201000 4 4 }

/-- R389: `AMOINCW.W` with bound 5 from 4. -/
theorem test_amoincw : (after (.amoincw 5 6 7 4 0 0 0) (runs four (fun c => withX 6 0x201000 (withX 7 5 c)))).map (fun c => c.xr 5) = some 4 := by
  decide +kernel

/-- R354: `VSETL x5, x6, e16, blk32, se8`. -/
theorem test_vsetl : seen (.vsetl 5 6 0x15) (withX 6 300) (fun c => (c.xr 5, c.vl, c.vtype)) = some (128, 128, 0x15)
    ∧ seen (.vsetl 5 6 0x15) (withX 6 40) (fun c => (c.xr 5, c.vl)) = some (40, 40) := by decide

/-- The coroutine of the example of R230: `v1` counts and `v2` is 3. -/
def shaped (co : Coroutine) : Coroutine := { (co.setV 1 (.affine 2 0 1)).setV 2 (.uniform 2 3) with vl := 64, vtype := 2 }

/-- R228 and R230: the product is affine, and `VSHAPE` says so. -/
theorem test_vmul_shape : seen (.vmul 3 1 2 0 0 0) shaped (fun c => (c.vr 3, c.vshapeWord)) = some (.affine 2 0 3, 0x5555555555555599) := by
  decide +kernel

/-- What an entry leaves of core 0's coroutine. -/
def completes {α : Type} (i : Instr) (g : Coroutine → Coroutine) (f : Coroutine → α) : Option α :=
  (after (.vectorEntryComplete 0) (runs (headed (entryOf i 0 (coAt g) 0 0)) g)).map f

/-- The coroutine of R322's example. -/
def summed (co : Coroutine) : Coroutine :=
  { co.setV 1 (.ofElems 32 [0x4B800000, 0x3F800000, 0x3F800000, 0x3F800000, 0x3F800000]) with vl := 5, vtype := 2 }

/-- R322's example, and the same with four elements. -/
theorem test_vfredsum : completes (.vfredsum 3 1 2 0 0 0) summed (fun c => ((c.vr 3).elem 0 32, c.fflags)) = some (0x4B800002, flagNX)
    ∧ completes (.vfredsum 3 1 2 0 0 0) (fun c => { summed c with vl := 4 }) (fun c => (c.vr 3).elem 0 32) = some 0x4B800001 := by
  decide +kernel

/-- The coroutine of R369's example. -/
def eight (co : Coroutine) : Coroutine :=
  { (co.setV 5 (.ofElems 32 [5, 0xFFFFFFFF, 7, 0, 3, 0xFFFFFFFE, 9, 4])).setM 1 0xD5 with vl := 8, vtype := 2 }

/-- R363: the compare of R369's example. -/
theorem test_vcmp : completes (.vcmp 2 0 5 0 0 2) eight (fun c => c.mr 2) = some 0xD5 := by decide +kernel

/-- R365: its count. -/
theorem test_vmpopc : completes (.vmpopc 6 1) eight (fun c => c.xr 6) = some 5 := by decide +kernel

/-- R369: its compress; element 5 keeps its value. -/
theorem test_vcompress : completes (.vcompress 6 5 0 1) (fun c => eight (c.setV 6 (.uniform 2 8)))
    (fun c => (List.range 6).map (fun i => (c.vr 6).elem i 32)) = some [5, 7, 3, 9, 4, 8] := by decide +kernel

/-- The coroutine of R373's example: the scores and the indices. -/
def scored (co : Coroutine) : Coroutine :=
  { (co.setV 1 (.ofElems 32 [0x3F000000, 0x40000000, 0x7FC00000, 0x40000000, 0xBF800000, 0x40400000, 0x3F000000, 0x40000000])).setV 2
      (.ofElems 32 [10, 11, 12, 13, 14, 15, 16, 17]) with vl := 8, vtype := 2, topkn := 4 }

set_option maxRecDepth 100000 in
/-- R372: the first `VTOPK` of R373's example. -/
theorem test_vtopk : completes (.vtopk 1 2 0 0 0) scored (fun c => c.topk.map (fun p => p.2.toNat)) = some [15, 11, 13, 17] := by
  decide +kernel

/-- R373: the read-out of the held indices. -/
theorem test_vtopkr : completes (.vtopkr 8 0) (fun c => { scored c with topk := [(0x40400000, 15), (0x40000000, 9), (0x40000000, 11), (0x40000000, 13)] })
    (fun c => (List.range 6).map (fun i => (c.vr 8).elem i 32)) = some [9, 11, 13, 15, 0xFFFFFFFF, 0xFFFFFFFF] := by decide +kernel

/-- R319's example: the values of the block as F64, and `FE`; the first outlier as O4B. -/
theorem test_o4_block : ((o4Block 19 [3, 2, 8, 6, 15, 8, 8, 7] 0x7F25).1.map (fun v => (roundNum v fmtF64 0).1))
      = [0x4008000000000000, 0x4000000000000000, 0x404A000000000000, 0, 0, 0xC064000000000000, 0, 0x401C000000000000]
    ∧ (o4Block 19 [3, 2, 8, 6, 15, 8, 8, 7] 0x7F25).2 = flagFE
    ∧ ((o4Block 20 [3, 2, 8, 6, 15, 8, 8, 7] 0x7F25).1.map (fun v => (roundNum v fmtF64 0).1)).getD 2 0 = 0x4094000000000000 := by
  decide +kernel

/-- R320's example: a row of one 4,096 and fifteen ones by itself into an F32 slot, in groups of 8. -/
theorem test_group_sums : dotInto 1 (groupLength 3 3) 0 ((0x6C00 :: List.replicate 15 0x3C00).map (readFloat fmtF16))
    ((0x6C00 :: List.replicate 15 0x3C00).map (readFloat fmtF16)) = (0x4B800008, flagNX) := by decide +kernel

/-- R421's example: `MSHAPE` sums the group row counts. -/
theorem test_mshape : seen (.mshape 5 6) (withX 6 0x180010) (fun c => (c.xr 5, c.mshape)) = some (40, 0x180010) := by decide

/-- R136's worked table: slices and sets. -/
theorem test_rose_table : [0x000000, 0x000080, 0x002000, 0x002080, 0x080000, 0x060080, 0x135A80, 0x190600].map rose
    = [(0, 0), (1, 0), (1, 1), (0, 1), (1, 64), (49, 48), (45, 154), (7, 200)] := by decide

/-- R129's example: the home index. -/
theorem test_kv_home : kvHome 0x105 2 2 12 = 339 := by decide

/-- The tables of R103's example. -/
def tables (c : Chip) : Chip :=
  { c with
    roots := [(7, 0x100000001)]
    mem := memWriteNat (memWriteNat (memWriteNat c.mem 0x100000048 8 0x100004001) 0x100004340 8 0x100006001) 0x100007598 8 0x2040012F }

/-- R103's example: the walk finds the frame and sets `A`; a store then sets `D`. -/
theorem test_walk : ((fun r => (match r.1 with | .inr x => x.pa | .inl _ => 0, memReadNat r.2.mem 0x100007598 8))
      ((tables Chip.reset).xlate { (coAt id).agent 0 with asid := 7, sup := false } 0x123456789ABC .load false)) = (0x20589ABC, 0x2040016F)
    ∧ ((fun r => memReadNat r.2.mem 0x100007598 8)
      ((tables Chip.reset).xlate { (coAt id).agent 0 with asid := 7, sup := false } 0x123456789ABC .store false)) = 0x204001EF := by
  decide +kernel

/-- R262 and R282: `ECALL` traps after itself with its cause; a word with a set unused bit traps `RSV`. -/
theorem test_ecall : (after .ecall (runs served user)).map (fun c => (c.cause, c.epc, c.state)) = some (0x10, 0x200004, .faulted) := by
  decide +kernel

/-- R123's example: the addresses of element 5 of the position's K and V. -/
theorem test_kv_element : (fun ds : Desc => (ds.elemAt 0x00030042 0x0000030001050201 37 5 false, ds.elemAt 0x00030042 0x0000030001050201 37 5 true))
      { parseDesc (List.replicate 64 0) with btlog := 4, heads := 2, dim := 128 } = (0x3004210AA, 0x30042950A) := by decide

/-- R58's example: an `NPUT` of 600 bytes at window offset 0x1200 goes in pieces of 256, 256 and 88 bytes. -/
theorem test_nput_pieces : [0, 256, 512].map (net 0 600 0 [] []).pieceLen = [256, 256, 88]
    ∧ [0, 256, 512].map { net 0 600 0 [] [] with a := 0x0941400000001200 }.pieceLen = [256, 256, 88] := by decide

/-- R13's example: cluster 66 of the partition with the tolerance of 50 us may go to code 2, and so may not a cluster of one of 2 us. -/
theorem test_tolerance : (((runs id id).chip.modPart 5 (fun q => { q with en := true, clus := 0xFF * 2 ^ 64, tol := 50 })).clusterTol 66,
    exitLatency 1, exitLatency 2, exitLatency 3) = (50, 2, 40, 1000) := by decide

/-- R71, R78, R89, R73, R20, R52: what a host reads after reset; `UAL_MAP` entry 1023, an 8-byte read where none is permitted. -/
theorem test_host_read : [(0x3004, false), (0x110008, true), (0x10FFC, false), (0x1300, false), (0x11000, true)].map
    (fun p => hostRead State.reset p.1 p.2) = [2000, 16, 1023, 8, 0] := by decide

/-- R57: reserved fields of an export window read zero after a write of ones; R43, R44: a queue entry as it reads. -/
theorem test_host_write_read :
    hostRead (hostWrite 0x20010 false 0xFFFFFFFF State.reset) 0x20010 false = 0x000387FF
    ∧ [0x2020, 0x2028, 0x202C].map (fun o => hostRead (placeError 1 0x1234 4 1 0 State.reset) o false) = [1, 0x1234, 0x14] := by decide

end Sys2Proof.Tests
end

section
/-! O60: the canonical form of the host's memory and of the queue memory, kept by every step, and what an instruction word
leaves of the keep. -/

namespace Sys2Proof.Machine

/-! ### The keep's two memories -/

/-- The memories that the keep holds, the host's and the launch queues', are in canonical form. -/
def Keep.Canonical (k : Keep) : Prop := Memory.wf k.hostMem ∧ Memory.wf k.queueMem

/-- A keep whose memories are those of a canonical one is canonical. -/
theorem Keep.Canonical.of_eq {k l : Keep} (h : k.Canonical) (hm : l.hostMem = k.hostMem) (hq : l.queueMem = k.queueMem) :
    l.Canonical := by
  unfold Keep.Canonical
  rw [hm, hq]
  exact h

/-- Bytes written to the host's memory keep it canonical. -/
theorem Keep.Canonical.writeHost {k : Keep} (h : k.Canonical) (a : Nat) (bs : List Byte) :
    ({ k with hostMem := memWriteBytes k.hostMem a bs } : Keep).Canonical := ⟨memWriteBytes_wf a bs h.1, h.2⟩

/-- The pilot's registers and buffers are no memory. -/
theorem Keep.Canonical.withPilot {k : Keep} (h : k.Canonical) (p : Pilot) : ({ k with pilot := p } : Keep).Canonical := h

/-- Power and thermal management hold no memory. -/
theorem Keep.Canonical.withPower {k : Keep} (h : k.Canonical) (p : Power) : ({ k with power := p } : Keep).Canonical := h

/-- The firmware registers are no memory. -/
theorem Keep.Canonical.withFw {k : Keep} (h : k.Canonical) (f : Fw) : ({ k with fw := f } : Keep).Canonical := h

/-- The launch queues' registers are no memory. -/
theorem Keep.Canonical.withHqs {k : Keep} (h : k.Canonical) (v : Vector Hq 64) : ({ k with hqs := v } : Keep).Canonical := h

theorem Keep.startCommand_canonical {k : Keep} (h : k.Canonical) (op result : Nat) : (k.startCommand op result).Canonical :=
  h.withFw _

/-! ### The pilot -/

theorem Keep.sendMsix_canonical {k : Keep} (h : k.Canonical) (v : Nat) : (k.sendMsix v).Canonical := by
  unfold Keep.sendMsix
  split <;> exact h

theorem Keep.signalEvents_canonical {k : Keep} (h : k.Canonical) : k.signalEvents.Canonical := by
  unfold Keep.signalEvents
  split
  · exact Keep.sendMsix_canonical (h.withPilot _) _
  · exact h

/-- An event that the pilot writes goes to the host's memory byte by byte. -/
theorem Keep.writeEvent_canonical {k : Keep} (h : k.Canonical) (e : PEvent) (accepted now : Nat) :
    (k.writeEvent e accepted now).Canonical := by
  have hw : ∀ (a : Nat) (bs : List Byte) (p : Pilot),
      ({ k with hostMem := memWriteBytes k.hostMem a bs, pilot := p } : Keep).Canonical :=
    fun a bs _ => ⟨memWriteBytes_wf a bs h.1, h.2⟩
  unfold Keep.writeEvent
  cases e.irq with
  | none => exact Keep.signalEvents_canonical (hw _ _ _)
  | some v => exact Keep.sendMsix_canonical (Keep.signalEvents_canonical (hw _ _ _)) v

theorem Keep.pump_canonical (fuel now : Nat) {k : Keep} (h : k.Canonical) : (k.pump fuel now).Canonical := by
  induction fuel generalizing k with
  | zero => exact h
  | succ f ih =>
    unfold Keep.pump
    split
    · exact h
    · split
      · exact ih (Keep.writeEvent_canonical (h.withPilot _) _ _ _)
      · exact ih (Keep.writeEvent_canonical (h.withPilot _) _ _ _)
      · exact h

theorem Keep.drainEvents_canonical {k : Keep} (h : k.Canonical) (now : Nat) : (k.drainEvents now).Canonical :=
  Keep.pump_canonical _ now h

theorem Keep.raise_canonical {k : Keep} (h : k.Canonical) (e : PEvent) (now : Nat) : (k.raise e now).Canonical := by
  unfold Keep.raise
  split
  · exact Keep.drainEvents_canonical (h.withPilot _) now
  · exact h

theorem Keep.writeEvqCtl_canonical {k : Keep} (h : k.Canonical) (v : BitVec 32) (now : Nat) : (k.writeEvqCtl v now).Canonical := by
  unfold Keep.writeEvqCtl
  dsimp only
  split
  · split <;> exact h
  · split
    · exact Keep.drainEvents_canonical (h.withPilot _) now
    · exact h

theorem Keep.irqTimer_canonical {k : Keep} (h : k.Canonical) (now : Nat) : (k.irqTimer now).Canonical := by
  unfold Keep.irqTimer
  split
  · exact Keep.sendMsix_canonical (h.withPilot _) _
  · exact h

theorem Keep.writeMsix_canonical {k : Keep} (h : k.Canonical) (v o : Nat) (w : BitVec 32) : (k.writeMsix v o w).Canonical := by
  unfold Keep.writeMsix
  dsimp only
  split <;> exact h

theorem postEvents_canonical {s : State} (h : s.keep.Canonical) : s.postEvents.keep.Canonical := by
  unfold State.postEvents
  split
  · exact h
  · exact List.foldlRecOn s.chip.outbox _ h (fun _ hk e _ => Keep.raise_canonical hk e _)

/-! ### Errors, power and records -/

theorem settleErrors_canonical {s : State} (h : s.keep.Canonical) : (settleErrors s).keep.Canonical := by
  unfold settleErrors
  exact List.foldlRecOn (motive := fun t : State => t.keep.Canonical) s.chip.found _ h (fun _ ht _ _ => ht)

theorem settlePower_canonical {s : State} (h : s.keep.Canonical) : (settlePower s).keep.Canonical := by
  unfold settlePower
  split
  · exact h
  · split <;> exact h

theorem settle_canonical {s : State} (h : s.keep.Canonical) : s.settle.keep.Canonical :=
  settlePower_canonical (postEvents_canonical (settleErrors_canonical (by exact h)))

theorem Keep.popError_canonical {k : Keep} (h : k.Canonical) (d : Nat) (v : BitVec 32) : (k.popError d v).Canonical := by
  unfold Keep.popError
  split <;> exact h

theorem scrub_canonical {s : State} (h : s.keep.Canonical) (line found sect : Nat) : (scrub line found sect s).keep.Canonical := by
  unfold scrub
  split
  · exact h
  · exact settleErrors_canonical (by exact h)

theorem cxlPoison_canonical {s : State} (h : s.keep.Canonical) (pa : Nat) : (cxlPoison pa s).keep.Canonical := by
  unfold cxlPoison
  split
  · exact h
  · exact settleErrors_canonical (by exact h)

theorem retireFrame_canonical {s : State} (h : s.keep.Canonical) (v : BitVec 32) : (retireFrame v s).keep.Canonical := by
  unfold retireFrame
  split <;> exact h

theorem retireDone_canonical {s : State} (h : s.keep.Canonical) : (retireDone s).keep.Canonical := by
  unfold retireDone
  split <;> exact h

theorem takeRecord_canonical {s : State} (h : s.keep.Canonical) (q : Nat) (wanted : List Byte → Bool)
    (take : Chip → List Byte → Chip) : (takeRecord q wanted take s).keep.Canonical := by
  unfold takeRecord
  split
  · exact h
  · dsimp only
    split <;> exact h

theorem readSensor_canonical {s : State} (h : s.keep.Canonical) (n : Nat) (temp : BitVec 16) (kind : Int → Int → Int → Bool) :
    (readSensor n temp kind s).keep.Canonical := by
  unfold readSensor
  dsimp only
  split
  · exact h.withPower _
  · exact h

theorem shutDown_canonical {s : State} (h : s.keep.Canonical) (n : Nat) : (shutDown n s).keep.Canonical := by
  unfold shutDown
  split <;> exact h

theorem enterState_canonical {s : State} (h : s.keep.Canonical) (u : Nat) : (enterState u s).keep.Canonical := by
  unfold enterState
  dsimp only
  split
  · split <;> exact h
  · split
    · split <;> exact h
    · split <;> exact h

theorem wakeUnit_canonical {s : State} (h : s.keep.Canonical) (u : Nat) : (wakeUnit u s).keep.Canonical := by
  unfold wakeUnit
  split
  · split
    · exact settlePower_canonical (by exact h)
    · exact h
  · split
    · split
      · exact settlePower_canonical (by exact h)
      · exact h
    · split
      · exact h
      · exact settlePower_canonical (by exact h)

theorem writeTolerance_canonical {s : State} (h : s.keep.Canonical) (p : Nat) (v : BitVec 32) :
    (writeTolerance p v s).keep.Canonical := by
  unfold writeTolerance
  dsimp only
  split
  · exact h
  · exact settlePower_canonical (by exact h)

theorem Keep.endCommand_canonical {k : Keep} (h : k.Canonical) : k.endCommand.Canonical := by
  unfold Keep.endCommand
  split <;> exact h

/-! ### The lantern -/

theorem bootLinks_canonical {s : State} (h : s.keep.Canonical) : (bootLinks s).keep.Canonical := by
  unfold bootLinks
  dsimp only
  split <;> exact h

theorem bootSpires_canonical {s : State} (h : s.keep.Canonical) (uc : List Byte) : (bootSpires uc s).keep.Canonical := by
  unfold bootSpires
  dsimp only
  split
  · exact h
  · split
    · exact h
    · exact bootLinks_canonical (by exact h)

theorem bootMemory_canonical {s : State} (h : s.keep.Canonical) (uc : List Byte) : (bootMemory uc s).keep.Canonical := by
  unfold bootMemory
  dsimp only
  split
  · exact h
  · split
    · exact h
    · split
      · exact h
      · exact bootSpires_canonical (by exact h) uc

theorem bootImages_canonical {s : State} (h : s.keep.Canonical) : (bootImages s).keep.Canonical := by
  unfold bootImages
  dsimp only
  split
  · exact h
  · split
    · exact h
    · exact bootMemory_canonical (by exact h) _

theorem bootNow_canonical {s : State} (h : s.keep.Canonical) : (bootNow s).keep.Canonical := bootImages_canonical (by exact h)

theorem powerGood_canonical {s : State} (h : s.keep.Canonical) : (powerGood s).keep.Canonical := by
  unfold powerGood
  split
  · exact h
  · exact bootNow_canonical h

/-- A cold reset keeps the host's memory, which is not the package's, and empties the queue memory. -/
theorem coldReset_canonical {s : State} (h : s.keep.Canonical) : (coldReset s).keep.Canonical :=
  ⟨h.1, List.Pairwise.nil, fun _ hc => nomatch hc⟩

theorem powerCycle_canonical {s : State} (h : s.keep.Canonical) : (powerCycle s).keep.Canonical := by
  unfold powerCycle
  split
  · exact bootNow_canonical (coldReset_canonical h)
  · exact bootNow_canonical h

theorem stageImage_canonical {s : State} (h : s.keep.Canonical) : (stageImage s).keep.Canonical := by
  unfold stageImage
  split
  · exact h
  · split
    · exact h
    · split <;> exact h

/-- The report is written to the host's memory byte by byte. -/
theorem attest_canonical {s : State} (h : s.keep.Canonical) : (attest s).keep.Canonical := by
  unfold attest
  split
  · exact h
  · split
    · exact h
    · refine Keep.startCommand_canonical ?_ 3 0
      exact h.writeHost _ _

/-- The certificate is written to the host's memory byte by byte. -/
theorem readCert_canonical {s : State} (h : s.keep.Canonical) : (readCert s).keep.Canonical := by
  unfold readCert
  split
  · exact h
  · split
    · exact h
    · exact (h.writeHost _ _).withFw _

/-! ### The host port -/

theorem writeIdent_canonical {s : State} (h : s.keep.Canonical) (o : Nat) (v : BitVec 32) : (writeIdent o v s).keep.Canonical := by
  unfold writeIdent
  split
  · exact h.withFw _
  · exact h.withFw _
  · exact h.withFw _
  · unfold writeFwCmd
    split
    · exact stageImage_canonical h
    · exact attest_canonical h
    · exact readCert_canonical h
    · exact h
  · exact h

theorem writePackage_canonical {s : State} (h : s.keep.Canonical) (o : Nat) (v : BitVec 32) : (writePackage o v s).keep.Canonical := by
  unfold writePackage
  split
  · exact writeTolerance_canonical h _ v
  · split
    · exact h.withPower _
    · exact h

theorem writeMemory_canonical {s : State} (h : s.keep.Canonical) (o : Nat) (v : BitVec 32) : (writeMemory o v s).keep.Canonical := by
  unfold writeMemory
  split
  · exact h.of_eq rfl rfl
  · split
    · exact Keep.popError_canonical h _ v
    · split
      · split
        · exact h
        · exact retireFrame_canonical h v
      · split
        · exact h.of_eq rfl rfl
        · exact h

theorem writeLink_canonical {s : State} (h : s.keep.Canonical) (o : Nat) (v : BitVec 32) : (writeLink o v s).keep.Canonical := by
  unfold writeLink
  split <;> exact h

theorem writeEvents_canonical {s : State} (h : s.keep.Canonical) (o : Nat) (v : BitVec 32) : (writeEvents o v s).keep.Canonical := by
  unfold writeEvents
  dsimp only
  split
  · exact h.withPilot _
  · exact h.withPilot _
  · exact Keep.writeEvqCtl_canonical h v _
  · exact Keep.drainEvents_canonical (h.withPilot _) _
  · exact h.withPilot _
  · exact h.withPilot _
  · exact h

/-- A choice between two states whose memories are canonical. -/
theorem ite_canonical {p : Prop} [Decidable p] {s t : State} (hs : p → s.keep.Canonical) (ht : ¬p → t.keep.Canonical) :
    (if p then s else t).keep.Canonical := by
  split
  next hp => exact hs hp
  next hp => exact ht hp

/-- A four-byte write of the control BAR, block by block. -/
theorem write32_canonical {s : State} (h : s.keep.Canonical) (o : Nat) (v : BitVec 32) : (write32 o v s).keep.Canonical := by
  unfold write32
  refine ite_canonical (fun _ => ?_) (fun _ => ?_)
  · exact writeIdent_canonical h o v
  refine ite_canonical (fun _ => ?_) (fun _ => ?_)
  · exact writePackage_canonical h _ v
  refine ite_canonical (fun _ => ?_) (fun _ => ?_)
  · exact writeMemory_canonical h _ v
  refine ite_canonical (fun _ => ?_) (fun _ => ?_)
  · exact writeLink_canonical h _ v
  refine ite_canonical (fun _ => ?_) (fun _ => ?_)
  · exact h
  refine ite_canonical (fun _ => ?_) (fun _ => ?_)
  · exact h
  refine ite_canonical (fun _ => ?_) (fun _ => ?_)
  · exact h
  refine ite_canonical (fun _ => ?_) (fun _ => ?_)
  · exact h.withHqs _
  refine ite_canonical (fun _ => ?_) (fun _ => ?_)
  · exact h.withHqs _
  refine ite_canonical (fun _ => ?_) (fun _ => ?_)
  · exact writeEvents_canonical h _ v
  refine ite_canonical (fun _ => ?_) (fun _ => ?_)
  · exact h
  refine ite_canonical (fun _ => ?_) (fun _ => ?_)
  · exact Keep.writeMsix_canonical h _ _ v
  exact h

theorem write64_canonical {s : State} (h : s.keep.Canonical) (o : Nat) (v : BitVec 64) : (write64 o v s).keep.Canonical := by
  unfold write64
  split
  · exact h
  · exact write32_canonical (write32_canonical h o _) (o + 4) _

theorem writeBar_canonical {s : State} (h : s.keep.Canonical) (o : Nat) (wide : Bool) (v : BitVec 64) :
    (writeBar o wide v s).keep.Canonical := by
  unfold writeBar
  split
  · split
    · exact write64_canonical h o v
    · exact h
  · split
    · exact write32_canonical h o _
    · exact h

theorem hostWrite_canonical {s : State} (h : s.keep.Canonical) (o : Nat) (wide : Bool) (v : BitVec 64) :
    (hostWrite o wide v s).keep.Canonical := by
  have hb := writeBar_canonical h o wide v
  unfold hostWrite
  dsimp only
  split <;> exact hb

theorem windowTouch_canonical {s : State} (h : s.keep.Canonical) (write : Bool) (off n : Nat) (v : List Byte) :
    (windowTouch write off n v s).keep.Canonical := by
  unfold windowTouch
  dsimp only
  split
  · exact h
  · split
    · exact h
    · split <;> exact h

/-! ### Instruction words and events -/

/-- The meaning of an instruction word: the issue of a body on the current core's coroutine, after a check (R262). -/
def IsWord (f : State → Host.Outcome State Fault Refusal) : Prop :=
  ∃ (pre : Coroutine → Option Nat) (i : Instr) (takes : Bool) (body : WordBody), f = runChecked pre i takes body

theorem isWord_runChecked (pre : Coroutine → Option Nat) (i : Instr) (takes : Bool) (body : WordBody) :
    IsWord (runChecked pre i takes body) := ⟨_, _, _, _, rfl⟩

theorem isWord_runWord (takes : Bool) (body : WordBody) : IsWord (runWord takes body) :=
  ⟨fun _ => none, .isync, takes, body, rfl⟩

theorem isWord_runVector (i : Instr) (s1 s2 : Coroutine → Word) : IsWord (runVector i s1 s2) := ⟨_, _, _, _, rfl⟩

/-- Every instruction that has an encoding is issued as a word. -/
theorem exec_isWord {i : Instr} {w : BitVec 32} (h : encode i = some w) : IsWord (exec i) := by
  cases i with
  | csrr | csrw | csrs | csrc | vldt | vstt | vldtt | mdrain | mfill => exact isWord_runChecked _ _ _ _
  | vadd | vsub | vmul | vmulh | vmac | vmin | vmax | vminu | vmaxu | vsadd | vssub | vabs | vand | vor | vxor | vsll | vsrl
    | vsra | vcmp | vmerge | vfadd | vfsub | vfmul | vfma | vfnma | vfmin | vfmax | vfdiv | vfsqrt | vfrsq | vfexp2 | vfsgn
    | vfcmp | vfcvt | vredsum | vredmax | vredmin | vfredsum | vfredmax | vfredmin | vslideup | vslidedn | vgather
    | vcompress | vscan | vtopk | vtopkr | vmand | vmor | vmxor | vmnot | vmpopc | vmfirst | vmvx | vmvs | vid | vshape
    | vrope | vscld | vscst | vld | vlds | vldx | vldff | vst | vsts | vstx =>
    delta exec
    exact isWord_runVector _ _ _
  | _ =>
    cases h <;>
    · delta exec
      exact isWord_runWord _ _

theorem IsWord.next {f : State → Host.Outcome State Fault Refusal} (h : IsWord f) {s t : State} (e : f s = .next t) :
    t.keep = s.keep ∧ t.agenda = s.agenda ∧ t.cur = s.cur := by
  obtain ⟨pre, i, takes, body, rfl⟩ := h
  exact runChecked_next e

theorem IsWord.halted {f : State → Host.Outcome State Fault Refusal} (h : IsWord f) {s : State}
    (hs : s.keep.power.halted = true) : f s = .fault .clocksStopped := by
  obtain ⟨pre, i, takes, body, rfl⟩ := h
  exact runChecked_halted hs pre i takes body

theorem onChip_canonical {f : Chip → Chip} {s t : State} (h : s.keep.Canonical) (e : onChip f s = .next t) : t.keep.Canonical := by
  obtain ⟨hk, -, -, -⟩ := onChip_next e
  rw [hk]
  exact h

theorem onState_canonical {f : State → State} {s t : State} (e : onState f s = .next t) (h : (f s).keep.Canonical) :
    t.keep.Canonical := by
  cases e
  exact h

theorem Keep.functionReset_canonical {k : Keep} (h : k.Canonical) (now : Nat) : (k.functionReset now).Canonical := ⟨h.1, h.2⟩

/-- An event that nothing outside the keep follows once the clocks have stopped (R24). -/
theorem unlessHalted_canonical {f : State → State} {s t : State}
    (e : onState (fun s => if s.keep.power.halted then s else f s) s = .next t) (h : s.keep.Canonical)
    (hf : (f s).keep.Canonical) : t.keep.Canonical := by
  refine onState_canonical e ?_
  split
  · exact h
  · exact hf

/-- Every instruction word and every event keeps the keep's memories canonical. -/
theorem exec_canonical {i : Instr} {s t : State} (h : s.keep.Canonical) (e : exec i s = .next t) : t.keep.Canonical := by
  cases hw : encode i with
  | some w =>
    rw [((exec_isWord hw).next e).1]
    exact h
  | none =>
    delta exec at e
    cases i with
    | launchRecord q => exact onState_canonical e (takeRecord_canonical h _ _ _)
    | signalRecord q => exact onState_canonical e (takeRecord_canonical h _ _ _)
    | powerGood => exact onState_canonical e (powerCycle_canonical h)
    | functionLevelReset => exact onState_canonical e (Keep.functionReset_canonical h _)
    | powerWindow mw => exact onState_canonical e (h.withPower _)
    | thermalWarn n temp => exact onState_canonical e (readSensor_canonical h _ _ _)
    | thermalTrip n temp => exact onState_canonical e (readSensor_canonical h _ _ _)
    | thermalCool n temp => exact onState_canonical e (readSensor_canonical h _ _ _)
    | thermalShutdown n => exact onState_canonical e (shutDown_canonical h _)
    | powerStateEnter u => exact unlessHalted_canonical e h (enterState_canonical h _)
    | unitWake u => exact unlessHalted_canonical e h (wakeUnit_canonical h _)
    | partPwrtolWrite p v => exact onState_canonical e (writeTolerance_canonical h _ v)
    | controlRegisterWrite off wide v => exact onState_canonical e (hostWrite_canonical h _ wide v)
    | hqCfgWrite q v => exact onState_canonical e h
    | hqTailWrite q v => exact onState_canonical e h
    | evqCtlWrite v => exact onState_canonical e (Keep.writeEvqCtl_canonical h v _)
    | evqHeadWrite v => exact onState_canonical e (Keep.drainEvents_canonical (h.withPilot _) _)
    | evqIrqTimer => exact onState_canonical e (Keep.irqTimer_canonical h _)
    | fwStageImage => exact onState_canonical e (stageImage_canonical h)
    | fwAttest => exact onState_canonical e (attest_canonical h)
    | fwReadCert => exact onState_canonical e (readCert_canonical h)
    | fwCommandDone => exact onState_canonical e (Keep.endCommand_canonical h)
    | faqPop d v => exact onState_canonical e (Keep.popError_canonical h _ v)
    | memRetire v => exact unlessHalted_canonical e h (retireFrame_canonical h v)
    | memRetireDone => exact onState_canonical e (retireDone_canonical h)
    | patrolScrub line found sect => exact unlessHalted_canonical e h (scrub_canonical h _ _ _)
    | cxlTimeout pa => exact unlessHalted_canonical e h (cxlPoison_canonical h _)
    | partEnable p => exact unlessHalted_canonical e h (settlePower_canonical (by exact h))
    | homeSliceTransaction kind spire line => exact unlessHalted_canonical e h (settleErrors_canonical (by exact h))
    | windowAccess write off size v =>
      refine onState_canonical e ?_
      split
      · exact h
      · exact windowTouch_canonical h _ _ _ _
    | dispatch | vectorEntryComplete | storeAccept | launchStart | launchAdmit | gangPlace | kvCommandRun | copyPiece
    | domeCommandStart | terminationSweep | cxlPortDown | partDisable | partResume | partSave | partRestore | partSeal
    | partAdopt | partOpComplete | partBellWrite | bellTime | partStopComplete | ualNodeWrite | ualMapWrite | linkFault
    | networkPieceSend | remotePieceReceive | remoteAck | remoteTimeout | nsendRequestRead | uePacketReceive
    | ueSelectiveAck | ueRetransmitTimer | ueRequestAbandon | tsyncMessage | tsyncLockLost | quantumExpiry | travelHopPlace
    | spawnPlace | migratePlace | beaconSignalApply | storeFault | coroutineFree | reservationGrant | remoteDrop
    | rowPairCopy | domeCommandComplete | tileConfigure | rotationLanding | swapExchange | followOnStart | faultQueuePost
    | ptbaseWrite | xlinvPage | xlinvRegion | xlinvAsid | xlinvAll | kvbaseReloadOne | kvbaseReloadAll | svcwaysWrite
    | svcbwWrite | svcmapWrite | fqheadWrite | statusWrite | prioWrite | uePortDown => exact onChip_canonical h e
    | _ => cases hw

/-! ### The plan of a step -/

/-- The state that a plan leaves or executes in. -/
def Plan.state (p : Plan) : State :=
  match p with
  | .done s => s
  | .run _ s => s

theorem issueWord_keep (key : Nat) (co : Coroutine) (s : State) : (issueWord key co s).state.keep = s.keep := by
  unfold issueWord
  split
  · rfl
  · split
    · split <;> rfl
    · rfl
    · rfl

/-- A core's front end leaves the keep alone. -/
theorem issueOn_keep (k : Nat) (s : State) : (issueOn k s).state.keep = s.keep := by
  unfold issueOn
  dsimp only
  split
  · rfl
  · split
    · rfl
    · split
      · rfl
      · split
        · rfl
        · exact issueWord_keep _ _ _

theorem requestOn_keep (k : Nat) (s : State) : (requestOn k s).state.keep = s.keep := by
  have hk := issueOn_keep k s
  unfold requestOn
  split
  next t ht => rw [ht] at hk; exact hk
  next i t ht =>
    rw [ht] at hk
    split
    · exact hk
    · split
      · exact hk
      · rw [← hk]
        show (if _ then t else _).keep = t.keep
        split <;> rfl

/-- Each act of the keep keeps its memories canonical. -/
theorem keepActs_canonical {s : State} (h : s.keep.Canonical) : ∀ f ∈ keepActs, (f s).keep.Canonical := by
  simp only [keepActs, List.forall_mem_cons]
  refine ⟨powerGood_canonical h, Keep.endCommand_canonical h, retireDone_canonical h, ?_, fun _ hf => nomatch hf⟩
  split
  · exact h
  · split
    · exact takeRecord_canonical h _ _ _
    · exact takeRecord_canonical h _ _ _

theorem keepAct_canonical {s t : State} (h : s.keep.Canonical) (e : keepAct s = some t) : t.keep.Canonical := by
  obtain ⟨f, hf, hft⟩ := List.exists_of_findSome?_eq_some e
  have ht : f s = t := by
    dsimp only at hft
    split at hft
    · cases hft
    · exact Option.some.inj hft
  rw [← ht]
  exact keepActs_canonical h f hf

theorem ownOrder_canonical {s : State} (h : s.keep.Canonical) : (ownOrder s).state.keep.Canonical := by
  unfold ownOrder
  split
  next t ht => exact keepAct_canonical h ht
  · split
    · exact h
    · split
      · rw [issueOn_keep]; exact h
      · exact h

@[simp] theorem State.tick_keep (s : State) : s.tick.keep = s.keep := by
  unfold State.tick
  split <;> rfl

theorem plan_canonical {s : State} (h : s.keep.Canonical) : (plan s).state.keep.Canonical := by
  have ht : s.tick.keep.Canonical := by rw [State.tick_keep]; exact h
  unfold plan
  split
  · exact ht
  · split
    · exact h
    · rw [issueOn_keep]; exact ht
  · split
    · exact h
    · rw [requestOn_keep]; exact ht
  · show (if _ then _ else _ : State).keep.Canonical
    split
    · exact h
    · exact ht
  · show (if _ then _ else _ : State).keep.Canonical
    split
    · exact h
    · exact ht
  · split
    · exact h
    · exact ownOrder_canonical ht

/-- Every step keeps the host's memory and the queue memory canonical. -/
theorem step_canonical {s t : State} (h : s.keep.Canonical) (e : step s = .next t) : t.keep.Canonical := by
  have hp := plan_canonical (settle_canonical h)
  unfold step at e
  split at e
  next u hu => rw [hu] at hp; cases e; exact hp
  next i u hu => rw [hu] at hp; exact exec_canonical hp e

/-- A word changes the chip only, and faults once the clocks have stopped (R24). -/
theorem wordsLeaveTheKeep : Claims.WordsLeaveTheKeep :=
  fun _ _ _ hw => ⟨fun _ e => (exec_isWord hw).next e, fun hs => (exec_isWord hw).halted hs⟩

/-- Settles O60: the keep's memories are written byte by byte only, and a word is a body on the chip. -/
theorem stepsKeepHostMemories : Obligations.StepsKeepHostMemories :=
  ⟨fun _ _ hh hq e => step_canonical ⟨hh, hq⟩ e, wordsLeaveTheKeep⟩

end Sys2Proof.Machine
end

section
/-! O39: the power and thermal levels at a window's end, the sensors, and the shutdown of the clocks (R11, R24). -/

namespace Sys2Proof.Machine

/-! ### Sensors by number -/

theorem Power.sensor_eq_getElem (p : Power) {n : Nat} (h : n < 13) : p.sensor n = p.sensors.toList[n]'(by simpa using h) := by
  simp [Power.sensor, Vector.getD, h]

@[simp] theorem Power.sensor_refresh (p : Power) (n : Nat) : p.refresh.sensor n = p.sensor n := rfl

theorem Power.sensor_modSensor_self (p : Power) {n : Nat} (f : Sensor → Sensor) (h : n < 13) :
    (p.modSensor n f).sensor n = f (p.sensor n) := by
  simp [Power.sensor, Power.modSensor, Vector.getD, h]

theorem Power.sensor_modSensor_ne (p : Power) {n m : Nat} (f : Sensor → Sensor) (h : m ≠ n) :
    (p.modSensor n f).sensor m = p.sensor m := by
  by_cases hm : m < 13 <;> simp [Power.sensor, Power.modSensor, Vector.getD, hm, h]

/-- A sensor of the spires' group, numbers 0 to 4, passes a test (R23). -/
theorem Power.any_group_die (p : Power) (f : Sensor → Bool) :
    (p.group false).any f = true ↔ ∃ n, n < 5 ∧ f (p.sensor n) = true := by
  simp only [Power.group, Bool.false_eq_true, if_false, List.any_eq_true, List.mem_take_iff_getElem]
  constructor
  · rintro ⟨_, ⟨n, hn, rfl⟩, hf⟩
    have h5 : n < 5 := by omega
    exact ⟨n, h5, by rwa [p.sensor_eq_getElem (by omega)]⟩
  · rintro ⟨n, hn, hf⟩
    rw [p.sensor_eq_getElem (by omega)] at hf
    exact ⟨_, ⟨n, by simpa using hn, rfl⟩, hf⟩

/-- A sensor of the stacks' group, numbers 5 to 12, passes a test (R23). -/
theorem Power.any_group_hbm (p : Power) (f : Sensor → Bool) :
    (p.group true).any f = true ↔ ∃ n, 5 ≤ n ∧ n < 13 ∧ f (p.sensor n) = true := by
  simp only [Power.group, if_true, List.any_eq_true, List.mem_drop_iff_getElem]
  constructor
  · rintro ⟨_, ⟨n, hn, rfl⟩, hf⟩
    have h13 : 5 + n < 13 := by simpa [Nat.add_comm] using hn
    exact ⟨5 + n, by omega, h13, by rwa [p.sensor_eq_getElem h13]⟩
  · rintro ⟨n, h5, hn, hf⟩
    rw [p.sensor_eq_getElem hn] at hf
    refine ⟨_, ⟨n - 5, by simp; omega, rfl⟩, ?_⟩
    simpa only [Nat.add_sub_cancel' h5] using hf

/-- A sensor passes a test. -/
theorem Power.any_sensors (p : Power) (f : Sensor → Bool) :
    p.sensors.toList.any f = true ↔ ∃ n, n < 13 ∧ f (p.sensor n) = true := by
  simp only [List.any_eq_true, List.mem_iff_getElem]
  constructor
  · rintro ⟨_, ⟨n, hn, rfl⟩, hf⟩
    have h13 : n < 13 := by simpa using hn
    exact ⟨n, h13, by rwa [p.sensor_eq_getElem h13]⟩
  · rintro ⟨n, hn, hf⟩
    rw [p.sensor_eq_getElem hn] at hf
    exact ⟨_, ⟨n, by simpa using hn, rfl⟩, hf⟩

/-! ### The throttle level (R24) -/

/-- The throttle level while a sensor is tripped. -/
theorem Power.throttleOf_tripped {p : Power} (h : ∃ n, n < 13 ∧ (p.sensor n).tripped = true) : p.throttleOf = 15 :=
  if_pos ((p.any_sensors _).2 h)

/-- The throttle level while no sensor is tripped. -/
theorem Power.throttleOf_untripped {p : Power} (h : ∀ n, n < 13 → (p.sensor n).tripped = false) :
    p.throttleOf = Min.min 15 (p.level + p.die + p.hbm) := by
  refine if_neg fun ha => ?_
  obtain ⟨n, hn, ht⟩ := (p.any_sensors _).1 ha
  rw [h n hn] at ht
  cases ht

theorem Power.throttle_refresh_tripped {p : Power} (h : ∃ n, n < 13 ∧ (p.refresh.sensor n).tripped = true) :
    p.refresh.throttle = 15 := Power.throttleOf_tripped h

theorem Power.throttle_refresh_untripped {p : Power} (h : ∀ n, n < 13 → (p.refresh.sensor n).tripped = false) :
    p.refresh.throttle = Min.min 15 (p.level + p.die + p.hbm) := Power.throttleOf_untripped h

/-! ### The end of a window (R11, R24) -/

theorem nextPower_above {level under mw plimit : Nat} (h : 1000 * plimit < mw) :
    nextPower level under mw plimit = (Min.min 15 (level + 1), 0) := if_pos h

theorem nextPower_between {level under mw plimit : Nat} (h : mw ≤ 1000 * plimit) (h' : 950 * plimit ≤ mw) :
    nextPower level under mw plimit = (level, 0) := by
  rw [nextPower, if_neg (by omega), if_neg (by omega)]

theorem nextPower_below {level under mw plimit : Nat} (h : mw < 950 * plimit) :
    nextPower level under mw plimit = if under + 1 = 10 then (level - 1, 0) else (level, under + 1) := by
  rw [nextPower, if_neg (by omega), if_pos (by omega)]

theorem powerWindowUpdatesLevels : Claims.PowerWindowUpdatesLevels := by
  rintro s mw p rfl
  refine ⟨s.keep.power.window mw s.keep.boot.plimit, rfl, rfl, fun h => ?_, fun h h' => ?_, fun h => ⟨fun hu => ?_, fun hu => ?_⟩,
    fun h => ?_, fun h => ?_, fun h => ?_, fun h => ?_, fun h => Power.throttleOf_tripped h,
    fun h => Power.throttleOf_untripped h, rfl, rfl, rfl⟩
  · exact Prod.ext_iff.1 (nextPower_above h)
  · exact Prod.ext_iff.1 (nextPower_between h h')
  · exact Prod.ext_iff.1 ((nextPower_below h).trans (if_pos (by omega)))
  · exact Prod.ext_iff.1 ((nextPower_below h).trans (if_neg (by omega)))
  · exact if_pos ((Power.any_group_die _ _).2 h)
  · refine if_neg fun ha => ?_
    obtain ⟨n, hn, hw⟩ := (Power.any_group_die _ _).1 ha
    rw [h n hn] at hw
    cases hw
  · exact if_pos ((Power.any_group_hbm _ _).2 h)
  · refine if_neg fun ha => ?_
    obtain ⟨n, h5, hn, hw⟩ := (Power.any_group_hbm _ _).1 ha
    rw [h n h5 hn] at hw
    cases hw

/-! ### A reading (R24) -/

/-- What a reading makes of a sensor, field by field. -/
theorem Sensor.read_eq (x : Sensor) (temp : BitVec 16) (warn trip : Int) (now : Nat) :
    x.read temp warn trip now =
      { temp := temp
        warm := if x.warm then decide (warn - 40 < temp.toInt) else decide (warn ≤ temp.toInt)
        warn := x.warn || (!x.warm && decide (warn ≤ temp.toInt))
        tripped := if x.tripped then decide (warn ≤ temp.toInt) else decide (trip ≤ temp.toInt)
        trip := x.trip || (!x.tripped && decide (trip ≤ temp.toInt))
        tripAt := if x.tripped = false ∧ trip ≤ temp.toInt then now else x.tripAt
        stayed := if x.tripped = false ∧ trip ≤ temp.toInt then true else x.stayed && decide (trip ≤ temp.toInt) } := by
  obtain ⟨tp, wn, tr, warm, tripped, at', st⟩ := x
  have hw : (temp.toInt ≤ warn - 40) ↔ ¬ (warn - 40 < temp.toInt) := by omega
  have hc : (temp.toInt < warn) ↔ ¬ (warn ≤ temp.toInt) := by omega
  unfold Sensor.read
  simp only [hw, hc]
  generalize temp.toInt = t
  cases warm <;> cases tripped <;> by_cases h1 : warn ≤ t <;> by_cases h2 : trip ≤ t <;> by_cases h3 : warn - 40 < t <;>
    simp [h1, h2, h3]

/-- What a reading that is of the event's kind leaves: its sensor read, and the throttle level anew. -/
theorem readSensor_reads {n : Nat} {temp : BitVec 16} {kind : Int → Int → Int → Bool} {s : State} (hn : n < 13)
    (hk : kind temp.toInt (s.keep.boot.warnAt n) (tripAt n) = true) :
    readSensor n temp kind s = { s with keep := { s.keep with power :=
      (s.keep.power.modSensor n (fun x => x.read temp (s.keep.boot.warnAt n) (tripAt n) s.chip.time)).refresh } } := by
  simp [readSensor, hn, hk]

theorem Boot.warnAt_eq (b : Boot) (n : Nat) : b.warnAt n = 8 * ((if n < 5 then b.dieWarn else b.hbmWarn : Nat) : Int) := by
  unfold Boot.warnAt
  split <;> rfl

theorem tripAt_eq (n : Nat) : tripAt n = 8 * ((if n < 5 then 110 else 100 : Nat) : Int) := by
  unfold tripAt
  split <;> rfl

theorem exec_thermalWarn (n : BitVec 4) (temp : BitVec 16) (s : State) :
    exec (.thermalWarn n temp) s = .next (readSensor n.toNat temp (fun t w _ => decide (w ≤ t)) s) := rfl

theorem exec_thermalTrip (n : BitVec 4) (temp : BitVec 16) (s : State) :
    exec (.thermalTrip n temp) s = .next (readSensor n.toNat temp (fun t _ tr => decide (tr ≤ t)) s) := rfl

theorem exec_thermalCool (n : BitVec 4) (temp : BitVec 16) (s : State) :
    exec (.thermalCool n temp) s = .next (readSensor n.toNat temp (fun t w _ => decide (t < w)) s) := rfl

/-- The three events of a sensor are its reading, each of its kind. -/
theorem exec_reading {s : State} {n : BitVec 4} {temp : BitVec 16} {warn trip : Int} (hn : n.toNat < 13)
    (hw : warn = s.keep.boot.warnAt n.toNat) (ht : trip = tripAt n.toNat) :
    ∀ f ∈ [(Instr.thermalWarn n temp, decide (warn ≤ temp.toInt)), (.thermalTrip n temp, decide (trip ≤ temp.toInt)),
        (.thermalCool n temp, decide (temp.toInt < warn))], f.2 = true →
      exec f.1 s = .next { s with keep := { s.keep with power :=
        (s.keep.power.modSensor n.toNat (fun x => x.read temp warn trip s.chip.time)).refresh } } := by
  subst hw ht
  simp only [List.forall_mem_cons, exec_thermalWarn, exec_thermalTrip, exec_thermalCool]
  refine ⟨fun h => ?_, fun h => ?_, fun h => ?_, List.forall_mem_nil _⟩
  · rw [readSensor_reads hn h]
  · rw [readSensor_reads hn h]
  · rw [readSensor_reads hn h]

/-! ### The shutdown (R24) -/

theorem Power.mustStop_iff (p : Power) (n now : Nat) : p.mustStop n now = true ↔
    n < 13 ∧ (p.sensor n).tripped = true ∧ (p.sensor n).stayed = true ∧ (p.sensor n).tripAt + 100000000 ≤ now := by
  have h : 100000000 ≤ now - (p.sensor n).tripAt ↔ (p.sensor n).tripAt + 100000000 ≤ now := by omega
  simp only [Power.mustStop, Bool.and_eq_true, decide_eq_true_eq, h, and_assoc]

/-- A sensor that must stop the clocks does, and the event is raised. -/
theorem shutDown_stops {n : Nat} {s : State} (h : s.keep.power.mustStop n s.chip.time = true) (hh : s.keep.power.halted = false) :
    shutDown n s = { s with
      keep := { s.keep with power := { s.keep.power with halted := true }, store := { s.keep.store with shutdown := some n } }
      chip := s.chip.post ⟨0x0030, 4, wordOf n, (s.keep.power.sensor n).temp.setWidth 64, none⟩ } := by
  simp [shutDown, h, hh]

theorem shutDown_idle {n : Nat} {s : State} (h : ¬ s.keep.power.mustStop n s.chip.time = true) : shutDown n s = s := by
  simp [shutDown, h]

theorem sensorsWarnTripAndShutDown : Claims.SensorsWarnTripAndShutDown := by
  refine ⟨?_, ?_, fun s i w hs hw => (exec_isWord hw).halted hs⟩
  · rintro s n temp warn trip x hn hw ht rfl f hf hk
    have hs : (s.keep.power.modSensor n.toNat (fun x => x.read temp warn trip s.chip.time)).refresh.sensor n.toNat
        = (s.keep.power.sensor n.toNat).read temp warn trip s.chip.time := by
      rw [Power.sensor_refresh, Power.sensor_modSensor_self _ _ hn]
    refine ⟨_, _, exec_reading hn (hw.trans (Boot.warnAt_eq _ _).symm) (ht.trans (tripAt_eq _).symm) f hf hk,
      hs.trans (Sensor.read_eq _ _ _ _ _), rfl, rfl, rfl, rfl, rfl, rfl, rfl, fun m hm => ?_,
      Power.throttle_refresh_tripped, Power.throttle_refresh_untripped, rfl⟩
    rw [Power.sensor_refresh, Power.sensor_modSensor_ne _ _ hm]
  · rintro s n x hn hh rfl
    refine ⟨fun ht hs ha => ?_, fun h => ?_⟩
    · have hm := (Power.mustStop_iff _ n.toNat s.chip.time).2 ⟨hn, ht, hs, ha⟩
      refine ⟨_, _, congrArg Host.Outcome.next (shutDown_stops hm hh), rfl, rfl, rfl, rfl, ?_, rfl⟩
      exact BitVec.eq_of_toNat_eq (by simp [wordOf])
    · refine congrArg Host.Outcome.next (shutDown_idle fun hm => ?_)
      obtain ⟨-, ht, hs, ha⟩ := (Power.mustStop_iff _ _ _).1 hm
      rcases h with h | h | h
      · rw [ht] at h; cases h
      · rw [hs] at h; cases h
      · omega

/-- Settles O39: the levels follow `nextPower` and `nextThermal`, and a sensor's reading is given field by field. -/
theorem powerAndSensors : Obligations.PowerAndSensors := ⟨powerWindowUpdatesLevels, sensorsWarnTripAndShutDown⟩

end Sys2Proof.Machine
end

section
/-! O40: power states entered and left (R12-R14), and the wakings of a tolerance written (R19). -/

namespace Sys2Proof.Machine

/-! ### Maps and folds -/

theorem mget_mmap {α β : Type} (m : AMap α) (f : Nat → α → β) (k : Nat) : mget (mmap m f) k = (mget m k).map (f k) := by
  induction m with
  | nil => rfl
  | cons p r ih =>
    obtain ⟨j, v⟩ := p
    by_cases h : j = k
    · simp [mmap, mget, h]
    · simpa [mmap, mget, h] using ih

/-- A fold keeps what each of its steps keeps. -/
theorem foldl_keeps {σ α : Type} {P : σ → Prop} {f : σ → α → σ} (keep : ∀ s a, P s → P (f s a)) (l : List α) {s : σ} (h : P s) :
    P (l.foldl f s) :=
  List.foldlRecOn l f h (fun _ hb a _ => keep _ a hb)

/-- What one step of a fold establishes and every step keeps holds after it. -/
theorem foldl_establishes {σ α : Type} {P : σ → Prop} {f : σ → α → σ} (keep : ∀ s a, P s → P (f s a)) {a : α}
    (est : ∀ s, P (f s a)) {l : List α} (h : a ∈ l) (s : σ) : P (l.foldl f s) := by
  induction l generalizing s with
  | nil => cases h
  | cons b r ih =>
    rcases List.mem_cons.1 h with rfl | h
    · exact foldl_keeps keep r (est s)
    · exact ih h (f s b)

/-- Changing a partition leaves every other partition alone. -/
theorem Chip.part_modPart_ne (c : Chip) {p q : Nat} (f : Partition → Partition) (h : q ≠ p) : (c.modPart p f).part q = c.part q := by
  simp [Chip.part, Chip.modPart, mgetD_mset_ne _ _ _ h]

/-- A changed spire reads as its change. -/
theorem Chip.spire_modSpire_self (c : Chip) {d : Nat} (f : Spire → Spire) (h : d < 4) : (c.modSpire d f).spire d = f (c.spire d) := by
  simp [Chip.spire, Chip.modSpire, Vector.getD, h]

@[simp] theorem Chip.cluster_modSpire (c : Chip) (d : Nat) (f : Spire → Spire) (n : Nat) :
    (c.modSpire d f).cluster n = c.cluster n := rfl

/-! ### What a change of power states leaves alone -/

/-- `d` is `c` but for what clusters, cores and spires hold. -/
def PowerFrame (c d : Chip) : Prop := d = { c with clusters := d.clusters, cores := d.cores, spires := d.spires }

theorem PowerFrame.refl (c : Chip) : PowerFrame c c := rfl

theorem PowerFrame.trans {a b c : Chip} (h : PowerFrame a b) (k : PowerFrame b c) : PowerFrame a c := by
  unfold PowerFrame at *
  rw [k, h]

section
variable {c d : Chip}

theorem PowerFrame.parts (h : PowerFrame c d) : d.parts = c.parts := by rw [h]
theorem PowerFrame.cos (h : PowerFrame c d) : d.cos = c.cos := by rw [h]
theorem PowerFrame.mem (h : PowerFrame c d) : d.mem = c.mem := by rw [h]
theorem PowerFrame.clmask (h : PowerFrame c d) : d.clmask = c.clmask := by rw [h]

theorem PowerFrame.part (h : PowerFrame c d) (p : Nat) : d.part p = c.part p := by rw [Chip.part, h.parts, Chip.part]

theorem PowerFrame.clusterTol (h : PowerFrame c d) (n : Nat) : d.clusterTol n = c.clusterTol n := by rw [h]; rfl
theorem PowerFrame.spireTol (h : PowerFrame c d) (n : Nat) : d.spireTol n = c.spireTol n := by rw [h]; rfl
theorem PowerFrame.packageTol (h : PowerFrame c d) : d.packageTol = c.packageTol := by rw [h]; rfl

end

/-! ### A spire wakes -/

theorem Chip.wakeSpire_frame (c : Chip) (d : Nat) : PowerFrame c (c.wakeSpire d) := by
  unfold Chip.wakeSpire
  split <;> rfl

@[simp] theorem Chip.clusters_wakeSpire (c : Chip) (d : Nat) : (c.wakeSpire d).clusters = c.clusters := by
  unfold Chip.wakeSpire
  split <;> rfl

@[simp] theorem Chip.cluster_wakeSpire (c : Chip) (d n : Nat) : (c.wakeSpire d).cluster n = c.cluster n := by
  rw [Chip.cluster, Chip.clusters_wakeSpire, Chip.cluster]

/-- A woken spire is in state 0; there are four. -/
theorem Chip.power_spire_wakeSpire_self (c : Chip) (d : Nat) : ((c.wakeSpire d).spire d).power = 0 := by
  unfold Chip.wakeSpire
  split
  next h => exact h
  next h =>
    have hd : d < 4 := by
      by_contra hd
      exact h (by simp [Chip.spire, Vector.getD, hd])
    rw [Chip.spire_modSpire_self c _ hd]

theorem Chip.spire_wakeSpire_ne (c : Chip) {d e : Nat} (h : e ≠ d) : (c.wakeSpire d).spire e = c.spire e := by
  unfold Chip.wakeSpire
  split
  · rfl
  · exact Chip.spire_modSpire_ne c _ h

/-- A spire that was awake stays so. -/
theorem Chip.power_spire_wakeSpire (c : Chip) (d e : Nat) :
    ((c.wakeSpire d).spire e).power = (c.spire e).power ∨ ((c.wakeSpire d).spire e).power = 0 := by
  by_cases h : e = d
  · subst h
    exact .inr (c.power_spire_wakeSpire_self e)
  · exact .inl (by rw [c.spire_wakeSpire_ne h])

/-! ### A cluster goes to a power state, and returns (R12, R14) -/

theorem Chip.gate_frame (c : Chip) (n st : Nat) : PowerFrame c (c.gate n st) := by
  unfold Chip.gate
  dsimp only
  split <;> rfl

theorem Chip.clusters_gate (c : Chip) (n st : Nat) : (c.gate n st).clusters
    = (c.modCluster n (fun k => { k with power := st, offSince := if k.power = 0 then c.cycle else k.offSince })).clusters := by
  unfold Chip.gate
  dsimp only
  split <;> rfl

theorem Chip.cluster_gate_self (c : Chip) (n st : Nat) : (c.gate n st).cluster n =
    { c.cluster n with power := st, offSince := if (c.cluster n).power = 0 then c.cycle else (c.cluster n).offSince } := by
  rw [Chip.cluster, Chip.clusters_gate]
  exact c.cluster_modCluster n _

theorem Chip.cluster_gate_ne (c : Chip) {n k : Nat} (st : Nat) (h : k ≠ n) : (c.gate n st).cluster k = c.cluster k := by
  rw [Chip.cluster, Chip.clusters_gate]
  exact c.cluster_modCluster_ne _ h

/-- A power-gate discards the L1 contents of the cluster's cores (R12). -/
theorem Chip.core_gate_l1 (c : Chip) {n k : Nat} (h : k / 4 = n) :
    ((c.gate n 2).core k).l1d = [] ∧ ((c.gate n 2).core k).l1i = [] := by
  show (mgetD (mmap c.cores fun i x => if i / 4 = n then { x with l1d := [], l1i := [] } else x) k Core.reset).l1d = []
    ∧ (mgetD (mmap c.cores fun i x => if i / 4 = n then { x with l1d := [], l1i := [] } else x) k Core.reset).l1i = []
  rw [mgetD, mget_mmap]
  cases mget c.cores k with
  | none => exact ⟨rfl, rfl⟩
  | some x => simp [h]

theorem Chip.ungate_frame (c : Chip) (n : Nat) : PowerFrame c (c.ungate n) := by
  unfold Chip.ungate
  split <;> rfl

@[simp] theorem Chip.spires_ungate (c : Chip) (n : Nat) : (c.ungate n).spires = c.spires := by
  unfold Chip.ungate
  split <;> rfl

theorem Chip.cluster_ungate_ne (c : Chip) {n k : Nat} (h : k ≠ n) : (c.ungate n).cluster k = c.cluster k := by
  unfold Chip.ungate
  split
  · rfl
  · exact c.cluster_modCluster_ne _ h

/-- A cluster that the configuration record leaves on returns to state 0. -/
theorem Chip.power_ungate (c : Chip) {n : Nat} (h : c.clmask.getLsbD n = false) : ((c.ungate n).cluster n).power = 0 := by
  unfold Chip.ungate
  split
  next hp => exact hp.resolve_right (by simp [h])
  · rw [Chip.cluster_modCluster]

/-- What a cluster's tiles and slots hold is not touched. -/
theorem Chip.cluster_ungate_kept (c : Chip) (n : Nat) :
    ((c.ungate n).cluster n).tiles = (c.cluster n).tiles ∧ ((c.ungate n).cluster n).slots = (c.cluster n).slots := by
  unfold Chip.ungate
  split
  · exact ⟨rfl, rfl⟩
  · rw [Chip.cluster_modCluster]
    exact ⟨rfl, rfl⟩

theorem Chip.wakeCluster_frame (c : Chip) (n : Nat) : PowerFrame c (c.wakeCluster n) :=
  (c.wakeSpire_frame _).trans (Chip.ungate_frame _ n)

@[simp] theorem Chip.spire_wakeCluster (c : Chip) (n e : Nat) :
    (c.wakeCluster n).spire e = (c.wakeSpire (spireOfCluster n)).spire e := by
  rw [Chip.wakeCluster, Chip.spire, Chip.spires_ungate, ← Chip.spire]

theorem Chip.cluster_wakeCluster_ne (c : Chip) {n k : Nat} (h : k ≠ n) : (c.wakeCluster n).cluster k = c.cluster k := by
  rw [Chip.wakeCluster, Chip.cluster_ungate_ne _ h, Chip.cluster_wakeSpire]

theorem Chip.power_wakeCluster (c : Chip) {n : Nat} (h : c.clmask.getLsbD n = false) : ((c.wakeCluster n).cluster n).power = 0 :=
  Chip.power_ungate _ (by rw [(c.wakeSpire_frame _).clmask]; exact h)

theorem Chip.cluster_wakeCluster_kept (c : Chip) (n : Nat) :
    ((c.wakeCluster n).cluster n).tiles = (c.cluster n).tiles ∧ ((c.wakeCluster n).cluster n).slots = (c.cluster n).slots := by
  have h := (c.wakeSpire (spireOfCluster n)).cluster_ungate_kept n
  rwa [Chip.cluster_wakeSpire] at h

/-! ### The package (R12-R14) -/

@[simp] theorem settlePower_chip (s : State) : (settlePower s).chip = s.chip := by
  unfold settlePower
  split
  · rfl
  · split <;> rfl

/-- The package leaves standby when one of its spires is awake. -/
theorem settlePower_awake {s : State} {d : Nat} (hd : d < 4) (h : (s.chip.spire d).power = 0) :
    (settlePower s).keep.power.package = 0 := by
  unfold settlePower
  split
  next hp => exact hp
  · rw [if_pos]
    exact .inr (List.any_eq_true.2 ⟨d, List.mem_range.2 hd, by simp [h]⟩)

/-- The package stands in no state whose exit latency its tolerance forbids. -/
theorem settlePower_package (s : State) : exitLatency (settlePower s).keep.power.package ≤ s.chip.packageTol := by
  unfold settlePower
  split
  next hp => rw [hp]; exact Nat.zero_le _
  · split
    · exact Nat.zero_le _
    next hn => exact Nat.le_of_not_lt fun hlt => hn (.inl hlt)

/-! ### Clusters enter and wake -/

theorem Chip.clusterState_eq {c : Chip} {n st : Nat}
    (h : (40 ≤ c.clusterTol n ∧ st = 2) ∨ (2 ≤ c.clusterTol n ∧ c.clusterTol n < 40 ∧ st = 1)) : c.clusterState n = st := by
  unfold Chip.clusterState
  rcases h with ⟨h, rfl⟩ | ⟨h2, h40, rfl⟩
  · rw [if_pos h]
  · rw [if_neg (by omega), if_pos h2]

theorem enterState_cluster {s : State} {n : Nat} (hn : n < 128) (hi : s.chip.idle n = true)
    (hp : (s.chip.cluster n).power < s.chip.clusterState n) :
    enterState n s = { s with chip := s.chip.gate n (s.chip.clusterState n) } := by
  simp [enterState, hn, hi, hp]

theorem Chip.clusterWakes_iff (c : Chip) (n : Nat) : c.clusterWakes n = true ↔
    c.aimedAt n = true ∨ c.clusterTol n < exitLatency (c.cluster n).power ∨ ∃ i < 4, 0 < c.busyOn (4 * n + i) := by
  simp only [Chip.clusterWakes, Bool.or_eq_true, List.any_eq_true, List.mem_range, decide_eq_true_eq]
  rw [or_assoc, or_comm, or_assoc]

theorem wakeUnit_cluster {s : State} {n : Nat} (hn : n < 128) (h : s.chip.clusterWakes n = true) :
    wakeUnit n s = settlePower { s with chip := s.chip.wakeCluster n } := by
  simp [wakeUnit, hn, h]

theorem wakeUnit_cluster_asleep {s : State} {n : Nat} (hn : n < 128) (h : ¬ s.chip.clusterWakes n = true) : wakeUnit n s = s := by
  simp [wakeUnit, hn, h]

/-! ### Spires enter and wake -/

theorem Chip.spireIdle_of {c : Chip} {d : Nat} (h : ∀ k, k / 32 = d → c.idle k = true) : c.spireIdle d = true :=
  List.all_eq_true.2 fun i hi => h _ (by have := List.mem_range.1 hi; omega)

/-- Every cluster of a spire is gated. -/
def Chip.gateAll (c : Chip) (d : Nat) : Chip := (List.range 32).foldl (fun c i => c.gate (32 * d + i) 2) c

theorem Chip.gateAll_frame (c : Chip) (d : Nat) : PowerFrame c (c.gateAll d) :=
  foldl_keeps (P := PowerFrame c) (fun _ _ h => h.trans (Chip.gate_frame _ _ _)) _ (.refl c)

theorem Chip.gateAll_inside (c : Chip) {d k : Nat} (h : k / 32 = d) : ((c.gateAll d).cluster k).power = 2 := by
  have hk : k = 32 * d + k % 32 := by omega
  refine foldl_establishes (P := fun c : Chip => (c.cluster k).power = 2) (a := k % 32) (fun b i hb => ?_) (fun b => ?_)
    (List.mem_range.2 (Nat.mod_lt _ (by decide))) c
  · by_cases hi : k = 32 * d + i
    · rw [← hi, Chip.cluster_gate_self]
    · rw [Chip.cluster_gate_ne _ _ hi]
      exact hb
  · rw [← hk, Chip.cluster_gate_self]

theorem Chip.gateAll_outside (c : Chip) {d k : Nat} (h : k / 32 ≠ d) : (c.gateAll d).cluster k = c.cluster k := by
  refine List.foldlRecOn (motive := fun b : Chip => b.cluster k = c.cluster k) _ _ rfl (fun b hb i hi => ?_)
  have := List.mem_range.1 hi
  rw [Chip.cluster_gate_ne _ _ (by omega)]
  exact hb

theorem enterState_spire {s : State} {d : Nat} (hd : d < 4) (hi : s.chip.spireIdle d = true) (ht : 1000 ≤ s.chip.spireTol d) :
    enterState (128 + d) s = { s with chip := (s.chip.gateAll d).modSpire d (fun x => { x with power := 3 }) } := by
  have h1 : ¬ 128 + d < 128 := by omega
  have h2 : 128 + d < 132 := by omega
  simp [enterState, h1, h2, hi, ht, Chip.gateAll]

theorem Chip.spireWakes_of {c : Chip} {d : Nat} (h : c.hopsTo d = true ∨ c.spireTol d < exitLatency (c.spire d).power
    ∨ (∃ k, k / 32 = d ∧ c.clusterWakes k = true)) : c.spireWakes d = true := by
  simp only [Chip.spireWakes, Bool.or_eq_true, List.any_eq_true, List.mem_range, decide_eq_true_eq]
  rcases h with h | h | ⟨k, hk, h⟩
  · exact .inl (.inl h)
  · exact .inl (.inr h)
  · refine .inr ⟨k % 32, Nat.mod_lt _ (by decide), ?_⟩
    rwa [show 32 * d + k % 32 = k by omega]

theorem wakeUnit_spire {s : State} {d : Nat} (hd : d < 4) (h : s.chip.spireWakes d = true) :
    wakeUnit (128 + d) s = settlePower { s with chip := s.chip.wakeSpire d } := by
  have h1 : ¬ 128 + d < 128 := by omega
  have h2 : 128 + d < 132 := by omega
  simp [wakeUnit, h1, h2, h]

theorem wakeUnit_spire_asleep {s : State} {d : Nat} (hd : d < 4) (h : s.chip.spireWakes d = false) : wakeUnit (128 + d) s = s := by
  have h1 : ¬ 128 + d < 128 := by omega
  have h2 : 128 + d < 132 := by omega
  simp [wakeUnit, h1, h2, h]

/-! ### The package enters and wakes -/

theorem enterState_package {s : State} (hi : ∀ k, k < 128 → s.chip.idle k = true) (hp : ∀ d, d < 4 → (s.chip.spire d).power = 3)
    (ht : 20000 ≤ s.chip.packageTol) :
    enterState 132 s = { s with keep := { s.keep with power := { s.keep.power with package := 4 } } } := by
  have ha : (List.range 4).all (fun d => s.chip.spireIdle d && (s.chip.spire d).power = 3) = true := by
    refine List.all_eq_true.2 fun d hd => ?_
    have hd := List.mem_range.1 hd
    rw [Chip.spireIdle_of (fun k hk => hi k (by omega)), hp d hd]
    rfl
  simp [enterState, ha, ht]

theorem wakeUnit_package {s : State} (h : ∃ d < 4, s.chip.spireWakes d = true) :
    wakeUnit 132 s = { s with keep := { s.keep with power := { s.keep.power with package := 0 } } } := by
  have ha : (List.range 4).any (fun d => s.chip.spireWakes d) = true := by
    obtain ⟨d, hd, hw⟩ := h
    exact List.any_eq_true.2 ⟨d, List.mem_range.2 hd, hw⟩
  simp [wakeUnit, ha]

/-! ### The events -/

theorem exec_powerStateEnter {s : State} (h : s.keep.power.halted = false) (u : BitVec 8) :
    exec (.powerStateEnter u) s = .next (enterState u.toNat s) := by
  show Host.Outcome.next (if s.keep.power.halted then s else enterState u.toNat s) = _
  rw [h]
  rfl

theorem exec_unitWake {s : State} (h : s.keep.power.halted = false) (u : BitVec 8) :
    exec (.unitWake u) s = .next (wakeUnit u.toNat s) := by
  show Host.Outcome.next (if s.keep.power.halted then s else wakeUnit u.toNat s) = _
  rw [h]
  rfl

theorem unitsEnterPowerStatesAndWake : Claims.UnitsEnterPowerStatesAndWake := by
  intro s hh u
  rw [exec_powerStateEnter hh, exec_unitWake hh]
  refine ⟨?_, ?_, ?_⟩
  · rintro n rfl hn
    refine ⟨fun hi st hst hp => ?_, fun hw hm => ?_, fun ha hl hb => ?_⟩
    · obtain rfl := Chip.clusterState_eq hst
      refine ⟨_, congrArg Host.Outcome.next (enterState_cluster hn hi hp), ?_⟩
      dsimp only
      have hf := s.chip.gate_frame u.toNat (s.chip.clusterState u.toNat)
      rw [Chip.cluster_gate_self]
      refine ⟨rfl, fun k hk => Chip.cluster_gate_ne _ _ hk, fun h2 k hk => ?_, rfl, rfl, hf.cos, hf.mem⟩
      rw [h2]
      exact Chip.core_gate_l1 _ hk
    · have hf := s.chip.wakeCluster_frame u.toNat
      have hs : ((s.chip.wakeCluster u.toNat).spire (u.toNat / 32)).power = 0 := by
        rw [Chip.spire_wakeCluster]
        exact Chip.power_spire_wakeSpire_self _ _
      have hk := s.chip.cluster_wakeCluster_kept u.toNat
      refine ⟨_, congrArg Host.Outcome.next (wakeUnit_cluster hn ((Chip.clusterWakes_iff _ _).2 hw)), ?_⟩
      rw [settlePower_chip]
      exact ⟨Chip.power_wakeCluster _ hm, hs, settlePower_awake (by omega) hs, fun k hk => Chip.cluster_wakeCluster_ne _ hk,
        hk.1, hk.2, hf.cos, hf.mem⟩
    · refine congrArg Host.Outcome.next (wakeUnit_cluster_asleep hn fun hw => ?_)
      rcases (Chip.clusterWakes_iff _ _).1 hw with h | h | ⟨i, hi, h⟩
      · rw [ha] at h; cases h
      · omega
      · have := hb i hi; omega
  · intro d hu hd
    rw [hu]
    refine ⟨fun hi ht => ?_, fun hw => ?_, Chip.spireWakes_of, fun hw => congrArg Host.Outcome.next (wakeUnit_spire_asleep hd hw)⟩
    · have hf := s.chip.gateAll_frame d
      refine ⟨_, congrArg Host.Outcome.next (enterState_spire hd (Chip.spireIdle_of hi) ht), ?_⟩
      dsimp only
      rw [Chip.spire_modSpire_self _ _ hd, Chip.cos_modSpire, Chip.mem_modSpire, hf.cos, hf.mem]
      refine ⟨rfl, fun k hk => ?_, fun k hk => ?_, rfl, rfl⟩
      · rw [Chip.cluster_modSpire, Chip.gateAll_inside _ hk]
      · rw [Chip.cluster_modSpire, Chip.gateAll_outside _ hk]
    · have hs := s.chip.power_spire_wakeSpire_self d
      refine ⟨_, congrArg Host.Outcome.next (wakeUnit_spire hd hw), ?_⟩
      rw [settlePower_chip]
      exact ⟨hs, settlePower_awake hd hs, (s.chip.wakeSpire_frame d).mem⟩
  · intro hu
    rw [hu]
    exact ⟨fun hi hp ht => ⟨_, congrArg Host.Outcome.next (enterState_package hi hp ht), rfl, rfl⟩,
      fun hw => ⟨_, congrArg Host.Outcome.next (wakeUnit_package hw), rfl, rfl⟩⟩

/-! ### Waking what a tolerance forbids (R13, R14, R19) -/

/-- A spire wakes when its exit latency is above its tolerance. -/
def Chip.easeSpire (c : Chip) (d : Nat) : Chip := if c.spireTol d < exitLatency (c.spire d).power then c.wakeSpire d else c

/-- A cluster wakes when its exit latency is above its tolerance. -/
def Chip.easeCluster (c : Chip) (n : Nat) : Chip :=
  if c.clusterTol n < exitLatency (c.cluster n).power then c.wakeCluster n else c

/-- Every spire in turn. -/
def Chip.easeSpires (c : Chip) : Chip := (List.range 4).foldl Chip.easeSpire c

theorem Chip.wakeIntolerant_eq (c : Chip) :
    c.wakeIntolerant = c.easeSpires.clusters.foldl (fun d e => d.easeCluster e.1) c.easeSpires := rfl

theorem Chip.easeSpire_frame (c : Chip) (d : Nat) : PowerFrame c (c.easeSpire d) := by
  unfold Chip.easeSpire
  split
  · exact c.wakeSpire_frame d
  · exact .refl c

theorem Chip.easeCluster_frame (c : Chip) (n : Nat) : PowerFrame c (c.easeCluster n) := by
  unfold Chip.easeCluster
  split
  · exact c.wakeCluster_frame n
  · exact .refl c

theorem Chip.easeSpires_frame (c : Chip) : PowerFrame c c.easeSpires :=
  foldl_keeps (P := PowerFrame c) (fun _ d h => h.trans (Chip.easeSpire_frame _ d)) _ (.refl c)

theorem Chip.wakeIntolerant_frame (c : Chip) : PowerFrame c c.wakeIntolerant := by
  rw [Chip.wakeIntolerant_eq]
  exact foldl_keeps (P := PowerFrame c) (fun _ e h => h.trans (Chip.easeCluster_frame _ e.1)) _ c.easeSpires_frame

/-- A spire stands in no state that its tolerance forbids. -/
def Chip.SpireTolerated (c : Chip) (d : Nat) : Prop := exitLatency (c.spire d).power ≤ c.spireTol d

/-- A spire whose power is as before, or 0, is tolerated as before. -/
theorem Chip.SpireTolerated.mono {c b : Chip} {d : Nat} (h : c.SpireTolerated d) (hf : PowerFrame c b)
    (hp : (b.spire d).power = (c.spire d).power ∨ (b.spire d).power = 0) : b.SpireTolerated d := by
  unfold Chip.SpireTolerated at *
  rw [hf.spireTol]
  rcases hp with hp | hp
  · rwa [hp]
  · rw [hp]; exact Nat.zero_le _

theorem Chip.spireTolerated_easeSpire_self (c : Chip) (d : Nat) : (c.easeSpire d).SpireTolerated d := by
  unfold Chip.easeSpire
  split
  · unfold Chip.SpireTolerated
    rw [c.power_spire_wakeSpire_self d]
    exact Nat.zero_le _
  next h => exact Nat.le_of_not_lt h

theorem Chip.spireTolerated_easeSpire {c : Chip} {d : Nat} (e : Nat) (h : c.SpireTolerated d) : (c.easeSpire e).SpireTolerated d := by
  unfold Chip.easeSpire
  split
  · exact h.mono (c.wakeSpire_frame e) (c.power_spire_wakeSpire e d)
  · exact h

theorem Chip.spireTolerated_easeCluster {c : Chip} {d : Nat} (n : Nat) (h : c.SpireTolerated d) :
    (c.easeCluster n).SpireTolerated d := by
  unfold Chip.easeCluster
  split
  · exact h.mono (c.wakeCluster_frame n) (by rw [Chip.spire_wakeCluster]; exact c.power_spire_wakeSpire _ d)
  · exact h

theorem Chip.spireTolerated_easeSpires (c : Chip) {d : Nat} (h : d < 4) : c.easeSpires.SpireTolerated d := by
  unfold Chip.easeSpires
  exact foldl_establishes (P := fun b : Chip => b.SpireTolerated d) (fun _ e hb => Chip.spireTolerated_easeSpire e hb)
    (fun b => b.spireTolerated_easeSpire_self d) (List.mem_range.2 h) c

theorem Chip.spireTolerated_wakeIntolerant (c : Chip) {d : Nat} (h : d < 4) : c.wakeIntolerant.SpireTolerated d := by
  rw [Chip.wakeIntolerant_eq]
  refine foldl_keeps (P := fun b : Chip => b.SpireTolerated d) (fun b e hb => ?_) _ (c.spireTolerated_easeSpires h)
  exact Chip.spireTolerated_easeCluster e.1 hb

/-- A cluster that the configuration record leaves on stands in no state that its tolerance forbids. -/
def Chip.ClusterTolerated (c : Chip) (n : Nat) : Prop :=
  c.clmask.getLsbD n = false → exitLatency (c.cluster n).power ≤ c.clusterTol n

theorem Chip.clusterTolerated_easeCluster_self (c : Chip) (n : Nat) : (c.easeCluster n).ClusterTolerated n := by
  unfold Chip.easeCluster
  split
  · intro hm
    rw [(c.wakeCluster_frame n).clmask] at hm
    rw [c.power_wakeCluster hm]
    exact Nat.zero_le _
  next h => exact fun _ => Nat.le_of_not_lt h

theorem Chip.clusterTolerated_easeCluster {c : Chip} {n : Nat} (k : Nat) (h : c.ClusterTolerated n) :
    (c.easeCluster k).ClusterTolerated n := by
  by_cases hk : n = k
  · subst hk
    exact c.clusterTolerated_easeCluster_self n
  · have hf := c.easeCluster_frame k
    have hc : (c.easeCluster k).cluster n = c.cluster n := by
      unfold Chip.easeCluster
      split
      · exact c.cluster_wakeCluster_ne hk
      · rfl
    unfold Chip.ClusterTolerated at *
    rwa [hf.clmask, hf.clusterTol, hc]

/-- A cluster is in the list that is gone through, or holds nothing and is in state 0. -/
theorem Chip.clusterTolerated_wakeIntolerant (c : Chip) (n : Nat) : c.wakeIntolerant.ClusterTolerated n := by
  rw [Chip.wakeIntolerant_eq]
  have keep : ∀ (b : Chip) (e : Nat × Cluster), b.ClusterTolerated n → (b.easeCluster e.1).ClusterTolerated n :=
    fun _ e hb => Chip.clusterTolerated_easeCluster e.1 hb
  cases h : mget c.easeSpires.clusters n with
  | some k => exact foldl_establishes (a := (n, k)) keep (fun b => b.clusterTolerated_easeCluster_self n) (mem_of_mget h) _
  | none =>
    refine foldl_keeps keep _ fun _ => ?_
    rw [Chip.cluster, mgetD, h]
    exact Nat.zero_le _

/-- A cluster whose state its tolerance allows is left in it. -/
theorem Chip.cluster_wakeIntolerant_tolerated {c : Chip} {n : Nat} (h : exitLatency (c.cluster n).power ≤ c.clusterTol n) :
    c.wakeIntolerant.cluster n = c.cluster n := by
  have hs : c.easeSpires.cluster n = c.cluster n := by
    refine foldl_keeps (P := fun b : Chip => b.cluster n = c.cluster n) (fun b d hb => ?_) _ rfl
    unfold Chip.easeSpire
    split
    · rw [Chip.cluster_wakeSpire]; exact hb
    · exact hb
  rw [Chip.wakeIntolerant_eq]
  refine (foldl_keeps (P := fun b : Chip => PowerFrame c b ∧ b.cluster n = c.cluster n) (fun b e hb => ?_) _
    ⟨c.easeSpires_frame, hs⟩).2
  obtain ⟨hf, hc⟩ := hb
  refine ⟨hf.trans (b.easeCluster_frame e.1), ?_⟩
  unfold Chip.easeCluster
  split
  next hlt =>
    have hne : n ≠ e.1 := by
      rintro rfl
      rw [hf.clusterTol, hc] at hlt
      omega
    rw [Chip.cluster_wakeCluster_ne _ hne]
    exact hc
  · exact hc

theorem toleranceWritesWakeUnits : Claims.ToleranceWritesWakeUnits := by
  intro s p v
  refine ⟨writeTolerance p.toNat v s, rfl, ?_⟩
  have hp : ∀ q, q ≠ p.toNat → (s.chip.modPart p.toNat (fun q => { q with tol := v.setWidth 24 })).part q = s.chip.part q :=
    fun q hq => Chip.part_modPart_ne _ _ hq
  have ht : ((s.chip.modPart p.toNat (fun q => { q with tol := v.setWidth 24 })).part p.toNat).tol.toNat = v.toNat % 2 ^ 24 := by
    rw [Chip.part_modPart]
    exact BitVec.toNat_setWidth 24 v
  unfold writeTolerance
  dsimp only
  generalize hc : s.chip.modPart p.toNat (fun q => { q with tol := v.setWidth 24 }) = c at hp ht
  have hcl : ∀ n, c.cluster n = s.chip.cluster n := fun n => by rw [← hc]; rfl
  have hmask : c.clmask = s.chip.clmask := by rw [← hc]; rfl
  have hcos : c.cos = s.chip.cos := by rw [← hc]; rfl
  have hmem : c.mem = s.chip.mem := by rw [← hc]; rfl
  by_cases hh : s.keep.power.halted = true
  · rw [if_pos hh]
    refine ⟨ht, fun h => ?_, fun _ => ⟨rfl, ?_, ?_⟩, fun n _ => by rw [hcl], hp, hcos, hmem⟩
    · rw [hh] at h; cases h
    · rw [← hc]; rfl
    · rw [← hc]; rfl
  · rw [if_neg hh, settlePower_chip]
    dsimp only
    have hf := c.wakeIntolerant_frame
    have hcls : ∀ n, n < 128 → s.chip.clmask.getLsbD n = false →
        exitLatency (c.wakeIntolerant.cluster n).power ≤ c.wakeIntolerant.clusterTol n := by
      intro n _ hm
      refine c.clusterTolerated_wakeIntolerant n ?_
      rw [hf.clmask, hmask]
      exact hm
    have hsp : ∀ d, d < 4 → exitLatency (c.wakeIntolerant.spire d).power ≤ c.wakeIntolerant.spireTol d :=
      fun d hd => c.spireTolerated_wakeIntolerant hd
    have hkept : ∀ n, exitLatency (s.chip.cluster n).power ≤ c.wakeIntolerant.clusterTol n →
        (c.wakeIntolerant.cluster n).power = (s.chip.cluster n).power := by
      intro n hn
      rw [hf.clusterTol, ← hcl] at hn
      rw [Chip.cluster_wakeIntolerant_tolerated hn, hcl]
    generalize c.wakeIntolerant = e at *
    refine ⟨?_, fun _ => ⟨hcls, hsp, settlePower_package _⟩, fun h => absurd h hh,
      hkept, fun q hq => ?_, hf.cos.trans hcos, hf.mem.trans hmem⟩
    · rw [hf.part]
      exact ht
    · rw [hf.part]
      exact hp q hq

/-- Settles O40: what each wake and entry does to a unit, and a fold that eases every unit once. -/
theorem powerStates : Obligations.PowerStates := ⟨unitsEnterPowerStatesAndWake, toleranceWritesWakeUnits⟩

end Sys2Proof.Machine
end

section
/-! O44: the boot stages (R17). -/

namespace Sys2Proof.Machine

/-! ### Cleared memory and the first choice -/

/-- No address of a range is listed. -/
def Memory.Blank (m : Memory) (a n : Nat) : Prop := ∀ c ∈ m, c.1 < a ∨ a + n ≤ c.1

theorem memRead_unlisted {m : Memory} {a : Nat} (h : ∀ c ∈ m, c.1 ≠ a) : memRead m a = 0 := by
  induction m with
  | nil => rfl
  | cons p r ih =>
    obtain ⟨hp, hr⟩ := List.forall_mem_cons.1 h
    rw [memRead, if_neg hp, ih hr]

/-- A blank range reads zero. -/
theorem Memory.Blank.read {m : Memory} {a n x : Nat} (h : m.Blank a n) (ha : a ≤ x) (hx : x < a + n) : memRead m x = 0 :=
  memRead_unlisted fun c hc => by have := h c hc; omega

theorem Memory.blank_memClear (m : Memory) (a n : Nat) : (memClear m a n).Blank a n := fun c hc => by
  simpa using (List.mem_filter.1 hc).2

/-- Clearing another range lists nothing anew. -/
theorem Memory.Blank.memClear {m : Memory} {a n : Nat} (h : m.Blank a n) (b k : Nat) : (memClear m b k).Blank a n :=
  fun c hc => h c (List.mem_filter.1 hc).1

theorem leastFrom_holds {p : Nat → Bool} {fuel i k : Nat} (h : leastFrom fuel i p = some k) : p k = true := by
  induction fuel generalizing i with
  | zero => cases h
  | succ f ih =>
    unfold leastFrom at h
    split at h
    next hp => cases h; exact hp
    next => exact ih h

/-- A spill region is placed where it fits, whether by the lantern's choice or not. -/
theorem spillChoice_fits {retired : List Nat} {boot d f : Nat} (h : spillChoice retired boot d = some f) :
    spillFits retired d f = true := by
  unfold spillChoice at h
  split at h
  next hf => cases h; exact hf
  next =>
    obtain ⟨i, hi, rfl⟩ := Option.map_eq_some_iff.1 h
    exact leastFrom_holds (p := fun i => spillFits retired d (65536 * d + i)) hi

/-- None of the 288 frames of a fitting region is retired. -/
theorem spillFits_sound {retired : List Nat} {d f : Nat} (h : spillFits retired d f = true) :
    ∀ r, f ≤ r → r < f + 288 → r ∉ retired := by
  intro r hl hr hm
  have ha : ∀ x ∈ retired, x < f ∨ f + 288 ≤ x := by
    simpa [spillFits] using (Bool.and_eq_true_iff.1 h).2
  have := ha r hm
  omega

/-! ### Regions (R17 stage 6) -/

/-- A spire's regions are placed: its beacon table is empty and its spill region is blank and whole. -/
def Chip.Placed (c : Chip) (d : Nat) : Prop :=
  (c.spire d).beacons = [] ∧ ∃ f, (c.spire d).spill = f * 2 ^ 21 ∧ spillFits c.retired d f = true
    ∧ c.mem.Blank (f * 2 ^ 21) (288 * 2 ^ 21)

/-- `e` is `c` but for memory and what the spires hold. -/
def RegionFrame (c e : Chip) : Prop := e = { c with mem := e.mem, spires := e.spires }

theorem Chip.placeRegions_some {c e : Chip} {boot d : Nat} (h : c.placeRegions boot d = some e) :
    ∃ f fs, spillFits c.retired d f = true ∧ e = Chip.modSpire { c with mem := memClear c.mem (f * 2 ^ 21) (288 * 2 ^ 21) } d
      (fun s => { s with beacons := [], recs := [], spill := f * 2 ^ 21, frames := fs }) := by
  unfold Chip.placeRegions at h
  split at h
  · cases h
  next f hf =>
    split at h
    · cases h
    next fs hfs => exact ⟨f, fs, spillChoice_fits hf, (Option.some.inj h).symm⟩

theorem Chip.placeRegions_frame {c e : Chip} {boot d : Nat} (h : c.placeRegions boot d = some e) : RegionFrame c e := by
  obtain ⟨f, fs, -, rfl⟩ := Chip.placeRegions_some h
  rfl

theorem Chip.placeRegions_placed_self {c e : Chip} {boot d : Nat} (h : c.placeRegions boot d = some e) (hd : d < 4) : e.Placed d := by
  obtain ⟨f, fs, hf, rfl⟩ := Chip.placeRegions_some h
  unfold Chip.Placed
  rw [Chip.spire_modSpire_self _ _ hd]
  exact ⟨rfl, f, rfl, hf, Memory.blank_memClear _ _ _⟩

/-- Placing the regions of one spire leaves those of another placed. -/
theorem Chip.placeRegions_keeps {c e : Chip} {boot d k : Nat} (h : c.placeRegions boot d = some e) (hk : k < 4) (hp : c.Placed k) :
    e.Placed k := by
  by_cases hkd : k = d
  · subst hkd
    exact Chip.placeRegions_placed_self h hk
  · obtain ⟨hb, g, hg, hgf, hgm⟩ := hp
    obtain ⟨f, fs, hf, rfl⟩ := Chip.placeRegions_some h
    unfold Chip.Placed
    rw [Chip.spire_modSpire_ne _ _ hkd]
    exact ⟨hb, g, hg, hgf, hgm.memClear _ _⟩

theorem Chip.placeAllRegions_keeps {ds : List Nat} {c e : Chip} {boot k : Nat} (h : c.placeAllRegions boot ds = some e) (hk : k < 4)
    (hp : c.Placed k) : e.Placed k := by
  induction ds generalizing c with
  | nil => cases h; exact hp
  | cons d r ih =>
    unfold Chip.placeAllRegions at h
    split at h
    · cases h
    next b hb => exact ih h (Chip.placeRegions_keeps hb hk hp)

/-- Every spire of the list has its regions placed. -/
theorem Chip.placeAllRegions_placed {ds : List Nat} {c e : Chip} {boot k : Nat} (h : c.placeAllRegions boot ds = some e) (hk : k < 4)
    (hm : k ∈ ds) : e.Placed k := by
  induction ds generalizing c with
  | nil => cases hm
  | cons d r ih =>
    unfold Chip.placeAllRegions at h
    split at h
    · cases h
    next b hb =>
      rcases List.mem_cons.1 hm with rfl | hm
      · exact Chip.placeAllRegions_keeps h hk (Chip.placeRegions_placed_self hb hk)
      · exact ih h hm

theorem Chip.placeAllRegions_frame {ds : List Nat} {c e : Chip} {boot : Nat} (h : c.placeAllRegions boot ds = some e) :
    RegionFrame c e := by
  induction ds generalizing c with
  | nil => cases h; rfl
  | cons d r ih =>
    unfold Chip.placeAllRegions at h
    split at h
    · cases h
    next b hb =>
      have h1 := Chip.placeRegions_frame hb
      have h2 := ih h
      unfold RegionFrame at h1 h2 ⊢
      rw [h2, h1]

/-! ### A stage fails, or the boot goes on -/

/-- A boot that has not reached `READY` stops at a stage with the stage's error. -/
theorem stoppedAt_bootFails {s : State} (h : s.keep.boot.ready = false) (stage err : Nat) :
    Claims.StoppedAt (bootFails err (atStage stage s)) stage err := ⟨rfl, rfl, h, rfl⟩

/-- From the microcode on, a boot changes of the keep its stage, its error, `READY` and whether the clocks have stopped. -/
def BootKept (k l : Keep) : Prop :=
  l = { k with boot := { k.boot with stage := l.boot.stage, err := l.boot.err, ready := l.boot.ready }, power := l.power }

/-- The last stage leaves everything but the ports as it was, sets `READY` and raises one event; or a port fails. -/
theorem bootLinks_outcome (s : State) : bootLinks s = bootFails 0x71 (atStage 7 s)
    ∨ ∃ l, bootLinks s = { s with
      keep := { s.keep with boot := { s.keep.boot with stage := 8, ready := true } }
      chip := Chip.post { s.chip with links := l } ⟨0x0001, 4, s.chip.version.setWidth 64, s.chip.devhash, none⟩ } := by
  unfold bootLinks
  dsimp only
  split
  · exact .inl rfl
  · exact .inr ⟨_, rfl⟩

/-- The clusters that a boot leaves on stand clock-gated until something runs on them. -/
theorem mgetD_power_foldl {m : AMap Cluster} {l : List Nat} {n : Nat} (h : n ∈ l) :
    (mgetD (l.foldl (fun m i => mset m i { mgetD m i Cluster.reset with power := 2 }) m) n Cluster.reset).power = 2 := by
  refine foldl_establishes (P := fun m : AMap Cluster => (mgetD m n Cluster.reset).power = 2) (fun m i hm => ?_) (fun m => ?_) h m
  · by_cases hi : n = i
    · subst hi
      rw [mgetD_mset_self]
    · rw [mgetD_mset_ne _ _ _ hi]
      exact hm
  · rw [mgetD_mset_self]

/-- The chip with microcode loaded: its version, `DEVHASH`, and the clusters that the configuration record leaves on (R17). -/
def Chip.withMicrocode (c : Chip) (uc : List Byte) : Chip :=
  { c with
    version := BitVec.ofNat 32 (imageVer uc)
    devhash := deviceHash (imageVer uc) (Config.microcodeSet uc)
    clusters := ((List.range 128).filter (fun i => c.clmask.getLsbD i)).foldl
      (fun m i => mset m i { mgetD m i Cluster.reset with power := 2 }) c.clusters }

theorem Chip.power_withMicrocode (c : Chip) (uc : List Byte) {n : Nat} (hn : n < 128) (h : c.clmask.getLsbD n = true) :
    ((c.withMicrocode uc).cluster n).power = 2 :=
  mgetD_power_foldl (List.mem_filter.2 ⟨List.mem_range.2 hn, h⟩)

/-- Stages 5 and 6 stop, or go on to the links with the regions placed. -/
theorem bootSpires_outcome (uc : List Byte) (s : State) : bootSpires uc s = bootFails 0x51 (atStage 5 s)
    ∨ bootSpires uc s = bootFails 0x61 (atStage 6 { s with chip := s.chip.withMicrocode uc })
    ∨ ∃ d boot key, Chip.placeAllRegions { s.chip.withMicrocode uc with compass := [], combiner := [] } boot [0, 1, 2, 3] = some d
      ∧ bootSpires uc s = bootLinks (atStage 6 { s with chip := { d with saveKey := key } }) := by
  unfold bootSpires
  dsimp only
  split
  · exact .inl rfl
  split
  · exact .inr (.inl rfl)
  next d hd =>
    refine .inr (.inr ⟨d, s.keep.boot.count, Config.saveKey s.keep.boot.count, ?_, rfl⟩)
    split at hd
    · exact hd
    · cases hd

/-- What `READY` finds, of the chip that the microcode is loaded into. -/
def ReadyFrom (c d : Chip) (uc : List Byte) : Prop :=
  d.version = BitVec.ofNat 32 (imageVer uc) ∧ d.devhash = deviceHash (imageVer uc) (Config.microcodeSet uc)
    ∧ d.retired = c.retired ∧ d.compass = [] ∧ d.combiner = [] ∧ d.clmask = c.clmask
    ∧ (∀ n, n < 128 → d.clmask.getLsbD n = true → (d.cluster n).power = 2) ∧ (∀ k, k < 4 → d.Placed k)
    ∧ d.outbox = c.outbox ++ [⟨0x0001, 4, d.version.setWidth 64, d.devhash, none⟩]

/-- The chip of a boot that reaches `READY`. -/
theorem readyFrom_of {c d : Chip} {uc : List Byte} {boot : Nat}
    (h : Chip.placeAllRegions { c.withMicrocode uc with compass := [], combiner := [] } boot [0, 1, 2, 3] = some d) (key : List Byte)
    (l : Links) :
    ReadyFrom c (Chip.post { d with saveKey := key, links := l } ⟨0x0001, 4, d.version.setWidth 64, d.devhash, none⟩) uc := by
  have hp : ∀ k, k < 4 → d.Placed k := fun k hk => Chip.placeAllRegions_placed h hk (by simp; omega)
  have hf := Chip.placeAllRegions_frame h
  have hw : ∀ n, n < 128 → d.clmask.getLsbD n = true → (d.cluster n).power = 2 := fun n hn hc => by
    rw [hf] at hc ⊢
    exact c.power_withMicrocode uc hn hc
  have ho : d.outbox = c.outbox := by rw [hf]; rfl
  refine ⟨by rw [hf]; rfl, by rw [hf]; rfl, by rw [hf]; rfl, by rw [hf]; rfl, by rw [hf]; rfl, by rw [hf]; rfl, hw, hp, ?_⟩
  show d.outbox ++ _ = _
  rw [ho]
  rfl

/-- Stages 5 to 8: one of three errors, or `READY` with the regions cleared. -/
theorem bootSpires_ends {s : State} (hr : s.keep.boot.ready = false) (uc : List Byte) :
    BootKept s.keep (bootSpires uc s).keep
    ∧ (Claims.StoppedAt (bootSpires uc s) 5 0x51 ∨ Claims.StoppedAt (bootSpires uc s) 6 0x61
      ∨ Claims.StoppedAt (bootSpires uc s) 7 0x71
      ∨ ((bootSpires uc s).keep.boot.err = s.keep.boot.err ∧ (bootSpires uc s).keep.boot.stage = 8
        ∧ (bootSpires uc s).keep.boot.ready = true ∧ ReadyFrom s.chip (bootSpires uc s).chip uc)) := by
  rcases bootSpires_outcome uc s with e | e | ⟨d, boot, key, hd, e⟩
  · rw [e]
    exact ⟨rfl, .inl (stoppedAt_bootFails hr _ _)⟩
  · rw [e]
    exact ⟨rfl, .inr (.inl (stoppedAt_bootFails hr _ _))⟩
  · rcases bootLinks_outcome (atStage 6 { s with chip := { d with saveKey := key } }) with e' | ⟨l, e'⟩
    · rw [e, e']
      exact ⟨rfl, .inr (.inr (.inl (stoppedAt_bootFails hr _ _)))⟩
    · rw [e, e']
      exact ⟨rfl, .inr (.inr (.inr ⟨rfl, rfl, rfl, readyFrom_of hd key l⟩))⟩

/-- A spire placed and read as R17's claim reads it. -/
theorem Chip.Placed.cleared {c : Chip} {d : Nat} (h : c.Placed d) :
    (∀ i, c.beacon d i = Beacon.reset)
    ∧ (∀ a, (c.spire d).spill ≤ a → a < (c.spire d).spill + 288 * 2 ^ 21 → memRead c.mem a = 0)
    ∧ ∀ f, (c.spire d).spill / 2 ^ 21 ≤ f → f < (c.spire d).spill / 2 ^ 21 + 288 → f ∉ c.retired := by
  obtain ⟨hb, f, hf, hfit, hm⟩ := h
  refine ⟨fun i => ?_, fun a hl hr => ?_, fun g hl hr => ?_⟩
  · rw [Chip.beacon, hb]
    rfl
  · rw [hf] at hl hr
    exact hm.read hl hr
  · rw [hf, Nat.mul_div_cancel _ (by decide)] at hl hr
    exact spillFits_sound hfit g hl hr

/-- The chip that has reached `READY` is booted. -/
theorem ReadyFrom.booted {s u t : State} {r uc : List Byte} (h : ReadyFrom u.chip t.chip uc) (hs : t.keep.boot.stage = 8)
    (hr : t.keep.boot.ready = true) (hb : u.chip.retired = s.keep.store.badPages)
    (hc : u.chip.clmask = BitVec.ofNat 128 (recField r 0x18 16)) (ho : u.chip.outbox = s.chip.outbox) : Claims.Booted s t r uc := by
  obtain ⟨hv, hd, hret, hcomp, hcomb, hmask, hpow, hpl, hout⟩ := h
  exact ⟨hs, hr, hv, hd, hret.trans hb, hcomp, hcomb, hmask.trans hc, hpow, fun d i hd => (hpl d hd).cleared.1 i,
    fun d a hd => (hpl d hd).cleared.2.1 a, fun d f hd => (hpl d hd).cleared.2.2 f,
    _, by rw [hout, ho], rfl, rfl, rfl⟩

/-! ### The configuration record and the images (R15, R16, R95) -/

/-- The state with the configuration record taken (stage 3). -/
def withConfig (r : List Byte) (s : State) : State :=
  { s with
    keep := { s.keep with boot := { s.keep.boot with
      plimit := Nat.min 2000 (recField r 0x10 4), dieWarn := recField r 0x14 2, hbmWarn := recField r 0x16 2
      cfgSeq := wordOf (recField r 8 8), cfgRecord := r } }
    chip := { s.chip with clmask := BitVec.ofNat 128 (recField r 0x18 16) } }

/-- The state with the bad-page list read (stage 4). -/
def withBadPages (s : State) : State := { s with chip := { s.chip with retired := s.keep.store.badPages } }

/-- Stages 3 and 4 stop, or go on with the record taken and the bad-page list read. -/
theorem bootMemory_outcome (uc : List Byte) (s : State) :
    (pickConfig s.keep.store = none ∧ bootMemory uc s = bootFails 0x31 (atStage 3 s))
    ∨ ∃ r, pickConfig s.keep.store = some r ∧ (bootMemory uc s = bootFails 0x41 (atStage 4 (withConfig r s))
      ∨ bootMemory uc s = bootFails 0x42 (atStage 4 (withConfig r s))
      ∨ bootMemory uc s = bootSpires uc (withBadPages (atStage 4 (withConfig r s)))) := by
  have hs : (atStage 3 s).keep.store = s.keep.store := rfl
  unfold bootMemory
  dsimp only
  rw [hs]
  split
  next h => exact .inl ⟨h, rfl⟩
  next r h =>
    refine .inr ⟨r, h, ?_⟩
    split
    · exact .inl rfl
    · split
      · exact .inr (.inl rfl)
      · exact .inr (.inr rfl)

/-- What the boot does once both images are taken, of a state that has not reached `READY`. -/
theorem bootMemory_ends {s : State} (hr : s.keep.boot.ready = false) (uc : List Byte) :
    (bootMemory uc s).keep.store = s.keep.store ∧ (bootMemory uc s).keep.boot.started = s.keep.boot.started
    ∧ (bootMemory uc s).keep.boot.count = s.keep.boot.count ∧ (bootMemory uc s).keep.boot.fwImage = s.keep.boot.fwImage
    ∧ (bootMemory uc s).keep.boot.ucImage = s.keep.boot.ucImage
    ∧ ((pickConfig s.keep.store = none ∧ Claims.StoppedAt (bootMemory uc s) 3 0x31)
      ∨ ∃ r, pickConfig s.keep.store = some r ∧ Claims.Configured (bootMemory uc s) r
        ∧ (Claims.StoppedAt (bootMemory uc s) 4 0x41 ∨ Claims.StoppedAt (bootMemory uc s) 4 0x42
          ∨ Claims.StoppedAt (bootMemory uc s) 5 0x51 ∨ Claims.StoppedAt (bootMemory uc s) 6 0x61
          ∨ Claims.StoppedAt (bootMemory uc s) 7 0x71
          ∨ ((bootMemory uc s).keep.boot.err = s.keep.boot.err ∧ Claims.Booted s (bootMemory uc s) r uc))) := by
  rcases bootMemory_outcome uc s with ⟨h, e⟩ | ⟨r, h, e | e | e⟩
  · rw [e]
    exact ⟨rfl, rfl, rfl, rfl, rfl, .inl ⟨h, stoppedAt_bootFails hr _ _⟩⟩
  · rw [e]
    exact ⟨rfl, rfl, rfl, rfl, rfl, .inr ⟨r, h, ⟨rfl, rfl, rfl, rfl⟩, .inl (stoppedAt_bootFails hr _ _)⟩⟩
  · rw [e]
    exact ⟨rfl, rfl, rfl, rfl, rfl, .inr ⟨r, h, ⟨rfl, rfl, rfl, rfl⟩, .inr (.inl (stoppedAt_bootFails hr _ _))⟩⟩
  · obtain ⟨hk, ends⟩ := bootSpires_ends (s := withBadPages (atStage 4 (withConfig r s))) hr uc
    rw [← e] at hk ends
    have hc : Claims.Configured (bootMemory uc s) r := by
      unfold Claims.Configured
      rw [hk]
      exact ⟨rfl, rfl, rfl, rfl⟩
    refine ⟨by rw [hk]; rfl, by rw [hk]; rfl, by rw [hk]; rfl, by rw [hk]; rfl, by rw [hk]; rfl, .inr ⟨r, h, hc, ?_⟩⟩
    rcases ends with e5 | e6 | e7 | ⟨he, hstage, hready, hfrom⟩
    · exact .inr (.inr (.inl e5))
    · exact .inr (.inr (.inr (.inl e6)))
    · exact .inr (.inr (.inr (.inr (.inl e7))))
    · exact .inr (.inr (.inr (.inr (.inr ⟨he, hfrom.booted hstage hready rfl rfl rfl⟩))))

/-- A package that has been booted before boots from a cold reset. -/
theorem exec_powerGood_started {s : State} (h : s.keep.boot.started = true) : exec .powerGood s = exec .powerGood (coldReset s) := by
  show Host.Outcome.next (powerCycle s) = Host.Outcome.next (powerCycle (coldReset s))
  have hc : (coldReset s).keep.boot.started = false := rfl
  rw [powerCycle, if_pos h, powerCycle, if_neg (by rw [hc]; decide)]

theorem exec_powerGood_fresh {s : State} (h : s.keep.boot.started = false) : exec .powerGood s = .next (bootNow s) := by
  show Host.Outcome.next (powerCycle s) = _
  rw [powerCycle, if_neg (by simp [h])]

/-- The state that a boot starts from: started, and counted. -/
def bootBegun (s : State) : State :=
  { s with keep := { s.keep with boot := { s.keep.boot with started := true, count := s.keep.boot.count + 1 } } }

/-- The state with lantern firmware taken (stage 1). -/
def withFirmware (fw : List Byte) (s : State) : State :=
  { s with keep := { s.keep with boot := { s.keep.boot with fwImage := fw }, store := { s.keep.store with fwSvn := imageSvn fw } } }

/-- The state with a microcode image taken (stage 2). -/
def withUcode (uc : List Byte) (s : State) : State :=
  { s with keep := { s.keep with boot := { s.keep.boot with ucImage := uc }, store := { s.keep.store with ucSvn := imageSvn uc } } }

/-- Stages 1 and 2 stop, or go on with both images taken. -/
theorem bootNow_outcome (s : State) :
    (s.keep.store.pickImage 1 s.keep.store.fw = none ∧ bootNow s = bootFails 0x11 (atStage 1 (bootBegun s)))
    ∨ ∃ fw, s.keep.store.pickImage 1 s.keep.store.fw = some fw
      ∧ ((s.keep.store.pickImage 2 s.keep.store.uc = none
          ∧ bootNow s = bootFails 0x21 (atStage 2 (withFirmware fw (atStage 1 (bootBegun s)))))
        ∨ ∃ uc, s.keep.store.pickImage 2 s.keep.store.uc = some uc
          ∧ bootNow s = bootMemory uc (withUcode uc (atStage 2 (withFirmware fw (atStage 1 (bootBegun s)))))) := by
  unfold bootNow bootImages
  dsimp only
  split
  next h => exact .inl ⟨h, rfl⟩
  next fw h =>
    refine .inr ⟨fw, h, ?_⟩
    split
    next h2 => exact .inl ⟨h2, rfl⟩
    next uc h2 => exact .inr ⟨uc, h2, rfl⟩

/-- Which configuration record is taken does not depend on the security versions that the boot stores. -/
theorem pickConfig_svn (s : Store2) (f u : Nat) : pickConfig { s with fwSvn := f, ucSvn := u } = pickConfig s := rfl

/-- Power-good runs the boot stages, after a cold reset where the package has been booted before. -/
theorem powerGoodRunsTheBootStages : Claims.PowerGoodRunsTheBootStages := by
  intro s
  refine ⟨fun h => ⟨coldReset s, exec_powerGood_started h, ?_⟩, fun h hr he => ⟨bootNow s, exec_powerGood_fresh h, ?_⟩⟩
  · exact ⟨rfl, rfl, rfl, rfl, rfl, rfl, rfl, rfl, rfl, rfl, rfl, rfl, rfl, rfl, rfl, rfl, rfl⟩
  rcases bootNow_outcome s with ⟨hfw, e⟩ | ⟨fw, hfw, ⟨huc, e⟩ | ⟨uc, huc, e⟩⟩
  · rw [hfw, e]
    exact ⟨rfl, rfl, stoppedAt_bootFails hr _ _⟩
  · rw [hfw, huc, e]
    exact ⟨rfl, rfl, rfl, rfl, stoppedAt_bootFails hr _ _⟩
  · obtain ⟨hst, hstart, hcount, hfwi, huci, ends⟩ :=
      bootMemory_ends (s := withUcode uc (atStage 2 (withFirmware fw (atStage 1 (bootBegun s))))) hr uc
    rw [← e] at hst hstart hcount hfwi huci ends
    rw [hfw, huc]
    refine ⟨hstart, hcount, hfwi, congrArg Store2.fwSvn hst, huci, congrArg Store2.ucSvn hst, ?_⟩
    rcases ends with ⟨hn, h3⟩ | ⟨r, hsome, hc, hends⟩
    · rw [show pickConfig s.keep.store = none from (pickConfig_svn s.keep.store _ _).symm.trans hn]
      exact h3
    · rw [show pickConfig s.keep.store = some r from (pickConfig_svn s.keep.store _ _).symm.trans hsome]
      refine ⟨hc, ?_⟩
      rcases hends with h | h | h | h | h | ⟨hz, hb⟩
      · exact .inl h
      · exact .inr (.inl h)
      · exact .inr (.inr (.inl h))
      · exact .inr (.inr (.inr (.inl h)))
      · exact .inr (.inr (.inr (.inr (.inl h))))
      · exact .inr (.inr (.inr (.inr (.inr ⟨hz.trans he, hb⟩))))

end Sys2Proof.Machine
end

section
/-! O44: firmware commands (R94-R96). -/

namespace Sys2Proof.Machine

/-! ### Numbers and fields in bytes -/

theorem leNat_lt (bs : List Byte) : leNat bs < 256 ^ bs.length := by
  induction bs with
  | nil => exact Nat.one_pos
  | cons b r ih =>
    rw [leNat, List.length_cons, pow_succ]
    have hb : b.toNat < 256 := b.isLt
    omega

/-- A field of `n` bytes is below `256 ^ n`. -/
theorem recField_lt (bs : List Byte) (o n : Nat) : recField bs o n < 256 ^ n :=
  (leNat_lt _).trans_le (Nat.pow_le_pow_right (by decide) (List.length_take_le _ _))

theorem memReadBytes_add (m : Memory) (a i j : Nat) : memReadBytes m a (i + j) = memReadBytes m a i ++ memReadBytes m (a + i) j := by
  simp [memReadBytes, List.range_add, Nat.add_assoc]

/-- Fields stand one after another from an address up. -/
def FieldsAt (m : Memory) (a : Nat) : List (List Byte) → Prop
  | [] => True
  | f :: r => memReadBytes m a f.length = f ∧ FieldsAt m (a + f.length) r

/-- What reads as fields put together reads as each of them. -/
theorem fieldsAt_of_read {m : Memory} {a : Nat} {fs : List (List Byte)} (h : memReadBytes m a fs.flatten.length = fs.flatten) :
    FieldsAt m a fs := by
  induction fs generalizing a with
  | nil => trivial
  | cons f r ih =>
    rw [List.flatten_cons, List.length_append, memReadBytes_add] at h
    obtain ⟨hf, hr⟩ := List.append_inj h (memReadBytes_length _ _ _)
    exact ⟨hf, ih hr⟩

/-- A number written in its bytes reads back. -/
theorem memReadNat_of_leBytes {m : Memory} {a n v : Nat} (h : memReadBytes m a n = leBytes n v) (hv : v < 256 ^ n) :
    memReadNat m a n = v := by
  rw [memReadNat, h, leNat_leBytes, Nat.mod_eq_of_lt hv]

/-! ### Lengths of digests and signatures (R96) -/

theorem shaRound_length (v : List Nat) (k w : Nat) : (shaRound v k w).length = v.length := by
  unfold shaRound
  dsimp only
  split
  · simp only [List.length_cons]
  · rfl

theorem shaRounds_length (ks w v : List Nat) : (shaRounds ks w v).length = v.length := by
  induction ks generalizing w v with
  | nil => rfl
  | cons k r ih => rw [shaRounds, ih, shaRound_length]

theorem shaBlocks_length (n : Nat) (bs : List Byte) (h : List Nat) : (shaBlocks n bs h).length = h.length := by
  induction n generalizing bs h with
  | zero => rfl
  | succ k ih =>
    unfold shaBlocks
    generalize shaK0 ++ shaK1 = ks
    rw [ih, List.length_zipWith, shaRounds_length, Nat.min_self]

theorem beBytes_length (n v : Nat) : (beBytes n v).length = n := by simp [beBytes]

/-- A digest has 48 bytes. -/
@[simp] theorem sha384_length (bs : List Byte) : (sha384 bs).length = 48 := by
  have h : ∀ l : List Nat, (l.flatMap (beBytes 8)).length = 8 * l.length := fun l => by
    simp [List.length_flatMap, beBytes_length, Nat.mul_comm]
  rw [sha384, h, List.length_take, shaBlocks_length]
  rfl

/-- A signature has 96 bytes. -/
@[simp] theorem signature_length (n : Nat) (bs : List Byte) : (signature n bs).length = 96 := by
  unfold signature
  generalize Config.ecdsaSign n (sha384 bs) = l
  simp

theorem identityCertificate_length : identityCertificate.length ≤ 2048 := List.length_take_le _ _

/-! ### A command that does not start -/

/-- Whether the lantern takes a command (R94, R17). -/
theorem refuses_iff (k : Keep) : (k.fw.busy || k.lanternHalted) = true ↔ k.fw.busy = true ∨ k.boot.err ≠ 0 := by
  simp [Keep.lanternHalted]

theorem exec_fwStageImage (s : State) : exec .fwStageImage s = .next (stageImage s) := rfl
theorem exec_fwAttest (s : State) : exec .fwAttest s = .next (attest s) := rfl
theorem exec_fwReadCert (s : State) : exec .fwReadCert s = .next (readCert s) := rfl

/-- A command of a part that is busy or halted changes nothing. -/
theorem exec_firmware_refused {s : State} (h : (s.keep.fw.busy || s.keep.lanternHalted) = true) :
    ∀ i ∈ [Instr.fwStageImage, .fwAttest, .fwReadCert], exec i s = .next s := by
  simp only [List.forall_mem_cons]
  refine ⟨?_, ?_, ?_, List.forall_mem_nil _⟩
  · rw [exec_fwStageImage, stageImage, if_pos h]
  · rw [exec_fwAttest, attest, if_pos h]
  · rw [exec_fwReadCert, readCert, if_pos h]

theorem exec_fwCommandDone_busy {s : State} (h : s.keep.fw.busy = true) : exec .fwCommandDone s
    = .next { s with keep := { s.keep with fw := { s.keep.fw with busy := false, result := s.keep.fw.pending } } } := by
  show Host.Outcome.next { s with keep := s.keep.endCommand } = _
  rw [Keep.endCommand, if_pos h]

/-! ### Staging (R95) -/

/-- The checks of a staged image pass exactly when it may be staged. -/
theorem stageResult_eq_zero_iff (s : State) (img : List Byte) : stageResult s img = 0 ↔ Claims.Stageable s img := by
  unfold stageResult Claims.Stageable
  dsimp only
  by_cases hl : img.length < 160 ∨ recField img 0x10 8 ≠ img.length
  · rw [if_pos hl]
    omega
  rw [if_neg hl]
  by_cases hs : s.keep.store.signed img = true
  swap
  · simp [hs]
  rw [if_neg (by simp [hs])]
  by_cases hk : recField img 0 4 ≠ 0x57464C4F ∨ (recField img 4 1 ≠ 1 ∧ recField img 4 1 ≠ 2)
  · rw [if_pos hk]
    omega
  rw [if_neg hk]
  have hk' : recField img 0 4 = 0x57464C4F ∧ (recField img 4 1 = 1 ∨ recField img 4 1 = 2) := by omega
  obtain ⟨hm, hk1 | hk2⟩ := hk'
  · grind
  · grind

/-- An image goes to one of the two slots, and not to the one that the boot took. -/
theorem stageInto_spec (slots : List (List Byte)) (active img : List Byte) : img ∈ stageInto slots active img
    ∧ (slots.getD 0 [] = active → (stageInto slots active img).getD 0 [] = active) := by
  unfold stageInto
  split
  next h => exact ⟨List.mem_cons_of_mem _ List.mem_cons_self, fun _ => h⟩
  next h => exact ⟨List.mem_cons_self, fun ha => absurd ha h⟩

section
variable {s : State}

theorem stageImage_long (go : ¬(s.keep.fw.busy || s.keep.lanternHalted) = true) (hl : 2 ^ 26 < s.keep.fw.len.toNat) :
    stageImage s = { s with keep := { s.keep with fw := { s.keep.fw with busy := true, op := 1, pending := 5 } } } := by
  rw [stageImage, if_neg go, if_pos hl]
  rfl

theorem stageImage_dmaFails (go : ¬(s.keep.fw.busy || s.keep.lanternHalted) = true) (hl : ¬2 ^ 26 < s.keep.fw.len.toNat)
    (hf : Config.freeBool s.chip.free = true) :
    stageImage s = { s with keep := s.keep.startCommand 1 4, chip := { s.chip with free := s.chip.free + 1 } } := by
  rw [stageImage, if_neg go, if_neg hl, if_pos hf]

/-- The non-volatile store with an image staged in the slot of its kind. -/
def Store2.staged (st : Store2) (b : Boot) (img : List Byte) : Store2 :=
  if recField img 4 1 = 1 then { st with fw := stageInto st.fw b.fwImage img } else { st with uc := stageInto st.uc b.ucImage img }

theorem Store2.staged_firmware (st : Store2) (b : Boot) {img : List Byte} (hk : recField img 4 1 = 1) :
    st.staged b img = { st with fw := (st.staged b img).fw } ∧ img ∈ (st.staged b img).fw
    ∧ (st.fw.getD 0 [] = b.fwImage → (st.staged b img).fw.getD 0 [] = b.fwImage) := by
  rw [Store2.staged, if_pos hk]
  exact ⟨rfl, stageInto_spec _ _ _⟩

theorem Store2.staged_microcode (st : Store2) (b : Boot) {img : List Byte} (hk : recField img 4 1 = 2) :
    st.staged b img = { st with uc := (st.staged b img).uc } ∧ img ∈ (st.staged b img).uc
    ∧ (st.uc.getD 0 [] = b.ucImage → (st.staged b img).uc.getD 0 [] = b.ucImage) := by
  rw [Store2.staged, if_neg (by rw [hk]; decide)]
  exact ⟨rfl, stageInto_spec _ _ _⟩

/-- An image that has been read is checked, and staged where the checks pass. -/
theorem stageImage_checked (go : ¬(s.keep.fw.busy || s.keep.lanternHalted) = true) (hl : ¬2 ^ 26 < s.keep.fw.len.toNat)
    (hf : ¬Config.freeBool s.chip.free = true) {img : List Byte}
    (hi : img = memReadBytes s.keep.hostMem s.keep.fw.buffer s.keep.fw.len.toNat) :
    stageImage s = { s with
      keep := { s.keep with
        store := if stageResult s img ≠ 0 then s.keep.store else s.keep.store.staged s.keep.boot img }.startCommand 1 (stageResult s img)
      chip := { s.chip with free := s.chip.free + 1 } } := by
  subst hi
  rw [stageImage, if_neg go, if_neg hl, if_neg hf]
  rfl

theorem attest_dmaFails (go : ¬(s.keep.fw.busy || s.keep.lanternHalted) = true) (hf : Config.freeBool s.chip.free = true) :
    attest s = { s with keep := s.keep.startCommand 3 4, chip := { s.chip with free := s.chip.free + 1 } } := by
  rw [attest, if_neg go, if_pos hf]

/-- The report and its signature go to the buffer. -/
theorem attest_reports (go : ¬(s.keep.fw.busy || s.keep.lanternHalted) = true) (hf : ¬Config.freeBool s.chip.free = true) {r : List Byte}
    (hr : r = reportHead s (memReadBytes s.keep.hostMem s.keep.fw.buffer 48)) :
    attest s = { s with
      keep := { s.keep with
        hostMem := memWriteBytes s.keep.hostMem s.keep.fw.buffer (r ++ signature s.chip.free r) }.startCommand 3 0
      chip := { s.chip with free := s.chip.free + 1 } } := by
  subst hr
  rw [attest, if_neg go, if_neg hf]

theorem readCert_dmaFails (go : ¬(s.keep.fw.busy || s.keep.lanternHalted) = true) (hf : Config.freeBool s.chip.free = true) :
    readCert s = { s with keep := s.keep.startCommand 4 4, chip := { s.chip with free := s.chip.free + 1 } } := by
  rw [readCert, if_neg go, if_pos hf]

theorem readCert_writes (go : ¬(s.keep.fw.busy || s.keep.lanternHalted) = true) (hf : ¬Config.freeBool s.chip.free = true) :
    readCert s = { s with
      keep := { s.keep with
        hostMem := memWriteBytes s.keep.hostMem s.keep.fw.buffer identityCertificate
        fw := { s.keep.fw with len := BitVec.ofNat 32 identityCertificate.length } }.startCommand 4 0
      chip := { s.chip with free := s.chip.free + 1 } } := by
  rw [readCert, if_neg go, if_neg hf]

end

/-! ### The report (R96) -/

/-- The fields of a report before its signature. -/
def reportFields (s : State) (nonce : List Byte) : List (List Byte) :=
  [leBytes 4 0x54414C4F, leBytes 4 s.chip.version.toNat, leBytes 8 s.chip.devhash.toNat, nonce, sha384 s.keep.boot.fwImage,
    sha384 s.keep.boot.ucImage, sha384 s.keep.boot.cfgRecord, leBytes 8 s.keep.boot.cfgSeq.toNat,
    leBytes 4 (imageSvn s.keep.boot.fwImage), leBytes 4 (imageSvn s.keep.boot.ucImage)]

theorem reportHead_eq (s : State) (nonce : List Byte) : reportHead s nonce = (reportFields s nonce).flatten := by
  simp only [reportHead, reportFields, List.flatten_cons, List.flatten_nil, List.append_nil, List.append_assoc]

theorem reportHead_length {s : State} {nonce : List Byte} (h : nonce.length = 48) : (reportHead s nonce).length = 0xE0 := by
  simp only [reportHead, List.length_append, leBytes_length, sha384_length, h]

/-- A memory that holds a report at an address, field by field. -/
theorem report_reads {s : State} {nonce : List Byte} {m : Memory} {a : Nat} (hn : nonce.length = 48)
    (h : memReadBytes m a 0xE0 = reportHead s nonce) :
    memReadNat m a 4 = 0x54414C4F ∧ memReadNat m (a + 4) 4 = s.chip.version.toNat ∧ memReadNat m (a + 8) 8 = s.chip.devhash.toNat
    ∧ memReadBytes m (a + 16) 48 = nonce ∧ memReadBytes m (a + 0x40) 48 = sha384 s.keep.boot.fwImage
    ∧ memReadBytes m (a + 0x70) 48 = sha384 s.keep.boot.ucImage ∧ memReadBytes m (a + 0xA0) 48 = sha384 s.keep.boot.cfgRecord
    ∧ memReadNat m (a + 0xD0) 8 = s.keep.boot.cfgSeq.toNat ∧ memReadNat m (a + 0xD8) 4 = imageSvn s.keep.boot.fwImage
    ∧ memReadNat m (a + 0xDC) 4 = imageSvn s.keep.boot.ucImage := by
  have hf : FieldsAt m a (reportFields s nonce) := by
    refine fieldsAt_of_read ?_
    rw [← reportHead_eq, reportHead_length hn]
    exact h
  simp only [reportFields, FieldsAt, leBytes_length, sha384_length, hn, Nat.add_assoc, Nat.reduceAdd] at hf
  obtain ⟨hmagic, hver, hdev, hnonce, hfw, huc, hcfg, hseq, hsvn, husvn, -⟩ := hf
  exact ⟨memReadNat_of_leBytes hmagic (by decide), memReadNat_of_leBytes hver s.chip.version.isLt,
    memReadNat_of_leBytes hdev s.chip.devhash.isLt, hnonce, hfw, huc, hcfg, memReadNat_of_leBytes hseq s.keep.boot.cfgSeq.isLt,
    memReadNat_of_leBytes hsvn (recField_lt _ _ _), memReadNat_of_leBytes husvn (recField_lt _ _ _)⟩

/-! ### What the commands do -/

section
variable {s : State} (go : ¬(s.keep.fw.busy || s.keep.lanternHalted) = true)
include go

/-- Staging: the DMA fails, a check fails, or the image goes to the slot that the boot did not take. -/
theorem stageImage_results (hl : s.keep.fw.len.toNat ≤ 2 ^ 26) {img : List Byte}
    (hi : img = memReadBytes s.keep.hostMem s.keep.fw.buffer s.keep.fw.len.toNat) :
    ∃ t r, exec .fwStageImage s = .next t ∧ t.keep.fw = { s.keep.fw with busy := true, op := 1, pending := r }
      ∧ t.keep.hostMem = s.keep.hostMem ∧ t.chip.mem = s.chip.mem
      ∧ ((r = 4 ∧ t.keep.store = s.keep.store)
        ∨ (r ≠ 0 ∧ t.keep.store = s.keep.store ∧ ¬Claims.Stageable s img)
        ∨ (r = 0 ∧ Claims.Stageable s img ∧
          (recField img 4 1 = 1 → t.keep.store = { s.keep.store with fw := t.keep.store.fw } ∧ img ∈ t.keep.store.fw
            ∧ (s.keep.store.fw.getD 0 [] = s.keep.boot.fwImage → t.keep.store.fw.getD 0 [] = s.keep.boot.fwImage))
          ∧ (recField img 4 1 = 2 → t.keep.store = { s.keep.store with uc := t.keep.store.uc } ∧ img ∈ t.keep.store.uc
            ∧ (s.keep.store.uc.getD 0 [] = s.keep.boot.ucImage → t.keep.store.uc.getD 0 [] = s.keep.boot.ucImage)))) := by
  rw [exec_fwStageImage]
  by_cases hf : Config.freeBool s.chip.free = true
  · rw [stageImage_dmaFails go (by omega) hf]
    exact ⟨_, 4, rfl, rfl, rfl, rfl, .inl ⟨rfl, rfl⟩⟩
  rw [stageImage_checked go (by omega) hf hi]
  by_cases hr : stageResult s img = 0
  · rw [if_neg (by simp [hr])]
    exact ⟨_, _, rfl, rfl, rfl, rfl, .inr (.inr ⟨hr, (stageResult_eq_zero_iff s img).1 hr,
      s.keep.store.staged_firmware s.keep.boot, s.keep.store.staged_microcode s.keep.boot⟩)⟩
  · rw [if_pos hr]
    exact ⟨_, _, rfl, rfl, rfl, rfl, .inr (.inl ⟨hr, rfl, fun h => hr ((stageResult_eq_zero_iff s img).2 h)⟩)⟩

/-- Attestation: the DMA fails, or the signed report replaces the nonce. -/
theorem attest_results (hm : Memory.wf s.keep.hostMem) {buf : Nat} (hb : buf = s.keep.fw.buffer) :
    ∃ t r, exec .fwAttest s = .next t ∧ t.keep.fw = { s.keep.fw with busy := true, op := 3, pending := r }
      ∧ t.keep.store = s.keep.store ∧ t.chip.mem = s.chip.mem
      ∧ ((r = 4 ∧ t.keep.hostMem = s.keep.hostMem)
        ∨ (r = 0 ∧ memReadNat t.keep.hostMem buf 4 = 0x54414C4F
          ∧ memReadNat t.keep.hostMem (buf + 4) 4 = s.chip.version.toNat
          ∧ memReadNat t.keep.hostMem (buf + 8) 8 = s.chip.devhash.toNat
          ∧ memReadBytes t.keep.hostMem (buf + 16) 48 = memReadBytes s.keep.hostMem buf 48
          ∧ memReadBytes t.keep.hostMem (buf + 0x40) 48 = sha384 s.keep.boot.fwImage
          ∧ memReadBytes t.keep.hostMem (buf + 0x70) 48 = sha384 s.keep.boot.ucImage
          ∧ memReadBytes t.keep.hostMem (buf + 0xA0) 48 = sha384 s.keep.boot.cfgRecord
          ∧ memReadNat t.keep.hostMem (buf + 0xD0) 8 = s.keep.boot.cfgSeq.toNat
          ∧ memReadNat t.keep.hostMem (buf + 0xD8) 4 = imageSvn s.keep.boot.fwImage
          ∧ memReadNat t.keep.hostMem (buf + 0xDC) 4 = imageSvn s.keep.boot.ucImage
          ∧ (∃ n, memReadBytes t.keep.hostMem (buf + 0xE0) 96 = signature n (memReadBytes t.keep.hostMem buf 0xE0))
          ∧ ∀ a, a < buf ∨ buf + 320 ≤ a → memRead t.keep.hostMem a = memRead s.keep.hostMem a)) := by
  subst hb
  rw [exec_fwAttest]
  by_cases hf : Config.freeBool s.chip.free = true
  · rw [attest_dmaFails go hf]
    exact ⟨_, 4, rfl, rfl, rfl, rfl, .inl ⟨rfl, rfl⟩⟩
  have hn : (memReadBytes s.keep.hostMem s.keep.fw.buffer 48).length = 48 := memReadBytes_length _ _ _
  obtain ⟨r, hr⟩ : ∃ r, r = reportHead s (memReadBytes s.keep.hostMem s.keep.fw.buffer 48) := ⟨_, rfl⟩
  have hrl : r.length = 0xE0 := by rw [hr, reportHead_length hn]
  have hall : (r ++ signature s.chip.free r).length = 0xE0 + 96 := by rw [List.length_append, hrl, signature_length]
  obtain ⟨m, hm'⟩ : ∃ m, m = memWriteBytes s.keep.hostMem s.keep.fw.buffer (r ++ signature s.chip.free r) := ⟨_, rfl⟩
  have hread : memReadBytes m s.keep.fw.buffer (0xE0 + 96) = r ++ signature s.chip.free r := by
    rw [hm', ← hall, memReadBytes_memWriteBytes _ _ _ hm]
  rw [memReadBytes_add] at hread
  obtain ⟨hhead, hsig⟩ := List.append_inj hread (by rw [memReadBytes_length, hrl])
  have hrest : ∀ a, a < s.keep.fw.buffer ∨ s.keep.fw.buffer + 320 ≤ a → memRead m a = memRead s.keep.hostMem a := fun a ha => by
    rw [hm']
    exact memRead_memWriteBytes_outside _ hm (by rw [hall]; exact ha)
  obtain ⟨h1, h2, h3, h4, h5, h6, h7, h8, h9, h10⟩ := report_reads hn (hhead.trans hr)
  rw [attest_reports go hf hr, ← hm']
  exact ⟨_, 0, rfl, rfl, rfl, rfl, .inr ⟨rfl, h1, h2, h3, h4, h5, h6, h7, h8, h9, h10, ⟨_, hsig.trans (congrArg _ hhead.symm)⟩, hrest⟩⟩

/-- The certificate: the DMA fails, or it goes to the buffer and its length to `FW_LEN`. -/
theorem readCert_results (hm : Memory.wf s.keep.hostMem) {buf : Nat} (hb : buf = s.keep.fw.buffer) :
    ∃ t r, exec .fwReadCert s = .next t ∧ t.keep.store = s.keep.store ∧ t.chip.mem = s.chip.mem
      ∧ t.keep.fw.busy = true ∧ t.keep.fw.pending = r
      ∧ ((r = 4 ∧ t.keep.hostMem = s.keep.hostMem)
        ∨ (r = 0 ∧ t.keep.fw.len.toNat ≤ 2048
          ∧ memReadBytes t.keep.hostMem buf t.keep.fw.len.toNat = Config.certificate.take 2048
          ∧ ∀ a, a < buf ∨ buf + t.keep.fw.len.toNat ≤ a → memRead t.keep.hostMem a = memRead s.keep.hostMem a)) := by
  subst hb
  rw [exec_fwReadCert]
  by_cases hf : Config.freeBool s.chip.free = true
  · rw [readCert_dmaFails go hf]
    exact ⟨_, 4, rfl, rfl, rfl, rfl, rfl, .inl ⟨rfl, rfl⟩⟩
  have hlen : (BitVec.ofNat 32 identityCertificate.length).toNat = identityCertificate.length := by
    rw [BitVec.toNat_ofNat, Nat.mod_eq_of_lt (by have := identityCertificate_length; omega)]
  rw [readCert_writes go hf]
  refine ⟨_, 0, rfl, rfl, rfl, rfl, rfl, .inr ⟨rfl, ?_, ?_, fun a => ?_⟩⟩
  · exact hlen.trans_le identityCertificate_length
  · show memReadBytes _ _ (BitVec.ofNat 32 identityCertificate.length).toNat = identityCertificate
    rw [hlen]
    exact memReadBytes_memWriteBytes _ _ _ hm
  · show _ ∨ _ + (BitVec.ofNat 32 identityCertificate.length).toNat ≤ a → _
    rw [hlen]
    exact memRead_memWriteBytes_outside _ hm

end

/-- A firmware command starts unless one runs or the lantern has halted, and reports its result when it is done. -/
theorem firmwareCommandResults : Claims.FirmwareCommandResults := by
  intro s buf hbuf
  refine ⟨fun h => ⟨exec_firmware_refused ((refuses_iff _).2 (.inl h)), exec_fwCommandDone_busy h⟩,
    fun h => exec_firmware_refused ((refuses_iff _).2 (.inr h)), fun hb he => ?_⟩
  have go : ¬(s.keep.fw.busy || s.keep.lanternHalted) = true := by
    rw [refuses_iff, hb, he]
    simp
  refine ⟨fun hl => ?_, fun hl img hi => ?_, fun hm => ?_, fun hm => ?_⟩
  · rw [exec_fwStageImage, stageImage_long go hl]
  · exact stageImage_results go hl (hi.trans (by rw [hbuf]; rfl))
  · exact attest_results go hm hbuf
  · exact readCert_results go hm hbuf

end Sys2Proof.Machine
end

section
/-! O44: what nothing that drains a core or ends a coroutine changes (R97): the version, `DEVHASH`, the bad-page list, the link
block but for the lines that CXL devices hold as poisoned, whether launches live, the tolerances of the partitions and the
places of the spill regions. -/

namespace Sys2Proof.Machine

/-! ### The fixed part of the chip -/

/-- The part of the chip that a function-level reset leaves to itself while it ends coroutines and drains cores. -/
structure Fixed where
  version : BitVec 32
  devhash : Word
  retired : List Nat
  /-- the link block but for the poisoned lines of CXL devices -/
  links : Links
  /-- whether no launch lives -/
  idle : Bool
  tol : Nat → BitVec 24
  spill : Nat → Nat

/-- The fixed part of a chip. -/
def Chip.fixed (c : Chip) : Fixed where
  version := c.version
  devhash := c.devhash
  retired := c.retired
  links := { c.links with cxlBad := [] }
  idle := c.launches.isEmpty
  tol := fun p => (c.part p).tol
  spill := fun d => (c.spire d).spill

section
variable (c : Chip)

@[simp] theorem fixed_withCos (x : AMap Coroutine) : Chip.fixed { c with cos := x } = c.fixed := rfl
@[simp] theorem fixed_withClusters (x : AMap Cluster) : Chip.fixed { c with clusters := x } = c.fixed := rfl
@[simp] theorem fixed_withFree (x : Nat) : Chip.fixed { c with free := x } = c.fixed := rfl
@[simp] theorem fixed_withTlb (x : AMap TlbEntry) : Chip.fixed { c with tlb := x } = c.fixed := rfl

@[simp] theorem fixed_setCo (key : Nat) (co : Coroutine) : (c.setCo key co).fixed = c.fixed := rfl
@[simp] theorem fixed_modCore (k : Nat) (f : Core → Core) : (c.modCore k f).fixed = c.fixed := rfl
@[simp] theorem fixed_modCluster (k : Nat) (f : Cluster → Cluster) : (c.modCluster k f).fixed = c.fixed := rfl
@[simp] theorem fixed_post (e : PEvent) : (c.post e).fixed = c.fixed := rfl
@[simp] theorem fixed_wakeAll (p : Nat → Coroutine → Bool) : (c.wakeAll p).fixed = c.fixed := rfl
@[simp] theorem fixed_breakReservations (l : Nat) (w : Option Nat) : (c.breakReservations l w).fixed = c.fixed := rfl
@[simp] theorem fixed_send (src : Source) (p : Option Nat) (m : Msg) : (c.send src p m).fixed = c.fixed := rfl
@[simp] theorem fixed_unstallEngines (t : Word) (a : Bool) : (c.unstallEngines t a).fixed = c.fixed := rfl
@[simp] theorem fixed_updateL1 (k pa asid va : Nat) (vs : List Byte) : (c.updateL1 k pa asid va vs).fixed = c.fixed := rfl
@[simp] theorem fixed_dropStore (k i : Nat) : (c.dropStore k i).fixed = c.fixed := rfl
@[simp] theorem fixed_dropEntry (k : Nat) : (c.dropEntry k).fixed = c.fixed := rfl
@[simp] theorem fixed_placeCached (pa : Nat) (v : Byte) : (c.placeCached pa v).fixed = c.fixed := rfl
@[simp] theorem fixed_scrambleSlot (cl s n : Nat) : (c.scrambleSlot cl s n).fixed = c.fixed := rfl
@[simp] theorem fixed_drawBool : (drawBool c).2.fixed = c.fixed := rfl

@[simp] theorem fixed_modCo (key : Nat) (f : Coroutine → Coroutine) : (c.modCo key f).fixed = c.fixed := by
  unfold Chip.modCo
  split <;> rfl

/-- Changing a launch that lives leaves it alive. -/
theorem isEmpty_mset {α : Type} {m : AMap α} {k : Nat} {u : α} (v : α) (h : mget m k = some u) : (mset m k v).isEmpty = m.isEmpty := by
  cases m with
  | nil => cases h
  | cons p r =>
    unfold mset
    split
    · rfl
    · split <;> rfl

@[simp] theorem fixed_modLaunch (lid : Nat) (f : Launch → Launch) : (c.modLaunch lid f).fixed = c.fixed := by
  unfold Chip.modLaunch
  split
  next l h =>
    show Fixed.mk _ _ _ _ (mset c.launches lid (f l)).isEmpty _ _ = _
    rw [isEmpty_mset _ h]
    rfl
  next => rfl

@[simp] theorem fixed_passLaunchWaits (t : Word) : (c.passLaunchWaits t).fixed = c.fixed := by
  unfold Chip.passLaunchWaits Chip.fixed mmap
  rw [List.isEmpty_map]
  rfl

/-- A change of a partition that keeps its tolerance. -/
theorem fixed_modPart (p : Nat) {f : Partition → Partition} (h : ∀ q, (f q).tol = q.tol) : (c.modPart p f).fixed = c.fixed := by
  have ht : (fun k => ((c.modPart p f).part k).tol) = fun k => (c.part k).tol := by
    funext k
    by_cases hk : k = p
    · subst hk
      rw [Chip.part_modPart, h]
    · rw [Chip.part_modPart_ne c f hk]
  show Fixed.mk _ _ _ _ _ (fun k => ((c.modPart p f).part k).tol) _ = _
  rw [ht]
  rfl

@[simp] theorem fixed_modFq (p d : Nat) (f : FaultQ → FaultQ) : (c.modFq p d f).fixed = c.fixed := fixed_modPart c p fun _ => rfl

/-- A change of a spire that leaves its spill region where it is. -/
theorem fixed_modSpire (d : Nat) {f : Spire → Spire} (h : ∀ s, (f s).spill = s.spill) : (c.modSpire d f).fixed = c.fixed := by
  have ht : (fun k => ((c.modSpire d f).spire k).spill) = fun k => (c.spire k).spill :=
    funext fun k => Chip.spire_modSpire_field c d k f Spire.spill (h _)
  show Fixed.mk _ _ _ _ _ _ (fun k => ((c.modSpire d f).spire k).spill) = _
  rw [ht]
  rfl

@[simp] theorem fixed_modBeacon (d i : Nat) (f : Beacon → Beacon) : (c.modBeacon d i f).fixed = c.fixed := fixed_modSpire c d fun _ => rfl

@[simp] theorem fixed_wakeSpire (d : Nat) : (c.wakeSpire d).fixed = c.fixed := by
  unfold Chip.wakeSpire
  split
  · rfl
  · exact fixed_modSpire c d fun _ => rfl

end

/-- The chip that a pair holds, by the equation for the pair. -/
theorem fixed_of_eq {α : Type} {c d : Chip} {r : α × Chip} {x : α} (h : r = (x, d)) (hr : r.2.fixed = c.fixed) : d.fixed = c.fixed := by
  rw [h] at hr
  exact hr

/-- A choice between two chips. -/
theorem fixed_ite {p : Prop} [Decidable p] {a b c : Chip} (ha : a.fixed = c.fixed) (hb : b.fixed = c.fixed) :
    (if p then a else b).fixed = c.fixed := by
  split
  · exact ha
  · exact hb

/-- A fold keeps the fixed part where its steps do. -/
theorem fixed_foldl {α : Type} {f : Chip → α → Chip} (h : ∀ c a, (f c a).fixed = c.fixed) (l : List α) (c : Chip) :
    (l.foldl f c).fixed = c.fixed :=
  foldl_keeps (P := fun d : Chip => d.fixed = c.fixed) (fun d a hd => (h d a).trans hd) l rfl

/-! ### The slices and DRAM -/

/-- Moving lines changes nothing fixed. -/
theorem Moves.fixed {T : Nat → Prop} {c d : Chip} (h : Moves T c d) : d.fixed = c.fixed := by
  rw [h.frame]
  rfl

section
variable (c : Chip)

@[simp] theorem fixed_setLatent (l : Nat) (e : Latent) : (c.setLatent l e).fixed = c.fixed := rfl

@[simp] theorem fixed_readSectors (l : Nat) (n : BitVec 2) : (c.readSectors l n).fixed = c.fixed :=
  (moves_readSectors (T := fun _ => True) c l n).fixed

@[simp] theorem fixed_modCopy (n l : Nat) (f : LineCopy → LineCopy) : (c.modCopy n l f).fixed = c.fixed := by
  unfold Chip.modCopy
  split <;> rfl

@[simp] theorem fixed_flushCopy (n l : Nat) : (c.flushCopy n l).fixed = c.fixed := (moves_flushCopy (T := fun _ => True) c n l).fixed

@[simp] theorem fixed_dropUnplaced (d l : Nat) : (c.dropUnplaced d l).fixed = c.fixed := (moves_dropUnplaced (T := fun _ => True) c d l).fixed

@[simp] theorem fixed_lineForRead (d : Nat) (x : Xlat) (l : Nat) (n : BitVec 2) (b : Bool) : (c.lineForRead d x l n b).fixed = c.fixed :=
  (moves_lineForRead (T := fun _ => True) c d x l n b trivial).fixed

@[simp] theorem fixed_lineForWrite (d : Nat) (x : Xlat) (l : Nat) (n : BitVec 2) (b : Bool) : (c.lineForWrite d x l n b).fixed = c.fixed :=
  (moves_lineForWrite (T := fun _ => True) c d x l n b trivial).fixed

@[simp] theorem fixed_soundWord (l h : Nat) : (c.soundWord l h).fixed = c.fixed := (moves_soundWord (T := fun _ => True) c l h).fixed

@[simp] theorem fixed_homeWrite (l h : Nat) (ws : List Nat) (n : BitVec 2) : (c.homeWrite l h ws n).fixed = c.fixed :=
  (moves_homeWrite (T := fun _ => True) c l h ws n trivial).fixed

@[simp] theorem fixed_placeUncached (pa : Nat) (v : Byte) (held : Bool) : (c.placeUncached pa v held).fixed = c.fixed := by
  unfold Chip.placeUncached
  split <;> rfl

@[simp] theorem fixed_clearPoison (l : Nat) : (c.clearPoison l).fixed = c.fixed := by
  unfold Chip.clearPoison
  split <;> rfl

end

/-- Bytes placed one after another, by steps that change nothing fixed. -/
theorem fixed_placeAll {f : Chip → Nat → Byte → Chip} (h : ∀ c a v, (f c a v).fixed = c.fixed) (c : Chip) (pa : Nat) (vs : List Byte) :
    (c.placeAll pa vs f).fixed = c.fixed := by
  induction vs generalizing c pa with
  | nil => rfl
  | cons v r ih => exact (ih _ _).trans (h c pa v)

section
variable (c : Chip)

@[simp] theorem fixed_writeCopy (d pa : Nat) (vs : List Byte) (pkg through : Bool) : (c.writeCopy d pa vs pkg through).fixed = c.fixed := by
  have hp : ∀ (b : Chip) (pa : Nat) (vs : List Byte), (b.placeAll pa vs Chip.placeCached).fixed = b.fixed :=
    fun b pa vs => fixed_placeAll (fun c a v => fixed_placeCached c a v) b pa vs
  have ht : ∀ b : Chip, b.fixed = c.fixed → (if through then b.flushCopy d (lineOf pa) else b).fixed = c.fixed :=
    fun b hb => fixed_ite ((fixed_flushCopy ..).trans hb) hb
  unfold Chip.writeCopy
  refine ht _ (fixed_ite ?_ (fixed_modCopy ..))
  rw [fixed_modCopy, hp]
  split
  · rw [fixed_modCopy, hp]
  · rfl

@[simp] theorem fixed_readL2 (d : Nat) (x : Xlat) (n : Nat) (b : Bool) : (c.readL2 d x n b).2.fixed = c.fixed := by
  unfold Chip.readL2
  dsimp only
  split
  · exact fixed_wakeSpire c _
  split
  · rw [fixed_readSectors, fixed_wakeSpire]
  · rw [fixed_dropUnplaced, fixed_lineForRead, fixed_wakeSpire]

@[simp] theorem fixed_readSound (d : Nat) (x : Xlat) (n : Nat) (b : Bool) : (c.readSound d x n b).2.fixed = c.fixed := fixed_readL2 c d x n b

@[simp] theorem fixed_writeL2 (d : Nat) (x : Xlat) (vs : List Byte) (w : Option Nat) (full through noFill : Bool) :
    (c.writeL2 d x vs w full through noFill).fixed = c.fixed := by
  unfold Chip.writeL2
  dsimp only
  rw [← fixed_wakeSpire c x.home]
  generalize c.wakeSpire x.home = b
  refine fixed_ite rfl (fixed_ite ?_ ?_)
  · split
    · exact fixed_ite (fixed_clearPoison _ _) rfl
    · exact fixed_ite (fixed_clearPoison _ _) rfl
    · rfl
  · rw [fixed_breakReservations]
    have hx : ∀ e : Chip, e.fixed = b.fixed → ∀ (p : Prop) [Decidable p] (l : Nat), (if p then e.clearPoison l else e).fixed = b.fixed :=
      fun e he p _ l => fixed_ite ((fixed_clearPoison e l).trans he) he
    refine hx _ (fixed_ite ?_ ?_) _ _
    · rw [fixed_placeAll (fun d a v => fixed_placeUncached d a v _), fixed_setLatent, fixed_readSectors]
    · rw [fixed_dropUnplaced, fixed_writeCopy, fixed_lineForWrite]

end

end Sys2Proof.Machine
end

section
/-! O44: translation, stores, beacons, endings and traps change nothing fixed (R97). -/

namespace Sys2Proof.Machine

/-! ### Walks and translation (R109-R111) -/

section
variable (c : Chip)

@[simp] theorem fixed_walkEntry (d ta i : Nat) : (c.walkEntry d ta i).2.fixed = c.fixed := by
  unfold Chip.walkEntry
  dsimp only
  split
  · rfl
  · split
    next h => exact fixed_of_eq h (fixed_readSound ..)
    next h => exact fixed_of_eq h (fixed_readSound ..)

@[simp] theorem fixed_walkLeaf (d asid va : Nat) : (c.walkLeaf d asid va).2.fixed = c.fixed := by
  unfold Chip.walkLeaf
  split
  · rfl
  split
  · rfl
  split
  next h => exact fixed_of_eq h (fixed_walkEntry ..)
  next e1 b h =>
    have hb := fixed_of_eq h (fixed_walkEntry ..)
    split
    · exact hb
    split
    next h => exact (fixed_of_eq h (fixed_walkEntry ..)).trans hb
    next e2 b2 h =>
      have hb2 := (fixed_of_eq h (fixed_walkEntry ..)).trans hb
      split
      · exact hb2
      split
      next h => exact (fixed_of_eq h (fixed_walkEntry ..)).trans hb2
      next h => exact (fixed_of_eq h (fixed_walkEntry ..)).trans hb2

@[simp] theorem fixed_writeTable (d ea e : Nat) : (c.writeTable d ea e).fixed = c.fixed := by
  unfold Chip.writeTable
  refine fixed_ite rfl ?_
  rw [fixed_writeCopy, fixed_lineForWrite]

@[simp] theorem fixed_walk (d asid va : Nat) (k : Acc) (sup back : Bool) : (c.walk d asid va k sup back).2.fixed = c.fixed := by
  unfold Chip.walk
  split
  next h => exact fixed_of_eq h (fixed_walkLeaf ..)
  next t b h =>
    have hb := fixed_of_eq h (fixed_walkLeaf ..)
    split
    · exact hb
    · dsimp only
      rw [fixed_withTlb]
      exact fixed_ite hb ((fixed_writeTable ..).trans hb)

@[simp] theorem fixed_rewalk (d asid va : Nat) (k : Acc) (sup back : Bool) : (c.rewalk d asid va k sup back).2.fixed = c.fixed := by
  unfold Chip.rewalk
  split
  next f b h => exact (fixed_withTlb b _).trans (fixed_of_eq h (fixed_walk ..))
  next h => exact fixed_of_eq h (fixed_walk ..)

@[simp] theorem fixed_byEntry (t : TlbEntry) (d asid va : Nat) (k : Acc) (sup back : Bool) :
    (c.byEntry t d asid va k sup back).2.fixed = c.fixed := by
  unfold Chip.byEntry
  split
  · rfl
  split
  · exact fixed_rewalk ..
  · rfl

@[simp] theorem fixed_translate (d asid va : Nat) (k : Acc) (sup back : Bool) : (c.translate d asid va k sup back).2.fixed = c.fixed := by
  unfold Chip.translate
  split
  · rfl
  split
  · exact fixed_byEntry ..
  split
  · exact fixed_walk ..
  split
  · rfl
  · dsimp only
    rw [fixed_withFree]
    split
    · exact fixed_byEntry ..
    · exact fixed_rewalk ..

@[simp] theorem fixed_xlate (a : Agent) (va : Nat) (k : Acc) (back : Bool) : (c.xlate a va k back).2.fixed = c.fixed := by
  unfold Chip.xlate
  split
  · rfl
  split
  next h => exact fixed_of_eq h (fixed_translate ..)
  next x b h =>
    have hb := fixed_of_eq h (fixed_translate ..)
    split
    · exact hb
    · exact hb

end

@[simp] theorem fixed_xlateAll (c : Chip) (a : Agent) (ps : List (Nat × Nat)) (k : Acc) : (c.xlateAll a ps k).2.fixed = c.fixed := by
  induction ps generalizing c with
  | nil => rfl
  | cons p r ih =>
    unfold Chip.xlateAll
    split
    next h => exact fixed_of_eq h (fixed_xlate ..)
    next x b h =>
      have hb := fixed_of_eq h (fixed_xlate ..)
      split
      next h => exact (fixed_of_eq h (ih _)).trans hb
      next h => exact (fixed_of_eq h (ih _)).trans hb

/-! ### Stores (R197) -/

@[simp] theorem fixed_writePieces (c : Chip) (d : Nat) (xs : List (Xlat × Nat)) (vs : List Byte) (w : Option Nat)
    (full through noFill : Bool) : (c.writePieces d xs vs w full through noFill).fixed = c.fixed := by
  induction xs generalizing c vs with
  | nil => rfl
  | cons p r ih => exact (ih _ _).trans (fixed_writeL2 ..)

@[simp] theorem fixed_store (c : Chip) (a : Agent) (va : Nat) (vs : List Byte) (full through : Bool) :
    (c.store a va vs full through).2.fixed = c.fixed := by
  unfold Chip.store
  split
  next h => exact fixed_of_eq h (fixed_xlateAll ..)
  next h => exact (fixed_writePieces ..).trans (fixed_of_eq h (fixed_xlateAll ..))

@[simp] theorem fixed_updateL1All (c : Chip) (k asid : Nat) (ps : List (Nat × Nat)) (vs : List Byte) :
    (c.updateL1All k asid ps vs).fixed = c.fixed := by
  induction ps generalizing c vs with
  | nil => rfl
  | cons p r ih =>
    refine (ih _ _).trans ?_
    split
    · exact fixed_updateL1 ..
    · rfl

@[simp] theorem fixed_performStore (c : Chip) (k : Nat) (co : Coroutine) (s : Store) : (c.performStore k co s).2.fixed = c.fixed := by
  unfold Chip.performStore
  split
  next h => exact fixed_of_eq h (fixed_store ..)
  next h =>
    have hb := fixed_of_eq h (fixed_store ..)
    exact fixed_ite hb ((fixed_updateL1All ..).trans hb)

/-- Bytes written through their home slices. -/
@[simp] theorem fixed_homePut (c : Chip) (ps : List (Nat × Nat)) (vs : List Byte) (ws : List Nat) : (c.homePut ps vs ws).fixed = c.fixed := by
  induction ps generalizing c vs with
  | nil => rfl
  | cons p r ih =>
    refine (ih _ _).trans ?_
    rw [fixed_writeCopy, fixed_homeWrite, fixed_soundWord]

/-! ### Beacons (R394, R412) -/

section
variable (c : Chip)

@[simp] theorem fixed_releaseWaiters (d i : Nat) : (c.releaseWaiters d i).fixed = c.fixed := by
  unfold Chip.releaseWaiters
  dsimp only
  rw [fixed_wakeAll]
  exact fixed_ite (fixed_passLaunchWaits ..) rfl

/-- Fault records come and go. -/
@[simp] theorem fixed_modRecs (d : Nat) (g : Spire → List FaultRec) :
    (c.modSpire d (fun s => { s with recs := g s })).fixed = c.fixed := fixed_modSpire c d fun _ => rfl

@[simp] theorem fixed_closeRecord (d i : Nat) : (c.closeRecord d i).fixed = c.fixed := by
  unfold Chip.closeRecord
  dsimp only
  rw [fixed_wakeAll, fixed_modBeacon, fixed_withClusters, fixed_modRecs, fixed_unstallEngines, fixed_wakeAll]
  exact fixed_ite (fixed_passLaunchWaits ..) rfl

@[simp] theorem fixed_applySignal (tok : Word) (dec : Int) (st es : Nat) (host : Bool) :
    (c.applySignal tok dec st es host).fixed = c.fixed := by
  unfold Chip.applySignal
  refine fixed_ite (fixed_ite ?_ ?_) rfl
  · rw [fixed_closeRecord, fixed_modBeacon]
  · rw [fixed_releaseWaiters, fixed_modBeacon]

@[simp] theorem fixed_signalOpened (key : Nat) (dec : Int) : (c.signalOpened key dec).fixed = c.fixed := by
  unfold Chip.signalOpened
  split
  · exact fixed_applySignal ..
  · rfl

/-! ### Ending (R246, R408) -/

@[simp] theorem fixed_dropRequests (key : Nat) : (c.dropRequests key).fixed = c.fixed := by
  unfold Chip.dropRequests
  split <;> rfl

@[simp] theorem fixed_stopRunning (key : Nat) : (c.stopRunning key).fixed = c.fixed := by
  unfold Chip.stopRunning
  exact fixed_ite (fixed_dropRequests ..) rfl

@[simp] theorem fixed_sweepSlots (cl : Nat) : (c.sweepSlots cl).fixed = c.fixed := by
  unfold Chip.sweepSlots
  refine fixed_foldl (fun b s => fixed_ite ?_ rfl) _ c
  rw [fixed_scrambleSlot, Chip.wakeSlotWaiters, fixed_wakeAll, fixed_modCluster]

@[simp] theorem fixed_endSlots (key lid : Nat) : (c.endSlots key lid).fixed = c.fixed := by
  unfold Chip.endSlots
  dsimp only
  rw [fixed_sweepSlots, fixed_modCluster]

@[simp] theorem fixed_barrier (g : Nat) : (c.barrier g).fixed = c.fixed := by
  unfold Chip.barrier
  exact fixed_ite rfl rfl

@[simp] theorem fixed_freeBlocks (key : Nat) : (c.freeBlocks key).fixed = c.fixed := by
  unfold Chip.freeBlocks
  exact fixed_ite rfl rfl

@[simp] theorem fixed_exitCo (key : Nat) : (c.exitCo key).fixed = c.fixed := by
  unfold Chip.exitCo
  split
  · rfl
  · dsimp only
    rw [fixed_barrier, fixed_endSlots, fixed_stopRunning]
    exact fixed_ite (fixed_freeBlocks ..) (fixed_freeBlocks ..)

@[simp] theorem fixed_endCo (key st : Nat) : (c.endCo key st).fixed = c.fixed := by
  unfold Chip.endCo
  split
  · rfl
  · dsimp only
    rw [Chip.blame, fixed_modLaunch, fixed_signalOpened, fixed_exitCo]

/-! ### Records and faults (R222, R267) -/

@[simp] theorem fixed_settlePool (key : Nat) (used : List Nat) : (c.settlePool key used).fixed = c.fixed := by
  unfold Chip.settlePool
  split <;> rfl

@[simp] theorem fixed_spillRecord (key : Nat) : (c.spillRecord key).fixed = c.fixed := by
  unfold Chip.spillRecord
  split
  · rfl
  · exact fixed_homePut ..

@[simp] theorem fixed_enterFault (p d : Nat) (e : FqEntry) : (c.enterFault p d e).fixed = c.fixed := by
  unfold Chip.enterFault
  exact fixed_ite rfl (fixed_modFq ..)

@[simp] theorem fixed_postFault (key : Nat) (co : Coroutine) (fl : Nat) : (c.postFault key co fl).fixed = c.fixed := by
  unfold Chip.postFault
  dsimp only
  refine fixed_ite rfl ?_
  split
  · exact fixed_enterFault ..
  · rfl

@[simp] theorem fixed_becomeFaulted (key : Nat) (co : Coroutine) (fl : Nat) : (c.becomeFaulted key co fl).fixed = c.fixed := by
  unfold Chip.becomeFaulted
  rw [fixed_postFault, fixed_spillRecord, fixed_settlePool, fixed_stopRunning, fixed_setCo]

end

@[simp] theorem fixed_makeRoom (fuel : Nat) (c : Chip) (k new : Nat) : (Chip.makeRoom fuel c k new).fixed = c.fixed := by
  induction fuel generalizing c with
  | zero => rfl
  | succ f ih =>
    unfold Chip.makeRoom
    refine fixed_ite rfl ?_
    split
    · rw [ih, fixed_spillRecord, fixed_freeBlocks]
    · rfl

section
variable (c : Chip)

@[simp] theorem fixed_keepRecord (key : Nat) : (c.keepRecord key).fixed = c.fixed := by
  unfold Chip.keepRecord
  rw [fixed_makeRoom, fixed_settlePool, fixed_modCore, fixed_modCo]

@[simp] theorem fixed_takeTrap (key : Nat) (t : Trap) (fl : Nat) : (c.takeTrap key t fl).fixed = c.fixed := by
  unfold Chip.takeTrap
  split
  · rfl
  · exact fixed_ite rfl (fixed_becomeFaulted ..)

@[simp] theorem fixed_waitOnRecord (key : Nat) (t : Trap) : (c.waitOnRecord key t).fixed = c.fixed := by
  unfold Chip.waitOnRecord
  split
  · rfl
  · rw [fixed_keepRecord, fixed_stopRunning, fixed_setCo]

@[simp] theorem fixed_deliver (key : Nat) (d : Due) : (c.deliver key d).fixed = c.fixed := by
  cases d with
  | trap t fl => exact fixed_takeTrap ..
  | join t =>
    refine fixed_ite ?_ (fixed_waitOnRecord ..)
    rw [fixed_modCo, fixed_waitOnRecord]

@[simp] theorem fixed_take (key : Nat) (d : Due) : (c.take key d).fixed = c.fixed := by
  unfold Chip.take
  exact fixed_ite (fixed_modCo ..) (fixed_deliver ..)

@[simp] theorem fixed_trap (key : Nat) (t : Trap) : (c.trap key t).fixed = c.fixed := fixed_take ..

@[simp] theorem fixed_settleDue (key : Nat) : (c.settleDue key).fixed = c.fixed := by
  unfold Chip.settleDue
  split
  · rfl
  split
  · rfl
  · exact fixed_ite rfl (fixed_deliver ..)

@[simp] theorem fixed_stepTrap (key : Nat) : (c.stepTrap key).fixed = c.fixed := by
  unfold Chip.stepTrap
  split
  · rfl
  · exact fixed_ite rfl (fixed_trap ..)

@[simp] theorem fixed_openRecord (d asid va kind : Nat) (o : Option Nat) : (c.openRecord d asid va kind o).2.fixed = c.fixed := by
  unfold Chip.openRecord
  split
  · rfl
  · dsimp only
    refine fixed_ite ?_ ?_
    · rw [fixed_post, fixed_modRecs, fixed_modBeacon]
    · rw [fixed_modRecs, fixed_modBeacon]

@[simp] theorem fixed_hop (key d l : Nat) (t : Trap) : (c.hop key d l t).fixed = c.fixed := by
  unfold Chip.hop
  split
  · refine fixed_ite ?_ (fixed_trap ..)
    dsimp only
    rw [fixed_send, fixed_modLaunch, fixed_freeBlocks, fixed_stopRunning, fixed_withCos]
  · exact fixed_trap ..

@[simp] theorem fixed_memTrap (key : Nat) (f : MemFault) (t : Trap) : (c.memTrap key f t).fixed = c.fixed := by
  unfold Chip.memTrap
  split
  · rfl
  cases f with
  | poison => exact fixed_trap ..
  | xdie => exact fixed_trap ..
  | travel d l => exact fixed_hop ..
  | joined tok k => exact fixed_take ..
  | kind k =>
    refine fixed_ite (fixed_trap ..) (fixed_ite (fixed_trap ..) ?_)
    dsimp only
    refine fixed_ite ?_ ?_
    · rw [fixed_take, fixed_openRecord]
    · rw [fixed_take, fixed_openRecord]

@[simp] theorem fixed_openKvRecord (cl : Nat) (h : Word) (pos kind : Nat) (so : Bool) (o : Option Nat) :
    (c.openKvRecord cl h pos kind so o).2.fixed = c.fixed := by
  unfold Chip.openKvRecord
  dsimp only
  split
  · rfl
  split
  · rfl
  · dsimp only
    rw [fixed_modCluster, fixed_modBeacon]

@[simp] theorem fixed_kvTrap (key : Nat) (f : KvStop) (j h : Word) (pos : Nat) (t : Trap) : (c.kvTrap key f j h pos t).fixed = c.fixed := by
  unfold Chip.kvTrap
  split
  · rfl
  · dsimp only
    refine fixed_ite (fixed_trap ..) (fixed_ite (fixed_take ..) (fixed_ite (fixed_trap ..) ?_))
    rw [fixed_take, fixed_openKvRecord]

end

end Sys2Proof.Machine
end

section
/-! O44: vector entries, and the draining of a core, change nothing fixed (R97, R235). -/

namespace Sys2Proof.Machine

/-! ### Walks of the KV space (R129-R132) -/

@[simp] theorem fixed_kvRead (c : Chip) (pa n : Nat) : (c.kvRead pa n).2.fixed = c.fixed := by
  unfold Chip.kvRead
  split
  · exact fixed_readSound ..
  · rfl

@[simp] theorem fixed_versionsFrom (c : Chip) (d : Desc) (seq n i : Nat) : (c.versionsFrom d seq n i).2.fixed = c.fixed := by
  induction n generalizing c i with
  | zero => rfl
  | succ k ih =>
    unfold Chip.versionsFrom
    split
    next h => exact fixed_of_eq h (fixed_kvRead ..)
    next h => exact (ih _ _).trans (fixed_of_eq h (fixed_kvRead ..))

@[simp] theorem fixed_chain (c : Chip) (d : Desc) (fuel link idx seq layer blk : Nat) :
    (c.chain d fuel link idx seq layer blk).2.fixed = c.fixed := by
  induction fuel generalizing c link idx with
  | zero =>
    unfold Chip.chain
    split
    · rfl
    · split <;> rfl
  | succ f ih =>
    unfold Chip.chain
    dsimp only
    split
    · rfl
    split
    · rfl
    split
    next h => exact fixed_of_eq h (fixed_kvRead ..)
    next v b h =>
      have hb := fixed_of_eq h (fixed_kvRead ..)
      split
      · exact hb
      · exact (ih _ _ _).trans hb

@[simp] theorem fixed_probeTable (c : Chip) (d : Desc) (n h i seq layer blk : Nat) :
    (c.probeTable d n h i seq layer blk).2.fixed = c.fixed := by
  induction n generalizing c i with
  | zero => rfl
  | succ k ih =>
    unfold Chip.probeTable
    split
    next h => exact fixed_of_eq h (fixed_kvRead ..)
    next v b h =>
      have hb := fixed_of_eq h (fixed_kvRead ..)
      split
      · exact hb
      split
      · exact hb
      · exact (ih _ _).trans hb

section
variable (c : Chip)

@[simp] theorem fixed_lookup (d : Desc) (seq layer blk : Nat) : (c.lookup d seq layer blk).2.fixed = c.fixed := by
  have hp := fixed_probeTable c d 8 (kvHome seq layer blk d.hlog) 0 seq layer blk
  unfold Chip.lookup
  dsimp only
  split
  next b h =>
    have hb := fixed_of_eq h hp
    split
    next h => exact (fixed_of_eq h (fixed_kvRead ..)).trans hb
    next h => exact (fixed_chain ..).trans ((fixed_of_eq h (fixed_kvRead ..)).trans hb)
  next => exact hp

@[simp] theorem fixed_readFrame (d : Desc) (h : Word) (pos : Nat) : (c.readFrame d h pos).2.fixed = c.fixed := by
  unfold Chip.readFrame
  split
  · split
    next h => exact fixed_of_eq h (fixed_lookup ..)
    next h => exact fixed_of_eq h (fixed_lookup ..)
    next h => exact fixed_of_eq h (fixed_lookup ..)
  · split
    next h => exact fixed_of_eq h (fixed_versionsFrom ..)
    next vs b h =>
      have hb := fixed_of_eq h (fixed_versionsFrom ..)
      split
      · exact hb
      split
      next h => exact (fixed_of_eq h (fixed_kvRead ..)).trans hb
      next h => exact (fixed_of_eq h (fixed_kvRead ..)).trans hb

@[simp] theorem fixed_kvWalk (cl : Nat) (h : Word) (pos asid : Nat) : (c.kvWalk cl h pos asid).2.fixed = c.fixed := by
  unfold Chip.kvWalk
  split
  · rfl
  split
  · rfl
  dsimp only
  split
  · rfl
  split
  next h => exact fixed_of_eq h (fixed_readFrame ..)
  next f b h =>
    have hb := fixed_of_eq h (fixed_readFrame ..)
    split
    · exact hb
    split
    · exact hb
    · exact hb

/-! ### Elements (R377-R381) -/

@[simp] theorem fixed_loadElem (a : Agent) (ea n : Nat) (nf : Bool) : (c.loadElem a ea n nf).2.fixed = c.fixed := by
  unfold Chip.loadElem
  split
  · rfl
  split
  next h => exact fixed_of_eq h (fixed_xlate ..)
  next x b h =>
    have hb := fixed_of_eq h (fixed_xlate ..)
    split
    next h => exact (fixed_of_eq h (fixed_readSound ..)).trans hb
    next h => exact (fixed_of_eq h (fixed_readSound ..)).trans hb

@[simp] theorem fixed_dropOwnLine (k asid va : Nat) : (c.dropOwnLine k asid va).fixed = c.fixed := by
  unfold Chip.dropOwnLine
  exact fixed_ite rfl rfl

@[simp] theorem fixed_storeElem (k : Nat) (a : Agent) (ea : Nat) (bs : List Byte) (nf th o : Bool) (seen : List Nat) :
    (c.storeElem k a ea bs nf th o seen).2.fixed = c.fixed := by
  unfold Chip.storeElem
  split
  · rfl
  split
  next h => exact fixed_of_eq h (fixed_xlate ..)
  next x b h =>
    have hb := fixed_of_eq h (fixed_xlate ..)
    dsimp only
    split
    · refine fixed_ite ?_ ((fixed_drawBool b).trans hb)
      rw [fixed_dropOwnLine, fixed_writeL2, fixed_drawBool, hb]
    · dsimp only
      rw [fixed_dropOwnLine, fixed_writeL2, hb]

@[simp] theorem fixed_clearCovered (ws new : List (Nat × Nat)) : (c.clearCovered ws new).fixed = c.fixed :=
  fixed_foldl (fun _ _ => fixed_ite (fixed_clearPoison ..) rfl) new c

end

@[simp] theorem fixed_loadElems (c : Chip) (a : Agent) (e : VEntry) (co : Coroutine) (sp : MemSpec) (first : Option Nat) (skip : Bool)
    (is : List Nat) : (c.loadElems a e co sp first skip is).chip.fixed = c.fixed := by
  induction is generalizing c with
  | nil => rfl
  | cons i r ih =>
    unfold Chip.loadElems
    extract_lets ea ns
    split
    · rfl
    split
    next why b h =>
      have hb := fixed_of_eq h (fixed_loadElem ..)
      split
      · exact (ih _).trans hb
      · exact hb
    next h => exact (ih _).trans (fixed_of_eq h (fixed_loadElem ..))

@[simp] theorem fixed_storeElems (c : Chip) (k : Nat) (a : Agent) (e : VEntry) (co : Coroutine) (sp : MemSpec) (skip : Bool)
    (seen is : List Nat) : (c.storeElems k a e co sp skip seen is).chip.fixed = c.fixed := by
  induction is generalizing c seen with
  | nil => rfl
  | cons i r ih =>
    unfold Chip.storeElems
    extract_lets ea
    split
    next why b h =>
      have hb := fixed_of_eq h (fixed_storeElem ..)
      split
      · exact (ih _ _).trans hb
      · exact hb
    next h => exact (ih _ _).trans (fixed_of_eq h (fixed_storeElem ..))

@[simp] theorem fixed_loadScales (c : Chip) (a : Agent) (e : VEntry) (k : Nat) (skip : Bool) (n j : Nat) (co : Coroutine) :
    (c.loadScales a e k skip n j co).1.fixed = c.fixed := by
  induction n generalizing c j co with
  | zero => rfl
  | succ m ih =>
    unfold Chip.loadScales
    extract_lets ea
    split
    next why b h =>
      have hb := fixed_of_eq h (fixed_loadElem ..)
      split
      · exact (ih _ _ _).trans hb
      · exact hb
    next h => exact (ih _ _ _).trans (fixed_of_eq h (fixed_loadElem ..))

@[simp] theorem fixed_storeScales (c : Chip) (core : Nat) (a : Agent) (e : VEntry) (k : Nat) (skip : Bool) (n j : Nat) (co : Coroutine) :
    (c.storeScales core a e k skip n j co).1.fixed = c.fixed := by
  induction n generalizing c j with
  | zero => rfl
  | succ m ih =>
    unfold Chip.storeScales
    extract_lets ea
    split
    next why b h =>
      have hb := fixed_of_eq h (fixed_storeElem ..)
      split
      · exact (ih _ _).trans hb
      · exact hb
    next h => exact (ih _ _).trans (fixed_of_eq h (fixed_storeElem ..))

@[simp] theorem fixed_kvLoads (c : Chip) (d : Nat) (ds : Desc) (f : Nat) (h : Word) (pos : Nat) (half skip : Bool) (is : List Nat) :
    (c.kvLoads d ds f h pos half skip is).chip.fixed = c.fixed := by
  induction is generalizing c with
  | nil => rfl
  | cons i r ih =>
    unfold Chip.kvLoads
    extract_lets pa
    split
    · split
      · exact ih _
      · rfl
    split
    next b h =>
      have hb := fixed_of_eq h (fixed_readSound ..)
      split
      · exact (ih _).trans hb
      · exact hb
    next h => exact (ih _).trans (fixed_of_eq h (fixed_readSound ..))

@[simp] theorem fixed_kvStores (c : Chip) (key : Nat) (ds : Desc) (f : Nat) (h : Word) (pos : Nat) (half skip : Bool) (v : VReg)
    (is : List Nat) : (c.kvStores key ds f h pos half skip v is).chip.fixed = c.fixed := by
  induction is generalizing c with
  | nil => rfl
  | cons i r ih =>
    unfold Chip.kvStores
    extract_lets pa
    split
    · split
      · exact ih _
      · rfl
    · exact (ih _).trans (fixed_writeL2 ..)

/-! ### Entries (R235) -/

section
variable (c : Chip)

theorem fixed_stored (t : ElemRun) (co : Coroutine) (e : VEntry) : (t.stored co e).chip.fixed = t.chip.fixed := fixed_clearCovered ..

theorem fixed_memRun (sp : MemSpec) (key : Nat) (co : Coroutine) (e : VEntry) (skip : Bool) :
    (sp.run c key co e skip).chip.fixed = c.fixed := by
  unfold MemSpec.run
  extract_lets own a is first t co'
  split
  · exact (fixed_stored ..).trans (fixed_storeElems ..)
  · have ht : t.chip.fixed = c.fixed := fixed_loadElems ..
    split
    · exact ht
    · split
      · exact ht
      · exact ht

theorem fixed_scaleRun (load : Bool) (k key : Nat) (co : Coroutine) (e : VEntry) (skip : Bool) :
    (scaleRun load k c key co e skip).chip.fixed = c.fixed := by
  unfold scaleRun
  extract_lets a n
  split
  · exact fixed_loadScales ..
  · exact (fixed_clearCovered ..).trans (fixed_storeScales ..)

theorem fixed_kvRun (d : BitVec 5) (m : BitVec 3) (half store : Bool) (key : Nat) (co : Coroutine) (e : VEntry) (skip : Bool) :
    (kvRun d m half store c key co e skip).chip.fixed = c.fixed := by
  unfold kvRun
  extract_lets h pos cl
  split
  · rfl
  split
  · split <;> rfl
  split
  next hw =>
    have hb := fixed_of_eq hw (fixed_kvWalk ..)
    split
    · exact hb
    · exact hb
  next hw =>
    have hb := fixed_of_eq hw (fixed_kvWalk ..)
    split
    · exact (fixed_stored ..).trans ((fixed_kvStores ..).trans hb)
    · exact (fixed_kvLoads ..).trans hb

/-- An entry that runs changes nothing fixed. -/
@[simp] theorem fixed_runEntry (key : Nat) (co : Coroutine) (e : VEntry) (skip : Bool) : (runEntry c key co e skip).chip.fixed = c.fixed := by
  unfold runEntry
  split
  · rfl
  split
  · exact fixed_memRun ..
  split
  · exact fixed_scaleRun ..
  · exact fixed_scaleRun ..
  · exact fixed_kvRun ..
  · exact fixed_kvRun ..
  · rfl
  · rfl
  · rfl
  · rfl

@[simp] theorem fixed_performed (cl : Nat) (seqs : List Nat) : (c.performed cl seqs).fixed = c.fixed := by
  unfold Chip.performed
  exact fixed_ite rfl rfl

@[simp] theorem fixed_noteWrites (key : Nat) (ws : List (Nat × Nat)) : (c.noteWrites key ws).fixed = c.fixed := by
  unfold Chip.noteWrites
  exact fixed_ite rfl rfl

@[simp] theorem fixed_gatherEntries (key n : Nat) : (c.gatherEntries key n).fixed = c.fixed := by
  unfold Chip.gatherEntries
  refine fixed_ite rfl ?_
  rw [fixed_modCore, fixed_modCo]

@[simp] theorem fixed_gatherStores (key : Nat) : (c.gatherStores key).fixed = c.fixed := by
  unfold Chip.gatherStores
  rw [fixed_modCore, fixed_modCo]

@[simp] theorem fixed_entryDone (key : Nat) (e : VEntry) : (c.entryDone key e).fixed = c.fixed := by
  unfold Chip.entryDone
  rw [fixed_settlePool, fixed_performed, fixed_dropEntry]

theorem fixed_stopEntry (key : Nat) (co : Coroutine) (e : VEntry) {r : VRun} (s : VStop) (h : r.chip.fixed = c.fixed) :
    (c.stopEntry key co e r s).fixed = c.fixed := by
  unfold Chip.stopEntry
  split
  · rw [fixed_settleDue, fixed_settlePool, fixed_gatherEntries, fixed_noteWrites, fixed_setCo, h]
  split
  · rfl
  dsimp only
  split
  · rw [fixed_trap, fixed_settlePool, fixed_gatherEntries, fixed_noteWrites, fixed_setCo, h]
  · rw [fixed_memTrap, fixed_settlePool, fixed_gatherEntries, fixed_noteWrites, fixed_setCo, h]
  · rw [fixed_kvTrap, fixed_settlePool, fixed_gatherEntries, fixed_noteWrites, fixed_setCo, h]

@[simp] theorem fixed_stepEntry (key : Nat) (co : Coroutine) (e : VEntry) : (c.stepEntry key co e).fixed = c.fixed := by
  unfold Chip.stepEntry
  extract_lets n r d
  have hr : r.chip.fixed = c.fixed := fixed_runEntry ..
  split
  · exact fixed_stopEntry c key co e _ hr
  · have hd : d.fixed = c.fixed := (fixed_setCo ..).trans hr
    split
    · rw [fixed_stepTrap, fixed_entryDone, hd]
    · rw [fixed_trap, fixed_gatherEntries, fixed_noteWrites, hd]

@[simp] theorem fixed_completeEntry (core : Nat) : (c.completeEntry core).fixed = c.fixed := by
  unfold Chip.completeEntry
  split
  · rfl
  next e rest hq =>
    extract_lets key
    split
    · rw [fixed_performed, fixed_dropEntry]
    next co hco =>
      split
      · extract_lets b
        have hb : b.fixed = c.fixed := by
          simp only [b]
          rw [fixed_settlePool, fixed_modCore, fixed_dropEntry]
        exact fixed_ite ((fixed_stepTrap ..).trans hb) ((fixed_settleDue ..).trans hb)
      refine fixed_ite rfl (fixed_ite rfl (fixed_ite (fixed_stepEntry ..) ?_))
      extract_lets r d
      have hr : r.chip.fixed = c.fixed := fixed_runEntry ..
      split
      · exact fixed_stopEntry c key co e _ hr
      · have hd : d.fixed = c.fixed := by
          simp only [d]
          rw [fixed_settleDue, fixed_entryDone, fixed_setCo, hr]
        exact fixed_ite ((fixed_stepTrap ..).trans hd) hd

/-! ### Draining a core (R175, R213) -/

@[simp] theorem fixed_acceptStore (core i : Nat) : (c.acceptStore core i).fixed = c.fixed := by
  unfold Chip.acceptStore
  split
  · rfl
  dsimp only
  refine fixed_ite rfl ?_
  split
  next b h =>
    rw [fixed_settleDue, fixed_dropStore]
    exact fixed_of_eq h (fixed_performStore ..)
  next b h =>
    refine fixed_ite ?_ rfl
    rw [fixed_dropStore]
    exact fixed_of_eq h (fixed_performStore ..)

@[simp] theorem fixed_faultStore (core i : Nat) : (c.faultStore core i).fixed = c.fixed := by
  unfold Chip.faultStore
  split
  · rfl
  dsimp only
  refine fixed_ite rfl ?_
  split
  · rfl
  split
  · rfl
  next b h =>
    have hb := fixed_of_eq h (fixed_performStore ..)
    refine fixed_ite ((fixed_dropStore ..).trans hb) (fixed_ite rfl (fixed_ite ?_ (fixed_ite rfl ?_)))
    · rw [fixed_settleDue, fixed_gatherStores, hb]
    · rw [fixed_memTrap, fixed_gatherStores, hb]

@[simp] theorem fixed_drainEntry (core : Nat) : (c.drainEntry core).fixed = c.fixed := by
  unfold Chip.drainEntry
  split
  · rfl
  · exact fixed_ite rfl (fixed_completeEntry ..)

@[simp] theorem fixed_drainOne (core : Nat) : (c.drainOne core).fixed = c.fixed := by
  unfold Chip.drainOne
  exact fixed_ite (fixed_acceptStore ..) (fixed_ite (fixed_drainEntry ..) (fixed_faultStore ..))

@[simp] theorem fixed_drainCore (core : Nat) : (c.drainCore core).fixed = c.fixed := by
  unfold Chip.drainCore
  exact fixed_foldl (fun b _ => fixed_drainOne b core) _ c

end

end Sys2Proof.Machine
end

section
/-! O44: the function-level reset (R97). -/

namespace Sys2Proof.Machine

/-! ### The pilot's buffer (R91) -/

theorem Pilot.bufferEvent_frame (p : Pilot) (e : PEvent) (now : Nat) : p.bufferEvent e now
    = { p with buffer := (p.bufferEvent e now).buffer, lost := (p.bufferEvent e now).lost, held := (p.bufferEvent e now).held } := by
  unfold Pilot.bufferEvent
  split
  · rfl
  · split <;> rfl

/-- Held events that a disabled ring's pilot takes change its buffer, its loss count and what is held, and nothing else. -/
theorem Pilot.rebuffer_frame (p : Pilot) (now : Nat) :
    p.rebuffer now = { p with buffer := (p.rebuffer now).buffer, lost := (p.rebuffer now).lost, held := (p.rebuffer now).held } := by
  refine foldl_keeps (P := fun q : Pilot => q = { p with buffer := q.buffer, lost := q.lost, held := q.held }) (fun q e hq => ?_) _ rfl
  have h : ∀ b l d, ({ q with buffer := b, lost := l, held := d } : Pilot) = { p with buffer := b, lost := l, held := d } :=
    fun _ _ _ => by rw [hq]
  exact (Pilot.bufferEvent_frame q e now).trans (h _ _ _)

/-- Events that fit into the buffer are taken in their order. -/
theorem Pilot.foldl_bufferEvent {l : List PEvent} {p : Pilot} (hh : p.held = []) (hn : p.buffer.length + l.length ≤ 1024) (now : Nat) :
    l.foldl (fun p e => p.bufferEvent e now) p = { p with buffer := p.buffer ++ l.map (fun e => (e, now)) } := by
  induction l generalizing p with
  | nil => simp
  | cons e r ih =>
    rw [List.length_cons] at hn
    have hb : p.bufferEvent e now = { p with buffer := p.buffer ++ [(e, now)] } := by
      rw [Pilot.bufferEvent, if_pos ⟨by omega, hh⟩]
    rw [List.foldl_cons, hb]
    refine (ih (p := { p with buffer := p.buffer ++ [(e, now)] }) hh ?_).trans ?_
    · rw [List.length_append, List.length_singleton]
      omega
    · simp

theorem Pilot.rebuffer_fits {p : Pilot} (hn : p.buffer.length + p.held.length ≤ 1024) (now : Nat) :
    p.rebuffer now = { p with buffer := p.buffer ++ p.held.map (fun e => (e, now)), held := [] } :=
  Pilot.foldl_bufferEvent (p := { p with held := [] }) rfl hn now

/-! ### What engines leave alone -/

/-- `d` is `c` but for what engines and moved lines change: nothing fixed, no partition and no running coroutine; where there
are no coroutines there are none. -/
structure Quiet (c d : Chip) : Prop where
  fixed : d.fixed = c.fixed
  cos : c.cos = [] → d.cos = []
  running : ∀ n, (d.core n).running = (c.core n).running
  parts : d.parts = c.parts

theorem Quiet.refl (c : Chip) : Quiet c c := ⟨rfl, id, fun _ => rfl, rfl⟩

theorem Quiet.trans {a b c : Chip} (h : Quiet a b) (k : Quiet b c) : Quiet a c :=
  ⟨k.fixed.trans h.fixed, fun e => k.cos (h.cos e), fun n => (k.running n).trans (h.running n), k.parts.trans h.parts⟩

theorem quiet_ite {p : Prop} [Decidable p] {a b c : Chip} (ha : Quiet c a) (hb : Quiet c b) : Quiet c (if p then a else b) := by
  split
  · exact ha
  · exact hb

theorem quiet_foldl {α : Type} {f : Chip → α → Chip} (h : ∀ c a, Quiet c (f c a)) (l : List α) (c : Chip) : Quiet c (l.foldl f c) :=
  foldl_keeps (P := Quiet c) (fun d a hd => hd.trans (h d a)) l (Quiet.refl c)

/-- Moving lines is quiet. -/
theorem Moves.quietly {T : Nat → Prop} {c d : Chip} (h : Moves T c d) : Quiet c d :=
  ⟨h.fixed, fun e => by rw [h.frame]; exact e, fun n => by rw [h.frame]; rfl, by rw [h.frame]⟩

section
variable (c : Chip)

theorem quiet_withMem (m : Memory) : Quiet c { c with mem := m } := ⟨rfl, id, fun _ => rfl, rfl⟩
theorem quiet_withDram (m : Memory) (o : List Host.Cell) (w : AMap (BitVec 16)) (q : AMap (List (Nat × BitVec 16))) (l : AMap Latent) :
    Quiet c { c with mem := m, dramOld := o, compass := w, combiner := q, latent := l } := ⟨rfl, id, fun _ => rfl, rfl⟩
theorem quiet_withClusters (x : AMap Cluster) : Quiet c { c with clusters := x } := ⟨rfl, id, fun _ => rfl, rfl⟩
theorem quiet_modCluster (k : Nat) (f : Cluster → Cluster) : Quiet c (c.modCluster k f) := ⟨rfl, id, fun _ => rfl, rfl⟩
theorem quiet_scrambleSlot (cl s n : Nat) : Quiet c (c.scrambleSlot cl s n) := ⟨rfl, id, fun _ => rfl, rfl⟩
theorem quiet_send (src : Source) (p : Option Nat) (m : Msg) : Quiet c (c.send src p m) := ⟨rfl, id, fun _ => rfl, rfl⟩

theorem quiet_wakeAll (p : Nat → Coroutine → Bool) : Quiet c (c.wakeAll p) :=
  ⟨rfl, fun e => by rw [Chip.wakeAll, e]; rfl, fun _ => rfl, rfl⟩

theorem quiet_modCo (key : Nat) (f : Coroutine → Coroutine) : Quiet c (c.modCo key f) := by
  unfold Chip.modCo
  split
  next co h =>
    refine ⟨rfl, fun e => ?_, fun _ => rfl, rfl⟩
    rw [e] at h
    cases h
  next => exact .refl c

/-! ### The dome (R244) -/

theorem quiet_slotFlags (cl s : Nat) (f : Flags) : Quiet c (c.slotFlags cl s f) := quiet_ite (.refl c) (quiet_modCluster ..)

theorem quiet_slotRun (cl s : Nat) (f : SlotRun → SlotRun) : Quiet c (c.slotRun cl s f) := (quiet_withMem ..).trans (quiet_slotFlags ..)

theorem quiet_performMatrix (cl : Nat) (e : MEntry) : Quiet c (c.performMatrix cl e) := by
  unfold Chip.performMatrix
  dsimp only
  split
  · exact quiet_slotRun ..
  · exact quiet_slotRun ..
  · exact quiet_slotRun ..
  · exact quiet_slotRun ..
  · exact quiet_slotRun ..
  · exact quiet_slotRun ..
  · exact ((quiet_withMem ..).trans (quiet_modCluster ..)).trans (quiet_modCo ..)
  · exact quiet_withMem ..
  · exact quiet_scrambleSlot ..
  · exact quiet_modCo ..
  · exact .refl c

theorem quiet_performed (cl : Nat) (seqs : List Nat) : Quiet c (c.performed cl seqs) := quiet_ite (.refl c) (quiet_modCluster ..)

theorem quiet_complete (src : Source) (tok : Word) (st es : Nat) : Quiet c (c.complete src tok st es) :=
  quiet_ite (.refl c) (quiet_send ..)

theorem quiet_endCopy (cl id st : Nat) : Quiet c (c.endCopy cl id st) := by
  unfold Chip.endCopy
  split
  · exact .refl c
  · exact (quiet_modCluster ..).trans (quiet_complete ..)

theorem quiet_sweepSlots (cl : Nat) : Quiet c (c.sweepSlots cl) := by
  unfold Chip.sweepSlots
  refine quiet_foldl (fun b s => quiet_ite ?_ (.refl b)) _ c
  exact ((quiet_modCluster ..).trans (quiet_wakeAll ..)).trans (quiet_scrambleSlot ..)

theorem quiet_domeComplete (cl : Nat) : Quiet c (c.domeComplete cl) := by
  unfold Chip.domeComplete
  split
  · exact .refl c
  next e he =>
    extract_lets b d
    have hb : Quiet c b := (quiet_performMatrix ..).trans (quiet_modCluster ..)
    have hd : Quiet b d := quiet_ite ((quiet_performed ..).trans (quiet_modCluster ..)) (quiet_performed ..)
    refine ((hb.trans hd).trans ?_).trans (quiet_sweepSlots ..)
    split
    · exact quiet_endCopy ..
    · exact .refl d

/-! ### Engines and slots (R97) -/

theorem quiet_freeSlotsOf (cl : Nat) : Quiet c (c.freeSlotsOf cl) := by
  unfold Chip.freeSlotsOf
  refine quiet_foldl (fun b s => quiet_ite ?_ (.refl b)) _ c
  exact (quiet_modCluster ..).trans (quiet_scrambleSlot ..)

/-- The cores with a field changed that says nothing of what runs. -/
theorem running_mmap {m : AMap Core} {f : Nat → Core → Core} (h : ∀ n k, (f n k).running = k.running) (n : Nat) :
    (mgetD (mmap m f) n Core.reset).running = (mgetD m n Core.reset).running := by
  unfold mgetD
  rw [mget_mmap]
  cases mget m n with
  | none => rfl
  | some k => exact h n k

theorem quiet_resetEngines : Quiet c c.resetEngines := by
  unfold Chip.resetEngines
  extract_lets a cls b d left e
  have ha : Quiet c a := ⟨rfl, id, running_mmap (m := c.cores) (f := fun _ k => { k with mq := [] }) fun _ _ => rfl, rfl⟩
  have hb : Quiet a b := quiet_foldl (fun x cl => quiet_domeComplete x cl) cls a
  have hd : Quiet b d := quiet_withClusters ..
  have he : Quiet d e := quiet_withClusters ..
  exact (((ha.trans hb).trans hd).trans he).trans (quiet_foldl (fun x cl => quiet_freeSlotsOf x cl) cls e)

/-! ### Spill regions and beacon tables (R97, R269) -/

theorem moves_recallToU {T : Nat → Prop} (l : Nat) : Moves T c (c.recallToU l) := (moves_flushSpires ..).trans (moves_setCompass ..)

theorem mem_flushSector (p : LineCopy) (l s : Nat) : (c.flushSector p l s).mem = c.mem := by
  unfold Chip.flushSector
  dsimp only
  split
  · rfl
  · rw [(placeAll_setDram ..).1]
    rfl

theorem mem_flushPoison (p : LineCopy) (l : Nat) : (c.flushPoison p l).mem = c.mem := by
  unfold Chip.flushPoison
  split <;> rfl

theorem mem_modCopy (n l : Nat) (f : LineCopy → LineCopy) : (c.modCopy n l f).mem = c.mem := by
  unfold Chip.modCopy
  split <;> rfl

/-- A write-back goes to DRAM, below what software reads. -/
theorem mem_flushCopy (n l : Nat) : (c.flushCopy n l).mem = c.mem := by
  have hs : ∀ (b : Chip) (p : LineCopy) (s : Nat) (q : Prop) [Decidable q], (if q then b.flushSector p l s else b).mem = b.mem :=
    fun b p s q _ => by
      split
      · exact mem_flushSector ..
      · rfl
  unfold Chip.flushCopy
  split
  · rfl
  · dsimp only
    rw [mem_modCopy, hs, hs, mem_flushPoison]

end

theorem mem_flushSpires (c : Chip) (l : Nat) (ds : List Nat) : (c.flushSpires l ds).mem = c.mem := by
  induction ds generalizing c with
  | nil => rfl
  | cons d r ih => exact (ih _).trans (mem_flushCopy c d l)

theorem mem_recallToU (c : Chip) (l : Nat) : (c.recallToU l).mem = c.mem := mem_flushSpires ..

/-- Clearing a spill region moves lines, and takes from memory what lies in the region. -/
theorem clearSpill_spec (c : Chip) (base : Nat) : Quiet c (c.clearSpill base) ∧ (c.clearSpill base).spires = c.spires
    ∧ (c.clearSpill base).mem = if base = 0 then c.mem else memClear c.mem base (288 * 2 ^ 21) := by
  by_cases hb : base = 0
  · rw [Chip.clearSpill, if_pos hb, if_pos hb]
    exact ⟨.refl c, rfl, rfl⟩
  rw [Chip.clearSpill, if_neg hb, if_neg hb]
  extract_lets d inside
  have hd : Moves (fun _ => True) c d ∧ d.mem = c.mem := by
    refine foldl_keeps (P := fun b => Moves (fun _ => True) c b ∧ b.mem = c.mem) (fun b i hb => ?_) _ ⟨.refl _ c, rfl⟩
    exact foldl_keeps (P := fun b => Moves (fun _ => True) c b ∧ b.mem = c.mem)
      (fun x l hx => ⟨hx.1.trans (moves_recallToU ..), (mem_recallToU ..).trans hx.2⟩) _ hb
  obtain ⟨hm, hmem⟩ := hd
  clear_value d inside
  refine ⟨hm.quietly.trans (quiet_withDram d _ _ _ _ _), ?_, ?_⟩
  · show d.spires = c.spires
    rw [hm.frame]
  · show memClear d.mem _ _ = _
    rw [hmem]

/-- A spire's region and table as a function-level reset leaves them, where the region starts at `a`. -/
def Chip.SpireCleared (c : Chip) (d a : Nat) : Prop :=
  (c.spire d).spill = a → (c.spire d).beacons = [] ∧ (a ≠ 0 → c.mem.Blank a (288 * 2 ^ 21))

theorem quiet_clearSpire (c : Chip) (d : Nat) : Quiet c (c.clearSpire d) :=
  (clearSpill_spec c _).1.trans ⟨fixed_modSpire _ d fun _ => rfl, id, fun _ => rfl, rfl⟩

/-- No clearing moves a spill region. -/
theorem spill_clearSpire (c : Chip) (d k : Nat) : ((c.clearSpire d).spire k).spill = (c.spire k).spill :=
  congrFun (congrArg Fixed.spill (quiet_clearSpire c d).fixed) k

theorem mem_clearSpire (c : Chip) (d : Nat) :
    (c.clearSpire d).mem = if (c.spire d).spill = 0 then c.mem else memClear c.mem (c.spire d).spill (288 * 2 ^ 21) :=
  (clearSpill_spec c _).2.2

theorem spireCleared_clearSpire_self (c : Chip) {d : Nat} (hd : d < 4) (a : Nat) : (c.clearSpire d).SpireCleared d a := by
  intro ha
  rw [spill_clearSpire] at ha
  refine ⟨?_, fun h0 => ?_⟩
  · rw [Chip.clearSpire, Chip.spire_modSpire_self _ _ hd]
  · rw [mem_clearSpire, ha, if_neg h0]
    exact Memory.blank_memClear _ _ _

theorem spireCleared_clearSpire {c : Chip} {d k a : Nat} (hk : k < 4) (h : c.SpireCleared k a) : (c.clearSpire d).SpireCleared k a := by
  by_cases hkd : k = d
  · subst hkd
    exact spireCleared_clearSpire_self c hk a
  intro ha
  rw [spill_clearSpire] at ha
  obtain ⟨hb, hm⟩ := h ha
  refine ⟨?_, fun h0 => ?_⟩
  · rw [Chip.clearSpire, Chip.spire_modSpire_ne _ _ hkd, Chip.spire, (clearSpill_spec c _).2.1]
    exact hb
  · rw [mem_clearSpire]
    split
    · exact hm h0
    · exact (hm h0).memClear _ _

/-- Every spire is cleared after the four. -/
theorem spireCleared_all (c : Chip) {d : Nat} (hd : d < 4) (a : Nat) :
    ((List.range 4).foldl (fun c d => c.clearSpire d) c).SpireCleared d a := by
  refine foldl_establishes (P := fun b : Chip => b.SpireCleared d a) (fun b e h => ?_) (fun b => ?_) (List.mem_range.2 hd) c
  · exact spireCleared_clearSpire hd h
  · exact spireCleared_clearSpire_self b hd a

/-! ### The chip's part (R97) -/

/-- The coroutines ended and the cores drained, as a function-level reset begins. -/
def Chip.drained (c : Chip) : Chip :=
  let c := { c with launches := [], msgs := [] }
  let c := (c.cos.map (fun e => e.1)).foldl (fun c k => c.endCo k 8) c
  (c.cores.map (fun e => e.1)).foldl (fun c k => c.drainCore k) c

/-- The chip with nothing scheduled, every partition disabled and no window of the links open. -/
def Chip.unscheduled (c : Chip) : Chip :=
  { c with
    cos := [], gangs := [], resq := [], msgs := []
    cores := mmap c.cores (fun _ k => { k with running := none, sb := [], vq := [], pool := [] })
    parts := mmap c.parts (fun _ q => q.cleared)
    links := { c.links with windows := [] } }

theorem Chip.functionReset_eq (c : Chip) :
    c.functionReset = (List.range 4).foldl (fun c d => c.clearSpire d) c.drained.unscheduled.resetEngines := rfl

theorem fixed_drained (c : Chip) : c.drained.fixed = { c.fixed with idle := true } := by
  unfold Chip.drained
  dsimp only
  rw [fixed_foldl (fun b k => fixed_drainCore b k), fixed_foldl (fun b k => fixed_endCo b k 8)]
  rfl

/-- What follows the draining is quiet. -/
theorem quiet_functionReset (c : Chip) : Quiet c.drained.unscheduled c.functionReset := by
  rw [Chip.functionReset_eq]
  exact (quiet_resetEngines _).trans (quiet_foldl (fun b d => quiet_clearSpire b d) _ _)

theorem part_unscheduled (c : Chip) (p : Nat) : c.unscheduled.part p = (c.part p).cleared := by
  show mgetD (mmap c.parts fun _ q => q.cleared) p Partition.reset = _
  rw [mgetD, mget_mmap, Chip.part, mgetD]
  cases mget c.parts p with
  | none => rfl
  | some q => rfl

theorem running_unscheduled (c : Chip) (n : Nat) : (c.unscheduled.core n).running = none := by
  show (mgetD (mmap c.cores fun _ k => { k with running := none, sb := [], vq := [], pool := [] }) n Core.reset).running = none
  rw [mgetD, mget_mmap]
  cases mget c.cores n with
  | none => rfl
  | some k => rfl

/-- Nothing fixed changes in a function-level reset but the launches and the windows of the links. -/
theorem fixed_functionReset (c : Chip) : c.functionReset.version = c.version ∧ c.functionReset.devhash = c.devhash
    ∧ c.functionReset.retired = c.retired ∧ c.functionReset.launches = []
    ∧ (∀ d, (c.functionReset.spire d).spill = (c.spire d).spill)
    ∧ c.functionReset.links = { c.links with windows := [], cxlBad := c.functionReset.links.cxlBad } := by
  have hq := (quiet_functionReset c).fixed
  have hd := fixed_drained c
  generalize c.functionReset = t at hq ⊢
  generalize c.drained = b at hq hd
  have hversion : b.version = c.version := congrArg Fixed.version hd
  have hdevhash : b.devhash = c.devhash := congrArg Fixed.devhash hd
  have hretired : b.retired = c.retired := congrArg Fixed.retired hd
  have hlaunches : b.launches.isEmpty = true := congrArg Fixed.idle hd
  have hspill : ∀ d, (b.spire d).spill = (c.spire d).spill := fun d => congrFun (congrArg Fixed.spill hd) d
  have hlinks : ({ b.links with cxlBad := [] } : Links) = { c.links with cxlBad := [] } := congrArg Fixed.links hd
  have tlaunches : t.launches.isEmpty = b.launches.isEmpty := congrArg Fixed.idle hq
  have tlinks : ({ t.links with cxlBad := [] } : Links) = { b.links with windows := [], cxlBad := [] } := congrArg Fixed.links hq
  refine ⟨(congrArg Fixed.version hq).trans hversion, (congrArg Fixed.devhash hq).trans hdevhash,
    (congrArg Fixed.retired hq).trans hretired, List.isEmpty_iff.1 (tlaunches.trans hlaunches),
    fun d => (congrFun (congrArg Fixed.spill hq) d).trans (hspill d), ?_⟩
  calc t.links = { ({ t.links with cxlBad := [] } : Links) with cxlBad := t.links.cxlBad } := rfl
    _ = { ({ ({ b.links with cxlBad := [] } : Links) with windows := [] } : Links) with cxlBad := t.links.cxlBad } := by rw [tlinks]
    _ = { c.links with windows := [], cxlBad := t.links.cxlBad } := by rw [hlinks]

/-- The tolerance of a partition, of the package block, stays; its other registers are reset. -/
theorem part_functionReset (c : Chip) (p : Nat) : c.functionReset.part p = { Partition.reset with tol := (c.part p).tol } := by
  have hd : (c.drained.part p).tol = (c.part p).tol := congrFun (congrArg Fixed.tol (fixed_drained c)) p
  rw [Chip.part, (quiet_functionReset c).parts]
  refine (part_unscheduled c.drained p).trans ?_
  rw [Partition.cleared, hd]

/-- Beacon tables and spill regions after a function-level reset. -/
theorem regions_functionReset (c : Chip) {d : Nat} (hd : d < 4) : (c.functionReset.spire d).beacons = []
    ∧ ((c.spire d).spill ≠ 0 → c.functionReset.mem.Blank (c.spire d).spill (288 * 2 ^ 21)) := by
  obtain ⟨-, -, -, -, hspill, -⟩ := fixed_functionReset c
  have h := spireCleared_all c.drained.unscheduled.resetEngines hd (c.spire d).spill
  rw [← Chip.functionReset_eq] at h
  exact h (hspill d)

/-! ### The reset -/

theorem exec_functionLevelReset {s : State} (h : s.keep.power.halted = false) : exec .functionLevelReset s
    = .next { s with keep := s.keep.functionReset s.chip.time, chip := s.chip.functionReset } := by
  show Host.Outcome.next { s with
    keep := s.keep.functionReset s.chip.time, chip := if s.keep.power.halted then s.chip else s.chip.functionReset } = _
  rw [h]
  rfl

/-- The event-queue registers after a function-level reset (R78, R89). -/
theorem pilot_functionReset (k : Keep) (now : Nat) :
    let p := (k.functionReset now).pilot
    p.base = 0 ∧ p.en = false ∧ p.log2n = 8 ∧ p.head = 0 ∧ p.tail = 0 ∧ p.irqCount = 1 ∧ p.usec = 0
    ∧ (k.pilot.buffer.length + k.pilot.held.length ≤ 1024 → p.lost = 0 ∧ p.held = []
      ∧ p.buffer.map Prod.fst = k.pilot.buffer.map Prod.fst ++ k.pilot.held) := by
  have hf := Pilot.rebuffer_frame { Keep.reset.pilot with buffer := k.pilot.buffer, held := k.pilot.held } now
  have hn := Pilot.rebuffer_fits (p := { Keep.reset.pilot with buffer := k.pilot.buffer, held := k.pilot.held }) (now := now)
  have hp : (k.functionReset now).pilot
      = ({ Keep.reset.pilot with buffer := k.pilot.buffer, held := k.pilot.held } : Pilot).rebuffer now := rfl
  rw [← hp] at hf hn
  refine ⟨congrArg Pilot.base hf, congrArg Pilot.en hf, congrArg Pilot.log2n hf, congrArg Pilot.head hf, congrArg Pilot.tail hf,
    congrArg Pilot.irqCount hf, congrArg Pilot.usec hf, fun h => ?_⟩
  refine ⟨congrArg Pilot.lost (hn h), congrArg Pilot.held (hn h), ?_⟩
  have hb : (k.functionReset now).pilot.buffer = k.pilot.buffer ++ k.pilot.held.map (fun e => (e, now)) :=
    congrArg Pilot.buffer (hn h)
  rw [hb]
  simp [Function.comp_def]

/-- A function-level reset, of a package whose clocks run. -/
theorem functionLevelResetClears : Claims.FunctionLevelResetClears := by
  intro s hs
  refine ⟨_, exec_functionLevelReset hs, ?_⟩
  obtain ⟨hversion, hdevhash, hretired, hlaunches, -, hlinks⟩ := fixed_functionReset s.chip
  have hcos : s.chip.functionReset.cos = [] := (quiet_functionReset s.chip).cos rfl
  have hrun : ∀ n, (s.chip.functionReset.core n).running = none := fun n =>
    ((quiet_functionReset s.chip).running n).trans (running_unscheduled _ n)
  have hpart := part_functionReset s.chip
  have hbeacon : ∀ d i, d < 4 → s.chip.functionReset.beacon d i = Beacon.reset := fun d i hd => by
    rw [Chip.beacon, (regions_functionReset s.chip hd).1]
    rfl
  have hspill : ∀ d a, d < 4 → (s.chip.spire d).spill ≠ 0 → (s.chip.spire d).spill ≤ a →
      a < (s.chip.spire d).spill + 288 * 2 ^ 21 → memRead s.chip.functionReset.mem a = 0 := fun d _ hd h0 =>
    ((regions_functionReset s.chip hd).2 h0).read
  obtain ⟨hbase, hen, hlog, hhead, htail, hirq, husec, hheld⟩ := pilot_functionReset s.keep s.chip.time
  generalize s.chip.functionReset = t at hversion hdevhash hretired hlaunches hlinks hcos hrun hpart hbeacon hspill ⊢
  exact ⟨hlaunches, hcos, hrun, hpart, hbeacon, hspill, rfl, rfl, rfl, rfl, hbase, hen, hlog, hhead, htail, hirq, husec, hheld,
    rfl, rfl, rfl, rfl, rfl, hversion, hdevhash, hretired, hlinks⟩

/-- Settles O44: the boot follows its stages, a firmware command its checks, and a reset its order. -/
theorem bootFirmwareAndReset : Obligations.BootFirmwareAndReset :=
  ⟨powerGoodRunsTheBootStages, firmwareCommandResults, functionLevelResetClears⟩

end Sys2Proof.Machine
end

section
/-! O43: the host's accesses through the on-chip window (R17, R53). -/

namespace Sys2Proof.Machine

/-! ### Accesses to the window -/

theorem exec_windowAccess {s : State} {w : Bool} {off : BitVec 33} {size : BitVec 13} (v : List (BitVec 8))
    (hh : s.keep.power.halted = false) (h1 : 1 ≤ size.toNat) (hm : size.toNat ≤ windowMax w) :
    exec (.windowAccess w off size v) s = .next (windowTouch w off.toNat size.toNat v s) := by
  have hc : ¬(size.toNat = 0 ∨ windowMax w < size.toNat ∨ s.keep.power.halted = true) := by
    rintro (hz | hl | ht)
    · omega
    · omega
    · exact absurd (hh.symm.trans ht) (by decide)
  exact congrArg Host.Outcome.next (if_neg hc)

/-- An access before `READY` reads zeros and touches nothing. -/
theorem windowTouch_unready {s : State} (h : s.keep.boot.ready = false) (w : Bool) (off n : Nat) (v : List Byte) :
    windowTouch w off n v s = { s with keep := s.keep.reply (List.replicate (if w then 0 else n) 0) false } := by
  simp only [windowTouch, h]
  rfl

/-- An access that touches a hole is refused whole. -/
theorem windowTouch_hole {s : State} (h : s.keep.boot.ready = true) {off n i : Nat} (hi : i < n)
    (hp : place (0x800000000000 + off + i) = .hole) (w : Bool) (v : List Byte) :
    windowTouch w off n v s = { s with keep := s.keep.reply [] true } := by
  have ha : (List.range n).any (fun i => place (0x800000000000 + off + i) = .hole) = true :=
    List.any_eq_true.2 ⟨i, List.mem_range.2 hi, decide_eq_true hp⟩
  simp only [windowTouch, h, ha]
  rfl

/-- An access clear of holes, once `READY`, reads or writes at L2 what it has woken. -/
theorem windowTouch_reaches {s : State} (h : s.keep.boot.ready = true) {off n : Nat}
    (hp : ∀ i, i < n → place (0x800000000000 + off + i) ≠ .hole) (w : Bool) (v : List Byte) :
    windowTouch w off n v s =
      let pa := 0x800000000000 + off
      let c := s.chip.wakeWindow pa
      if w then { s with
        keep := s.keep.reply [] false
        chip := c.writeL2 0 (identity 0 pa) ((v ++ List.replicate n 0).take n) none false false false }
      else { s with keep := s.keep.reply (c.readL2 0 (identity 0 pa) n false).1 false, chip := (c.readL2 0 (identity 0 pa) n false).2 } := by
  have ha : (List.range n).any (fun i => place (0x800000000000 + off + i) = .hole) = false :=
    List.any_eq_false.2 fun i hi => by simpa using hp i (List.mem_range.1 hi)
  simp only [windowTouch, h, ha]
  rfl

/-- What a host access wakes changes power states only. -/
theorem Chip.wakeWindow_frame (c : Chip) (pa : Nat) : PowerFrame c (c.wakeWindow pa) := by
  unfold Chip.wakeWindow
  split
  · exact c.wakeCluster_frame _
  · exact c.wakeSpire_frame _

/-- No change of a power state is a change of a beacon. -/
theorem Chip.beacons_wakeSpire (c : Chip) (d e : Nat) : ((c.wakeSpire d).spire e).beacons = (c.spire e).beacons := by
  unfold Chip.wakeSpire
  split
  · rfl
  · exact Chip.spire_modSpire_field c d e _ Spire.beacons rfl

theorem Chip.beacon_wakeSpire (c : Chip) (d e i : Nat) : (c.wakeSpire d).beacon e i = c.beacon e i := by
  rw [Chip.beacon, c.beacons_wakeSpire, Chip.beacon]

theorem Chip.beacon_wakeWindow (c : Chip) (pa e i : Nat) : (c.wakeWindow pa).beacon e i = c.beacon e i := by
  unfold Chip.wakeWindow
  split
  · rw [Chip.beacon, Chip.spire_wakeCluster, ← Chip.beacon, c.beacon_wakeSpire]
  · exact c.beacon_wakeSpire ..

/-! ### The window's bytes at L2 (R107) -/

theorem place_window {pa : Nat} (h : inWindow pa = true) : place pa ≠ .hbm := by
  have h : 0x800000000000 ≤ pa := of_decide_eq_true h
  rw [place, if_neg (by omega), if_neg (by omega), if_neg (by omega), if_neg (by omega)]
  split_ifs <;> exact nofun

/-- A window address is no beacon line's other name. -/
theorem Chip.residentPa_window (c : Chip) {pa : Nat} (h : inWindow pa = true) : c.residentPa pa = pa := by
  unfold Chip.residentPa
  split
  next hp => exact absurd hp (place_window h)
  next => rfl

/-- Stores and slots lie 2 GiB below the beacon tables. -/
theorem place_store_below {pa cl : Nat} (h : place pa = .tile cl ∨ place pa = .slot cl) : pa < 0x800080000000 := by
  by_contra hn
  have hp : place pa = .hole ∨ ∃ d, place pa = .beacon d := by
    rw [place, if_neg (by omega), if_neg (by omega), if_neg (by omega), if_neg (by omega), if_neg (by omega)]
    split_ifs
    exacts [.inl rfl, .inr ⟨_, rfl⟩, .inl rfl, .inl rfl]
  rcases h with h | h <;> rcases hp with hp | ⟨d, hp⟩ <;> exact nomatch h.symm.trans hp

theorem place_beacon_above {pa d : Nat} (h : place pa = .beacon d) : 0x800100000000 ≤ pa := by
  by_contra hn
  unfold place at h
  split_ifs at h
  all_goals omega

/-- A byte of a store or a slot is memory's. -/
theorem Chip.byteAt_memory (c : Chip) {pa : Nat} (hh : place pa ≠ .hole) (hb : ∀ d, place pa ≠ .beacon d) :
    c.byteAt pa 0 = memRead c.mem pa := by
  unfold Chip.byteAt
  split
  next d h => exact absurd h (hb d)
  next h => exact absurd h hh
  next => rfl

/-- A read of window bytes clear of beacon tables gives memory's bytes. -/
theorem readL2_window (c : Chip) (d : Nat) {x : Xlat} {n : Nat} (hw : inWindow x.pa = true)
    (hb : ∀ i, i < n → place (x.pa + i) ≠ .hole ∧ ∀ e, place (x.pa + i) ≠ .beacon e) :
    (c.readL2 d x n false).1 = memReadBytes c.mem x.pa n
      ∧ (c.readL2 d x n false).2 = { c.wakeSpire x.home with free := (c.wakeSpire x.home).free + 1 } := by
  rw [Chip.readL2]
  dsimp only
  rw [Chip.residentPa_window _ hw, if_pos hw, Chip.bytesAt, memReadBytes]
  refine ⟨List.map_congr_left fun i hi => ?_, rfl⟩
  obtain ⟨hh, he⟩ := hb i (List.mem_range.1 hi)
  rw [Chip.byteAt_memory _ hh he, (c.wakeSpire_frame _).mem]

/-- A write to a store or a slot is a write of memory. -/
theorem writeL2_store (c : Chip) (d : Nat) {x : Xlat} {vs : List Byte} (hw : inWindow x.pa = true) (hv : vs ≠ []) {cl : Nat}
    (hp : place x.pa = .tile cl ∨ place x.pa = .slot cl) :
    c.writeL2 d x vs none false false false = { c.wakeSpire x.home with mem := memWriteBytes c.mem x.pa vs } := by
  rw [Chip.writeL2]
  dsimp only
  rw [Chip.residentPa_window _ hw, if_neg hv, if_pos hw, ← (c.wakeSpire_frame x.home).mem]
  rcases hp with hp | hp <;> simp only [hp] <;> rfl

/-- A write to a beacon table is discarded. -/
theorem writeL2_table (c : Chip) (d : Nat) {x : Xlat} {vs : List Byte} (hw : inWindow x.pa = true) (hv : vs ≠ []) {e : Nat}
    (hp : place x.pa = .beacon e) : c.writeL2 d x vs none false false false = c.wakeSpire x.home := by
  rw [Chip.writeL2]
  dsimp only
  rw [Chip.residentPa_window _ hw, if_neg hv, if_pos hw]
  simp only [hp]

/-- As many bytes as the access names are written as they come. -/
theorem take_windowBytes {v : List Byte} {n : Nat} (h : v.length = n) : (v ++ List.replicate n 0).take n = v := by
  rw [← h, List.take_left]

/-! ### The claim -/

/-- A read of a store or a slot. -/
theorem windowTouch_read {s : State} (hr : s.keep.boot.ready = true) {off n cl : Nat} (hn : n ≤ 4096)
    (hp : ∀ i, i < n → place (0x800000000000 + off + i) ≠ .hole)
    (hcl : place (0x800000000000 + off) = .tile cl ∨ place (0x800000000000 + off) = .slot cl) (v : List Byte) :
    (windowTouch false off n v s).keep = s.keep.reply (memReadBytes s.chip.mem (0x800000000000 + off) n) false
      ∧ (windowTouch false off n v s).chip.mem = s.chip.mem ∧ (windowTouch false off n v s).chip.cos = s.chip.cos := by
  have hx : (identity 0 (0x800000000000 + off)).pa = 0x800000000000 + off := identity_pa 0 _
  have hw : inWindow (identity 0 (0x800000000000 + off)).pa = true := by
    rw [hx]
    exact decide_eq_true (by omega)
  have hlow := place_store_below hcl
  obtain ⟨hbytes, hchip⟩ := readL2_window (s.chip.wakeWindow (0x800000000000 + off)) 0 (n := n) hw fun i hi => by
    rw [hx]
    exact ⟨hp i hi, fun e he => by have := place_beacon_above he; omega⟩
  rw [hx, (s.chip.wakeWindow_frame _).mem] at hbytes
  rw [windowTouch_reaches hr hp]
  dsimp only
  rw [if_neg (by decide), hbytes, hchip]
  exact ⟨rfl, (Chip.wakeSpire_frame _ _).mem.trans (s.chip.wakeWindow_frame _).mem,
    (Chip.wakeSpire_frame _ _).cos.trans (s.chip.wakeWindow_frame _).cos⟩

/-- A write to a store or a slot. -/
theorem windowTouch_write {s : State} (hr : s.keep.boot.ready = true) {off n cl : Nat} {v : List Byte} (h1 : 1 ≤ n)
    (hv : v.length = n) (hp : ∀ i, i < n → place (0x800000000000 + off + i) ≠ .hole)
    (hcl : place (0x800000000000 + off) = .tile cl ∨ place (0x800000000000 + off) = .slot cl) :
    (windowTouch true off n v s).keep = s.keep.reply [] false
      ∧ (windowTouch true off n v s).chip.mem = memWriteBytes s.chip.mem (0x800000000000 + off) v
      ∧ (windowTouch true off n v s).chip.cos = s.chip.cos := by
  have hx : (identity 0 (0x800000000000 + off)).pa = 0x800000000000 + off := identity_pa 0 _
  have hw : inWindow (identity 0 (0x800000000000 + off)).pa = true := by
    rw [hx]
    exact decide_eq_true (by omega)
  have hne : v ≠ [] := List.ne_nil_of_length_pos (by omega)
  rw [windowTouch_reaches hr hp]
  dsimp only
  rw [if_pos rfl, take_windowBytes hv, writeL2_store _ 0 hw hne (cl := cl) (by rwa [hx]), hx]
  dsimp only
  rw [(s.chip.wakeWindow_frame _).mem]
  exact ⟨rfl, rfl, (Chip.wakeSpire_frame _ _).cos.trans (s.chip.wakeWindow_frame _).cos⟩

/-- A write to a beacon table. -/
theorem windowTouch_table {s : State} (hr : s.keep.boot.ready = true) {off n d : Nat} (h1 : 1 ≤ n)
    (hp : ∀ i, i < n → place (0x800000000000 + off + i) ≠ .hole) (hd : place (0x800000000000 + off) = .beacon d)
    (v : List Byte) :
    ∃ pa e, windowTouch true off n v s =
      { s with keep := s.keep.reply [] false, chip := (s.chip.wakeWindow pa).wakeSpire e } := by
  have hx : (identity 0 (0x800000000000 + off)).pa = 0x800000000000 + off := identity_pa 0 _
  have hw : inWindow (identity 0 (0x800000000000 + off)).pa = true := by
    rw [hx]
    exact decide_eq_true (by omega)
  have hne : (v ++ List.replicate n 0).take n ≠ [] := List.ne_nil_of_length_pos (by simp; omega)
  rw [windowTouch_reaches hr hp]
  dsimp only
  rw [if_pos rfl, writeL2_table _ 0 hw hne (e := d) (by rwa [hx])]
  exact ⟨_, _, rfl⟩

/-- Each access by what its first byte names, or by the hole that it touches. -/
theorem windowAccessesReachOnChipState : Claims.WindowAccessesReachOnChipState := by
  intro s off size v w pa hh hpa h1 hm
  rw [exec_windowAccess v hh h1 hm]
  subst hpa
  refine ⟨fun hr hp => ⟨fun cl hcl => ⟨fun hwr => ?_, fun hwr hl hwf => ?_⟩, fun d hd hwr => ?_⟩,
    fun hr ⟨i, hi, hp⟩ => ?_, fun hr => ?_⟩
  · subst hwr
    obtain ⟨hk, hmem, hcos⟩ := windowTouch_read hr hm hp hcl v
    exact ⟨_, rfl, by rw [hk]; rfl, by rw [hk]; rfl, hmem, hcos⟩
  · subst hwr
    obtain ⟨hk, hmem, hcos⟩ := windowTouch_write hr h1 hl hp hcl
    refine ⟨_, rfl, by rw [hk]; rfl, ?_, fun a ha => ?_, hcos⟩
    · rw [hmem, ← hl, memReadBytes_memWriteBytes _ _ _ hwf]
    · rw [hmem, memRead_memWriteBytes_outside v hwf (by omega)]
  · subst hwr
    obtain ⟨pa, e, ht⟩ := windowTouch_table hr h1 hp hd v
    rw [ht]
    exact ⟨_, rfl, rfl, (Chip.wakeSpire_frame _ _).mem.trans (s.chip.wakeWindow_frame _).mem,
      (Chip.wakeSpire_frame _ _).cos.trans (s.chip.wakeWindow_frame _).cos,
      fun e i => (Chip.beacon_wakeSpire _ _ e i).trans (s.chip.beacon_wakeWindow _ e i)⟩
  · rw [windowTouch_hole hr hi hp]
    exact ⟨_, rfl, rfl, rfl⟩
  · rw [windowTouch_unready hr]
    exact ⟨_, rfl, rfl, rfl, rfl⟩

end Sys2Proof.Machine
end

section
/-! What the slices' operations do to one line's compass word and copies (R137-R142, R182-R187). -/

namespace Sys2Proof.Machine

/-! ### Keys -/

/-- Erasing a key leaves every other key alone. -/
theorem mget_merase_ne {α : Type} (m : AMap α) {k j : Nat} (h : j ≠ k) : mget (merase m k) j = mget m j := by
  induction m with
  | nil => rfl
  | cons p r ih =>
    obtain ⟨i, u⟩ := p
    by_cases h1 : i = k
    · subst h1
      simpa [merase, mget, Ne.symm h] using ih
    · by_cases h2 : i = j
      · subst h2
        simp [merase, mget, h]
      · simpa [merase, mget, List.filter_cons, apply_ite, h1, h2] using ih

/-- A key that is listed reads something. -/
theorem mget_isSome_of_mem {α : Type} {m : AMap α} {e : Nat × α} (h : e ∈ m) : (mget m e.1).isSome = true := by
  induction m with
  | nil => cases h
  | cons p r ih =>
    obtain ⟨j, u⟩ := p
    by_cases h1 : j = e.1
    · simp [mget, h1]
    · rcases List.mem_cons.1 h with rfl | h
      · exact absurd rfl h1
      · simpa [mget, h1] using ih h

/-- Different spires, or lines, have different keys. -/
theorem copyKey_ne {n k l l' : Nat} (h : l ≠ l' ∨ n % 4 ≠ k % 4) : copyKey n l ≠ copyKey k l' := by
  unfold copyKey
  omega

/-! ### Compass words as they read -/

/-- A line's word among the pending ones of its channel. -/
theorem Chip.pendingWord_eq (c : Chip) (l : Nat) {q : List (Nat × BitVec 16)} (h : mgetD c.combiner (channelOf l) [] = q) :
    c.pendingWord l = (q.find? (fun p => p.1 = l)).map (fun p => p.2) := by
  rw [Chip.pendingWord, h]

theorem Chip.compassOf_pending {c : Chip} {l : Nat} {w : BitVec 16} (h : c.pendingWord l = some w) : c.compassOf l = w := by
  rw [Chip.compassOf, h]

theorem Chip.compassOf_written {c : Chip} {l : Nat} (h : c.pendingWord l = none) : c.compassOf l = mgetD c.compass l 0 := by
  rw [Chip.compassOf, h]

theorem mgetD_putWord_self (m : AMap (BitVec 16)) (l : Nat) (w : BitVec 16) : mgetD (putWord m l w) l 0 = w := by
  unfold putWord
  split
  next h => rw [mgetD, mget_merase_self, h]
  next => exact mgetD_mset_self ..

theorem mgetD_putWord_ne (m : AMap (BitVec 16)) {l k : Nat} (w : BitVec 16) (h : k ≠ l) : mgetD (putWord m l w) k 0 = mgetD m k 0 := by
  unfold putWord
  split
  · rw [mgetD, mget_merase_ne _ h, mgetD]
  · exact mgetD_mset_ne _ _ _ h

/-- A word is pending no more once its line is taken from the combiner. -/
theorem find_filter_self (q : List (Nat × BitVec 16)) (l : Nat) : (q.filter (fun p => p.1 ≠ l)).find? (fun p => p.1 = l) = none := by
  rw [List.find?_eq_none]
  intro p hp
  simpa using (List.mem_filter.1 hp).2

theorem find_filter_ne (q : List (Nat × BitVec 16)) {l k : Nat} (h : k ≠ l) :
    (q.filter (fun p => p.1 ≠ l)).find? (fun p => p.1 = k) = q.find? (fun p => p.1 = k) := by
  rw [List.find?_filter]
  congr 1
  funext p
  by_cases hp : p.1 = k
  · simp [hp, h]
  · simp [hp]

/-- A word written to DRAM past the combiner takes any pending one away. -/
theorem Chip.combiner_setCompass (c : Chip) (l : Nat) (w : BitVec 16) :
    (c.setCompass l w).combiner = if c.pendingWord l = none then c.combiner
      else mset c.combiner (channelOf l) ((mgetD c.combiner (channelOf l) []).filter (fun p => p.1 ≠ l)) := by
  unfold Chip.setCompass
  dsimp only
  cases c.pendingWord l <;> rfl

@[simp] theorem Chip.compassOf_setCompass_self (c : Chip) (l : Nat) (w : BitVec 16) : (c.setCompass l w).compassOf l = w := by
  have hn : (c.setCompass l w).pendingWord l = none := by
    rw [Chip.pendingWord, c.combiner_setCompass]
    split
    next h => exact h
    next => rw [mgetD_mset_self, find_filter_self, Option.map_none]
  rw [Chip.compassOf_written hn]
  exact mgetD_putWord_self ..

theorem Chip.compassOf_setCompass_ne (c : Chip) {l k : Nat} (w : BitVec 16) (h : k ≠ l) :
    (c.setCompass l w).compassOf k = c.compassOf k := by
  have hp : (c.setCompass l w).pendingWord k = c.pendingWord k := by
    rw [Chip.pendingWord, c.combiner_setCompass]
    split
    · rfl
    by_cases hk : channelOf k = channelOf l
    · rw [hk, mgetD_mset_self, find_filter_ne _ h, Chip.pendingWord, hk]
    · rw [mgetD_mset_ne _ _ _ hk, Chip.pendingWord]
  have hw : mgetD (c.setCompass l w).compass k 0 = mgetD c.compass k 0 := mgetD_putWord_ne _ _ h
  rw [Chip.compassOf, Chip.compassOf, hp, hw]

/-- A word found in a combiner whose words of a line have been replaced. -/
theorem find_replaced {q : List (Nat × BitVec 16)} {l : Nat} (w : BitVec 16) (h : q.any (fun p => p.1 = l) = true) :
    (q.map (fun p => if p.1 = l then (l, w) else p)).find? (fun p => p.1 = l) = some (l, w) := by
  induction q with
  | nil => cases h
  | cons p r ih =>
    by_cases hp : p.1 = l
    · simp [hp]
    · have hr : r.any (fun p => p.1 = l) = true := by simpa [hp] using h
      simpa [hp] using ih hr

/-- A word found in a combiner that it has entered last. -/
theorem find_entered {q : List (Nat × BitVec 16)} {l : Nat} (w : BitVec 16) (h : q.any (fun p => p.1 = l) = false) :
    (q ++ [(l, w)]).find? (fun p => p.1 = l) = some (l, w) := by
  have hn : q.find? (fun p => p.1 = l) = none := by
    rw [List.find?_eq_none]
    exact fun p hp => by simpa using List.any_eq_false.1 h p hp
  simp [List.find?_append, hn]

/-- Whatever way a grant takes through the combiner, the word it wrote reads back. -/
@[simp] theorem Chip.compassOf_grantCompass (c : Chip) (l : Nat) (w : BitVec 16) : (c.grantCompass l w).compassOf l = w := by
  unfold Chip.grantCompass
  dsimp only
  split
  · assumption
  split
  next _ ha =>
    exact Chip.compassOf_pending ((Chip.pendingWord_eq _ l (mgetD_mset_self ..)).trans (by rw [find_replaced w ha]; rfl))
  next _ ha =>
    have ha := Bool.eq_false_iff.2 ha
    split
    · exact Chip.compassOf_pending ((Chip.pendingWord_eq _ l (mgetD_mset_self ..)).trans (by rw [find_entered w ha]; rfl))
    next hl =>
      split
      next hq => exact absurd (by rw [hq]; decide) hl
      next p r hq =>
        rw [hq, List.any_cons, Bool.or_eq_false_iff] at ha
        exact Chip.compassOf_pending ((Chip.pendingWord_eq _ l (mgetD_mset_self ..)).trans (by rw [find_entered w ha.2]; rfl))

/-! ### What stays of a line -/

/-- From `c` to `d` a line's compass word stays, and so do the copies that the spires of `P` hold of it; no error comes to be in
DRAM. -/
structure LineKept (P : Nat → Prop) (l : Nat) (c d : Chip) : Prop where
  copy : ∀ n, P n → d.copyAt n l = c.copyAt n l
  word : d.compassOf l = c.compassOf l
  sound : c.latentOf l = Latent.none → d.latentOf l = Latent.none

section
variable {P : Nat → Prop} {l : Nat}

theorem LineKept.refl (c : Chip) : LineKept P l c c := ⟨fun _ _ => rfl, rfl, id⟩

theorem LineKept.trans {a b c : Chip} (h : LineKept P l a b) (k : LineKept P l b c) : LineKept P l a c :=
  ⟨fun n hn => (k.copy n hn).trans (h.copy n hn), k.word.trans h.word, fun hs => k.sound (h.sound hs)⟩

theorem LineKept.mono {Q : Nat → Prop} {c d : Chip} (h : LineKept P l c d) (k : ∀ n, Q n → P n) : LineKept Q l c d :=
  ⟨fun n hn => h.copy n (k n hn), h.word, h.sound⟩

/-- What concerns neither copies, words nor errors keeps every line. -/
theorem LineKept.of_eq {c d : Chip} (hc : d.copies = c.copies) (hw : d.compass = c.compass) (hq : d.combiner = c.combiner)
    (hl : d.latent = c.latent) : LineKept P l c d :=
  ⟨fun n _ => by rw [Chip.copyAt, hc, Chip.copyAt], by rw [Chip.compassOf, Chip.pendingWord, hw, hq]; rfl,
    fun h => by rwa [Chip.latentOf, hl]⟩

/-- A change of copies keeps those of other keys. -/
theorem LineKept.of_copies {c d : Chip} {k : Nat} (hc : ∀ j, j ≠ k → mget d.copies j = mget c.copies j) (hw : d.compass = c.compass)
    (hq : d.combiner = c.combiner) (hl : d.latent = c.latent) (hk : ∀ n, P n → copyKey n l ≠ k) : LineKept P l c d :=
  ⟨fun n hn => hc _ (hk n hn), by rw [Chip.compassOf, Chip.pendingWord, hw, hq]; rfl, fun h => by rwa [Chip.latentOf, hl]⟩

variable {c : Chip} {l' k : Nat}

theorem lineKept_putCopy (p : LineCopy) (hk : ∀ n, P n → copyKey n l ≠ copyKey k l') : LineKept P l c (c.putCopy k l' p) :=
  .of_copies (fun _ hj => mget_mset_ne _ _ hj) rfl rfl rfl hk

theorem lineKept_dropCopy (hk : ∀ n, P n → copyKey n l ≠ copyKey k l') : LineKept P l c (c.dropCopy k l') :=
  .of_copies (fun _ hj => mget_merase_ne _ hj) rfl rfl rfl hk

theorem lineKept_modCopy (f : LineCopy → LineCopy) (hk : ∀ n, P n → copyKey n l ≠ copyKey k l') : LineKept P l c (c.modCopy k l' f) := by
  unfold Chip.modCopy
  split
  · exact .of_copies (fun _ hj => mget_mset_ne _ _ hj) rfl rfl rfl hk
  · exact .refl _

theorem lineKept_setCompass (w : BitVec 16) (h : l ≠ l') : LineKept P l c (c.setCompass l' w) :=
  ⟨fun _ _ => rfl, c.compassOf_setCompass_ne w h, id⟩

theorem Chip.latentOf_setLatent_self (c : Chip) (l : Nat) (e : Latent) : (c.setLatent l e).latentOf l = e := by
  show mgetD (if e = Latent.none then merase c.latent l else mset c.latent l e) l Latent.none = e
  split
  next h => rw [mgetD, mget_merase_self, h]
  next => exact mgetD_mset_self ..

theorem Chip.latentOf_setLatent_ne (c : Chip) {l l' : Nat} (e : Latent) (h : l ≠ l') : (c.setLatent l' e).latentOf l = c.latentOf l := by
  show mgetD (if e = Latent.none then merase c.latent l' else mset c.latent l' e) l Latent.none = _
  split
  · rw [mgetD, mget_merase_ne _ h]
    rfl
  · exact mgetD_mset_ne _ _ _ h

/-- A line's errors are set, to none where it has none. -/
theorem lineKept_setLatent (e : Latent) (h : c.latentOf l' = Latent.none → e = Latent.none) : LineKept P l c (c.setLatent l' e) := by
  refine ⟨fun _ _ => rfl, rfl, fun hs => ?_⟩
  by_cases hl : l = l'
  · subst hl
    rw [c.latentOf_setLatent_self, h hs]
  · rw [c.latentOf_setLatent_ne _ hl, hs]

theorem Latent.setSector_none (s : Nat) : Latent.none.setSector s 0 = Latent.none := by
  unfold Latent.setSector
  split <;> rfl

theorem lineKept_flushSector (p : LineCopy) (s : Nat) : LineKept P l c (c.flushSector p l' s) := by
  have hs : LineKept P l c (c.setLatent l' ((c.latentOf l').setSector s 0)) :=
    lineKept_setLatent _ fun h => by rw [h, Latent.setSector_none]
  unfold Chip.flushSector
  dsimp only
  split
  · exact hs.trans (.of_eq rfl rfl rfl rfl)
  · refine hs.trans ?_
    rw [(placeAll_setDram ..).1]
    exact .of_eq rfl rfl rfl rfl

theorem lineKept_flushPoison (p : LineCopy) : LineKept P l c (c.flushPoison p l') := by
  unfold Chip.flushPoison
  split
  · exact .of_eq rfl rfl rfl rfl
  · exact .refl _

/-- The sectors that a write-back writes. -/
def Chip.flushSectors (c : Chip) (p : LineCopy) (line : Nat) : Chip :=
  let d := c.flushPoison p line
  let d := if p.dirty.getLsbD 0 then d.flushSector p line 0 else d
  if p.dirty.getLsbD 1 then d.flushSector p line 1 else d

theorem Chip.flushCopy_eq {n : Nat} {p : LineCopy} (h : c.copyAt n l = some p) :
    c.flushCopy n l = (c.flushSectors p l).modCopy n l (fun q => { q with dirty := 0 }) := by
  rw [Chip.flushCopy, h]
  rfl

theorem Chip.flushCopy_none {n : Nat} (h : c.copyAt n l = none) : c.flushCopy n l = c := by
  rw [Chip.flushCopy, h]

theorem lineKept_flushSectors (p : LineCopy) : LineKept P l c (c.flushSectors p l') := by
  have hs : ∀ (d : Chip) (s : Nat) (q : Prop) [Decidable q], LineKept P l d (if q then d.flushSector p l' s else d) :=
    fun d s q _ => by
      split
      · exact lineKept_flushSector p s
      · exact .refl d
  exact ((lineKept_flushPoison p).trans (hs _ 0 _)).trans (hs _ 1 _)

theorem lineKept_flushCopy (hk : ∀ n, P n → copyKey n l ≠ copyKey k l') : LineKept P l c (c.flushCopy k l') := by
  cases h : c.copyAt k l' with
  | none => rw [Chip.flushCopy_none h]; exact .refl _
  | some p => rw [Chip.flushCopy_eq h]; exact (lineKept_flushSectors p).trans (lineKept_modCopy _ hk)

theorem lineKept_giveUp (hk : ∀ n, P n → copyKey n l ≠ copyKey k l') : LineKept P l c (c.giveUp k l') :=
  (lineKept_flushCopy hk).trans (lineKept_dropCopy hk)

theorem lineKept_flushSpires {ds : List Nat} (hk : ∀ k ∈ ds, ∀ n, P n → copyKey n l ≠ copyKey k l') :
    LineKept P l c (c.flushSpires l' ds) := by
  induction ds generalizing c with
  | nil => exact .refl _
  | cons d r ih =>
    exact (lineKept_giveUp (hk d List.mem_cons_self)).trans (ih fun k hk' => hk k (List.mem_cons_of_mem _ hk'))

theorem lineKept_sendHome {h : Nat} (hk : ∀ n, P n → copyKey n l ≠ copyKey k l') (hh : ∀ n, P n → copyKey n l ≠ copyKey h l') :
    LineKept P l c (c.sendHome l' h k) := by
  unfold Chip.sendHome
  split
  · exact .refl _
  dsimp only
  split
  · exact lineKept_dropCopy hk
  split
  · exact (lineKept_dropCopy hk).trans (lineKept_putCopy _ hh)
  split
  · exact (lineKept_dropCopy hk).trans (lineKept_putCopy _ hh)
  · exact lineKept_giveUp hk

theorem lineKept_evict_ne (h : l ≠ l') : LineKept P l c (c.evict k l') := by
  have hk : ∀ n, P n → ∀ j, copyKey n l ≠ copyKey j l' := fun _ _ _ => copyKey_ne (.inl h)
  unfold Chip.evict
  split
  · exact .refl _
  split
  · exact lineKept_giveUp fun n hn => hk n hn _
  · exact lineKept_giveUp fun n hn => hk n hn _
  · exact lineKept_sendHome (fun n hn => hk n hn _) fun n hn => hk n hn _

theorem leastBy_mem {α : Type} {f : α → Nat} {m : List α} {e : α} (h : leastBy f m = some e) : e ∈ m := by
  induction m generalizing e with
  | nil => cases h
  | cons a r ih =>
    unfold leastBy at h
    split at h
    · cases h
      exact List.mem_cons_self
    next b hb =>
      split at h
      · cases h
        exact List.mem_cons_of_mem _ (ih hb)
      · cases h
        exact List.mem_cons_self

/-- Taking a way for a line that a spire does not hold evicts another line. -/
theorem lineKept_takeWay {ways : List Nat} (hn : c.copyAt k l = none) : LineKept P l c (c.takeWay k l ways).2 := by
  unfold Chip.takeWay
  split
  · exact .refl _
  split
  · exact .refl _
  split
  next e he =>
    refine lineKept_evict_ne fun hl => ?_
    obtain ⟨hm, hs⟩ := List.mem_filter.1 (List.mem_of_mem_filter (leastBy_mem he))
    have hkey : copyKey k l = e.1 := by
      have := (Bool.and_eq_true _ _ ▸ hs).1
      simp only [decide_eq_true_eq] at this
      unfold copyKey
      omega
    have := mget_isSome_of_mem hm
    rw [← hkey, ← Chip.copyAt, hn] at this
    cases this
  · exact .refl _

end

end Sys2Proof.Machine
end

section
/-! O43: memory retirement (R46, R47). -/

namespace Sys2Proof.Machine

/-! ### A line recalled to U -/

@[simp] theorem Chip.copyAt_dropCopy (c : Chip) (d l : Nat) : (c.dropCopy d l).copyAt d l = none := mget_merase_self ..

/-- Giving up a copy brings none back. -/
theorem Chip.copyAt_giveUp_none {c : Chip} {d l : Nat} (k : Nat) (h : c.copyAt d l = none) : (c.giveUp k l).copyAt d l = none := by
  by_cases hk : copyKey d l = copyKey k l
  · rw [Chip.copyAt, hk]
    exact Chip.copyAt_dropCopy ..
  · rw [(lineKept_giveUp (P := fun n => n = d) (by rintro n rfl; exact hk)).copy d rfl, h]

theorem Chip.copyAt_flushSpires_none {c : Chip} {d l : Nat} (ds : List Nat) (h : c.copyAt d l = none) :
    (c.flushSpires l ds).copyAt d l = none := by
  induction ds generalizing c with
  | nil => exact h
  | cons k r ih => exact ih (Chip.copyAt_giveUp_none k h)

/-- The spires named hold the line no more. -/
theorem Chip.copyAt_flushSpires (c : Chip) {d l : Nat} {ds : List Nat} (hd : d ∈ ds) : (c.flushSpires l ds).copyAt d l = none := by
  induction ds generalizing c with
  | nil => cases hd
  | cons k r ih =>
    rcases List.mem_cons.1 hd with rfl | hd
    · exact Chip.copyAt_flushSpires_none r (Chip.copyAt_dropCopy ..)
    · exact ih _ hd

/-- A recall keeps of the word its poison alone. -/
theorem Chip.compassOf_recallToU (c : Chip) (l : Nat) : (c.recallToU l).compassOf l = cWith (c.compassOf l) 0 0 0 := by
  have hw := (lineKept_flushSpires (P := fun _ => False) (l := l) (l' := l) (c := c) (ds := List.range 4) fun _ _ _ hn => hn.elim).word
  exact (Chip.compassOf_setCompass_self ..).trans (by rw [hw])

@[simp] theorem Chip.copyAt_setCompass (c : Chip) (d l l' : Nat) (w : BitVec 16) : (c.setCompass l' w).copyAt d l = c.copyAt d l := rfl

theorem Chip.copyAt_recallToU (c : Chip) {d l : Nat} (hd : d < 4) : (c.recallToU l).copyAt d l = none := by
  rw [Chip.recallToU, Chip.copyAt_setCompass]
  exact c.copyAt_flushSpires (List.mem_range.2 hd)

/-- A recall concerns its own line. -/
theorem lineKept_recallToU_ne {P : Nat → Prop} {c : Chip} {l l' : Nat} (h : l ≠ l') : LineKept P l c (c.recallToU l') :=
  (lineKept_flushSpires fun _ _ _ _ => copyKey_ne (.inl h)).trans (lineKept_setCompass _ h)

theorem cState_cWith_zero (w : BitVec 16) : cState (cWith w 0 0 0) = 0 := by
  have hb : bits w.toNat 6 6 < 2 := Nat.mod_lt _ (by decide)
  simp only [cState, cWith, BitVec.toNat_ofNat]
  generalize bits w.toNat 6 6 = b at hb
  unfold bits
  omega

/-- A line is at rest: its word says U, and no spire holds it. -/
def Chip.AtRest (c : Chip) (l : Nat) : Prop := cState (c.compassOf l) = 0 ∧ ∀ d, d < 4 → c.copyAt d l = none

theorem atRest_recallToU (c : Chip) (l : Nat) : (c.recallToU l).AtRest l :=
  ⟨by rw [Chip.compassOf_recallToU, cState_cWith_zero], fun _ hd => c.copyAt_recallToU hd⟩

/-- Recalls of other lines leave a line at rest. -/
theorem Chip.AtRest.recallToU {c : Chip} {l : Nat} (h : c.AtRest l) (l' : Nat) : (c.recallToU l').AtRest l := by
  by_cases hl : l = l'
  · subst hl
    exact atRest_recallToU c l
  obtain ⟨hcopy, hword, _⟩ := lineKept_recallToU_ne (P := fun _ => True) (c := c) hl
  exact ⟨by rw [hword]; exact h.1, fun d hd => (hcopy d trivial).trans (h.2 d hd)⟩

theorem mget_none_of_keys {α : Type} {m : AMap α} {k : Nat} (h : k ∉ m.map Prod.fst) : mget m k = none := by
  cases hm : mget m k with
  | none => rfl
  | some v => exact absurd (List.mem_map.2 ⟨_, mem_of_mget hm, rfl⟩) h

/-- A line that no slice and no compass word has touched is at rest. -/
theorem atRest_untouched {c : Chip} {f l : Nat} (hf : l / 16384 = f) (h : l ∉ c.touchedLines f) : c.AtRest l := by
  have hall : l ∉ List.append (c.compass.map Prod.fst ++ c.combiner.flatMap (fun e => e.2.map Prod.fst))
      (List.append ((c.copies.map Prod.fst).map (fun k => k / 4)) ((c.dramOld.map Prod.fst).map lineOf)) :=
    fun hm => h (List.mem_filter.2 ⟨hm, decide_eq_true hf⟩)
  simp only [List.append_eq, List.mem_append, not_or] at hall
  obtain ⟨⟨hcompass, hcombiner⟩, hcopies, _⟩ := hall
  have hp : c.pendingWord l = none := by
    rw [Chip.pendingWord, Option.map_eq_none_iff, List.find?_eq_none]
    intro p hp hpl
    cases hq : mget c.combiner (channelOf l) with
    | none => rw [mgetD, hq] at hp; cases hp
    | some q =>
      rw [mgetD, hq] at hp
      exact hcombiner (List.mem_flatMap.2 ⟨_, mem_of_mget hq, List.mem_map.2 ⟨p, hp, of_decide_eq_true hpl⟩⟩)
  refine ⟨?_, fun d _ => mget_none_of_keys fun hk => hcopies (List.mem_map.2 ⟨_, hk, copyKey_line d l⟩)⟩
  rw [Chip.compassOf_written hp, mgetD, mget_none_of_keys hcompass]
  rfl

/-- Whether a line is at rest is said by the words and the slices. -/
theorem Chip.AtRest.of_kept {c d : Chip} {l : Nat} (h : c.AtRest l) (k : LineKept (fun n => n < 4) l c d) : d.AtRest l :=
  ⟨by rw [k.word]; exact h.1, fun n hn => (k.copy n hn).trans (h.2 n hn)⟩

/-! ### A frame cleared -/

/-- The first step of a clearing: what is touched of a frame is recalled. -/
def Chip.recallFrame (c : Chip) (f : Nat) : Chip := (c.touchedLines f).foldl (fun c l => c.recallToU l) c

/-- The second step: the effect of `XLINV` for every entry of the frame. -/
def Chip.unmapFrame (c : Chip) (f : Nat) : Chip := (c.entriesOfFrame f).foldl (fun c p => c.invalidate 0 p.1 p.2) c

/-- The third step: no L1 keeps a line of the frame. -/
def Chip.dropL1Frame (c : Chip) (f : Nat) : Chip := (c.dropL1Data (fun l => inFrame l f)).dropL1Instr (fun l => inFrame l f)

theorem Chip.clearFrame_eq (c : Chip) (f : Nat) : c.clearFrame f = ((c.recallFrame f).unmapFrame f).dropL1Frame f := rfl

theorem recallFrame_atRest (c : Chip) {f l : Nat} (hf : l / 16384 = f) : (c.recallFrame f).AtRest l := by
  have keep : ∀ (b : Chip) (k : Nat), b.AtRest l → (b.recallToU k).AtRest l := fun _ k h => h.recallToU k
  by_cases hl : l ∈ c.touchedLines f
  · exact foldl_establishes keep (fun b => atRest_recallToU b l) hl c
  · exact foldl_keeps keep _ (atRest_untouched hf hl)

theorem recallFrame_mem (c : Chip) (f : Nat) : (c.recallFrame f).mem = c.mem :=
  foldl_keeps (P := fun b : Chip => b.mem = c.mem) (fun b l h => (mem_recallToU b l).trans h) _ rfl

theorem recallFrame_tlb (c : Chip) (f : Nat) : (c.recallFrame f).tlb = c.tlb :=
  foldl_keeps (P := fun b : Chip => b.tlb = c.tlb) (fun b l h => (moves_recallToU (T := fun _ => True) (c := b) l).tlb.trans h) _ rfl

/-- The lines in a core's L1 caches. -/
def Core.l1 (k : Core) : List L1Line := k.l1d ++ k.l1i

/-- A change of every core that leaves a core at reset alone is a change of any core. -/
theorem mgetD_mmap_core (m : AMap Core) {g : Core → Core} (h : g Core.reset = Core.reset) (n : Nat) :
    mgetD (mmap m (fun _ k => g k)) n Core.reset = g (mgetD m n Core.reset) := by
  unfold mgetD
  rw [mget_mmap]
  cases mget m n with
  | none => exact h.symm
  | some k => rfl

theorem Chip.core_invalidate (c : Chip) (asid page k : Nat) : (c.invalidate 0 asid page).core k = { c.core k with
    l1d := (c.core k).l1d.filter (fun l => !decide (l.asid = asid)), l1i := (c.core k).l1i.filter (fun l => !decide (l.asid = asid)) } :=
  mgetD_mmap_core c.cores (g := fun k => { k with
    l1d := k.l1d.filter (fun l => !decide (l.asid = asid)), l1i := k.l1i.filter (fun l => !decide (l.asid = asid)) }) rfl k

theorem Chip.core_dropL1Data (c : Chip) (p : Nat → Bool) (k : Nat) :
    (c.dropL1Data p).core k = { c.core k with l1d := (c.core k).l1d.filter (fun l => !p l.pline) } :=
  mgetD_mmap_core c.cores (g := fun k => { k with l1d := k.l1d.filter (fun l => !p l.pline) }) rfl k

theorem Chip.core_dropL1Instr (c : Chip) (p : Nat → Bool) (k : Nat) :
    (c.dropL1Instr p).core k = { c.core k with l1i := (c.core k).l1i.filter (fun l => !p l.pline) } :=
  mgetD_mmap_core c.cores (g := fun k => { k with l1i := k.l1i.filter (fun l => !p l.pline) }) rfl k

/-- An invalidation by name takes the lines of its address space from the L1 caches. -/
theorem Chip.l1_invalidate (c : Chip) (asid page k : Nat) :
    ((c.invalidate 0 asid page).core k).l1 = (c.core k).l1.filter (fun l => !decide (l.asid = asid)) := by
  rw [Chip.core_invalidate, Core.l1, Core.l1, List.filter_append]

/-- One by physical lines takes those lines. -/
theorem Chip.l1_dropL1Frame (c : Chip) (f k : Nat) :
    ((c.dropL1Frame f).core k).l1 = (c.core k).l1.filter (fun l => !inFrame l.pline f) := by
  rw [Chip.dropL1Frame, Chip.core_dropL1Instr, Chip.core_dropL1Data, Core.l1, Core.l1, List.filter_append]

/-- The ASID and page of an entry of a frame. -/
theorem Chip.entriesOfFrame_mem {c : Chip} {f : Nat} {e : Nat × TlbEntry} (he : e ∈ c.tlb) (hf : e.2.names e.1 f = true) :
    (e.1 / 2 ^ 31 % 256, e.1 % 2 ^ 31) ∈ c.entriesOfFrame f :=
  List.mem_append_left _ (List.mem_map.2 ⟨e, List.mem_filter.2 ⟨he, hf⟩, rfl⟩)

/-- An entry's own ASID and page find it. -/
theorem xlinvHits_own (key : Nat) : xlinvHits 0 (key / 2 ^ 31 % 256) (key % 2 ^ 31) key = true := by
  simp [xlinvHits]

section
variable {c : Chip} {f : Nat} {P : Chip → Prop} (keep : ∀ b asid page, P b → P (b.invalidate 0 asid page))
include keep

theorem unmapFrame_keeps (h : P c) : P (c.unmapFrame f) := by
  unfold Chip.unmapFrame
  exact foldl_keeps (fun b (p : Nat × Nat) => keep b p.1 p.2) _ h

theorem unmapFrame_establishes {asid page : Nat} (est : ∀ b : Chip, P (b.invalidate 0 asid page))
    (h : (asid, page) ∈ c.entriesOfFrame f) : P (c.unmapFrame f) := by
  unfold Chip.unmapFrame
  exact foldl_establishes (fun b (p : Nat × Nat) => keep b p.1 p.2) est h c

end

/-- No translation to the frame stays. -/
theorem unmapFrame_tlb (c : Chip) {f : Nat} {e : Nat × TlbEntry} (he : e ∈ (c.unmapFrame f).tlb) : e.2.names e.1 f = false := by
  have hc : e ∈ c.tlb := unmapFrame_keeps (P := fun b : Chip => e ∈ b.tlb → e ∈ c.tlb)
    (fun _ _ _ h hb => h (List.mem_filter.1 hb).1) id he
  by_contra hn
  refine unmapFrame_establishes (P := fun b : Chip => e ∉ b.tlb) (fun _ _ _ h hb => h (List.mem_filter.1 hb).1) (fun b hb => ?_)
    (Chip.entriesOfFrame_mem hc (Bool.not_eq_false _ ▸ hn)) he
  have hkeep := (List.mem_filter.1 hb).2
  rw [xlinvHits_own] at hkeep
  cases hkeep

/-- No L1 line of an address space that had a translation to the frame stays. -/
theorem unmapFrame_l1 (c : Chip) {f : Nat} {e : Nat × TlbEntry} (he : e ∈ c.tlb) (hf : e.2.names e.1 f = true) (k : Nat) :
    ∀ l ∈ ((c.unmapFrame f).core k).l1, l.asid ≠ e.1 / 2 ^ 31 % 256 := by
  refine unmapFrame_establishes (P := fun b : Chip => ∀ l ∈ (b.core k).l1, l.asid ≠ e.1 / 2 ^ 31 % 256)
    (fun b _ _ h l hl => ?_) (fun b l hl => ?_) (Chip.entriesOfFrame_mem he hf)
  · rw [b.l1_invalidate] at hl
    exact h l (List.mem_filter.1 hl).1
  · rw [b.l1_invalidate, List.mem_filter] at hl
    exact fun h => absurd hl.2 (by rw [decide_eq_true h]; decide)

theorem Chip.AtRest.invalidate {c : Chip} {l : Nat} (h : c.AtRest l) (asid page : Nat) : (c.invalidate 0 asid page).AtRest l :=
  ⟨h.1, fun d hd => by rw [Chip.copyAt, Chip.invalidate, mget_mmap, ← Chip.copyAt, h.2 d hd, Option.map_none]⟩

theorem unmapFrame_atRest {c : Chip} {l : Nat} (f : Nat) (h : c.AtRest l) : (c.unmapFrame f).AtRest l :=
  unmapFrame_keeps (P := fun b : Chip => b.AtRest l) (fun _ _ _ hb => hb.invalidate _ _) h

theorem unmapFrame_mem (c : Chip) (f : Nat) : (c.unmapFrame f).mem = c.mem :=
  unmapFrame_keeps (P := fun b : Chip => b.mem = c.mem) (fun _ _ _ h => h) rfl

@[simp] theorem Chip.tlb_dropL1Frame (c : Chip) (f : Nat) : (c.dropL1Frame f).tlb = c.tlb := rfl
@[simp] theorem Chip.mem_dropL1Frame (c : Chip) (f : Nat) : (c.dropL1Frame f).mem = c.mem := rfl

/-- No byte of memory changes. -/
theorem clearFrame_mem (c : Chip) (f : Nat) : (c.clearFrame f).mem = c.mem := by
  rw [Chip.clearFrame_eq, Chip.mem_dropL1Frame, unmapFrame_mem, recallFrame_mem]

theorem Chip.AtRest.dropL1Frame {c : Chip} {l : Nat} (h : c.AtRest l) (f : Nat) : (c.dropL1Frame f).AtRest l :=
  h.of_kept (.of_eq rfl rfl rfl rfl)

/-- Every line of the frame is at rest. -/
theorem clearFrame_atRest (c : Chip) {f l : Nat} (hl : l / 16384 = f) : (c.clearFrame f).AtRest l := by
  rw [Chip.clearFrame_eq]
  exact (unmapFrame_atRest f (recallFrame_atRest c hl)).dropL1Frame f

theorem clearFrame_tlb (c : Chip) {f : Nat} {e : Nat × TlbEntry} (he : e ∈ (c.clearFrame f).tlb) : e.2.names e.1 f = false := by
  rw [Chip.clearFrame_eq, Chip.tlb_dropL1Frame] at he
  exact unmapFrame_tlb _ he

/-- No L1 line of the frame stays, nor one of an address space that had a translation to it. -/
theorem clearFrame_l1 (c : Chip) {f k : Nat} {l : L1Line} (hl : l ∈ ((c.clearFrame f).core k).l1) :
    l.pline / 16384 ≠ f ∧ ∀ e ∈ c.tlb, e.2.names e.1 f = true → l.asid ≠ e.1 / 2 ^ 31 % 256 := by
  rw [Chip.clearFrame_eq, Chip.l1_dropL1Frame, List.mem_filter] at hl
  obtain ⟨hm, hf⟩ := hl
  refine ⟨fun h => absurd hf (by rw [inFrame, decide_eq_true h]; decide), fun e he hn => ?_⟩
  exact unmapFrame_l1 _ (by rwa [recallFrame_tlb]) hn k l hm

/-- A frame marked retired. -/
def Chip.markRetired (c : Chip) (f : Nat) : Chip := { c with retired := if c.retired.contains f then c.retired else c.retired ++ [f] }

theorem markRetired_retired (c : Chip) (f : Nat) : f ∈ (c.markRetired f).retired := by
  unfold Chip.markRetired
  dsimp only
  split
  next h => exact List.contains_iff_mem.1 h
  next => exact List.mem_append_right _ List.mem_cons_self

theorem Chip.AtRest.markRetired {c : Chip} {l : Nat} (h : c.AtRest l) (f : Nat) : (c.markRetired f).AtRest l :=
  h.of_kept (.of_eq rfl rfl rfl rfl)

@[simp] theorem Chip.tlb_markRetired (c : Chip) (f : Nat) : (c.markRetired f).tlb = c.tlb := rfl
@[simp] theorem Chip.core_markRetired (c : Chip) (f k : Nat) : (c.markRetired f).core k = c.core k := rfl

/-! ### The claim -/

theorem reserved_iff {c : Chip} {f : Nat} : c.reserved f = true ↔ Claims.HoldsReserved c f := by
  simp only [Chip.reserved, Claims.HoldsReserved, List.any_eq_true, List.mem_range, Bool.or_eq_true, Bool.and_eq_true,
    List.contains_iff_mem, decide_eq_true_eq, and_assoc]
  rfl

/-- The status of a retirement that goes through. -/
theorem retireStatus_free {s : State} {f : Nat} (hb : f ∉ s.keep.store.badPages) (hr : ¬Claims.HoldsReserved s.chip f) :
    retireStatus s f = if 4096 ≤ s.keep.store.badPages.length then 2 else 0 := by
  rw [retireStatus, if_neg (by simpa using hb), if_neg (by rwa [reserved_iff])]

theorem retireStatus_reserved {s : State} {f : Nat} (hb : f ∉ s.keep.store.badPages) (hr : Claims.HoldsReserved s.chip f) :
    retireStatus s f = 3 := by
  rw [retireStatus, if_neg (by simpa using hb), if_pos (reserved_iff.2 hr)]

theorem retireStatus_listed {s : State} {f : Nat} (hb : f ∈ s.keep.store.badPages) : retireStatus s f = 1 := by
  rw [retireStatus, if_pos (by simpa using hb)]

theorem retireFrame_busy {s : State} (v : BitVec 32) (h : s.keep.retire.busy = true) : retireFrame v s = s := if_pos h

/-- A retirement that starts leaves its frame, outcome and list. -/
theorem retireFrame_keep {s : State} {v : BitVec 32} {f st : Nat} (h : s.keep.retire.busy = false) (hf : f = v.toNat % 2 ^ 18)
    (hst : retireStatus s f = st) : (retireFrame v s).keep = { s.keep with
      store := { s.keep.store with badPages := if st = 0 ∨ st = 3 then addBadPage s.keep.store.badPages f else s.keep.store.badPages }
      retire := { s.keep.retire with status := st, busy := true, frame := f } } := by
  subst hf hst
  rw [retireFrame, if_neg (by simp [h])]

theorem retireFrame_chip {s : State} {v : BitVec 32} {f st : Nat} (h : s.keep.retire.busy = false) (hf : f = v.toNat % 2 ^ 18)
    (hst : retireStatus s f = st) : (retireFrame v s).chip = if st = 0 ∨ st = 2 then (s.chip.clearFrame f).markRetired f else s.chip := by
  subst hf hst
  rw [retireFrame, if_neg (by simp [h])]
  rfl

/-- Each retirement by its status: only one that goes through clears its frame. -/
theorem retirementFollowsItsOutcome : Claims.RetirementFollowsItsOutcome := by
  intro s v f hh hf
  have hexec : exec (.memRetire v) s = .next (retireFrame v s) := congrArg Host.Outcome.next (if_neg (by simp [hh]))
  rw [hexec]
  refine ⟨fun hb => ⟨by rw [retireFrame_busy v hb], _, rfl, ?_⟩, fun hb => ⟨_, rfl, ?_⟩⟩
  · rw [retireDone, if_pos hb]
    exact ⟨rfl, rfl, rfl⟩
  have hk := retireFrame_keep (v := v) hb hf rfl
  have hc := retireFrame_chip (v := v) hb hf rfl
  refine ⟨by rw [hk], by rw [hk], ?_, fun hl => ?_, fun hl => ⟨fun hr => ?_, fun hr => ⟨fun hn => ?_, fun hn => ?_, ?_⟩⟩⟩
  · rw [hc]
    split
    · exact clearFrame_mem s.chip f
    · rfl
  · rw [retireStatus_listed hl] at hk hc
    exact ⟨by rw [hk], hc, by rw [hk]; rfl⟩
  · rw [retireStatus_reserved hl hr] at hk hc
    exact ⟨by rw [hk], hc, fun hn => by rw [hk]; exact if_pos hn⟩
  · have hst : retireStatus s f = 0 := (retireStatus_free hl hr).trans (if_neg (by omega))
    rw [hst] at hk
    exact ⟨by rw [hk], by rw [hk]; exact if_pos hn⟩
  · have hst : retireStatus s f = 2 := (retireStatus_free hl hr).trans (if_pos hn)
    rw [hst] at hk
    exact ⟨by rw [hk], by rw [hk]; rfl⟩
  · have hst : retireStatus s f = 0 ∨ retireStatus s f = 2 := by
      rw [retireStatus_free hl hr]
      split
      · exact .inr rfl
      · exact .inl rfl
    rw [if_pos hst] at hc
    rw [hc]
    refine ⟨markRetired_retired .., fun line hline => (clearFrame_atRest s.chip hline).markRetired f, ?_, ?_, ?_⟩
    · exact fun k l hm => (clearFrame_l1 s.chip (k := k) (by rwa [Chip.core_markRetired] at hm)).1
    · exact fun e he => clearFrame_tlb s.chip (by rwa [Chip.tlb_markRetired] at he)
    · exact fun e he hn k l hm => (clearFrame_l1 s.chip (k := k) (by rwa [Chip.core_markRetired] at hm)).2 e he hn

end Sys2Proof.Machine
end

section
/-! What the slices' operations do to one line's own copies (R137-R142, R182-R187). -/

namespace Sys2Proof.Machine

/-! ### A copy changed, put, cleaned, given up -/

section
variable {c : Chip} {n l : Nat} {p : LineCopy}

@[simp] theorem Chip.copyAt_putCopy (c : Chip) (n l : Nat) (p : LineCopy) :
    (c.putCopy n l p).copyAt n l = some { p with used := c.uses } := mget_mset_self ..

theorem Chip.copyAt_modCopy (h : c.copyAt n l = some p) (f : LineCopy → LineCopy) : (c.modCopy n l f).copyAt n l = some (f p) := by
  rw [Chip.modCopy, h]
  exact mget_mset_self ..

theorem copies_flushSectors (p : LineCopy) (l : Nat) : (c.flushSectors p l).copies = c.copies := by
  have hs : ∀ (d : Chip) (s : Nat) (q : Prop) [Decidable q], (if q then d.flushSector p l s else d).copies = d.copies :=
    fun d s q _ => by
      split
      · exact flushSector_copies ..
      · rfl
  exact (hs _ 1 _).trans ((hs _ 0 _).trans (flushPoison_copies ..))

/-- What is written back stays, clean. -/
theorem Chip.copyAt_flushCopy (h : c.copyAt n l = some p) : (c.flushCopy n l).copyAt n l = some { p with dirty := 0 } := by
  rw [Chip.flushCopy_eq h]
  exact Chip.copyAt_modCopy (by rw [Chip.copyAt, copies_flushSectors, ← Chip.copyAt, h]) _

theorem Chip.dirtyAt_some (h : c.copyAt n l = some p) : c.dirtyAt n l = decide (p.dirty ≠ 0) := by
  rw [Chip.dirtyAt, h]

theorem Chip.dirtyAt_none (h : c.copyAt n l = none) : c.dirtyAt n l = false := by
  rw [Chip.dirtyAt, h]

theorem Chip.dirtyAt_flushCopy (c : Chip) (n l : Nat) : (c.flushCopy n l).dirtyAt n l = false := by
  cases h : c.copyAt n l with
  | none => rw [Chip.flushCopy_none h, Chip.dirtyAt_none h]
  | some p => rw [Chip.dirtyAt_some (Chip.copyAt_flushCopy h)]; rfl

@[simp] theorem Chip.copyAt_giveUp (c : Chip) (n l : Nat) : (c.giveUp n l).copyAt n l = none := Chip.copyAt_dropCopy ..

/-- The home slice's copy is clean after a cleaning, and stays one. -/
theorem Chip.dirtyAt_cleanHome (c : Chip) (l h : Nat) : (c.cleanHome l h).dirtyAt h l = false := by
  unfold Chip.cleanHome
  split
  · exact c.dirtyAt_flushCopy h l
  next hd => exact Bool.not_eq_true _ ▸ hd

theorem lineKept_cleanHome {P : Nat → Prop} {h : Nat} (hk : ∀ n, P n → n % 4 ≠ h % 4) : LineKept P l c (c.cleanHome l h) := by
  unfold Chip.cleanHome
  split
  · exact lineKept_flushCopy fun n hn => copyKey_ne (.inr (hk n hn))
  · exact .refl _

theorem lineKept_newCopy {P : Nat → Prop} {m : CopyMode} {ways : List Nat} (hn : c.copyAt n l = none)
    (hk : ∀ j, P j → j % 4 ≠ n % 4) : LineKept P l c (c.newCopy n l m ways) :=
  (lineKept_takeWay hn).trans (lineKept_putCopy _ fun j hj => copyKey_ne (.inr (hk j hj)))

/-- A new copy holds nothing yet. -/
theorem Chip.copyAt_newCopy (c : Chip) (n l : Nat) (m : CopyMode) (ways : List Nat) :
    ∃ q, (c.newCopy n l m ways).copyAt n l = some q ∧ q.mode = m ∧ q.valid = 0 ∧ q.dirty = 0 :=
  ⟨_, Chip.copyAt_putCopy .., rfl, rfl, rfl⟩

/-- A grant writes a word, and nothing else. -/
theorem Chip.grantCompass_frame (c : Chip) (l : Nat) (w : BitVec 16) :
    c.grantCompass l w = { c with compass := (c.grantCompass l w).compass, combiner := (c.grantCompass l w).combiner } := by
  unfold Chip.grantCompass
  dsimp only
  split
  · rfl
  split
  · rfl
  split
  · rfl
  split <;> rfl

@[simp] theorem Chip.copyAt_grantCompass (c : Chip) (j l l' : Nat) (w : BitVec 16) : (c.grantCompass l' w).copyAt j l = c.copyAt j l := by
  rw [c.grantCompass_frame]
  rfl

@[simp] theorem Chip.latentOf_grantCompass (c : Chip) (l l' : Nat) (w : BitVec 16) : (c.grantCompass l' w).latentOf l = c.latentOf l := by
  rw [c.grantCompass_frame]
  rfl

/-! ### A copy sent home -/

theorem Chip.copyAt_sendHome {h : Nat} (hn : n % 4 ≠ h % 4) : (c.sendHome l h n).copyAt n l = none := by
  have hput : ∀ (d : Chip) (q : LineCopy), ((d.dropCopy n l).putCopy h l q).copyAt n l = none := fun d q =>
    (mget_mset_ne _ _ (copyKey_ne (.inr hn))).trans (Chip.copyAt_dropCopy ..)
  unfold Chip.sendHome
  split
  next h0 => exact h0
  dsimp only
  split
  · exact Chip.copyAt_dropCopy ..
  split
  · exact hput ..
  split
  · exact hput ..
  · exact Chip.copyAt_dropCopy ..

/-- A clean copy goes without a trace. -/
theorem Chip.sendHome_clean (h : c.copyAt n l = some p) (hd : p.dirty = 0) (home : Nat) : c.sendHome l home n = c.dropCopy n l := by
  rw [Chip.sendHome, h]
  exact if_pos hd

theorem or_ne_zero {a b : BitVec 2} (h : b ≠ 0) : a ||| b ≠ 0 := by
  revert a b
  decide

/-- The home slice is dirty where it could take in what came. -/
theorem Chip.dirtyAt_sendHome {h : Nat} (hp : c.dirtyAt n l = true) (hw : Claims.HasWay c h l) :
    (c.sendHome l h n).dirtyAt h l = true := by
  cases hc : c.copyAt n l with
  | none => rw [Chip.dirtyAt_none hc] at hp; cases hp
  | some p =>
    have hd : p.dirty ≠ 0 := by
      rw [Chip.dirtyAt_some hc] at hp
      exact of_decide_eq_true hp
    unfold Chip.sendHome
    rw [hc]
    dsimp only
    rw [if_neg hd]
    split
    next q hq =>
      rw [Chip.dirtyAt_some (Chip.copyAt_putCopy ..)]
      refine decide_eq_true ?_
      dsimp only
      split
      · exact or_ne_zero hd
      · exact or_ne_zero hd
    next hq =>
      split
      · rw [Chip.dirtyAt_some (Chip.copyAt_putCopy ..)]
        exact decide_eq_true hd
      next hn =>
        rcases hw with hw | hw
        · rw [hq] at hw; cases hw
        · rw [hn] at hw; cases hw

theorem mem_sendHome (c : Chip) (l h n : Nat) : (c.sendHome l h n).mem = c.mem := by
  unfold Chip.sendHome
  split
  · rfl
  dsimp only
  split
  · rfl
  split
  · rfl
  split
  · rfl
  · exact mem_flushCopy ..

/-! ### Sectors filled -/

theorem readSector_sound (hs : c.latentOf l = Latent.none) (s : Nat) (b : Bool) : c.readSector l s b = c := by
  refine if_pos (.inr ?_)
  rw [hs]
  unfold Latent.sector
  split <;> rfl

theorem lineKept_readForFill {P : Nat → Prop} (hs : c.latentOf l = Latent.none) (s : Nat) (p : LineCopy) :
    LineKept P l c (c.readForFill n l s p) := by
  unfold Chip.readForFill
  rw [readSector_sound hs]
  dsimp only
  split
  · exact .of_eq rfl rfl rfl rfl
  · exact .refl _

theorem lineKept_refill {P : Nat → Prop} (s : Nat) : LineKept P l c (c.refill l s) := .of_eq rfl rfl rfl rfl

/-- A copy with a sector more than another, of the same mode and as dirty. -/
def Gained (s : Nat) (p q : LineCopy) : Prop :=
  q.mode = p.mode ∧ q.dirty = p.dirty ∧ q.valid = p.valid ||| BitVec.ofNat 2 (2 ^ s)

/-- A sector is put in a copy with its bytes, or as memory shows it. -/
theorem gained_put (p : LineCopy) (s : Nat) (b : Bool) (m : Memory) (d : List Byte) (q : Prop) [Decidable q] :
    Gained s p (if q then p.gains s b else (p.gains s b).withBytes m l d) := by
  split <;> exact ⟨rfl, rfl, rfl⟩

theorem takeSector_spec (h : c.copyAt n l = some p) (s : Nat) :
    (∃ q, (c.takeSector n l s p).copyAt n l = some q ∧ Gained s p q) ∧
      ∀ P : Nat → Prop, (∀ j, P j → j % 4 ≠ n % 4) → LineKept P l c (c.takeSector n l s p) := by
  unfold Chip.takeSector
  dsimp only
  split
  · have hp : (c.refill l s).copyAt n l = some p := h
    refine ⟨⟨_, Chip.copyAt_modCopy hp _, gained_put ..⟩, fun P hk => ?_⟩
    exact (lineKept_refill s).trans (lineKept_modCopy _ fun j hj => copyKey_ne (.inr (hk j hj)))
  · exact ⟨⟨_, Chip.copyAt_modCopy h _, gained_put ..⟩, fun P hk => lineKept_modCopy _ fun j hj => copyKey_ne (.inr (hk j hj))⟩

theorem fillDram_spec (hs : c.latentOf l = Latent.none) (h : c.copyAt n l = some p) (s : Nat) :
    (∃ q, (c.fillDram n l s p).copyAt n l = some q ∧ Gained s p q) ∧
      ∀ P : Nat → Prop, (∀ j, P j → j % 4 ≠ n % 4) → LineKept P l c (c.fillDram n l s p) := by
  have hr : LineKept (fun _ => True) l c (c.readForFill n l s p) := lineKept_readForFill hs s p
  obtain ⟨hq, hk⟩ := takeSector_spec ((hr.copy n trivial).trans h) s
  exact ⟨hq, fun P hP => (hr.mono fun _ _ => trivial).trans (hk P hP)⟩

theorem or_of_getLsbD {v : BitVec 2} {s : Nat} (hs : s < 2) (h : v.getLsbD s = true) : v = v ||| BitVec.ofNat 2 (2 ^ s) := by
  have hcases : s = 0 ∨ s = 1 := by omega
  rcases hcases with rfl | rfl
  · revert v
    decide
  · revert v
    decide

/-- A fill gives a copy the sector, wherever it takes it from. -/
theorem fillSector_spec {home : Nat} (hs : c.latentOf l = Latent.none) (h : c.copyAt n l = some p) {s : Nat} (hlt : s < 2) :
    (∃ q, (c.fillSector n l home s).copyAt n l = some q ∧ Gained s p q) ∧
      ∀ P : Nat → Prop, (∀ j, P j → j % 4 ≠ n % 4) → LineKept P l c (c.fillSector n l home s) := by
  unfold Chip.fillSector
  rw [h]
  dsimp only
  split
  next hv => exact ⟨⟨p, h, rfl, rfl, or_of_getLsbD hlt hv⟩, fun _ _ => .refl _⟩
  split
  · split
    · exact ⟨⟨_, Chip.copyAt_modCopy h _, gained_put ..⟩, fun P hk => lineKept_modCopy _ fun j hj => copyKey_ne (.inr (hk j hj))⟩
    · exact fillDram_spec hs h s
  · exact fillDram_spec hs h s

theorem or_both (v : BitVec 2) : v ||| BitVec.ofNat 2 (2 ^ 0) ||| BitVec.ofNat 2 (2 ^ 1) = 3 := by
  revert v
  decide

/-- Both sectors filled: a whole copy, of the same mode and as dirty. -/
theorem fillSectors_spec {home : Nat} (hs : c.latentOf l = Latent.none) (h : c.copyAt n l = some p) :
    (∃ q, (c.fillSectors n l home 3).copyAt n l = some q ∧ q.valid = 3 ∧ q.mode = p.mode ∧ q.dirty = p.dirty) ∧
      ∀ P : Nat → Prop, (∀ j, P j → j % 4 ≠ n % 4) → LineKept P l c (c.fillSectors n l home 3) := by
  obtain ⟨⟨q, hq, hqm, hqd, hqv⟩, hk⟩ := fillSector_spec (home := home) hs h (s := 0) (by decide)
  have hs' := (hk (fun _ => False) fun _ => False.elim).sound hs
  obtain ⟨⟨r, hr, hrm, hrd, hrv⟩, hk'⟩ := fillSector_spec (home := home) hs' hq (s := 1) (by decide)
  refine ⟨⟨r, hr, ?_, hrm.trans hqm, hrd.trans hqd⟩, fun P hP => (hk P hP).trans (hk' P hP)⟩
  rw [hrv, hqv, or_both]

end

end Sys2Proof.Machine
end

section
/-! The home slice's transitions of a line whose word is well formed (R186). -/

namespace Sys2Proof.Machine

/-! ### Fields of a word -/

theorem bit_eq_testBit (v i : Nat) : bit v i = v.testBit i := (Nat.testBit_eq_decide_div_mod_eq).symm

/-- A word built from fields has them, and the poison of the word it replaces. -/
theorem cWith_fields (w : BitVec 16) {st ow sh : Nat} (hst : st < 8) (how : ow < 4) (hsh : sh < 16) :
    cState (cWith w st ow sh) = st ∧ cOwner (cWith w st ow sh) = ow ∧ cSharers (cWith w st ow sh) = sh
      ∧ (cWith w st ow sh).getLsbD 6 = w.getLsbD 6 := by
  have hb : bits w.toNat 6 6 < 2 := Nat.mod_lt _ (by decide)
  have hp : w.getLsbD 6 = decide (bits w.toNat 6 6 = 1) := by
    rw [BitVec.getLsbD, Nat.testBit_eq_decide_div_mod_eq]
    rfl
  rw [hp, BitVec.getLsbD, Nat.testBit_eq_decide_div_mod_eq]
  simp only [cState, cOwner, cSharers, cWith, BitVec.toNat_ofNat]
  generalize bits w.toNat 6 6 = b at hb
  unfold bits
  refine ⟨by omega, by omega, by omega, ?_⟩
  rw [decide_eq_decide]
  omega

theorem cOwner_lt (w : BitVec 16) : cOwner w < 4 := Nat.mod_lt _ (by decide)
theorem cSharers_lt (w : BitVec 16) : cSharers w < 16 := Nat.mod_lt _ (by decide)

/-- The fields of a line whose word was built from those of another. -/
theorem compass_of_cWith {c : Chip} {l : Nat} {w : BitVec 16} {st ow sh : Nat} (h : c.compassOf l = cWith w st ow sh)
    (hst : st < 8) (how : ow < 4) (hsh : sh < 16) : Claims.compass c l = (st, ow, sh, w.getLsbD 6) := by
  obtain ⟨h1, h2, h3, h4⟩ := cWith_fields w hst how hsh
  rw [Claims.compass, h, h1, h2, h3, h4]

/-- What a well-formed word says (R182). -/
structure WellFormed (w : BitVec 16) (h : Nat) : Prop where
  owner : cState w = 2 ∨ cState w = 3 → cOwner w ≠ h
  sharers : cState w = 3 → bit (cSharers w) (cOwner w) = false
  home : bit (cSharers w) h = false
  state : cState w < 4

theorem wellFormed_of {w : BitVec 16} {h : Nat} (hm : cMalformed w h = false) : WellFormed w h := by
  simp only [cMalformed, Bool.or_eq_false_iff, Bool.and_eq_false_iff, decide_eq_false_iff_not] at hm
  obtain ⟨⟨⟨⟨hst, how⟩, hhome⟩, -⟩, hsh⟩ := hm
  exact ⟨fun h23 => how.resolve_left fun ⟨h2, h3⟩ => h23.elim h2 h3, fun h3 => hsh.resolve_left fun h => h h3, hhome, by omega⟩

section
variable {c : Chip} {l h : Nat}

theorem Chip.dirtyAt_congr {d : Chip} {n : Nat} (hc : d.copyAt n l = c.copyAt n l) : d.dirtyAt n l = c.dirtyAt n l := by
  rw [Chip.dirtyAt, hc, Chip.dirtyAt]

/-! ### The home slice holds a whole line -/

/-- A slice that takes a line in where it does not hold it, and fills it. -/
def Chip.holdWhole (c : Chip) (l h : Nat) (ways : List Nat) : Chip :=
  (if (c.copyAt h l).isSome then c else c.newCopy h l .home ways).fillSectors h l h 3

theorem holdWhole_spec (hs : c.latentOf l = Latent.none) (ways : List Nat) :
    (∃ q, (c.holdWhole l h ways).copyAt h l = some q ∧ q.valid = 3)
      ∧ (c.dirtyAt h l = true → (c.holdWhole l h ways).dirtyAt h l = true)
      ∧ LineKept (fun j => j % 4 ≠ h % 4) l c (c.holdWhole l h ways) := by
  unfold Chip.holdWhole
  cases hc : c.copyAt h l with
  | some p =>
    rw [if_pos (show (some p).isSome = true from rfl)]
    obtain ⟨⟨q, hq, hv, -, hd⟩, hk⟩ := fillSectors_spec (home := h) hs hc
    refine ⟨⟨q, hq, hv⟩, fun hp => ?_, hk _ fun _ hj => hj⟩
    rwa [Chip.dirtyAt_some hq, hd, ← Chip.dirtyAt_some hc]
  | none =>
    rw [if_neg (by simp)]
    obtain ⟨p, hp, -⟩ := c.copyAt_newCopy h l .home ways
    have hn : LineKept (fun j => j % 4 ≠ h % 4) l c (c.newCopy h l .home ways) := lineKept_newCopy hc fun _ hj => hj
    obtain ⟨⟨q, hq, hv, -⟩, hk⟩ := fillSectors_spec (home := h) (hn.sound hs) hp
    exact ⟨⟨q, hq, hv⟩, fun hd => absurd ((Chip.dirtyAt_none hc).symm.trans hd) (by decide), hn.trans (hk _ fun _ hj => hj)⟩

/-- A home read of a line without an owner. -/
theorem homeRead_idle (h23 : ¬(cState (c.compassOf l) = 2 ∨ cState (c.compassOf l) = 3)) (ways : List Nat) :
    c.homeRead l h ways = c.holdWhole l h ways := by
  rw [Chip.homeRead, if_neg h23]
  rfl

/-- A home read of an owned line recalls it first. -/
theorem homeRead_owned (h23 : cState (c.compassOf l) = 2 ∨ cState (c.compassOf l) = 3) (ways : List Nat) :
    c.homeRead l h ways = (c.sendHome l h (cOwner (c.compassOf l))).holdWhole l h ways := by
  rw [Chip.homeRead, if_pos h23]
  rfl

theorem homeWrite_eq (ways : List Nat) : c.homeWrite l h ways 3 = (c.recallNamed l h).holdWhole l h ways := rfl

/-- The owner's number differs from the home's modulo 4 too. -/
theorem WellFormed.apart {w : BitVec 16} (hw : WellFormed w h) (hh : h < 4) (h23 : cState w = 2 ∨ cState w = 3) :
    cOwner w % 4 ≠ h % 4 := by
  have := cOwner_lt w
  have := hw.owner h23
  omega

/-- A home read leaves the word and gives the home slice the whole line; an owner's copy goes, and what was dirty of it stays so at
the home slice where that can take it. -/
theorem homeRead_spec (hs : c.latentOf l = Latent.none) (hh : h < 4) (hw : WellFormed (c.compassOf l) h) (ways : List Nat) :
    (c.homeRead l h ways).compassOf l = c.compassOf l ∧ (∃ q, (c.homeRead l h ways).copyAt h l = some q ∧ q.valid = 3)
      ∧ (cState (c.compassOf l) = 2 ∨ cState (c.compassOf l) = 3 → (c.homeRead l h ways).copyAt (cOwner (c.compassOf l)) l = none
        ∧ (c.dirtyAt (cOwner (c.compassOf l)) l = true → Claims.HasWay c h l → (c.homeRead l h ways).dirtyAt h l = true)) := by
  by_cases h23 : cState (c.compassOf l) = 2 ∨ cState (c.compassOf l) = 3
  · have hoh := hw.apart hh h23
    rw [homeRead_owned h23]
    have hsend : LineKept (fun _ => False) l c (c.sendHome l h (cOwner (c.compassOf l))) :=
      lineKept_sendHome (fun _ => False.elim) fun _ => False.elim
    obtain ⟨hq, hd, hk⟩ := holdWhole_spec (h := h) (hsend.sound hs) ways
    refine ⟨hk.word.trans hsend.word, hq, fun _ => ⟨?_, fun hdirty hway => hd (Chip.dirtyAt_sendHome hdirty hway)⟩⟩
    rw [hk.copy _ hoh, Chip.copyAt_sendHome hoh]
  · rw [homeRead_idle h23]
    obtain ⟨hq, -, hk⟩ := holdWhole_spec (h := h) hs ways
    exact ⟨hk.word, hq, fun h => absurd h h23⟩

/-- The spires of which a word says that they may hold the line, the home spire apart (R183). -/
def NamedBy (w : BitVec 16) (d : Nat) : Prop :=
  ((cState w = 1 ∨ cState w = 3) ∧ bit (cSharers w) d = true) ∨ ((cState w = 2 ∨ cState w = 3) ∧ d = cOwner w)

theorem Chip.copyAt_dropMask (c : Chip) {d l mask : Nat} (hd : d < 4) (hb : bit mask d = true) : (c.dropMask l mask).copyAt d l = none :=
  c.copyAt_flushSpires (List.mem_filter.2 ⟨List.mem_range.2 hd, hb⟩)

theorem Chip.copyAt_dropMask_none {d : Nat} (mask : Nat) (h : c.copyAt d l = none) : (c.dropMask l mask).copyAt d l = none :=
  Chip.copyAt_flushSpires_none _ h

/-- A mask's drop keeps the copies of spires outside it. -/
theorem lineKept_dropMask {P : Nat → Prop} {mask : Nat} (hk : ∀ j, P j → j < 4 ∧ bit mask j = false) :
    LineKept P l c (c.dropMask l mask) := by
  refine lineKept_flushSpires fun k hm j hj => copyKey_ne (.inr ?_)
  obtain ⟨hlt, hb⟩ := List.mem_filter.1 hm
  obtain ⟨hj4, hjb⟩ := hk j hj
  have hne : j ≠ k := fun e => by rw [e, hb] at hjb; cases hjb
  have hk4 : k < 4 := List.mem_range.1 hlt
  omega

theorem recallNamed_spec (hh : h < 4) (hw : WellFormed (c.compassOf l) h) :
    LineKept (fun _ => False) l c (c.recallNamed l h)
      ∧ ∀ d, d < 4 → NamedBy (c.compassOf l) d → (c.recallNamed l h).copyAt d l = none := by
  have hsend : LineKept (fun _ => False) l c (c.sendHome l h (cOwner (c.compassOf l))) :=
    lineKept_sendHome (fun _ => False.elim) fun _ => False.elim
  have hstate := hw.state
  unfold Chip.recallNamed Chip.recallOwner
  dsimp only
  split
  next h1 =>
    refine ⟨lineKept_dropMask fun _ => False.elim, fun d hd hn => ?_⟩
    rcases hn with ⟨-, hb⟩ | ⟨h23, -⟩
    · exact c.copyAt_dropMask hd hb
    · omega
  split
  next h1 h2 =>
    refine ⟨hsend, fun d hd hn => ?_⟩
    rcases hn with ⟨h13, -⟩ | ⟨-, rfl⟩
    · omega
    · exact Chip.copyAt_sendHome (hw.apart hh (.inl h2))
  split
  next h1 h2 h3 =>
    refine ⟨hsend.trans (lineKept_dropMask fun _ => False.elim), fun d hd hn => ?_⟩
    rcases hn with ⟨-, hb⟩ | ⟨-, rfl⟩
    · exact Chip.copyAt_dropMask _ hd hb
    · exact Chip.copyAt_dropMask_none _ (Chip.copyAt_sendHome (hw.apart hh (.inr h3)))
  next h1 h2 h3 =>
    refine ⟨.refl c, fun d hd hn => ?_⟩
    rcases hn with ⟨h13, -⟩ | ⟨h23, -⟩ <;> omega

/-- A home write leaves the word, gives the home slice the whole line, and takes it from every spire that the word names. -/
theorem homeWrite_spec (hs : c.latentOf l = Latent.none) (hh : h < 4) (hw : WellFormed (c.compassOf l) h) (ways : List Nat) :
    (c.homeWrite l h ways 3).compassOf l = c.compassOf l ∧ (∃ q, (c.homeWrite l h ways 3).copyAt h l = some q ∧ q.valid = 3)
      ∧ ∀ d, d < 4 → d ≠ h → NamedBy (c.compassOf l) d → (c.homeWrite l h ways 3).copyAt d l = none := by
  rw [homeWrite_eq]
  obtain ⟨hrec, hnone⟩ := recallNamed_spec hh hw
  obtain ⟨hq, -, hk⟩ := holdWhole_spec (h := h) (hrec.sound hs) ways
  refine ⟨hk.word.trans hrec.word, hq, fun d hd hdh hn => ?_⟩
  rw [hk.copy d (by omega), hnone d hd hn]

/-! ### A remote read -/

/-- A spire has got its shared copy: whole, clean, with the word `w`; the home slice's copy is clean. -/
structure SharedAt (d : Chip) (l h n : Nat) (w : BitVec 16) : Prop where
  word : d.compassOf l = w
  copy : ∃ q, d.copyAt n l = some q ∧ q.mode = .shared ∧ q.valid = 3 ∧ q.dirty = 0
  home : d.dirtyAt h l = false

/-- A grant of a shared copy to a spire that holds none, from the home slice or from DRAM. -/
theorem share_spec {n : Nat} (hs : c.latentOf l = Latent.none) (hn : c.copyAt n l = none) (hnh : n % 4 ≠ h % 4)
    (hd : c.dirtyAt h l = false) (w : BitVec 16) (ways : List Nat) : SharedAt ((c.share l n w ways).fillSectors n l h 3) l h n w := by
  have hn' : (c.grantCompass l w).copyAt n l = none := by rwa [Chip.copyAt_grantCompass]
  have hnew : LineKept (fun j => j % 4 ≠ n % 4) l (c.grantCompass l w) (c.share l n w ways) := lineKept_newCopy hn' fun _ hj => hj
  obtain ⟨p, hp, hpm, -, hpd⟩ := (c.grantCompass l w).copyAt_newCopy n l .shared ways
  obtain ⟨⟨q, hq, hv, hqm, hqd⟩, hk⟩ := fillSectors_spec (home := h) (hnew.sound (by rwa [Chip.latentOf_grantCompass])) hp
  have hall := hnew.trans (hk (fun j => j % 4 ≠ n % 4) fun _ hj => hj)
  refine ⟨hall.word.trans (Chip.compassOf_grantCompass ..), ⟨q, hq, hqm.trans hpm, hv, hqd.trans hpd⟩, ?_⟩
  rw [Chip.dirtyAt_congr ((hall.copy h (Ne.symm hnh)).trans (Chip.copyAt_grantCompass ..)), hd]

/-- A copy taken from another spire's. -/
theorem copyFrom_spec {n o : Nat} {p : LineCopy} (ho : c.copyAt o l = some p) (hn : c.copyAt n l = none) (m : CopyMode) (b : Bool)
    (ways : List Nat) :
    (∃ q, (c.copyFrom l n o m b ways).copyAt n l = some q ∧ q.mode = m ∧ q.dirty = if b then p.dirty else 0)
      ∧ LineKept (fun j => j % 4 ≠ n % 4) l c (c.copyFrom l n o m b ways) := by
  obtain ⟨r, hr, hrm, -⟩ := c.copyAt_newCopy n l m ways
  rw [Chip.copyFrom, ho]
  exact ⟨⟨_, Chip.copyAt_modCopy hr _, hrm, rfl⟩,
    (lineKept_newCopy hn fun _ hj => hj).trans (lineKept_modCopy _ fun _ hj => copyKey_ne (.inr hj))⟩

/-- A grant of a shared copy from the owner's, which stays in a mode. -/
theorem shareFrom_spec {n o : Nat} {p : LineCopy} (hs : c.latentOf l = Latent.none) (hn : c.copyAt n l = none)
    (hp : c.copyAt o l = some p) (hnh : n % 4 ≠ h % 4) (hno : n % 4 ≠ o % 4) (hoh : o % 4 ≠ h % 4) (hd : c.dirtyAt h l = false)
    (w : BitVec 16) (m : CopyMode) (ways : List Nat) :
    SharedAt ((c.shareFrom l n o w m ways).fillSectors n l h 3) l h n w
      ∧ ((c.shareFrom l n o w m ways).fillSectors n l h 3).copyAt o l = some { p with mode := m } := by
  have hp' : (c.grantCompass l w).copyAt o l = some p := by rwa [Chip.copyAt_grantCompass]
  have hmod : LineKept (fun j => j % 4 ≠ o % 4) l (c.grantCompass l w)
      ((c.grantCompass l w).modCopy o l (fun p => { p with mode := m })) :=
    lineKept_modCopy _ fun _ hj => copyKey_ne (.inr hj)
  have ho := Chip.copyAt_modCopy hp' (fun p => { p with mode := m })
  obtain ⟨⟨r, hr, hrm, hrd⟩, hfrom⟩ := copyFrom_spec ho
    ((hmod.copy n hno).trans ((Chip.copyAt_grantCompass ..).trans hn)) .shared false ways
  have hs' := hfrom.sound (hmod.sound (by rwa [Chip.latentOf_grantCompass]))
  obtain ⟨⟨q, hq, hv, hqm, hqd⟩, hk⟩ := fillSectors_spec (home := h) hs' hr
  have hall := hfrom.trans (hk (fun j => j % 4 ≠ n % 4) fun _ hj => hj)
  refine ⟨⟨hall.word.trans (hmod.word.trans (Chip.compassOf_grantCompass ..)), ⟨q, hq, hqm.trans hrm, hv, hqd.trans hrd⟩, ?_⟩, ?_⟩
  · exact (Chip.dirtyAt_congr ((hall.copy h (Ne.symm hnh)).trans ((hmod.copy h (Ne.symm hoh)).trans
      (Chip.copyAt_grantCompass ..)))).trans hd
  · exact (hall.copy o (Ne.symm hno)).trans ho

/-- A remote read of a line without an owner, or whose owner holds it no more. -/
theorem remoteRead_unowned {n : Nat}
    (hno : ¬((cState (c.compassOf l) = 2 ∨ cState (c.compassOf l) = 3) ∧ cOwner (c.compassOf l) ≠ n
      ∧ (c.copyAt (cOwner (c.compassOf l)) l).isSome = true)) (hs : c.latentOf l = Latent.none) (hh : h < 4) (hn : n < 4)
    (hnh : n ≠ h) (hcopy : c.copyAt n l = none) (ways : List Nat) :
    SharedAt (c.remoteRead l h n ways) l h n
      (cWith (c.compassOf l) 1 0 (Nat.lor (if cState (c.compassOf l) = 2 then 0 else cSharers (c.compassOf l)) (2 ^ n))) := by
  have hclean : LineKept (fun j => j % 4 ≠ h % 4) l c (c.cleanHome l h) := lineKept_cleanHome fun _ hj => hj
  have hnh' : n % 4 ≠ h % 4 := by omega
  rw [Chip.remoteRead, if_neg hno]
  exact share_spec (hclean.sound hs) ((hclean.copy n hnh').trans hcopy) hnh' (c.dirtyAt_cleanHome l h) _ ways

/-- A remote read of a line whose owner holds it: of a clean one of `EXCLUSIVE`, both share; else the owner stays its owner. -/
theorem remoteRead_owned {n : Nat} {p : LineCopy} (h23 : cState (c.compassOf l) = 2 ∨ cState (c.compassOf l) = 3)
    (hp : c.copyAt (cOwner (c.compassOf l)) l = some p) (hw : WellFormed (c.compassOf l) h) (hs : c.latentOf l = Latent.none)
    (hh : h < 4) (hn : n < 4) (hnh : n ≠ h) (hcopy : c.copyAt n l = none) (ways : List Nat) :
    ∃ w m, SharedAt (c.remoteRead l h n ways) l h n w
      ∧ (c.remoteRead l h n ways).copyAt (cOwner (c.compassOf l)) l = some { p with mode := m }
      ∧ (cState (c.compassOf l) = 2 → p.dirty = 0 → m = .shared
        ∧ w = cWith (c.compassOf l) 1 0 (Nat.lor (2 ^ cOwner (c.compassOf l)) (2 ^ n)))
      ∧ (cState (c.compassOf l) = 2 → p.dirty ≠ 0 → m = .dirtyOwner
        ∧ w = cWith (c.compassOf l) 3 (cOwner (c.compassOf l)) (Nat.lor 0 (2 ^ n)))
      ∧ (cState (c.compassOf l) = 3 → m = .dirtyOwner
        ∧ w = cWith (c.compassOf l) 3 (cOwner (c.compassOf l)) (Nat.lor (cSharers (c.compassOf l)) (2 ^ n))) := by
  have hclean : LineKept (fun j => j % 4 ≠ h % 4) l c (c.cleanHome l h) := lineKept_cleanHome fun _ hj => hj
  have hoh := hw.apart hh h23
  have ho4 := cOwner_lt (c.compassOf l)
  have hon : cOwner (c.compassOf l) ≠ n := fun e => by rw [e, hcopy] at hp; cases hp
  have hspec := fun w m => shareFrom_spec (w := w) (m := m) (ways := ways) (hclean.sound hs)
    ((hclean.copy n (by omega)).trans hcopy) ((hclean.copy _ hoh).trans hp) (by omega) (by omega) hoh (c.dirtyAt_cleanHome l h)
  have hif : (cState (c.compassOf l) = 2 ∨ cState (c.compassOf l) = 3) ∧ cOwner (c.compassOf l) ≠ n
      ∧ (c.copyAt (cOwner (c.compassOf l)) l).isSome = true := ⟨h23, hon, by rw [hp]; rfl⟩
  have hread : c.remoteRead l h n ways = (if cState (c.compassOf l) = 2 ∧ (!c.dirtyAt (cOwner (c.compassOf l)) l) = true
      then (c.cleanHome l h).shareFrom l n (cOwner (c.compassOf l))
        (cWith (c.compassOf l) 1 0 (Nat.lor (2 ^ cOwner (c.compassOf l)) (2 ^ n))) .shared ways
      else (c.cleanHome l h).shareFrom l n (cOwner (c.compassOf l)) (cWith (c.compassOf l) 3 (cOwner (c.compassOf l))
        (Nat.lor (if cState (c.compassOf l) = 2 then 0 else cSharers (c.compassOf l)) (2 ^ n))) .dirtyOwner ways).fillSectors n l h 3 := by
    rw [Chip.remoteRead, if_pos hif]
  rw [hread]
  have hd : c.dirtyAt (cOwner (c.compassOf l)) l = decide (p.dirty ≠ 0) := Chip.dirtyAt_some hp
  split
  next hc =>
    obtain ⟨h2, hnd⟩ := hc
    have hpd : p.dirty = 0 := by simpa [hd] using hnd
    exact ⟨_, _, (hspec _ _).1, (hspec _ _).2, fun _ _ => ⟨rfl, rfl⟩, fun _ hne => absurd hpd hne, fun h3 => by omega⟩
  next hc =>
    refine ⟨_, _, (hspec _ _).1, (hspec _ _).2, fun h2 hpd => absurd ⟨h2, by simp [hd, hpd]⟩ hc,
      fun h2 _ => ⟨rfl, ?_⟩, fun h3 => ⟨rfl, ?_⟩⟩
    · rw [if_pos h2]
    · rw [if_neg (by omega)]

/-! ### A remote write -/

/-- What a spire that takes a line gets: an exclusive copy, dirty only where the owner's was or its own. -/
theorem takeLine_spec {n o : Nat} {owned : Bool} (hno : owned = true → n % 4 ≠ o % 4) (ways : List Nat) :
    (∃ q, (c.takeLine l n o owned ways).copyAt n l = some q ∧ q.mode = .exclusive
      ∧ (∀ p, owned = true → c.copyAt o l = some p → q.dirty = p.dirty)
      ∧ (c.copyAt n l = none → (owned = true → c.copyAt o l = none) → q.dirty = 0))
    ∧ LineKept (fun j => j % 4 ≠ n % 4 ∧ (owned = true → j % 4 ≠ o % 4)) l c (c.takeLine l n o owned ways)
    ∧ (owned = true → (c.takeLine l n o owned ways).copyAt o l = none) := by
  unfold Chip.takeLine
  split
  next hc =>
    obtain ⟨howned, hsome⟩ := Bool.and_eq_true _ _ ▸ hc
    obtain ⟨p, hp⟩ := Option.isSome_iff_exists.1 hsome
    have hgive : LineKept (fun j => j % 4 ≠ n % 4) l c (c.giveUp n l) := lineKept_giveUp fun _ hj => copyKey_ne (.inr hj)
    obtain ⟨⟨q, hq, hqm, hqd⟩, hfrom⟩ := copyFrom_spec ((hgive.copy o (Ne.symm (hno howned))).trans hp) (c.copyAt_giveUp n l)
      .exclusive true ways
    have hdrop : LineKept (fun j => j % 4 ≠ o % 4) l ((c.giveUp n l).copyFrom l n o .exclusive true ways)
        (((c.giveUp n l).copyFrom l n o .exclusive true ways).dropCopy o l) := lineKept_dropCopy fun _ hj => copyKey_ne (.inr hj)
    refine ⟨⟨q, (hdrop.copy n (hno howned)).trans hq, hqm, fun p' _ hp' => ?_, fun _ ho => ?_⟩, ?_, fun _ => Chip.copyAt_dropCopy ..⟩
    · cases hp.symm.trans hp'
      exact hqd
    · cases hp.symm.trans (ho howned)
    · exact ((hgive.trans hfrom).mono fun _ hj => hj.1).trans (hdrop.mono fun _ hj => hj.2 howned)
  next hc =>
    have hnone : owned = true → c.copyAt o l = none := fun howned => by
      cases ho : c.copyAt o l with
      | none => rfl
      | some p => exact absurd (by rw [howned, ho]; rfl) hc
    have hgone : ∀ d : Chip, LineKept (fun j => j % 4 ≠ n % 4) l c d → owned = true → d.copyAt o l = none := fun d hk howned =>
      (hk.copy o (Ne.symm (hno howned))).trans (hnone howned)
    split
    next hsome =>
      obtain ⟨p, hp⟩ := Option.isSome_iff_exists.1 hsome
      have hk : LineKept (fun j => j % 4 ≠ n % 4) l c (c.modCopy n l (fun p => { p with mode := .exclusive })) :=
        lineKept_modCopy _ fun _ hj => copyKey_ne (.inr hj)
      refine ⟨⟨_, Chip.copyAt_modCopy hp _, rfl, fun p' howned hp' => ?_, fun hn => ?_⟩, hk.mono fun _ hj => hj.1, hgone _ hk⟩
      · cases (hnone howned).symm.trans hp'
      · cases hn.symm.trans hp
    next hsome =>
      have hn : c.copyAt n l = none := by simpa using hsome
      have hk : LineKept (fun j => j % 4 ≠ n % 4) l c (c.newCopy n l .exclusive ways) := lineKept_newCopy hn fun _ hj => hj
      obtain ⟨q, hq, hqm, -, hqd⟩ := c.copyAt_newCopy n l .exclusive ways
      refine ⟨⟨q, hq, hqm, fun p' howned hp' => ?_, fun _ _ => hqd⟩, hk.mono fun _ hj => hj.1, hgone _ hk⟩
      cases (hnone howned).symm.trans hp'

/-- A mask with one spire taken out. -/
theorem bit_without (m n d : Nat) : bit (Nat.xor (Nat.lor m (2 ^ n)) (2 ^ n)) d = (bit m d && decide (d ≠ n)) := by
  rw [bit_eq_testBit, bit_eq_testBit]
  show ((m ||| 2 ^ n) ^^^ 2 ^ n).testBit d = _
  rw [Nat.testBit_xor, Nat.testBit_or, Nat.testBit_two_pow]
  by_cases h : n = d
  · simp [h]
  · simp [h, Ne.symm h]

/-- The last steps of a remote write, once the spire has the line: grant, fill, and the home slice gives up its copy. -/
theorem granted_spec {n : Nat} {p : LineCopy} (hs : c.latentOf l = Latent.none) (hp : c.copyAt n l = some p) (hnh : n % 4 ≠ h % 4)
    (w : BitVec 16) :
    (((c.grantCompass l w).fillSectors n l h 3).giveUp h l).compassOf l = w
      ∧ (∃ q, (((c.grantCompass l w).fillSectors n l h 3).giveUp h l).copyAt n l = some q ∧ q.mode = p.mode ∧ q.valid = 3
        ∧ q.dirty = p.dirty)
      ∧ (((c.grantCompass l w).fillSectors n l h 3).giveUp h l).copyAt h l = none
      ∧ ∀ d, d % 4 ≠ n % 4 → c.copyAt d l = none → (((c.grantCompass l w).fillSectors n l h 3).giveUp h l).copyAt d l = none := by
  have hp' : (c.grantCompass l w).copyAt n l = some p := by rwa [Chip.copyAt_grantCompass]
  obtain ⟨⟨q, hq, hv, hqm, hqd⟩, hk⟩ := fillSectors_spec (home := h) (by rwa [Chip.latentOf_grantCompass]) hp'
  have hfill := hk (fun j => j % 4 ≠ n % 4) fun _ hj => hj
  have hgive : LineKept (fun j => j % 4 ≠ h % 4) l ((c.grantCompass l w).fillSectors n l h 3)
      (((c.grantCompass l w).fillSectors n l h 3).giveUp h l) := lineKept_giveUp fun _ hj => copyKey_ne (.inr hj)
  refine ⟨hgive.word.trans (hfill.word.trans (Chip.compassOf_grantCompass ..)), ⟨q, (hgive.copy n hnh).trans hq, hqm, hv, hqd⟩,
    Chip.copyAt_giveUp .., fun d hd hnone => Chip.copyAt_giveUp_none h ?_⟩
  rw [hfill.copy d hd, Chip.copyAt_grantCompass, hnone]

/-- The home slice cleaned, and the sharers but the one that writes dropped. -/
def Chip.clearSharers (c : Chip) (l h n : Nat) : Chip :=
  if cState (c.compassOf l) = 1 ∨ cState (c.compassOf l) = 3 then
    (c.cleanHome l h).dropMask l (Nat.xor (Nat.lor (cSharers (c.compassOf l)) (2 ^ n)) (2 ^ n))
  else c.cleanHome l h

/-- Whether a word names an owner that is not the writer. -/
def otherOwner (w : BitVec 16) (n : Nat) : Bool := (cState w = 2 || cState w = 3) && cOwner w ≠ n

theorem remoteWrite_eq (c : Chip) (l h n : Nat) (ways : List Nat) : c.remoteWrite l h n ways 3 =
    ((((c.clearSharers l h n).takeLine l n (cOwner (c.compassOf l)) (otherOwner (c.compassOf l) n) ways).grantCompass l
      (cWith (c.compassOf l) 2 n 0)).fillSectors n l h 3).giveUp h l := rfl

theorem clearSharers_spec (c : Chip) {n : Nat} (l : Nat) (hh : h < 4) (hn : n < 4) (hnh : n ≠ h) :
    (∀ d, d < 4 → d ≠ n → (cState (c.compassOf l) = 1 ∨ cState (c.compassOf l) = 3) → bit (cSharers (c.compassOf l)) d = true →
      (c.clearSharers l h n).copyAt d l = none)
    ∧ LineKept (fun j => j < 4 ∧ j ≠ h ∧ (j = n ∨ cState (c.compassOf l) = 2 ∨ bit (cSharers (c.compassOf l)) j = false)) l c
      (c.clearSharers l h n) := by
  have hclean : LineKept (fun j => j % 4 ≠ h % 4) l c (c.cleanHome l h) := lineKept_cleanHome fun _ hj => hj
  unfold Chip.clearSharers
  split
  next h13 =>
    refine ⟨fun d hd hdn _ hb => Chip.copyAt_dropMask _ hd (by rw [bit_without, hb, decide_eq_true hdn]; rfl), ?_⟩
    refine (hclean.mono fun j hj => by omega).trans (lineKept_dropMask fun j ⟨hj4, _, hj⟩ => ⟨hj4, ?_⟩)
    rw [bit_without]
    rcases hj with rfl | h2 | hb
    · simp
    · omega
    · rw [hb, Bool.false_and]
  next h13 => exact ⟨fun d _ _ h _ => absurd h h13, hclean.mono fun j hj => by omega⟩

/-- A remote write gives the spire the one copy, exclusive and whole, dirty only where it or the owner was, with its word. -/
theorem remoteWrite_spec {n : Nat} (hs : c.latentOf l = Latent.none) (hh : h < 4) (hw : WellFormed (c.compassOf l) h) (hn : n < 4)
    (hnh : n ≠ h) (ways : List Nat) :
    (c.remoteWrite l h n ways 3).compassOf l = cWith (c.compassOf l) 2 n 0
      ∧ (∃ q, (c.remoteWrite l h n ways 3).copyAt n l = some q ∧ q.mode = .exclusive ∧ q.valid = 3
        ∧ (∀ p, (cState (c.compassOf l) = 2 ∨ cState (c.compassOf l) = 3) → cOwner (c.compassOf l) ≠ n →
          c.copyAt (cOwner (c.compassOf l)) l = some p → q.dirty = p.dirty)
        ∧ (c.copyAt n l = none → (cState (c.compassOf l) = 2 ∨ cState (c.compassOf l) = 3 →
          c.copyAt (cOwner (c.compassOf l)) l = none) → q.dirty = 0))
      ∧ (c.remoteWrite l h n ways 3).copyAt h l = none
      ∧ ∀ d, d < 4 → d ≠ n → NamedBy (c.compassOf l) d → (c.remoteWrite l h n ways 3).copyAt d l = none := by
  have ho4 := cOwner_lt (c.compassOf l)
  have howned : otherOwner (c.compassOf l) n = true →
      (cState (c.compassOf l) = 2 ∨ cState (c.compassOf l) = 3) ∧ cOwner (c.compassOf l) ≠ n := fun h => by
    simpa [otherOwner] using h
  have hof : cState (c.compassOf l) = 2 ∨ cState (c.compassOf l) = 3 → cOwner (c.compassOf l) ≠ n →
      otherOwner (c.compassOf l) n = true := fun h23 hne => by
    simpa [otherOwner] using ⟨h23, hne⟩
  obtain ⟨hsharers, hclear⟩ := clearSharers_spec c l hh hn hnh
  have hown : otherOwner (c.compassOf l) n = true →
      (c.clearSharers l h n).copyAt (cOwner (c.compassOf l)) l = c.copyAt (cOwner (c.compassOf l)) l := fun h => by
    obtain ⟨h23, -⟩ := howned h
    exact hclear.copy _ ⟨ho4, hw.owner h23, h23.elim (fun h2 => .inr (.inl h2)) fun h3 => .inr (.inr (hw.sharers h3))⟩
  have hself : (c.clearSharers l h n).copyAt n l = c.copyAt n l := hclear.copy n ⟨hn, hnh, .inl rfl⟩
  obtain ⟨⟨r, hr, hrm, hrd, hrz⟩, htake, hgone⟩ := takeLine_spec (c := c.clearSharers l h n) (l := l) (n := n)
    (o := cOwner (c.compassOf l)) (owned := otherOwner (c.compassOf l) n) (fun h => by have := (howned h).2; omega) ways
  obtain ⟨hword, ⟨q, hq, hqm, hqv, hqd⟩, hhome, hnone⟩ := granted_spec (h := h) (htake.sound (hclear.sound hs)) hr (by omega)
    (cWith (c.compassOf l) 2 n 0)
  rw [remoteWrite_eq]
  refine ⟨hword, ⟨q, hq, hqm.trans hrm, hqv, fun p h23 hne hp => ?_, fun hcn hco => ?_⟩, hhome,
    fun d hd hdn hnamed => hnone d (by omega) ?_⟩
  · exact hqd.trans (hrd p (hof h23 hne) ((hown (hof h23 hne)).trans hp))
  · exact hqd.trans (hrz (hself.trans hcn) fun h => (hown h).trans (hco (howned h).1))
  · rcases hnamed with ⟨h13, hb⟩ | ⟨h23, rfl⟩
    · rw [htake.copy d ⟨by omega, fun h => ?_⟩, hsharers d hd hdn h13 hb]
      obtain ⟨h23, -⟩ := howned h
      have h3 : cState (c.compassOf l) = 3 := by omega
      have hdo : d ≠ cOwner (c.compassOf l) := fun e => by rw [e, hw.sharers h3] at hb; cases hb
      omega
    · exact hgone (hof h23 hdn)

/-! ### Cleaning and recall -/

theorem mem_cleanHome (c : Chip) (l h : Nat) : (c.cleanHome l h).mem = c.mem := by
  unfold Chip.cleanHome
  split
  · exact mem_flushCopy ..
  · rfl

/-- What DRAM does not hold of a line is dirty in one of some spires, each of which shows memory's bytes. -/
structure CoveredBy (ds : List Nat) (c : Chip) (l : Nat) : Prop where
  data : ∀ p ∈ c.copies, p.1 / 4 = l → p.2.data = none
  stale : ∀ e ∈ c.dramOld, e.1 / 128 = l → ∃ d ∈ ds, ∃ q, c.copyAt d l = some q ∧ q.dirty.getLsbD (e.1 % 128 / 64) = true

/-- A sector written back from a copy that shows memory's bytes is stale in DRAM no more. -/
theorem stale_flushSector {p : LineCopy} (hp : p.data = none) {s : Nat} {e : Nat × Byte} (he : e ∈ (c.flushSector p l s).dramOld) :
    e ∈ c.dramOld ∧ inSector e.1 l s = false := by
  have hd : (c.flushSector p l s).dramOld = c.dramOld.filter (fun e => !inSector e.1 l s) := by
    rw [Chip.flushSector, hp]
    rfl
  rw [hd, List.mem_filter] at he
  exact ⟨he.1, by simpa using he.2⟩

/-- A write-back of some sectors leaves the others' stale bytes. -/
theorem stale_flushSectors {p : LineCopy} (hp : p.data = none) {e : Nat × Byte} (he : e ∈ (c.flushSectors p l).dramOld) :
    e ∈ c.dramOld ∧ (e.1 / 128 = l → p.dirty.getLsbD (e.1 % 128 / 64) = false) := by
  have hs : ∀ (d : Chip) (s : Nat) (q : Bool), e ∈ (if q = true then d.flushSector p l s else d).dramOld →
      e ∈ d.dramOld ∧ (q = true → inSector e.1 l s = false) := fun d s q h => by
    split at h
    · exact ⟨(stale_flushSector hp h).1, fun _ => (stale_flushSector hp h).2⟩
    next hq => exact ⟨h, fun h => absurd h hq⟩
  obtain ⟨h1, hsec1⟩ := hs _ 1 _ he
  obtain ⟨h0, hsec0⟩ := hs _ 0 _ h1
  have hpoison : (c.flushPoison p l).dramOld = c.dramOld := by
    unfold Chip.flushPoison
    split <;> rfl
  refine ⟨hpoison ▸ h0, fun hl => Bool.eq_false_iff.2 fun hd => ?_⟩
  have hin : inSector e.1 l (e.1 % 128 / 64) = true := decide_eq_true (by omega)
  have hcases : e.1 % 128 / 64 = 0 ∨ e.1 % 128 / 64 = 1 := by omega
  rcases hcases with hz | hz
  · rw [hz] at hin hd
    exact absurd (hin.symm.trans (hsec0 hd)) (by decide)
  · rw [hz] at hin hd
    exact absurd (hin.symm.trans (hsec1 hd)) (by decide)

theorem dramOld_modCopy (n l : Nat) (f : LineCopy → LineCopy) : (c.modCopy n l f).dramOld = c.dramOld := by
  unfold Chip.modCopy
  split <;> rfl

/-- What a spire that gives up its copy leaves stale. -/
theorem stale_giveUp {k : Nat} (hdata : ∀ p, c.copyAt k l = some p → p.data = none) {e : Nat × Byte}
    (he : e ∈ (c.giveUp k l).dramOld) :
    e ∈ c.dramOld ∧ ∀ p, c.copyAt k l = some p → e.1 / 128 = l → p.dirty.getLsbD (e.1 % 128 / 64) = false := by
  have he : e ∈ (c.flushCopy k l).dramOld := he
  cases hc : c.copyAt k l with
  | none =>
    rw [Chip.flushCopy_none hc] at he
    exact ⟨he, fun p hp => nomatch hp⟩
  | some p =>
    rw [Chip.flushCopy_eq hc, dramOld_modCopy] at he
    obtain ⟨hold, hclean⟩ := stale_flushSectors (hdata p hc) he
    exact ⟨hold, fun q hq => by cases hq; exact hclean⟩

/-- Giving up a copy adds none. -/
theorem copies_giveUp {k : Nat} {p : Nat × LineCopy} (hp : p ∈ (c.giveUp k l).copies) : p ∈ c.copies := by
  obtain ⟨hm, hne⟩ := List.mem_filter.1 hp
  cases hc : c.copyAt k l with
  | none => rwa [Chip.flushCopy_none hc] at hm
  | some q =>
    rw [Chip.flushCopy_eq hc, Chip.modCopy, Chip.copyAt, copies_flushSectors, ← Chip.copyAt, hc] at hm
    rcases of_mem_mset hm with rfl | hm
    · exact absurd hne (by simp)
    · exact hm

theorem CoveredBy.giveUp {k : Nat} {r : List Nat} (h : CoveredBy (k :: r) c l) : CoveredBy r (c.giveUp k l) l := by
  have hdata : ∀ p, c.copyAt k l = some p → p.data = none := fun p hp => h.data _ (copyAt_mem hp) (copyKey_line k l)
  refine ⟨fun p hp => h.data p (copies_giveUp hp), fun e he hl => ?_⟩
  obtain ⟨hold, hclean⟩ := stale_giveUp hdata he
  obtain ⟨d, hd, q, hq, hb⟩ := h.stale e hold hl
  have hkey : copyKey d l ≠ copyKey k l := fun e => by
    rw [Chip.copyAt, e] at hq
    rw [hclean q hq hl] at hb
    cases hb
  have hdr : d ∈ r := (List.mem_cons.1 hd).resolve_left fun e => hkey (by rw [e])
  exact ⟨d, hdr, q, ((lineKept_giveUp (P := fun j => j = d) (by rintro _ rfl; exact hkey)).copy d rfl).trans hq, hb⟩

theorem CoveredBy.flushSpires {ds : List Nat} (h : CoveredBy ds c l) : CoveredBy [] (c.flushSpires l ds) l := by
  induction ds generalizing c with
  | nil => exact h
  | cons k r ih => exact ih h.giveUp

/-- After a recall DRAM holds what software reads of the line. -/
theorem dramByte_recallToU (h : Claims.DirtyCovered c l) {a : Nat} (ha : a / 128 = l) : (c.recallToU l).dramByte a = memRead c.mem a := by
  have hall : CoveredBy (List.range 4) c l := ⟨h.1, fun e he hl => by
    obtain ⟨d, q, hd, hq⟩ := h.2 e he hl
    exact ⟨d, List.mem_range.2 hd, q, hq⟩⟩
  have hnone : mget (c.flushSpires l (List.range 4)).dramOld a = none := by
    cases hm : mget (c.flushSpires l (List.range 4)).dramOld a with
    | none => rfl
    | some v =>
      obtain ⟨d, hd, -⟩ := hall.flushSpires.stale _ (mem_of_mget hm) ha
      cases hd
  have hold : (c.recallToU l).dramOld = (c.flushSpires l (List.range 4)).dramOld := rfl
  rw [Chip.dramByte, hold, hnone]
  dsimp only
  rw [mem_recallToU]

/-! ### A malformed word (R187) -/

theorem soundWord_formed (hs : c.latentOf l = Latent.none) (hm : cMalformed (c.compassOf l) h = false) : c.soundWord l h = c := by
  have hread : c.readWord l h = c := if_pos (.inl (by rw [hs]; rfl))
  rw [Chip.soundWord, hread]
  exact if_neg (by rw [hm]; decide)

theorem soundWord_malformed (hs : c.latentOf l = Latent.none) (hm : cMalformed (c.compassOf l) h = true) :
    c.soundWord l h = c.poisonRow l h := by
  have hread : c.readWord l h = c := if_pos (.inl (by rw [hs]; rfl))
  rw [Chip.soundWord, hread]
  exact if_pos hm

/-- The poison row leaves the word U with poison, and no copy but the home slice's. -/
theorem poisonRow_spec (c : Chip) (l h : Nat) : (c.poisonRow l h).compassOf l = 0x40
    ∧ (c.latentOf l = Latent.none → (c.poisonRow l h).latentOf l = Latent.none)
    ∧ ∀ d, d < 4 → d ≠ h → (c.poisonRow l h).copyAt d l = none := by
  refine ⟨Chip.compassOf_setCompass_self .., fun hs => ?_, fun d hd hdh => ?_⟩
  · exact (lineKept_flushSpires (P := fun _ => False) fun _ _ _ => False.elim).sound hs
  · exact c.copyAt_flushSpires (List.mem_filter.2 ⟨List.mem_range.2 hd, decide_eq_true hdh⟩)

end

end Sys2Proof.Machine
end

section
/-! O43: the compass transitions (R45, R183, R185-R187). -/

namespace Sys2Proof.Machine

/-! ### What a transaction is wrapped in -/

/-- `d` holds what `c` holds in memory, DRAM and the slices. -/
structure SlicesSame (c d : Chip) : Prop where
  mem : d.mem = c.mem
  dramOld : d.dramOld = c.dramOld
  copies : d.copies = c.copies
  compass : d.compass = c.compass
  combiner : d.combiner = c.combiner
  latent : d.latent = c.latent

section
variable {c d : Chip} (h : SlicesSame c d)
include h

theorem SlicesSame.trans {e : Chip} (k : SlicesSame d e) : SlicesSame c e :=
  ⟨k.mem.trans h.mem, k.dramOld.trans h.dramOld, k.copies.trans h.copies, k.compass.trans h.compass, k.combiner.trans h.combiner,
    k.latent.trans h.latent⟩

theorem SlicesSame.copyAt (n l : Nat) : d.copyAt n l = c.copyAt n l := by rw [Chip.copyAt, h.copies, Chip.copyAt]

theorem SlicesSame.dirtyAt (n l : Nat) : d.dirtyAt n l = c.dirtyAt n l := Chip.dirtyAt_congr (h.copyAt n l)

theorem SlicesSame.compassOf (l : Nat) : d.compassOf l = c.compassOf l :=
  (LineKept.of_eq (P := fun _ => False) h.copies h.compass h.combiner h.latent).word

theorem SlicesSame.latentOf (l : Nat) : d.latentOf l = c.latentOf l := by rw [Chip.latentOf, h.latent, Chip.latentOf]

theorem SlicesSame.dramByte (a : Nat) : d.dramByte a = c.dramByte a := by rw [Chip.dramByte, h.dramOld, h.mem, Chip.dramByte]

theorem SlicesSame.clean {l : Nat} (hc : c.Clean l) : d.Clean l := by rwa [Chip.Clean, h.copies, h.dramOld]

theorem SlicesSame.hasWay {n l : Nat} (hw : Claims.HasWay c n l) : Claims.HasWay d n l := by
  rwa [Claims.HasWay, h.copyAt, Chip.emptyWay, Chip.setOf, h.copies]

theorem SlicesSame.covered {l : Nat} (hc : Claims.DirtyCovered c l) : Claims.DirtyCovered d l := by
  refine ⟨by rw [h.copies]; exact hc.1, fun e he hl => ?_⟩
  rw [h.dramOld] at he
  obtain ⟨n, q, hn, hq⟩ := hc.2 e he hl
  exact ⟨n, q, hn, by rwa [h.copyAt]⟩

end

theorem slicesSame_wakeSpire (c : Chip) (d : Nat) : SlicesSame c (c.wakeSpire d) := by
  unfold Chip.wakeSpire
  split <;> exact ⟨rfl, rfl, rfl, rfl, rfl, rfl⟩

/-- Reporting errors to the fault-address queues touches no slice. -/
theorem slicesSame_settleErrors (s : State) : SlicesSame s.chip (settleErrors s).chip := by
  refine foldl_keeps (P := fun t : State => SlicesSame s.chip t.chip) (fun t e ht => ht.trans ?_) _ ⟨rfl, rfl, rfl, rfl, rfl, rfl⟩
  unfold placeError
  dsimp only
  split <;> exact ⟨rfl, rfl, rfl, rfl, rfl, rfl⟩

theorem exec_homeSliceTransaction {s : State} (hh : s.keep.power.halted = false) (k : BitVec 3) (spire : BitVec 2) (line : BitVec 48) :
    ∃ t, exec (.homeSliceTransaction k spire line) s = .next t
      ∧ SlicesSame (s.chip.transaction k.toNat spire.toNat line.toNat) t.chip :=
  ⟨_, congrArg Host.Outcome.next (if_neg (by simp [hh])),
    slicesSame_settleErrors { s with chip := s.chip.transaction k.toNat spire.toNat line.toNat }⟩

theorem transaction_retired {c : Chip} {l : Nat} (hp : place (l * 128) = .hbm) (hr : c.isRetired (l * 128) = true) (k n : Nat) :
    c.transaction k n l = c := by
  rw [Chip.transaction]
  simp only [hp]
  exact if_pos hr

/-- A transaction of the table once the spire is awake and the word is sound. -/
def Chip.tableRow (c : Chip) (k n l h : Nat) (ways : List Nat) : Chip :=
  match k with
  | 0 => c.homeRead l h ways
  | 1 => c.homeWrite l h ways 3
  | 2 => if n = h ∨ (c.copyAt n l).isSome then c else c.remoteRead l h n ways
  | 3 => if n = h ∨ (c.copyAt n l).any (fun p => p.mode = .exclusive) then c else c.remoteWrite l h n ways 3
  | 4 => c.recallToU l
  | 5 => c.cleanHome l h
  | _ => c

theorem transaction_used {c : Chip} {l : Nat} (hp : place (l * 128) = .hbm) (hr : c.isRetired (l * 128) = false) (k n : Nat) :
    c.transaction k n l =
      ((c.wakeSpire (hbmHome (l * 128))).soundWord l (hbmHome (l * 128))).tableRow k n l (hbmHome (l * 128)) (c.classWays 0) := by
  rw [Chip.transaction]
  simp only [hp]
  rw [if_neg (by rw [hr]; decide)]
  rfl

/-- A line of HBM4E in use, without errors in DRAM, of a device that runs. -/
structure InUse (s : State) (l h : Nat) : Prop where
  running : s.keep.power.halted = false
  hbm : place (l * 128) = .hbm
  home : h = l * 128 / 2 ^ 37 % 4
  wf : Memory.wf s.chip.mem
  used : s.chip.isRetired (l * 128) = false
  sound : s.chip.latentOf l = Latent.none

section
variable {s : State} {l h : Nat} (u : InUse s l h) {spire : BitVec 2} {line : BitVec 48} (hl : line.toNat = l)
include u hl

/-- A transaction of such a line is a row of the table on slices that hold what they held. -/
theorem exec_tableRow (k : BitVec 3) (hm : cMalformed (s.chip.compassOf l) h = false) : ∃ t c ways,
    exec (.homeSliceTransaction k spire line) s = .next t ∧ SlicesSame s.chip c
      ∧ SlicesSame (c.tableRow k.toNat spire.toNat l h ways) t.chip := by
  obtain ⟨t, ht, hsame⟩ := exec_homeSliceTransaction u.running k spire line
  have hw := slicesSame_wakeSpire s.chip (hbmHome (l * 128))
  have hh : hbmHome (l * 128) = h := u.home.symm
  rw [hl, transaction_used u.hbm u.used, soundWord_formed ((hw.latentOf l).trans u.sound)
    (by rw [hw.compassOf, hh, hm])] at hsame
  rw [hh] at hsame hw
  exact ⟨t, _, _, ht, hw, hsame⟩

/-- Where the word is malformed, the row comes after the poison row. -/
theorem exec_tableRow_malformed (k : BitVec 3) (hm : cMalformed (s.chip.compassOf l) h = true) : ∃ t c ways,
    exec (.homeSliceTransaction k spire line) s = .next t ∧ SlicesSame s.chip c
      ∧ SlicesSame ((c.poisonRow l h).tableRow k.toNat spire.toNat l h ways) t.chip := by
  obtain ⟨t, ht, hsame⟩ := exec_homeSliceTransaction u.running k spire line
  have hw := slicesSame_wakeSpire s.chip (hbmHome (l * 128))
  have hh : hbmHome (l * 128) = h := u.home.symm
  rw [hl, transaction_used u.hbm u.used, soundWord_malformed ((hw.latentOf l).trans u.sound)
    (by rw [hw.compassOf, hh, hm])] at hsame
  rw [hh] at hsame hw
  exact ⟨t, _, _, ht, hw, hsame⟩

omit hl
theorem InUse.home_lt : h < 4 := by
  have := u.home
  omega

/-- Moves of a clean line change no byte that software reads. -/
theorem InUse.sameBytes {t : State} {c d : Chip} (hc : SlicesSame s.chip c) (hm : Moves (fun L => L = l) c d) (ht : SlicesSame d t.chip)
    (hclean : s.chip.Clean l) : Claims.SameBytes s t := by
  intro a
  rw [ht.mem, hm.mem (by rw [hc.mem]; exact u.wf) (fun L hL => by rw [hL]; exact hc.clean hclean), hc.mem]

end

/-! ### The rows -/

theorem compass_of_same {c d : Chip} {s t : State} {l : Nat} (hc : SlicesSame s.chip c) (ht : SlicesSame d t.chip)
    (hw : d.compassOf l = c.compassOf l) : Claims.compass t.chip l = Claims.compass s.chip l := by
  rw [Claims.compass, ht.compassOf, hw, hc.compassOf, Claims.compass]

theorem compass_fields {c : Chip} {l st o m : Nat} {p : Bool} (h : Claims.compass c l = (st, o, m, p)) :
    cState (c.compassOf l) = st ∧ cOwner (c.compassOf l) = o ∧ cSharers (c.compassOf l) = m ∧ (c.compassOf l).getLsbD 6 = p := by
  rwa [Claims.compass, Prod.mk.injEq, Prod.mk.injEq, Prod.mk.injEq] at h

/-- A line whose word says U, poisoned, and which no remote spire holds, after a home access or a recall. -/
theorem tableRow_poisoned {c : Chip} {l h k : Nat} (hw : c.compassOf l = 0x40) (hs : c.latentOf l = Latent.none) (hh : h < 4)
    (hnone : ∀ d, d < 4 → d ≠ h → c.copyAt d l = none) (hk : k = 0 ∨ k = 1 ∨ k = 4) (n : Nat) (ways : List Nat) :
    (c.tableRow k n l h ways).compassOf l = 0x40 ∧ (∀ d, d < 4 → d ≠ h → (c.tableRow k n l h ways).copyAt d l = none)
      ∧ Moves (fun L => L = l) c (c.tableRow k n l h ways) := by
  obtain ⟨-, -, hkept⟩ := holdWhole_spec (h := h) hs ways
  have hkeep : ∀ d, d < 4 → d ≠ h → (c.holdWhole l h ways).copyAt d l = none := fun d hd hdh => by
    rw [hkept.copy d (by omega), hnone d hd hdh]
  have hstate : cState (c.compassOf l) = 0 := by
    rw [hw]
    decide
  rcases hk with rfl | rfl | rfl
  · have hrow : c.tableRow 0 n l h ways = c.holdWhole l h ways := homeRead_idle (by rw [hstate]; decide) ways
    refine ⟨?_, ?_, moves_homeRead _ l h ways rfl⟩
    · rw [hrow, hkept.word, hw]
    · rwa [hrow]
  · have hidle : c.recallNamed l h = c := by simp [Chip.recallNamed, hstate]
    have hrow : c.tableRow 1 n l h ways = c.holdWhole l h ways := (homeWrite_eq ways).trans (by rw [hidle])
    refine ⟨?_, ?_, moves_homeWrite _ l h ways 3 rfl⟩
    · rw [hrow, hkept.word, hw]
    · rwa [hrow]
  · refine ⟨?_, fun d hd _ => c.copyAt_recallToU hd, moves_recallToU c l⟩
    show (c.recallToU l).compassOf l = 0x40
    rw [Chip.compassOf_recallToU, hw]
    decide

/-- The spires' bits fit the field of sharers. -/
theorem spireBit_lt {n : Nat} (hn : n < 4) : 2 ^ n < 16 := Nat.pow_lt_pow_right (n := 4) (by decide) hn

theorem lor_spireBit_lt {a n : Nat} (ha : a < 16) (hn : n < 4) : Nat.lor a (2 ^ n) < 16 := Nat.or_lt_two_pow (n := 4) ha (spireBit_lt hn)

section
variable {s : State} {l h : Nat} (u : InUse s l h) {spire : BitVec 2} {line : BitVec 48} (hl : line.toNat = l)
include u hl

/-- What a malformed word's line comes to. -/
theorem row_malformed (hclean : s.chip.Clean l) (hm : cMalformed (s.chip.compassOf l) h = true) (k : BitVec 3)
    (hk : k.toNat = 0 ∨ k.toNat = 1 ∨ k.toNat = 4) :
    ∃ t, exec (.homeSliceTransaction k spire line) s = .next t ∧ Claims.compass t.chip l = (0, 0, 0, true) ∧ Claims.SameBytes s t
      ∧ ∀ d, d < 4 → d ≠ h → t.chip.copyAt d l = none := by
  obtain ⟨t, c, ways, ht, hc, hd⟩ := exec_tableRow_malformed u hl k hm (spire := spire)
  obtain ⟨hword, hsound, hnone⟩ := poisonRow_spec c l h
  obtain ⟨hrow, hgone, hmoves⟩ := tableRow_poisoned hword (hsound ((hc.latentOf l).trans u.sound)) u.home_lt hnone hk spire.toNat ways
  refine ⟨t, ht, ?_, u.sameBytes hc ((moves_poisonRow c l h).trans hmoves) hd hclean,
    fun n hn hnh => (hd.copyAt n l).trans (hgone n hn hnh)⟩
  rw [Claims.compass, hd.compassOf, hrow]
  decide

variable (hm : cMalformed (s.chip.compassOf l) h = false) {st o m : Nat} {p : Bool} (hcomp : Claims.compass s.chip l = (st, o, m, p))
include hm

/-- A row of the table, on slices that hold what they held, whose word is well formed. -/
theorem exec_row {k : Nat} (hk : k < 8) : ∃ t c ways, exec (.homeSliceTransaction (BitVec.ofNat 3 k) spire line) s = .next t
    ∧ SlicesSame s.chip c ∧ c.latentOf l = Latent.none ∧ WellFormed (c.compassOf l) h
    ∧ SlicesSame (c.tableRow k spire.toNat l h ways) t.chip := by
  obtain ⟨t, c, ways, ht, hc, hd⟩ := exec_tableRow u hl (BitVec.ofNat 3 k) hm (spire := spire)
  rw [BitVec.toNat_ofNat, Nat.mod_eq_of_lt (by simpa using hk)] at hd
  exact ⟨t, c, ways, ht, hc, (hc.latentOf l).trans u.sound, by rw [hc.compassOf]; exact wellFormed_of hm, hd⟩

include hcomp

theorem row_homeRead (hclean : s.chip.Clean l) : ∃ t q, exec (.homeSliceTransaction 0 spire line) s = .next t
    ∧ Claims.compass t.chip l = (st, o, m, p) ∧ Claims.SameBytes s t ∧ t.chip.copyAt h l = some q ∧ q.valid = 3
    ∧ (st = 2 ∨ st = 3 → t.chip.copyAt o l = none
      ∧ (s.chip.dirtyAt o l = true → Claims.HasWay s.chip h l → t.chip.dirtyAt h l = true)) := by
  obtain ⟨t, c, ways, ht, hc, hs, hw, hd⟩ := exec_row u hl hm (k := 0) (spire := spire) (by decide)
  obtain ⟨hword, ⟨q, hq, hv⟩, howner⟩ := homeRead_spec hs u.home_lt hw ways
  obtain ⟨hst, ho, -⟩ := compass_fields hcomp
  rw [hc.compassOf, hst, ho] at howner
  refine ⟨t, q, ht, (compass_of_same hc hd hword).trans hcomp, u.sameBytes hc (moves_homeRead c l h ways rfl) hd hclean,
    (hd.copyAt h l).trans hq, hv, fun h23 => ⟨(hd.copyAt o l).trans (howner h23).1, fun hdirty hway => ?_⟩⟩
  exact (hd.dirtyAt h l).trans ((howner h23).2 ((hc.dirtyAt o l).trans hdirty) (hc.hasWay hway))

theorem row_homeWrite (hclean : s.chip.Clean l) : ∃ t q, exec (.homeSliceTransaction 1 spire line) s = .next t
    ∧ Claims.compass t.chip l = (st, o, m, p) ∧ Claims.SameBytes s t ∧ t.chip.copyAt h l = some q ∧ q.valid = 3
    ∧ ∀ d, d < 4 → d ≠ h → ((st = 1 ∨ st = 3) ∧ bit m d = true) ∨ ((st = 2 ∨ st = 3) ∧ d = o) → t.chip.copyAt d l = none := by
  obtain ⟨t, c, ways, ht, hc, hs, hw, hd⟩ := exec_row u hl hm (k := 1) (spire := spire) (by decide)
  obtain ⟨hword, ⟨q, hq, hv⟩, hnone⟩ := homeWrite_spec hs u.home_lt hw ways
  obtain ⟨hst, ho, hsh, -⟩ := compass_fields hcomp
  simp only [NamedBy, hc.compassOf, hst, ho, hsh] at hnone
  exact ⟨t, q, ht, (compass_of_same hc hd hword).trans hcomp, u.sameBytes hc (moves_homeWrite c l h ways 3 rfl) hd hclean,
    (hd.copyAt h l).trans hq, hv, fun n hn hnh hnamed => (hd.copyAt n l).trans (hnone n hn hnh hnamed)⟩

omit hcomp in
/-- The row of a remote read by a spire that holds no copy. -/
theorem exec_remoteRead (hnh : spire.toNat ≠ h) (hn : s.chip.copyAt spire.toNat l = none) : ∃ t c ways,
    exec (.homeSliceTransaction 2 spire line) s = .next t ∧ SlicesSame s.chip c ∧ c.latentOf l = Latent.none
      ∧ WellFormed (c.compassOf l) h ∧ SlicesSame (c.remoteRead l h spire.toNat ways) t.chip := by
  obtain ⟨t, c, ways, ht, hc, hs, hw, hd⟩ := exec_row u hl hm (k := 2) (spire := spire) (by decide)
  have hrow : c.tableRow 2 spire.toNat l h ways = c.remoteRead l h spire.toNat ways := if_neg (by simp [hnh, hc.copyAt, hn])
  exact ⟨t, c, ways, ht, hc, hs, hw, hrow ▸ hd⟩

theorem row_remoteRead (hclean : s.chip.Clean l) (hnh : spire.toNat ≠ h) (hn : s.chip.copyAt spire.toNat l = none) :
    ∃ t q, exec (.homeSliceTransaction 2 spire line) s = .next t ∧ Claims.SameBytes s t
      ∧ t.chip.copyAt spire.toNat l = some q ∧ q.mode = .shared ∧ q.valid = 3 ∧ q.dirty = 0 ∧ t.chip.dirtyAt h l = false
      ∧ (st = 0 ∨ st = 1 → Claims.compass t.chip l = (1, 0, Nat.lor m (2 ^ spire.toNat), p))
      ∧ (st = 2 → ∀ c, s.chip.copyAt o l = some c → ∃ c', t.chip.copyAt o l = some c' ∧ c'.dirty = c.dirty
        ∧ (c.dirty ≠ 0 → Claims.compass t.chip l = (3, o, 2 ^ spire.toNat, p) ∧ c'.mode = .dirtyOwner)
        ∧ (c.dirty = 0 → Claims.compass t.chip l = (1, 0, Nat.lor (2 ^ o) (2 ^ spire.toNat), p) ∧ c'.mode = .shared))
      ∧ (st = 2 → s.chip.copyAt o l = none → Claims.compass t.chip l = (1, 0, 2 ^ spire.toNat, p))
      ∧ (st = 3 → s.chip.copyAt o l ≠ none → Claims.compass t.chip l = (3, o, Nat.lor m (2 ^ spire.toNat), p))
      ∧ (st = 3 → s.chip.copyAt o l = none → Claims.compass t.chip l = (1, 0, Nat.lor m (2 ^ spire.toNat), p)) := by
  obtain ⟨t, c, ways, ht, hc, hs, hw, hd⟩ := exec_remoteRead u hl hm hnh hn
  have hn4 : spire.toNat < 4 := spire.isLt
  have hcn : c.copyAt spire.toNat l = none := (hc.copyAt ..).trans hn
  rw [Claims.compass, ← hc.compassOf] at hcomp
  obtain ⟨rfl, rfl, rfl, rfl⟩ := compass_fields hcomp
  have ho4 := cOwner_lt (c.compassOf l)
  have hm16 := cSharers_lt (c.compassOf l)
  have hsame := u.sameBytes hc (moves_remoteRead c l h spire.toNat ways rfl) hd hclean
  rw [← hc.copyAt]
  by_cases howned : (cState (c.compassOf l) = 2 ∨ cState (c.compassOf l) = 3) ∧ (c.copyAt (cOwner (c.compassOf l)) l).isSome = true
  · obtain ⟨h23, hsome⟩ := howned
    obtain ⟨r, hr⟩ := Option.isSome_iff_exists.1 hsome
    obtain ⟨w, md, ⟨hword, ⟨q, hq, hqm, hqv, hqd⟩, hhome⟩, hcopy, hshare, hdirty, h3⟩ :=
      remoteRead_owned h23 hr hw hs u.home_lt hn4 hnh hcn ways
    have hne : c.copyAt (cOwner (c.compassOf l)) l ≠ none := by
      rw [hr]
      exact nofun
    have hbuilt := fun st ow sh (h : w = cWith (c.compassOf l) st ow sh) => compass_of_cWith ((hd.compassOf l).trans (hword.trans h))
    refine ⟨t, q, ht, hsame, (hd.copyAt ..).trans hq, hqm, hqv, hqd, (hd.dirtyAt ..).trans hhome, fun h01 => by omega,
      fun h2 r' hr' => ?_,
      fun _ hnone => absurd hnone hne, fun h3' _ => hbuilt _ _ _ (h3 h3').2 (by decide) ho4 (lor_spireBit_lt hm16 hn4),
      fun _ hnone => absurd hnone hne⟩
    cases hr.symm.trans hr'
    refine ⟨_, (hd.copyAt ..).trans hcopy, rfl, fun hrd => ⟨?_, (hdirty h2 hrd).1⟩, fun hrd => ⟨?_, (hshare h2 hrd).1⟩⟩
    · exact (hbuilt _ _ _ (hdirty h2 hrd).2 (by decide) ho4 (lor_spireBit_lt (by decide) hn4)).trans
        (by rw [show Nat.lor 0 _ = _ from Nat.zero_or _])
    · exact hbuilt _ _ _ (hshare h2 hrd).2 (by decide) (by decide) (lor_spireBit_lt (spireBit_lt ho4) hn4)
  · obtain ⟨hword, ⟨q, hq, hqm, hqv, hqd⟩, hhome⟩ :=
      remoteRead_unowned (fun ⟨h23, _, hsome⟩ => howned ⟨h23, hsome⟩) hs u.home_lt hn4 hnh hcn ways
    have hnone : cState (c.compassOf l) = 2 ∨ cState (c.compassOf l) = 3 → ∀ r, c.copyAt (cOwner (c.compassOf l)) l ≠ some r :=
      fun h23 r hr => howned ⟨h23, by rw [hr]; rfl⟩
    have hbuilt : cState (c.compassOf l) ≠ 2 →
        Claims.compass t.chip l = (1, 0, Nat.lor (cSharers (c.compassOf l)) (2 ^ spire.toNat), (c.compassOf l).getLsbD 6) := fun h2 => by
      rw [if_neg h2] at hword
      exact compass_of_cWith ((hd.compassOf l).trans hword) (by decide) (by decide) (lor_spireBit_lt hm16 hn4)
    refine ⟨t, q, ht, hsame, (hd.copyAt ..).trans hq, hqm, hqv, hqd, (hd.dirtyAt ..).trans hhome, fun h01 => hbuilt (by omega),
      fun h2 r hr => absurd hr (hnone (.inl h2) r), fun h2 _ => ?_, fun h3 hne => ?_, fun h3 _ => hbuilt (by omega)⟩
    · rw [if_pos h2] at hword
      exact (compass_of_cWith ((hd.compassOf l).trans hword) (by decide) (by decide) (lor_spireBit_lt (by decide) hn4)).trans
        (by rw [show Nat.lor 0 _ = _ from Nat.zero_or _])
    · obtain ⟨r, hr⟩ := Option.ne_none_iff_exists'.1 hne
      exact absurd hr (hnone (.inr h3) r)

/-- The row of a remote write. -/
theorem row_remoteWrite (hclean : s.chip.Clean l) (hnh : spire.toNat ≠ h)
    (hn : ∀ c, s.chip.copyAt spire.toNat l = some c → c.mode ≠ .exclusive) :
    ∃ t q, exec (.homeSliceTransaction 3 spire line) s = .next t ∧ Claims.SameBytes s t
      ∧ Claims.compass t.chip l = (2, spire.toNat, 0, p) ∧ t.chip.copyAt spire.toNat l = some q ∧ q.mode = .exclusive ∧ q.valid = 3
      ∧ t.chip.copyAt h l = none
      ∧ (∀ c, (st = 2 ∨ st = 3) → o ≠ spire.toNat → s.chip.copyAt o l = some c → q.dirty = c.dirty)
      ∧ (s.chip.copyAt spire.toNat l = none → (st = 2 ∨ st = 3 → s.chip.copyAt o l = none) → q.dirty = 0)
      ∧ ∀ d, d < 4 → d ≠ spire.toNat → ((st = 1 ∨ st = 3) ∧ bit m d = true) ∨ ((st = 2 ∨ st = 3) ∧ d = o) →
        t.chip.copyAt d l = none := by
  obtain ⟨t, c, ways, ht, hc, hs, hw, hd⟩ := exec_row u hl hm (k := 3) (spire := spire) (by decide)
  have hn4 : spire.toNat < 4 := spire.isLt
  have hany : (c.copyAt spire.toNat l).any (fun p => p.mode = .exclusive) = false := by
    rw [hc.copyAt]
    cases hcn : s.chip.copyAt spire.toNat l with
    | none => rfl
    | some r => exact decide_eq_false (hn r hcn)
  have hrow : c.tableRow 3 spire.toNat l h ways = c.remoteWrite l h spire.toNat ways 3 := if_neg (by simp [hnh, hany])
  rw [hrow] at hd
  rw [Claims.compass, ← hc.compassOf] at hcomp
  obtain ⟨rfl, rfl, rfl, rfl⟩ := compass_fields hcomp
  obtain ⟨hword, ⟨q, hq, hqm, hqv, hqo, hqz⟩, hhome, hnone⟩ := remoteWrite_spec hs u.home_lt hw hn4 hnh ways
  simp only [← hc.copyAt]
  exact ⟨t, q, ht, u.sameBytes hc (moves_remoteWrite c l h _ ways 3 rfl) hd hclean,
    compass_of_cWith ((hd.compassOf l).trans hword) (by decide) hn4 (by decide), (hd.copyAt ..).trans hq, hqm, hqv,
    (hd.copyAt ..).trans hhome, hqo, hqz, fun d hd4 hdn hnamed => (hd.copyAt d l).trans (hnone d hd4 hdn hnamed)⟩

theorem row_recall : ∃ t, exec (.homeSliceTransaction 4 spire line) s = .next t ∧ t.chip.mem = s.chip.mem
    ∧ Claims.compass t.chip l = (0, 0, 0, p) ∧ (∀ d, d < 4 → t.chip.copyAt d l = none)
    ∧ (Claims.DirtyCovered s.chip l → ∀ a, a / 128 = l → t.chip.dramByte a = memRead s.chip.mem a) := by
  obtain ⟨t, c, ways, ht, hc, hs, hw, hd⟩ := exec_row u hl hm (k := 4) (spire := spire) (by decide)
  have hd : SlicesSame (c.recallToU l) t.chip := hd
  rw [Claims.compass, ← hc.compassOf] at hcomp
  obtain ⟨-, -, -, rfl⟩ := compass_fields hcomp
  refine ⟨t, ht, hd.mem.trans ((mem_recallToU c l).trans hc.mem), ?_, fun d hd4 => (hd.copyAt d l).trans (c.copyAt_recallToU hd4),
    fun hcov a ha => ?_⟩
  · exact compass_of_cWith ((hd.compassOf l).trans (c.compassOf_recallToU l)) (by decide) (by decide) (by decide)
  · rw [hd.dramByte, dramByte_recallToU (hc.covered hcov) ha, hc.mem]

theorem row_cleanHome : ∃ t, exec (.homeSliceTransaction 5 spire line) s = .next t ∧ t.chip.mem = s.chip.mem
    ∧ Claims.compass t.chip l = (st, o, m, p) ∧ t.chip.dirtyAt h l = false := by
  obtain ⟨t, c, ways, ht, hc, hs, hw, hd⟩ := exec_row u hl hm (k := 5) (spire := spire) (by decide)
  have hd : SlicesSame (c.cleanHome l h) t.chip := hd
  have hword := (lineKept_cleanHome (c := c) (l := l) (h := h) (P := fun _ => False) fun _ => False.elim).word
  exact ⟨t, ht, hd.mem.trans ((mem_cleanHome c l h).trans hc.mem), (compass_of_same hc hd hword).trans hcomp,
    (hd.dirtyAt h l).trans (c.dirtyAt_cleanHome l h)⟩

end

/-- A remote slice's drop sends its dirty sectors home. -/
theorem evict_remote {c : Chip} {n l : Nat} {p : LineCopy} (h : c.copyAt n l = some p) (hm : p.mode ≠ .home) (hr : p.mode ≠ .readOnly) :
    c.evict n l = c.sendHome l (hbmHome (l * 128)) n := by
  rw [Chip.evict, h]
  dsimp only
  split
  · exact absurd ‹_› hm
  · exact absurd ‹_› hr
  · rfl

theorem row_remoteDrop {s : State} {l h : Nat} {spire : BitVec 2} {line : BitVec 48} {c : LineCopy}
    (hrun : s.keep.power.halted = false) (hl : line.toNat = l) (hh : h = l * 128 / 2 ^ 37 % 4) (hnh : spire.toNat ≠ h)
    (hc : s.chip.copyAt spire.toNat l = some c) (hm : c.mode ≠ .home) (hr : c.mode ≠ .readOnly) :
    ∃ t, exec (.remoteDrop spire line) s = .next t ∧ t.chip.mem = s.chip.mem
      ∧ Claims.compass t.chip l = Claims.compass s.chip l ∧ t.chip.copyAt spire.toNat l = none
      ∧ (c.dirty ≠ 0 → Claims.HasWay s.chip h l → t.chip.dirtyAt h l = true)
      ∧ (c.dirty = 0 → t.chip.copyAt h l = s.chip.copyAt h l) := by
  have hn4 : spire.toNat < 4 := spire.isLt
  have hexec : exec (.remoteDrop spire line) s = .next { s with chip := s.chip.sendHome l h spire.toNat } := by
    rw [hh, ← hbmHome, ← evict_remote hc hm hr, ← hl]
    exact congrArg Host.Outcome.next (if_neg (by simp [hrun]))
  have hword := (lineKept_sendHome (c := s.chip) (l := l) (l' := l) (k := spire.toNat) (h := h) (P := fun _ => False)
    (fun _ => False.elim) fun _ => False.elim).word
  refine ⟨_, hexec, mem_sendHome .., ?_, Chip.copyAt_sendHome (by omega), fun hd hway => ?_, fun hd => ?_⟩
  · rw [Claims.compass, hword, Claims.compass]
  · exact Chip.dirtyAt_sendHome (by rw [Chip.dirtyAt_some hc]; exact decide_eq_true hd) hway
  · show (s.chip.sendHome l h spire.toNat).copyAt h l = _
    rw [Chip.sendHome_clean hc hd]
    exact mget_merase_ne _ (copyKey_ne (.inr (by omega)))

/-- The table, row by row. -/
theorem compassTransitionTable : Claims.CompassTransitionTable := by
  intro s line l h spire st o m p hrun hl hp hh hcomp hwf
  refine ⟨fun hr k => ?_, fun hr hs => ?_⟩
  · obtain ⟨t, ht, hd⟩ := exec_homeSliceTransaction hrun k spire line
    rw [hl, transaction_retired hp hr] at hd
    exact ⟨t, ht, hd.compass, hd.copies, hd.mem⟩
  have u : InUse s l h := ⟨hrun, hp, hh, hwf, hr, hs⟩
  refine ⟨fun hclean hm k hk => row_malformed u hl hclean hm k hk, fun hm n hn => ?_⟩
  subst hn
  refine ⟨row_homeRead u hl hm hcomp, row_homeWrite u hl hm hcomp, row_remoteRead u hl hm hcomp, row_remoteWrite u hl hm hcomp,
    row_recall u hl hm hcomp, row_cleanHome u hl hm hcomp, fun hnh c hc hmode hro => ?_⟩
  rw [← hcomp]
  exact row_remoteDrop hrun hl hh hnh hc hmode hro

/-- Settles O43: each access through the window at what it reaches, each retirement by its status, and each row of the compass
table at the line's own copies and word. -/
theorem windowsRetirementAndCompass : Obligations.WindowsRetirementAndCompass :=
  ⟨windowAccessesReachOnChipState, retirementFollowsItsOutcome, compassTransitionTable⟩

end Sys2Proof.Machine
end

section
/-! O41: the launch queues, `UAL_NODE` and the node map as the host writes them (R54, R70, R73, R78, R79). -/

namespace Sys2Proof.Machine

/-! ### Launch queues (R78, R79) -/

theorem exec_hqCfgWrite (q : BitVec 6) (v : BitVec 32) (s : State) : exec (.hqCfgWrite q v) s = .next { s with
    keep := { s.keep with hqs := s.keep.hqs.setIfInBounds q.toNat ((s.keep.hqs.getD q.toNat ⟨false, false, 0, 0⟩).writeCfg v) } } := rfl

theorem exec_hqTailWrite (q : BitVec 6) (v : BitVec 32) (s : State) : exec (.hqTailWrite q v) s = .next { s with
    keep := { s.keep with hqs := s.keep.hqs.setIfInBounds q.toNat ((s.keep.hqs.getD q.toNat ⟨false, false, 0, 0⟩).writeTail v) } } := rfl

/-- A write of `HQ_CFG` stores `EN`, clears `ERR` by a 1, and empties a queue that it enables. -/
theorem Hq.writeCfg_spec (h : Hq) (v : BitVec 32) : (h.writeCfg v).en = v.getLsbD 0 ∧ (h.writeCfg v).err = (h.err && !v.getLsbD 1)
    ∧ (h.en = false → v.getLsbD 0 = true → (h.writeCfg v).head = 0 ∧ (h.writeCfg v).tail = 0)
    ∧ (h.en = true ∨ v.getLsbD 0 = false → (h.writeCfg v).head = h.head ∧ (h.writeCfg v).tail = h.tail) := by
  unfold Hq.writeCfg
  dsimp only
  cases hv : v.getLsbD 0 <;> cases he : h.en <;> simp

/-- Of two places in the ring counted from the head, the one that a doorbell names and the tail's, the order decides (R79). -/
theorem Hq.writeTail_eq {h : Hq} (v : BitVec 32) (hh : h.head < 1024) (ht : h.tail < 1024) : h.writeTail v =
    if h.en = true ∧ ((h.tail : Int) - h.head) % 1024 ≤ ((v.toNat % 1024 : Int) - h.head) % 1024
    then { h with tail := v.toNat % 1024 } else { h with err := true } := by
  have hiff : (h.tail + 1024 - h.head) % 1024 ≤ (v.toNat % 1024 + 1024 - h.head) % 1024
      ↔ ((h.tail : Int) - h.head) % 1024 ≤ ((v.toNat % 1024 : Int) - h.head) % 1024 := by omega
  simp only [Hq.writeTail, hiff, Bool.and_eq_true, decide_eq_true_eq]

/-! ### The node and its map (R54, R70, R73) -/

theorem exec_ualNodeWrite {s : State} (h : s.keep.power.halted = false) (v : BitVec 32) :
    exec (.ualNodeWrite v) s = .next { s with chip := s.chip.writeNode v } := congrArg Host.Outcome.next (if_neg (by simp [h]))

theorem exec_ualMapWrite {s : State} (h : s.keep.power.halted = false) (n : BitVec 10) (v : BitVec 32) :
    exec (.ualMapWrite n v) s = .next { s with chip := s.chip.writeMap n.toNat v } :=
  congrArg Host.Outcome.next (if_neg (by simp [h]))

theorem Chip.writeNode_idle {c : Chip} (h : c.launches = []) (v : BitVec 32) :
    c.writeNode v = { c with links := { c.links with id := v.setWidth 10, valid := v.getLsbD 16 } } := by
  simp [Chip.writeNode, h]

theorem Chip.writeNode_live {c : Chip} (h : c.launches ≠ []) (v : BitVec 32) : c.writeNode v = c := by
  simp [Chip.writeNode, h]

/-- A write of a node map entry sets that entry of the map only. -/
theorem Chip.mapEntry_writeMap (c : Chip) (n : Nat) (v : BitVec 32) : (c.writeMap n v).links.mapEntry n = (v.setWidth 10, v.getLsbD 15)
    ∧ ∀ m, m ≠ n → (c.writeMap n v).links.mapEntry m = c.links.mapEntry m :=
  ⟨mgetD_mset_self .., fun _ hm => mgetD_mset_ne _ _ _ hm⟩

theorem launchQueueAndNodeRegisterWrites : Claims.LaunchQueueAndNodeRegisterWrites := by
  intro s v
  refine ⟨fun q h hq => ⟨?_, fun hh ht t u n et eu en => ⟨fun he hle => ?_, fun hr => ?_⟩⟩, fun run hl => ?_, fun hl => ?_,
    fun run n => ?_⟩
  · exact ⟨h.writeCfg v, by rw [exec_hqCfgWrite, hq], h.writeCfg_spec v⟩
  · subst et eu en
    rw [exec_hqTailWrite, hq, Hq.writeTail_eq v hh ht, if_pos ⟨he, hle⟩]
  · subst et eu en
    rw [exec_hqTailWrite, hq, Hq.writeTail_eq v hh ht, if_neg]
    rintro ⟨he, hle⟩
    rcases hr with hr | hr
    · rw [he] at hr; cases hr
    · omega
  · refine ⟨_, exec_ualNodeWrite run v, ?_⟩
    rw [Chip.writeNode_idle hl]
    exact ⟨BitVec.toNat_setWidth 10 v, rfl, rfl, rfl, rfl⟩
  · cases run : s.keep.power.halted with
    | true => exact congrArg Host.Outcome.next (if_pos run)
    | false => rw [exec_ualNodeWrite run, Chip.writeNode_live hl]
  · obtain ⟨hself, hother⟩ := s.chip.mapEntry_writeMap n.toNat v
    exact ⟨_, exec_ualMapWrite run n v, hself, hother, rfl, rfl, rfl⟩

end Sys2Proof.Machine
end

section
/-! O41: the registers of the control BAR that store what is written to them (R23, R43, R46, R51, R52, R57, R64, R71, R89, R94,
R157, R158). -/

namespace Sys2Proof.Machine

/-! ### A write and its block (R51, R52) -/

theorem exec_controlRegisterWrite (off : BitVec 22) (w : Bool) (v : BitVec 64) (s : State) :
    exec (.controlRegisterWrite off w v) s = .next (hostWrite off.toNat w v s) := rfl

/-- Once the clocks have stopped, a write outside the package block draws free values at most (R24). -/
theorem hostWrite_halted {s : State} (h : s.keep.power.halted = true) {o : Nat} (ho : ¬(0x1000 ≤ o ∧ o < 0x2000)) (w : Bool)
    (v : BitVec 64) : (hostWrite o w v s).chip = { s.chip with free := (writeBar o w v s).chip.free } := by
  have hc : s.keep.power.halted = true ∧ (!decide (0x1000 ≤ o ∧ o < 0x2000)) = true := ⟨h, by rw [decide_eq_false ho]; rfl⟩
  unfold hostWrite
  dsimp only
  rw [if_pos hc]

theorem hostWrite_running {s : State} (h : s.keep.power.halted = false) (o : Nat) (w : Bool) (v : BitVec 64) :
    hostWrite o w v s = writeBar o w v s := by
  simp [hostWrite, h]

theorem writeBar_narrow (o : Nat) (v : BitVec 64) (s : State) :
    writeBar o false v s = if o % 4 = 0 then write32 o (v.setWidth 32) s else s := rfl

theorem writeBar_wide (o : Nat) (v : BitVec 64) (s : State) :
    writeBar o true v s = if o % 8 = 0 && permitsWide o then write64 o v s else s := rfl

section
variable {s : State} (run : s.keep.power.halted = false) {off : BitVec 22} {o : Nat}
include run

/-- A four-byte write, four-byte aligned. -/
theorem exec_write32 (ho : off.toNat = o) (h4 : o % 4 = 0) (v : BitVec 64) :
    exec (.controlRegisterWrite off false v) s = .next (write32 o (v.setWidth 32) s) := by
  rw [exec_controlRegisterWrite, hostWrite_running run, ho, writeBar_narrow, if_pos h4]

/-- An eight-byte write, eight-byte aligned, where the block permits it. -/
theorem exec_write64 (ho : off.toNat = o) (h8 : o % 8 = 0) (hp : permitsWide o = true) (v : BitVec 64) :
    exec (.controlRegisterWrite off true v) s = .next (write64 o v s) := by
  rw [exec_controlRegisterWrite, hostWrite_running run, ho, writeBar_wide, if_pos (by simp [h8, hp])]

theorem exec_write32_misaligned (h4 : off.toNat % 4 ≠ 0) (v : BitVec 64) :
    exec (.controlRegisterWrite off false v) s = .next s := by
  rw [exec_controlRegisterWrite, hostWrite_running run, writeBar_narrow, if_neg h4]

theorem exec_write64_refused (h : off.toNat % 8 ≠ 0 ∨ permitsWide off.toNat = false) (v : BitVec 64) :
    exec (.controlRegisterWrite off true v) s = .next s := by
  rw [exec_controlRegisterWrite, hostWrite_running run, writeBar_wide, if_neg]
  rcases h with h | h <;> simp [h]

end

theorem permitsWide_hole {o : Nat} (h : 0x1000 ≤ o ∧ o < 0x20000) : permitsWide o = false := by
  simp only [permitsWide, Bool.or_eq_false_iff, Bool.and_eq_false_iff, decide_eq_false_iff_not]
  omega

theorem permitsWide_windows {o : Nat} (h : 0x20000 ≤ o ∧ o < 0x22000) : permitsWide o = true := by simp [permitsWide, h]

theorem permitsWide_partitions {o : Nat} (h : 0x120000 ≤ o ∧ o < 0x124000) : permitsWide o = true := by simp [permitsWide, h]

/-- An eight-byte write outside the partitions' registers is two four-byte writes, the low half first. -/
theorem write64_halves {o : Nat} (h : o < 0x120000) (v : BitVec 64) (s : State) :
    write64 o v s = write32 (o + 4) ((v >>> 32).setWidth 32) (write32 o (v.setWidth 32) s) :=
  if_neg fun hc => absurd hc.1 (by omega)

theorem write32_package {o : Nat} (h : o < 0x1000) (v : BitVec 32) (s : State) : write32 (0x1000 + o) v s = writePackage o v s := by
  simp (disch := omega) only [write32, if_pos, if_neg, Nat.add_sub_cancel_left]

theorem write32_memory {o : Nat} (h : o < 0x1000) (v : BitVec 32) (s : State) : write32 (0x2000 + o) v s = writeMemory o v s := by
  simp (disch := omega) only [write32, if_pos, if_neg, Nat.add_sub_cancel_left]

theorem write32_window {i o : Nat} (hi : i < 256) (ho : o < 32) (v : BitVec 32) (s : State) :
    write32 (0x20000 + 32 * i + o) v s = onLinks (fun l => l.writeWindow i o v) s := by
  have h1 : (0x20000 + 32 * i + o - 0x20000) / 32 = i := by omega
  have h2 : (0x20000 + 32 * i + o) % 32 = o := by omega
  simp (disch := omega) only [write32, if_pos, if_neg, h1, h2]

theorem write32_endpoint {i o : Nat} (hi : i < 4096) (ho : o < 32) (v : BitVec 32) (s : State) :
    write32 (0x40000 + 32 * i + o) v s = onLinks (fun l => l.writeEndpoint i o v) s := by
  have h1 : (0x40000 + 32 * i + o - 0x40000) / 32 = i := by omega
  have h2 : (0x40000 + 32 * i + o) % 32 = o := by omega
  simp (disch := omega) only [write32, if_pos, if_neg, h1, h2]

/-- An eight-byte write to a 64-bit register of a partition. -/
theorem write64_partition {s : State} {p r : Nat} (hp : p < 128) (hr : r < 0x80) (hs : ((s.chip.part p).reg64 r).isSome = true)
    (v : BitVec 64) : write64 (0x120000 + 0x80 * p + r) v s = { s with chip := s.chip.writePart64 p r v } := by
  have h1 : (0x120000 + 0x80 * p + r - 0x120000) / 0x80 = p := by omega
  have h2 : (0x120000 + 0x80 * p + r) % 0x80 = r := by omega
  simp only [write64, h1, h2]
  exact if_pos ⟨by omega, by omega, hs⟩

/-! ### Registers of the firmware and event-queue blocks (R89, R94) -/

theorem write32_fwLen (v : BitVec 32) (s : State) : write32 0x108 v s
    = { s with keep := { s.keep with fw := { s.keep.fw with len := v } } } := rfl

theorem write32_badIndex (v : BitVec 32) (s : State) : write32 0x2108 v s
    = { s with keep := { s.keep with retire := { s.keep.retire with index := v.setWidth 12 } } } := rfl

theorem write32_ualTmo (v : BitVec 32) (s : State) : write32 0x3004 v s
    = { s with chip := { s.chip with links := { s.chip.links with tmo := v.setWidth 24 } } } := rfl

theorem write32_evqIrq (v : BitVec 32) (s : State) : write32 0x110018 v s = { s with keep := { s.keep with pilot :=
    { s.keep.pilot with irqCount := v.setWidth 8, usec := BitVec.ofNat 16 (bits v.toNat 23 8) } } } := rfl

theorem write32_evqLost (v : BitVec 32) (s : State) : write32 0x11001C v s
    = { s with keep := { s.keep with pilot := { s.keep.pilot with lost := v.setWidth 16 } } } := rfl

/-- Both halves of a 64-bit register, written one after the other, are the whole. -/
theorem withHalf_both (old : Word) (v : BitVec 64) :
    withHalf (withHalf old false (v.setWidth 32)) true ((v >>> 32).setWidth 32) = v := by
  refine BitVec.eq_of_toNat_eq ?_
  simp only [withHalf, wordOf, if_true, if_false, Bool.false_eq_true, BitVec.toNat_ofNat, BitVec.toNat_setWidth,
    BitVec.toNat_ushiftRight, Nat.shiftRight_eq_div_pow]
  omega

/-- A state with `FW_ADDR` set. -/
def State.withFwAddr (s : State) (w : Word) : State := { s with keep := { s.keep with fw := { s.keep.fw with addr := w } } }

/-- A state with `EVQ_BASE` set. -/
def State.withEvqBase (s : State) (w : Word) : State := { s with keep := { s.keep with pilot := { s.keep.pilot with base := w } } }

theorem State.fwAddr_withFwAddr (s : State) (w : Word) : (s.withFwAddr w).keep.fw.addr = w := rfl
theorem State.withFwAddr_twice (s : State) (w x : Word) : (s.withFwAddr w).withFwAddr x = s.withFwAddr x := rfl
theorem State.evqBase_withEvqBase (s : State) (w : Word) : (s.withEvqBase w).keep.pilot.base = w := rfl
theorem State.withEvqBase_twice (s : State) (w x : Word) : (s.withEvqBase w).withEvqBase x = s.withEvqBase x := rfl

theorem write32_fwAddrLow (x : BitVec 32) (s : State) : write32 0x100 x s = s.withFwAddr (withHalf s.keep.fw.addr false x) := rfl
theorem write32_fwAddrHigh (x : BitVec 32) (s : State) : write32 0x104 x s = s.withFwAddr (withHalf s.keep.fw.addr true x) := rfl
theorem write32_evqBaseLow (x : BitVec 32) (s : State) :
    write32 0x110000 x s = s.withEvqBase (withHalf s.keep.pilot.base false x) := rfl
theorem write32_evqBaseHigh (x : BitVec 32) (s : State) :
    write32 0x110004 x s = s.withEvqBase (withHalf s.keep.pilot.base true x) := rfl

theorem write64_fwAddr (v : BitVec 64) (s : State) : write64 0x100 v s = s.withFwAddr v := by
  rw [write64_halves (by decide), write32_fwAddrLow, write32_fwAddrHigh, State.fwAddr_withFwAddr, State.withFwAddr_twice, withHalf_both]

theorem write64_evqBase (v : BitVec 64) (s : State) : write64 0x110000 v s = s.withEvqBase v := by
  rw [write64_halves (by decide), write32_evqBaseLow, write32_evqBaseHigh, State.evqBase_withEvqBase, State.withEvqBase_twice,
    withHalf_both]

theorem usec_of_write (v : BitVec 64) : BitVec.ofNat 16 (bits (v.setWidth 32 : BitVec 32).toNat 23 8) = (v >>> 8).setWidth 16 := by
  refine BitVec.eq_of_toNat_eq ?_
  simp only [bits, BitVec.toNat_ofNat, BitVec.toNat_setWidth, BitVec.toNat_ushiftRight, Nat.shiftRight_eq_div_pow]
  omega

/-! ### Sensors and fault-address queues (R23, R43) -/

theorem writePackage_therm {n : Nat} (hn : n < 13) (v : BitVec 32) (s : State) : writePackage (0x520 + 4 * n) v s = { s with
    keep := { s.keep with power := s.keep.power.modSensor n (fun x => x.clear v) } } := by
  have h : (0x520 + 4 * n - 0x520) / 4 = n := by omega
  simp (disch := omega) only [writePackage, if_pos, if_neg, h]
  rfl

theorem writeMemory_stat {d : Nat} (hd : d < 4) (v : BitVec 32) (s : State) :
    writeMemory (0x20 * d) v s = { s with keep := s.keep.clearOvf d v } := by
  have h : 0x20 * d / 0x20 = d := by omega
  simp (disch := omega) only [writeMemory, if_pos, h]
  rfl

/-- A bit of a register of at most 32 bits, as the host's word holds it. -/
theorem getLsbD_lowHalf (v : BitVec 64) {i : Nat} (h : i < 32) : (v.setWidth 32 : BitVec 32).getLsbD i = v.getLsbD i := by
  simp [h]

/-! ### The exported windows and the endpoint table (R57, R64) -/

/-- A mask that covers every set bit of a word changes nothing. -/
theorem and_covers {n : Nat} {x m : BitVec n} (h : x &&& ~~~m = 0) : x &&& m = x := by
  refine BitVec.eq_of_getLsbD_eq fun i hi => ?_
  have hb := congrArg (fun y => y.getLsbD i) h
  simp only [BitVec.getLsbD_and, BitVec.getLsbD_not, hi, decide_true, Bool.true_and, BitVec.ofNat_eq_ofNat, BitVec.getLsbD_zero] at hb
  rw [BitVec.getLsbD_and]
  revert hb
  cases x.getLsbD i <;> simp

/-- An exported window's entry whose reserved fields are zero. -/
structure Window.Canonical (w : Window) : Prop where
  base : w.base < 2 ^ 52
  len : w.len < 2 ^ 41
  asid : w.asid < 2 ^ 8
  die : w.die < 4
  key : w.key < 2 ^ 24
  perm : w.perm &&& 0x78 = 0

section
variable {b l a d k : Nat} {p : BitVec 8}

theorem Window.word_mk (b l a : Nat) (p : BitVec 8) (d k : Nat) :
    Window.word ⟨b, l, a, p, d, k⟩ = b + l * 2 ^ 64 + a * 2 ^ 128 + p.toNat * 2 ^ 136 + d * 2 ^ 144 + k * 2 ^ 160 := rfl

/-- The window in the bytes of an entry, whose base, length and key may reach into reserved fields. -/
theorem windowOfWord_word (hb : b < 2 ^ 64) (hl : l < 2 ^ 64) (ha : a < 2 ^ 8) (hd : d < 4) (hp : p &&& 0x78 = 0) :
    windowOfWord (Window.word ⟨b, l, a, p, d, k⟩) = ⟨b % 2 ^ 52, l % 2 ^ 41, a, p, d, k % 2 ^ 24⟩ := by
  have hperm := p.isLt
  have hbits : bits (Window.word ⟨b, l, a, p, d, k⟩) 143 136 = p.toNat := by
    simp only [bits, Window.word_mk]
    omega
  have hmask : BitVec.ofNat 8 (Nat.land p.toNat 0x87) = p := by
    have h := and_covers (m := (0x87 : BitVec 8)) (x := p) hp
    calc BitVec.ofNat 8 (Nat.land p.toNat 0x87) = BitVec.ofNat 8 (p &&& 0x87).toNat := rfl
      _ = p := by rw [h, BitVec.ofNat_toNat, BitVec.setWidth_eq]
  unfold windowOfWord
  rw [hbits, hmask]
  simp only [bits, Window.word_mk]
  congr 1 <;> omega

theorem setBits_baseLow (x : Nat) : setBits (Window.word ⟨b, l, a, p, d, k⟩) 31 0 x
    = Window.word ⟨b / 2 ^ 32 * 2 ^ 32 + x % 2 ^ 32, l, a, p, d, k⟩ := by
  simp only [setBits, Window.word_mk]
  omega

theorem setBits_baseHigh (hb : b < 2 ^ 64) (x : Nat) : setBits (Window.word ⟨b, l, a, p, d, k⟩) 63 32 x
    = Window.word ⟨b % 2 ^ 32 + x % 2 ^ 32 * 2 ^ 32, l, a, p, d, k⟩ := by
  simp only [setBits, Window.word_mk]
  omega

theorem setBits_lenLow (hb : b < 2 ^ 64) (x : Nat) : setBits (Window.word ⟨b, l, a, p, d, k⟩) 95 64 x
    = Window.word ⟨b, l / 2 ^ 32 * 2 ^ 32 + x % 2 ^ 32, a, p, d, k⟩ := by
  simp only [setBits, Window.word_mk]
  omega

theorem setBits_lenHigh (hb : b < 2 ^ 64) (hl : l < 2 ^ 64) (x : Nat) : setBits (Window.word ⟨b, l, a, p, d, k⟩) 127 96 x
    = Window.word ⟨b, l % 2 ^ 32 + x % 2 ^ 32 * 2 ^ 32, a, p, d, k⟩ := by
  simp only [setBits, Window.word_mk]
  omega

theorem setBits_key (hb : b < 2 ^ 64) (hl : l < 2 ^ 64) (ha : a < 2 ^ 8) (hd : d < 4) (hk : k < 2 ^ 32) (x : Nat) :
    setBits (Window.word ⟨b, l, a, p, d, k⟩) 191 160 x = Window.word ⟨b, l, a, p, d, x % 2 ^ 32⟩ := by
  have hp := p.isLt
  simp only [setBits, Window.word_mk]
  omega

end


/-- The entry at a place of the table after four of its bytes are written. -/
theorem mget_writeWindow (l : Links) (i o : Nat) (v : BitVec 32) : mget (l.writeWindow i o v).windows i
    = some (windowOfWord (setBits (mgetD l.windows i ⟨0, 0, 0, 0, 0, 0⟩).word (8 * o + 31) (8 * o) v.toNat)) := mget_mset_self ..

/-- The entry after eight of its bytes are written, as two words. -/
theorem mget_writeWindow_twice (l : Links) (i o : Nat) {w : Window} (hw : mgetD l.windows i ⟨0, 0, 0, 0, 0, 0⟩ = w) (x y : BitVec 32) :
    mget ((l.writeWindow i o x).writeWindow i (o + 4) y).windows i = some (windowOfWord (setBits
      (windowOfWord (setBits w.word (8 * o + 31) (8 * o) x.toNat)).word (8 * (o + 4) + 31) (8 * (o + 4)) y.toNat)) := by
  rw [mget_writeWindow, mgetD, mget_writeWindow, hw]

/-- An eight-byte write in the table of exported windows (R57). -/
theorem write64_window {i o : Nat} (hi : i < 256) (ho : o < 28) (v : BitVec 64) (s : State) : write64 (0x20000 + 32 * i + o) v s
    = onLinks (fun l => (l.writeWindow i o (v.setWidth 32)).writeWindow i (o + 4) ((v >>> 32).setWidth 32)) s := by
  rw [write64_halves (by omega), write32_window hi (by omega), show 0x20000 + 32 * i + o + 4 = 0x20000 + 32 * i + (o + 4) from rfl,
    write32_window hi (by omega)]
  rfl

theorem mget_writeEndpoint (l : Links) (i o : Nat) (v : BitVec 32) : mget (l.writeEndpoint i o v).endpoints i
    = some (endpointOfWord (setBits (mgetD l.endpoints i ⟨0, 0, 0⟩).word (8 * o + 31) (8 * o) v.toNat)) := mget_mset_self ..

theorem toNat_lowHalf (v : BitVec 64) : (v.setWidth 32 : BitVec 32).toNat = v.toNat % 2 ^ 32 := BitVec.toNat_setWidth 32 v

theorem toNat_highHalf (v : BitVec 64) : ((v >>> 32).setWidth 32 : BitVec 32).toNat = v.toNat / 2 ^ 32 := by
  rw [BitVec.toNat_setWidth, BitVec.toNat_ushiftRight, Nat.shiftRight_eq_div_pow]
  omega

section
variable {w : Window} (h : w.Canonical) (v : BitVec 64)
include h

theorem window_base_written : windowOfWord (setBits (windowOfWord (setBits w.word 31 0 (v.setWidth 32 : BitVec 32).toNat)).word 63 32
    ((v >>> 32).setWidth 32 : BitVec 32).toNat) = { w with base := v.toNat % 2 ^ 52 } := by
  obtain ⟨b, l, a, p, d, k⟩ := w
  obtain ⟨hb, hl, ha, hd, hk, hp⟩ := h
  dsimp only at *
  rw [toNat_lowHalf, toNat_highHalf, setBits_baseLow, windowOfWord_word (by omega) (by omega) ha hd hp, setBits_baseHigh (by omega),
    windowOfWord_word (by omega) (by omega) ha hd hp]
  congr 1 <;> omega

theorem window_len_written : windowOfWord (setBits (windowOfWord (setBits w.word 95 64 (v.setWidth 32 : BitVec 32).toNat)).word 127 96
    ((v >>> 32).setWidth 32 : BitVec 32).toNat) = { w with len := v.toNat % 2 ^ 41 } := by
  obtain ⟨b, l, a, p, d, k⟩ := w
  obtain ⟨hb, hl, ha, hd, hk, hp⟩ := h
  dsimp only at *
  rw [toNat_lowHalf, toNat_highHalf, setBits_lenLow (by omega), windowOfWord_word (by omega) (by omega) ha hd hp,
    setBits_lenHigh (by omega) (by omega), windowOfWord_word (by omega) (by omega) ha hd hp]
  congr 1 <;> omega

theorem window_key_written : windowOfWord (setBits w.word 191 160 (v.setWidth 32 : BitVec 32).toNat)
    = { w with key := v.toNat % 2 ^ 24 } := by
  obtain ⟨b, l, a, p, d, k⟩ := w
  obtain ⟨hb, hl, ha, hd, hk, hp⟩ := h
  dsimp only at *
  rw [toNat_lowHalf, setBits_key (by omega) (by omega) ha hd (by omega), windowOfWord_word (by omega) (by omega) ha hd hp]
  congr 1 <;> omega

end

/-- `EP` of an endpoint entry written (R64). -/
theorem endpoint_ep_written {e : Endpoint} (hj : e.job &&& 0x7F000000 = 0) (v : BitVec 32) :
    endpointOfWord (setBits e.word 191 160 v.toNat) = { e with ep := v } := by
  obtain ⟨a, j, p⟩ := e
  have ha := a.isLt
  have hjl := j.isLt
  have hv := v.isLt
  have hword : setBits (Endpoint.word ⟨a, j, p⟩) 191 160 v.toNat = a.toNat + j.toNat * 2 ^ 128 + v.toNat * 2 ^ 160 := by
    have hp := p.isLt
    simp only [setBits, Endpoint.word]
    omega
  have hjob : bits (a.toNat + j.toNat * 2 ^ 128 + v.toNat * 2 ^ 160) 159 128 = j.toNat := by
    simp only [bits]
    omega
  have hmask : BitVec.ofNat 32 (Nat.land j.toNat 0x80FFFFFF) = j := by
    have h := and_covers (m := (0x80FFFFFF : BitVec 32)) (x := j) hj
    calc BitVec.ofNat 32 (Nat.land j.toNat 0x80FFFFFF) = BitVec.ofNat 32 (j &&& 0x80FFFFFF).toNat := rfl
      _ = j := by rw [h, BitVec.ofNat_toNat, BitVec.setWidth_eq]
  rw [hword, endpointOfWord, hjob, hmask]
  congr 1
  · refine BitVec.eq_of_toNat_eq ?_
    rw [BitVec.toNat_ofNat]
    dsimp only
    omega
  · refine BitVec.eq_of_toNat_eq ?_
    rw [BitVec.toNat_ofNat]
    simp only [bits]
    omega

/-! ### A partition's registers (R157, R158) -/

theorem Partition.placeOpen_iff (q : Partition) : q.placeOpen = true ↔ q.en = false ∨ q.state = 3 ∨ q.state = 5 := by
  simp [Partition.placeOpen, or_assoc]

theorem Partition.maskOpen_iff (q : Partition) : q.maskOpen = true ↔ q.en = false ∨ q.state = 5 := by
  simp [Partition.maskOpen]

/-- A register of the placing kind is written while the partition is disabled, stopped or saved. -/
theorem Chip.part_placed {c : Chip} {p : Nat} (f : Partition → Partition) :
    (if (c.part p).placeOpen then c.modPart p f else c).part p
      = if (c.part p).en = false ∨ (c.part p).state = 3 ∨ (c.part p).state = 5 then f (c.part p) else c.part p := by
  simp only [← Partition.placeOpen_iff]
  split
  · exact Chip.part_modPart ..
  · rfl

/-- The low half of the mask is written while the partition is disabled or saved. -/
theorem Chip.clus_writePart64 (c : Chip) (p : Nat) (v : Word) : ((c.writePart64 p 0x08 v).part p).clus.toNat =
    if (c.part p).en = false ∨ (c.part p).state = 5 then (c.part p).clus.toNat / 2 ^ 64 * 2 ^ 64 + v.toNat
    else (c.part p).clus.toNat := by
  simp only [Chip.writePart64, ← Partition.maskOpen_iff]
  split
  · rw [(Chip.wakeIntolerant_frame _).part, Chip.part_modPart]
    have hc := (c.part p).clus.isLt
    have hv := v.isLt
    simp only [setBits, BitVec.toNat_ofNat]
    omega
  · rfl

/-! ### The claim -/

theorem controlRegisterWritesStoreTheirFields : Claims.ControlRegisterWritesStoreTheirFields := by
  refine ⟨fun s v off w hh ho => ⟨_, exec_controlRegisterWrite .., ?_⟩, fun s v run => ⟨?_, ?_, ?_, ?_, ?_, ?_, ?_, ?_, ?_⟩⟩
  · rw [hostWrite_halted hh ho]
  · have hw : ∀ n, n ≤ 32 → (v.setWidth 32 : BitVec 32).setWidth n = v.setWidth n := fun n hn => BitVec.setWidth_setWidth_of_le v hn
    simp only [List.forall_mem_cons, ← usec_of_write, ← hw 12 (by decide), ← hw 24 (by decide), ← hw 8 (by decide), ← hw 16 (by decide)]
    refine ⟨?_, ?_, ?_, ?_, ?_, fun _ hf => nomatch hf⟩
    · rw [exec_write32 run (o := 0x108) rfl rfl, write32_fwLen]
    · rw [exec_write32 run (o := 0x2108) rfl rfl, write32_badIndex]
    · rw [exec_write32 run (o := 0x3004) rfl rfl, write32_ualTmo]
    · rw [exec_write32 run (o := 0x110018) rfl rfl, write32_evqIrq]
    · rw [exec_write32 run (o := 0x11001C) rfl rfl, write32_evqLost]
  · rw [exec_write64 run (o := 0x100) rfl rfl rfl, write64_fwAddr]
    rfl
  · rw [exec_write64 run (o := 0x110000) rfl rfl rfl, write64_evqBase]
    rfl
  · intro off n hn ho x hx
    rw [show 0x1520 + 4 * n = 0x1000 + (0x520 + 4 * n) by omega] at ho
    refine ⟨_, exec_write32 run ho (by omega) v, ?_⟩
    rw [write32_package (by omega), writePackage_therm hn]
    refine ⟨?_, rfl, rfl⟩
    rw [Power.sensor_modSensor_self _ _ hn, hx, Sensor.clear, getLsbD_lowHalf v (by decide), getLsbD_lowHalf v (by decide)]
  · intro off d hd ho x hx
    rw [exec_write32 run ho (by omega) v, write32_memory (by omega), writeMemory_stat hd, Keep.clearOvf, hx,
      getLsbD_lowHalf v (by decide)]
  · intro off i hi w hw hb hl ha hd hk hp
    have hc : w.Canonical := ⟨hb, hl, ha, hd, hk, hp⟩
    refine ⟨fun ho => ?_, fun ho => ?_, fun ho => ?_⟩
    · refine ⟨_, exec_write64 run ho (by omega) (permitsWide_windows (by omega)) v, ?_⟩
      rw [← Nat.add_zero (0x20000 + 32 * i), write64_window hi (by decide)]
      exact ⟨(mget_writeWindow_twice _ i 0 hw _ _).trans (congrArg some (window_base_written hc v)), rfl⟩
    · rw [show 0x20008 + 32 * i = 0x20000 + 32 * i + 8 by omega] at ho
      refine ⟨_, exec_write64 run ho (by omega) (permitsWide_windows (by omega)) v, ?_⟩
      rw [write64_window hi (by decide)]
      exact ⟨(mget_writeWindow_twice _ i 8 hw _ _).trans (congrArg some (window_len_written hc v)), rfl⟩
    · rw [show 0x20014 + 32 * i = 0x20000 + 32 * i + 20 by omega] at ho
      refine ⟨_, exec_write32 run ho (by omega) v, ?_⟩
      rw [write32_window hi (by decide)]
      refine ⟨(mget_writeWindow _ i 20 _).trans (congrArg some ?_), rfl⟩
      rw [hw]
      exact window_key_written hc v
  · intro off i hi ho e he hj
    rw [show 0x40014 + 32 * i = 0x40000 + 32 * i + 20 by omega] at ho
    refine ⟨_, exec_write32 run ho (by omega) v, ?_⟩
    rw [write32_endpoint hi (by decide)]
    refine ⟨(mget_writeEndpoint _ i 20 _).trans (congrArg some ?_), rfl⟩
    rw [he]
    exact endpoint_ep_written hj _
  · rintro off p hp q rfl
    have wide : ∀ r, r < 0x80 → r % 8 = 0 → ((s.chip.part p).reg64 r).isSome = true → off.toNat = 0x120000 + 0x80 * p + r →
        exec (.controlRegisterWrite off true v) s = .next { s with chip := s.chip.writePart64 p r v } := by
      intro r hr h8 hs ho
      rw [exec_write64 run ho (by omega) (permitsWide_partitions (by omega)), write64_partition hp hr hs]
    refine ⟨fun ho => ⟨_, wide 0x48 (by decide) rfl rfl (by omega), Chip.part_placed _, rfl⟩,
      fun ho => ⟨_, wide 0x38 (by decide) rfl rfl (by omega), Chip.part_placed _, rfl⟩,
      fun ho => ⟨_, wide 0x58 (by decide) rfl rfl (by omega), Chip.part_modPart .., rfl⟩,
      fun ho => ⟨_, wide 0x08 (by decide) rfl rfl (by omega), rfl, Chip.clus_writePart64 ..⟩⟩
  · exact fun off => ⟨fun h => exec_write32_misaligned run h v,
      fun h => exec_write64_refused run (h.imp_right permitsWide_hole) v⟩

/-- Settles O41: each register's write as its own function, a write of the control BAR by its block, and the entries of the
tables read as numbers. -/
theorem controlRegisters : Obligations.ControlRegisters :=
  ⟨launchQueueAndNodeRegisterWrites, controlRegisterWritesStoreTheirFields⟩

end Sys2Proof.Machine
end

section
/-! O42: the event ring as its registers enable, disable and free it (R89, R91). -/

namespace Sys2Proof.Machine

/-! ### Signalling (R89, R455) -/

/-- `l` is `k` but for what signalling changes: the count of unsignalled entries, and the vectors sent or pending. -/
def SignalFrame (k l : Keep) : Prop :=
  l = { k with pilot := { k.pilot with unsignalled := l.pilot.unsignalled }, pba := l.pba, sentIrqs := l.sentIrqs }

theorem SignalFrame.refl (k : Keep) : SignalFrame k k := rfl

theorem SignalFrame.trans {k l m : Keep} (h : SignalFrame k l) (h' : SignalFrame l m) : SignalFrame k m := by
  unfold SignalFrame at *
  rw [h', h]

theorem SignalFrame.hostMem {k l : Keep} (h : SignalFrame k l) : l.hostMem = k.hostMem := by rw [h]

theorem SignalFrame.pilot {k l : Keep} (h : SignalFrame k l) : ∃ u, l.pilot = { k.pilot with unsignalled := u } := ⟨_, by rw [h]⟩

theorem Keep.sendMsix_frame (k : Keep) (v : Nat) : SignalFrame k (k.sendMsix v) := by
  unfold Keep.sendMsix
  split <;> rfl

theorem Keep.signalEvents_frame (k : Keep) : SignalFrame k k.signalEvents := by
  unfold Keep.signalEvents
  split
  · exact SignalFrame.trans (l := { k with pilot := { k.pilot with unsignalled := 0 } }) rfl (Keep.sendMsix_frame ..)
  · exact .refl k

@[simp] theorem Keep.pilot_sendMsix (k : Keep) (v : Nat) : (k.sendMsix v).pilot = k.pilot := by
  unfold Keep.sendMsix
  split <;> rfl

/-- A vector that is not masked is sent, and a masked one stays pending (R455). -/
theorem Keep.sendMsix_spec (k : Keep) {v : Nat} (hv : v < 2048) :
    (k.masked v = false → (k.sendMsix v).sentIrqs = k.sentIrqs ++ [v] ∧ (k.sendMsix v).pba = k.pba)
    ∧ (k.masked v = true → (k.sendMsix v).sentIrqs = k.sentIrqs ∧ (k.sendMsix v).pba.getLsbD v = true) := by
  refine ⟨fun h => ?_, fun h => ?_⟩
  · rw [Keep.sendMsix, h]
    exact ⟨rfl, rfl⟩
  · rw [Keep.sendMsix, h]
    refine ⟨rfl, ?_⟩
    show (k.pba ||| BitVec.ofNat 2048 (2 ^ v)).getLsbD v = true
    rw [BitVec.getLsbD_or, BitVec.getLsbD_ofNat, Nat.testBit_two_pow_self]
    simp [hv]

/-! ### An entry written (R90, R91) -/

/-- The keep with another pilot. -/
def Keep.withPilot (k : Keep) (p : Pilot) : Keep := { k with pilot := p }

theorem Keep.pilot_withPilot (k : Keep) (p : Pilot) : (k.withPilot p).pilot = p := rfl
theorem Keep.hostMem_withPilot (k : Keep) (p : Pilot) : (k.withPilot p).hostMem = k.hostMem := rfl
theorem Keep.withPilot_withPilot (k : Keep) (p q : Pilot) : (k.withPilot p).withPilot q = k.withPilot q := rfl

/-- The address of the entry at the ring's tail. -/
def Pilot.tailAddr (p : Pilot) : Nat := p.base.toNat / 4096 * 4096 + 32 * p.tail.toNat

/-- The pilot past an entry that it has written. -/
def Pilot.advanced (p : Pilot) (now : Nat) : Pilot :=
  { p with
    tail := BitVec.ofNat 16 ((p.tail.toNat + 1) % p.size)
    phase := if p.tail.toNat + 1 = p.size then !p.phase else p.phase
    seq := p.seq + 1
    unsignalled := p.unsignalled + 1
    since := if p.unsignalled = 0 then now else p.since }

/-- The keep with an event's entry at the ring's tail, which moves on. -/
def Keep.withEntry (k : Keep) (e : PEvent) (accepted now : Nat) : Keep :=
  { k with
    hostMem := memWriteBytes k.hostMem k.pilot.tailAddr (e.bytes k.pilot.phase k.pilot.seq accepted)
    pilot := k.pilot.advanced now }

theorem Keep.writeEvent_eq (k : Keep) (e : PEvent) (accepted now : Nat) : k.writeEvent e accepted now =
    match e.irq with
    | some v => (k.withEntry e accepted now).signalEvents.sendMsix v
    | none => (k.withEntry e accepted now).signalEvents := rfl

theorem Keep.writeEvent_frame (k : Keep) (e : PEvent) (accepted now : Nat) :
    SignalFrame (k.withEntry e accepted now) (k.writeEvent e accepted now) := by
  have h := Keep.signalEvents_frame (k.withEntry e accepted now)
  rw [Keep.writeEvent_eq]
  split
  · exact h.trans (Keep.sendMsix_frame ..)
  · exact h

theorem Keep.hostMem_withEntry (k : Keep) (e : PEvent) (accepted now : Nat) : (k.withEntry e accepted now).hostMem
    = memWriteBytes k.hostMem k.pilot.tailAddr (e.bytes k.pilot.phase k.pilot.seq accepted) := by
  unfold Keep.withEntry
  dsimp only

theorem Keep.pilot_withEntry (k : Keep) (e : PEvent) (accepted now : Nat) : (k.withEntry e accepted now).pilot = k.pilot.advanced now := rfl

/-- What an entry written leaves in the host's memory and in the ring. -/
theorem Keep.writeEvent_spec (k : Keep) (p : Pilot) (e : PEvent) (accepted now : Nat) :
    ((k.withPilot p).writeEvent e accepted now).hostMem = memWriteBytes k.hostMem p.tailAddr (e.bytes p.phase p.seq accepted)
    ∧ ∃ u, ((k.withPilot p).writeEvent e accepted now).pilot = { p.advanced now with unsignalled := u } := by
  have h := (k.withPilot p).writeEvent_frame e accepted now
  refine ⟨?_, ?_⟩
  · rw [h.hostMem, Keep.hostMem_withEntry, Keep.pilot_withPilot, Keep.hostMem_withPilot]
  · obtain ⟨u, hu⟩ := h.pilot
    rw [Keep.pilot_withEntry, Keep.pilot_withPilot] at hu
    exact ⟨u, hu⟩

@[simp] theorem PEvent.bytes_length (e : PEvent) (phase : Bool) (seq : BitVec 32) (time : Nat) :
    (e.bytes phase seq time).length = 32 := by
  simp [PEvent.bytes]

/-- An entry reads back from the host's memory, and no other byte has changed. -/
theorem entry_written {m : Memory} (hm : Memory.wf m) (a : Nat) (e : PEvent) (phase : Bool) (seq : BitVec 32) (time : Nat) :
    memReadBytes (memWriteBytes m a (e.bytes phase seq time)) a 32 = e.bytes phase seq time
    ∧ ∀ x, x < a ∨ a + 32 ≤ x → memRead (memWriteBytes m a (e.bytes phase seq time)) x = memRead m x := by
  have h := memReadBytes_memWriteBytes m a (e.bytes phase seq time) hm
  rw [PEvent.bytes_length] at h
  exact ⟨h, fun x hx => memRead_memWriteBytes_outside _ hm (by rwa [PEvent.bytes_length])⟩

/-! ### What waits is written (R91) -/

theorem Pilot.room_iff (p : Pilot) : p.room = true ↔ p.en = true ∧ p.unconsumed < p.size - 1 := by
  rw [Pilot.room, Bool.and_eq_true, decide_eq_true_eq]

section
variable {k : Keep} {e : PEvent} {t : Nat} (now : Nat)

theorem Keep.drainEvents_idle (hb : k.pilot.buffer = []) (hh : k.pilot.held = []) : k.drainEvents now = k := by
  rw [Keep.drainEvents, hb, hh]
  rfl

theorem Keep.drainEvents_buffered (hb : k.pilot.buffer = [(e, t)]) (hh : k.pilot.held = []) (hr : k.pilot.room = true) :
    k.drainEvents now = (k.withPilot { k.pilot with buffer := [] }).writeEvent e t now := by
  rw [Keep.drainEvents, hb, hh]
  show k.pump 1 now = _
  rw [Keep.pump, hr, hb]
  rfl

theorem Keep.drainEvents_held (hb : k.pilot.buffer = []) (hh : k.pilot.held = [e]) (hr : k.pilot.room = true) :
    k.drainEvents now = (k.withPilot { k.pilot with held := [] }).writeEvent e now now := by
  rw [Keep.drainEvents, hb, hh]
  show k.pump 1 now = _
  rw [Keep.pump, hr, hb, hh]
  rfl

end

/-! ### `EVQ_CTL` (R89) -/

theorem exec_evqCtlWrite (v : BitVec 32) (s : State) :
    exec (.evqCtlWrite v) s = .next { s with keep := s.keep.writeEvqCtl v s.chip.time } := rfl

theorem exec_evqHeadWrite (v : BitVec 32) (s : State) : exec (.evqHeadWrite v) s = .next { s with
    keep := (s.keep.withPilot { s.keep.pilot with head := v.setWidth 16 }).drainEvents s.chip.time } := rfl

theorem exec_evqIrqTimer (s : State) : exec .evqIrqTimer s = .next { s with keep := s.keep.irqTimer s.chip.time } := rfl

/-- The fields of a write of `EVQ_CTL`. -/
structure EvqCtl (v : BitVec 32) (n : Nat) (vec : BitVec 11) : Prop where
  size : n = v.toNat / 2 % 32
  vector : vec.toNat = v.toNat / 2 ^ 16 % 2 ^ 11

/-- The pilot as `EVQ_CTL` enables its ring, empty. -/
def Pilot.enabled (p : Pilot) (n : Nat) (vec : BitVec 11) : Pilot :=
  { p with vec := vec, en := true, log2n := n, head := 0, tail := 0, phase := true, seq := 1, unsignalled := 0 }

theorem Pilot.tailAddr_enabled (p : Pilot) (n : Nat) (vec : BitVec 11) (b : List (PEvent × Nat)) :
    ({ p.enabled n vec with buffer := b } : Pilot).tailAddr = p.base.toNat / 4096 * 4096 := Nat.add_zero _

/-- What a write of `EVQ_CTL` does, by `EN` before and after. -/
theorem Keep.writeEvqCtl_eq {v : BitVec 32} {n : Nat} {vec : BitVec 11} (h : EvqCtl v n vec) (k : Keep) (now : Nat) :
    k.writeEvqCtl v now =
    if k.pilot.en then
      if v.getLsbD 0 then k.withPilot { k.pilot with vec := vec }
      else k.withPilot (({ k.pilot with vec := vec, en := false, log2n := n } : Pilot).rebuffer now)
    else if v.getLsbD 0 = true ∧ 8 ≤ n ∧ n ≤ 16 then (k.withPilot (k.pilot.enabled n vec)).drainEvents now
    else k.withPilot { k.pilot with vec := vec, log2n := n } := by
  obtain ⟨rfl, hv⟩ := h
  have hvec : BitVec.ofNat 11 (bits v.toNat 26 16) = vec := by
    refine BitVec.eq_of_toNat_eq ?_
    rw [BitVec.toNat_ofNat, hv, bits]
    omega
  have hen : bit v.toNat 0 = v.getLsbD 0 := by rw [bit_eq_testBit, BitVec.testBit_toNat]
  have hn : bits v.toNat 5 1 = v.toNat / 2 % 32 := rfl
  simp only [Keep.writeEvqCtl, hvec, hen, hn, Bool.and_eq_true, decide_eq_true_eq, and_assoc]
  rfl

section
variable {s : State} {v : BitVec 32} {p : Pilot} (hp : s.keep.pilot = p)
include hp

/-- `EVQ_CTL` with nothing waiting. -/
theorem evqCtl_quiet {n : Nat} {vec : BitVec 11} (hc : EvqCtl v n vec) (hb : p.buffer = []) (hh : p.held = []) :
    (p.en = false → v.getLsbD 0 = true → 8 ≤ n → n ≤ 16 → exec (.evqCtlWrite v) s = .next { s with
      keep := { s.keep with pilot := { p with
        en := true, log2n := n, vec := vec, head := 0, tail := 0, phase := true, seq := 1, unsignalled := 0 } } })
    ∧ (p.en = false → v.getLsbD 0 = false ∨ n < 8 ∨ 16 < n → exec (.evqCtlWrite v) s = .next { s with
      keep := { s.keep with pilot := { p with log2n := n, vec := vec } } })
    ∧ (p.en = true → v.getLsbD 0 = true → exec (.evqCtlWrite v) s = .next { s with
      keep := { s.keep with pilot := { p with vec := vec } } })
    ∧ (p.en = true → v.getLsbD 0 = false → exec (.evqCtlWrite v) s = .next { s with
      keep := { s.keep with pilot := { p with en := false, log2n := n, vec := vec } } }) := by
  subst hp
  simp only [exec_evqCtlWrite, Keep.writeEvqCtl_eq hc]
  refine ⟨fun he hv h8 h16 => ?_, fun he hr => ?_, fun he hv => ?_, fun he hv => ?_⟩
  · rw [he, if_neg Bool.false_ne_true, if_pos ⟨hv, h8, h16⟩, Keep.drainEvents_idle]
    exacts [rfl, hb, hh]
  · rw [he, if_neg Bool.false_ne_true, if_neg]
    · rfl
    · rintro ⟨hv, h8, h16⟩
      rcases hr with hr | hr
      · rw [hv] at hr; cases hr
      · omega
  · rw [he, if_pos rfl, if_pos hv]
    rfl
  · rw [he, if_pos rfl, hv, if_neg Bool.false_ne_true, Pilot.rebuffer_fits (by simp [hb, hh])]
    simp [Keep.withPilot, hb, hh]

/-- A buffered event is the first entry of the ring that `EVQ_CTL` enables. -/
theorem evqCtl_writes {n : Nat} {vec : BitVec 11} (hc : EvqCtl v n vec) {e : PEvent} {t : Nat} (hb : p.buffer = [(e, t)])
    (hh : p.held = []) (he : p.en = false) (hv : v.getLsbD 0 = true) (h8 : 8 ≤ n) (h16 : n ≤ 16) (hm : Memory.wf s.keep.hostMem) :
    ∃ u, exec (.evqCtlWrite v) s = .next u ∧ u.keep.pilot.en = true ∧ u.keep.pilot.buffer = [] ∧ u.keep.pilot.tail = 1
      ∧ memReadBytes u.keep.hostMem (p.base.toNat / 4096 * 4096) 32 = e.bytes true 1 t := by
  subst hp
  have hsize : 256 ≤ 2 ^ n := Nat.pow_le_pow_right (n := 2) (by decide) h8
  have hroom : (s.keep.pilot.enabled n vec).room = true := by
    refine (Pilot.room_iff _).2 ⟨rfl, ?_⟩
    show (0 + 2 ^ n - 0 % 2 ^ n) % 2 ^ n < 2 ^ n - 1
    rw [Nat.zero_mod, Nat.sub_zero, Nat.zero_add, Nat.mod_self]
    omega
  have hdrain := Keep.drainEvents_buffered (k := s.keep.withPilot (s.keep.pilot.enabled n vec)) s.chip.time hb hh hroom
  rw [Keep.pilot_withPilot, Keep.withPilot_withPilot] at hdrain
  obtain ⟨hmem, x, hpilot⟩ := s.keep.writeEvent_spec { s.keep.pilot.enabled n vec with buffer := [] } e t s.chip.time
  refine ⟨_, exec_evqCtlWrite v s, ?_⟩
  rw [Keep.writeEvqCtl_eq hc, he, if_neg Bool.false_ne_true, if_pos ⟨hv, h8, h16⟩, hdrain]
  dsimp only
  rw [hmem, hpilot, Pilot.tailAddr_enabled]
  refine ⟨rfl, rfl, ?_, (entry_written hm _ e _ _ t).1⟩
  show BitVec.ofNat 16 ((0 + 1) % 2 ^ n) = 1
  rw [Nat.mod_eq_of_lt (by omega)]
  rfl

/-! ### `EVQ_HEAD` and the timer (R89, R91) -/

/-- An event that is held is written at the tail when `EVQ_HEAD` makes room. -/
theorem evqHead_writes {e : PEvent} (hb : p.buffer = []) (hh : p.held = [e]) (he : p.en = true) (hm : Memory.wf s.keep.hostMem)
    (hr : (p.tail.toNat + 2 ^ p.log2n - v.toNat % 2 ^ 16 % 2 ^ p.log2n) % 2 ^ p.log2n < 2 ^ p.log2n - 1) :
    ∃ u, exec (.evqHeadWrite v) s = .next u ∧ u.keep.pilot.head = v.setWidth 16 ∧ u.keep.pilot.held = []
      ∧ u.keep.pilot.seq = p.seq + 1
      ∧ memReadBytes u.keep.hostMem (p.base.toNat / 4096 * 4096 + 32 * p.tail.toNat) 32 = e.bytes p.phase p.seq s.chip.time
      ∧ (∀ a, a < p.base.toNat / 4096 * 4096 + 32 * p.tail.toNat ∨ p.base.toNat / 4096 * 4096 + 32 * p.tail.toNat + 32 ≤ a →
        memRead u.keep.hostMem a = memRead s.keep.hostMem a)
      ∧ u.chip = s.chip := by
  subst hp
  have hroom : ({ s.keep.pilot with head := v.setWidth 16 } : Pilot).room = true := by
    refine (Pilot.room_iff _).2 ⟨he, ?_⟩
    simp only [Pilot.unconsumed, Pilot.size, BitVec.toNat_setWidth]
    exact hr
  have hdrain := Keep.drainEvents_held (k := s.keep.withPilot { s.keep.pilot with head := v.setWidth 16 }) s.chip.time hb hh hroom
  rw [Keep.pilot_withPilot, Keep.withPilot_withPilot] at hdrain
  obtain ⟨hmem, x, hpilot⟩ := s.keep.writeEvent_spec { s.keep.pilot with head := v.setWidth 16, held := [] } e s.chip.time s.chip.time
  obtain ⟨hread, hother⟩ := entry_written hm s.keep.pilot.tailAddr e s.keep.pilot.phase s.keep.pilot.seq s.chip.time
  refine ⟨_, exec_evqHeadWrite v s, ?_⟩
  rw [hdrain]
  dsimp only
  rw [hmem, hpilot]
  exact ⟨rfl, rfl, rfl, hread, hother, rfl⟩

end

theorem eventRingFollowsItsRegisters : Claims.EventRingFollowsItsRegisters := by
  intro s v p n hp hn vec hvec
  have hc : EvqCtl v n vec := ⟨hn, hvec⟩
  refine ⟨fun hb hh => ?_, fun e t hb hh he hv h8 h16 hm => evqCtl_writes hp hc hb hh he hv h8 h16 hm,
    fun e hb hh he _ hr hm => evqHead_writes hp hb hh he hr hm, fun hu h0 ht => ?_⟩
  · obtain ⟨henable, hrefuse, hkeep, hdisable⟩ := evqCtl_quiet hp hc hb hh
    refine ⟨henable, hrefuse, hkeep, hdisable, ?_⟩
    subst hp
    rw [exec_evqHeadWrite, Keep.drainEvents_idle]
    exacts [rfl, hb, hh]
  · subst hp
    have htimer : s.keep.irqTimer s.chip.time
        = (s.keep.withPilot { s.keep.pilot with unsignalled := 0 }).sendMsix s.keep.pilot.vec.toNat := if_pos ⟨hu, h0, by omega⟩
    refine ⟨_, exec_evqIrqTimer s, ?_⟩
    rw [htimer]
    refine ⟨Keep.pilot_sendMsix .., rfl, ?_⟩
    exact Keep.sendMsix_spec (s.keep.withPilot { s.keep.pilot with unsignalled := 0 }) s.keep.pilot.vec.isLt

end Sys2Proof.Machine
end

section
/-! O42: memory errors as the scrubber finds them and as the fault-address queues record them (R32, R41, R42, R44). -/

namespace Sys2Proof.Machine

/-! ### The fault-address queues (R41, R43, R44) -/

theorem faqs_set_self {v : Vector Faq 4} {d : Nat} (hd : d < 4) (f x : Faq) : (v.setIfInBounds d f).getD d x = f := by
  simp [Vector.getD, hd]

theorem faqs_set_ne {v : Vector Faq 4} {d e : Nat} (h : e ≠ d) (f x : Faq) : (v.setIfInBounds d f).getD e x = v.getD e x := by
  simp [Vector.getD, Ne.symm h]

theorem exec_faqPop (d : BitVec 2) (v : BitVec 32) (s : State) :
    exec (.faqPop d v) s = .next { s with keep := s.keep.popError d.toNat v } := rfl

/-- A 1 written to `FAQ_POP` discards the head entry of that queue. -/
theorem popError_spec (k : Keep) (d : BitVec 2) (v : BitVec 32) :
    ((k.popError d.toNat v).faqs.getD d.toNat ⟨[], false, 0⟩).entries
      = (if v.getLsbD 0 then (k.faqs.getD d.toNat ⟨[], false, 0⟩).entries.drop 1 else (k.faqs.getD d.toNat ⟨[], false, 0⟩).entries)
    ∧ ∀ e, e ≠ d.toNat → (k.popError d.toNat v).faqs.getD e ⟨[], false, 0⟩ = k.faqs.getD e ⟨[], false, 0⟩ := by
  unfold Keep.popError
  cases v.getLsbD 0 with
  | false => exact ⟨rfl, fun _ _ => rfl⟩
  | true =>
    refine ⟨?_, fun e he => faqs_set_ne he _ _⟩
    exact congrArg Faq.entries (faqs_set_self d.isLt _ _)

/-- An entry takes its place at the end of a queue that has room; all but a kind 1 post an event. -/
theorem placeError_spec {d line kind sect port : Nat} {s : State} (hd : d < 4) :
    ((Claims.faqOf s d).entries.length < 256 → (Claims.faqOf (placeError d line kind sect port s) d).entries = (Claims.faqOf s d).entries
      ++ [(BitVec.ofNat 32 line, BitVec.ofNat 8 (kind + 16 * sect + 32 * port), BitVec.ofNat 64 s.chip.time)])
    ∧ (kind = 1 → (placeError d line kind sect port s).chip = s.chip)
    ∧ (kind ≠ 1 → (placeError d line kind sect port s).chip = s.chip.post ⟨0x10, d, BitVec.ofNat 64 d, 0, none⟩) := by
  refine ⟨fun h => ?_, fun h => if_pos h, fun h => if_neg h⟩
  refine (congrArg Faq.entries (faqs_set_self hd _ _)).trans ?_
  exact congrArg Faq.entries (if_pos h)

theorem settleErrors_none {s : State} (h : s.chip.found = []) : settleErrors s = s := by
  rw [settleErrors, h, List.foldl_nil, ← h]

theorem settleErrors_one {s : State} {e : MemErr} (h : s.chip.found = [e]) : settleErrors s
    = placeError e.spire e.line e.kind e.sect e.port { s with chip := { s.chip with found := [] } } := by
  rw [settleErrors, h]
  rfl

/-! ### A line read by the scrubber (R32, R42) -/

theorem exec_patrolScrub {s : State} (h : s.keep.power.halted = false) (line : BitVec 48) (found : BitVec 3) (sect : BitVec 1) :
    exec (.patrolScrub line found sect) s = .next (scrub line.toNat found.toNat sect.toNat s) :=
  congrArg Host.Outcome.next (if_neg (by simp [h]))

theorem scrub_hbm {line : Nat} (hp : place (line * 128) = .hbm) (found sect : Nat) (s : State) :
    scrub line found sect s = settleErrors { s with chip := (s.chip.upset line found sect).scrubLine line } :=
  if_neg (not_not.2 hp)

/-- A line poisoned in HBM4E is one whose word says so, or is malformed. -/
theorem Chip.poisoned_hbm {c : Chip} {l : Nat} (hp : place (l * 128) = .hbm) :
    c.poisoned l = ((c.compassOf l).getLsbD 6 || cMalformed (c.compassOf l) (hbmHome (l * 128))) := by
  rw [Chip.poisoned, hp]

section
variable {c : Chip} {l : Nat}

theorem readSector_idle {s : Nat} (h : (c.latentOf l).sector s = 0) (b : Bool) : c.readSector l s b = c := if_pos (.inr h)

variable (hp : place (l * 128) = .hbm)
include hp

/-- The only sector in error is read: one symbol is corrected, two are reported, and more poison the line (R32, R42). -/
theorem readSector_upset {s : Nat} {n : BitVec 2} (hn : n ≠ 0) (h : c.latentOf l = Latent.none.setSector s n) : c.readSector l s true
    = if n = 2 then (c.setLatent l Latent.none).report ⟨hbmHome (l * 128), bits (l * 128) 38 7, 1, s, 0⟩
      else if n = 3 then ((c.setLatent l Latent.none).setPoison l true).report ⟨hbmHome (l * 128), bits (l * 128) 38 7, 4, s, 0⟩
      else c.setLatent l Latent.none := by
  have hsect : (c.latentOf l).sector s = n ∧ (c.latentOf l).setSector s 0 = Latent.none := by
    rw [h]
    unfold Latent.sector Latent.setSector
    split <;> exact ⟨rfl, rfl⟩
  obtain ⟨hsec, hset⟩ := hsect
  unfold Chip.readSector
  rw [hsec, hset]
  exact if_neg (by rintro (h | h); exacts [h hp, hn h])

theorem latentOf_readSector_upset {s : Nat} {n : BitVec 2} (hn : n ≠ 0) (h : c.latentOf l = Latent.none.setSector s n) :
    (c.readSector l s true).latentOf l = Latent.none := by
  have hs := c.latentOf_setLatent_self l Latent.none
  rw [readSector_upset hp hn h]
  split
  · exact hs
  · split <;> exact hs

/-- The scrubber's reading of the line when one sector is in error. -/
theorem scrubLine_sector {s : Nat} {n : BitVec 2} (hs : s < 2) (hn : n ≠ 0) (h : c.latentOf l = Latent.none.setSector s n) :
    c.scrubLine l = c.readSector l s true := by
  have hread := latentOf_readSector_upset hp hn h
  have hboth : (c.readSector l 0 true).readSector l 1 true = c.readSector l s true := by
    obtain rfl | rfl : s = 0 ∨ s = 1 := by omega
    · exact readSector_sound hread 1 true
    · have hzero : c.readSector l 0 true = c := readSector_idle (by rw [h]; rfl) true
      rw [hzero]
  unfold Chip.scrubLine
  dsimp only
  rw [hboth, hread]
  rfl

omit hp in
/-- The scrubber's reading of the line when its compass word cannot be read. -/
theorem scrubLine_word (h : c.latentOf l = ⟨0, 0, 3⟩) : c.scrubLine l
    = ((c.setLatent l Latent.none).poisonRow l (hbmHome (l * 128))).report ⟨hbmHome (l * 128), bits (l * 128) 38 7, 3, 0, 0⟩ := by
  have hboth : (c.readSector l 0 true).readSector l 1 true = c := by
    have hidle : ∀ s, c.readSector l s true = c := fun s => readSector_idle (by rw [h]; unfold Latent.sector; split <;> rfl) true
    rw [hidle, hidle]
  unfold Chip.scrubLine
  dsimp only
  rw [hboth, h]
  rfl

theorem upset_sector (h : c.latentOf l = Latent.none) {n s : Nat} (h1 : 1 ≤ n) (h3 : n ≤ 3) :
    c.upset l n s = c.setLatent l (Latent.none.setSector s (BitVec.ofNat 2 n)) := by
  have hs : Nat.max (Latent.none.sector s).toNat n = n := by
    unfold Latent.sector
    split <;> exact Nat.zero_max _
  unfold Chip.upset
  rw [if_neg (by rintro (h | h); exacts [h hp, by omega]), h]
  dsimp only
  rw [if_neg (by omega), hs]

theorem upset_word (h : c.latentOf l = Latent.none) {n : Nat} (s : Nat) (h4 : 4 ≤ n) : c.upset l n s = c.setLatent l ⟨0, 0, 3⟩ := by
  unfold Chip.upset
  rw [if_neg (by rintro (h | h); exacts [h hp, by omega]), h]
  dsimp only
  rw [if_pos h4]
  rfl

end

/-! ### What the scrubber reports (R41, R44) -/

/-- The place of a line in the entries of the queues (R44). -/
theorem entryLine (line : BitVec 48) : BitVec.ofNat 32 (bits (line.toNat * 128) 38 7) = line.setWidth 32 := by
  refine BitVec.eq_of_toNat_eq ?_
  rw [BitVec.toNat_ofNat, BitVec.toNat_setWidth, bits]
  omega

/-- The scrubber's event, by what the scrubbing of the line reports. -/
theorem exec_patrolScrub_hbm {s : State} (run : s.keep.power.halted = false) {line : BitVec 48} (hp : place (line.toNat * 128) = .hbm)
    (found : BitVec 3) (sect : BitVec 1) {c : Chip} (hc : (s.chip.upset line.toNat found.toNat sect.toNat).scrubLine line.toNat = c) :
    exec (.patrolScrub line found sect) s = .next (settleErrors { s with chip := c }) := by
  rw [exec_patrolScrub run, scrub_hbm hp, hc]

/-- A line on which the scrubber finds one thing to report. -/
theorem scrub_reports {s : State} (run : s.keep.power.halted = false) (hf : s.chip.found = []) {line : BitVec 48}
    (hp : place (line.toNat * 128) = .hbm) {found : BitVec 3} {sect : BitVec 1} {d kind sec : Nat}
    (hd : d = line.toNat * 128 / 2 ^ 37 % 4) {c : Chip} (hc : (s.chip.upset line.toNat found.toNat sect.toNat).scrubLine line.toNat
      = c.report ⟨hbmHome (line.toNat * 128), bits (line.toNat * 128) 38 7, kind, sec, 0⟩)
    (hcf : c.found = s.chip.found) (hct : c.time = s.chip.time) (hlen : (Claims.faqOf s d).entries.length < 256) :
    ∃ t, exec (.patrolScrub line found sect) s = .next t
      ∧ (Claims.faqOf t d).entries = (Claims.faqOf s d).entries
        ++ [(line.setWidth 32, BitVec.ofNat 8 (kind + 16 * sec), BitVec.ofNat 64 s.chip.time)]
      ∧ (kind = 1 → t.chip = { c with found := [] })
      ∧ (kind ≠ 1 → t.chip = ({ c with found := [] } : Chip).post ⟨0x10, d, BitVec.ofNat 64 d, 0, none⟩) := by
  subst hd
  have hfound : (c.report ⟨hbmHome (line.toNat * 128), bits (line.toNat * 128) 38 7, kind, sec, 0⟩).found
      = [⟨hbmHome (line.toNat * 128), bits (line.toNat * 128) 38 7, kind, sec, 0⟩] := by
    show c.found ++ _ = _
    rw [hcf, hf]
    rfl
  refine ⟨_, exec_patrolScrub_hbm run hp found sect hc, ?_⟩
  rw [settleErrors_one hfound]
  obtain ⟨hentry, hone, hmore⟩ := placeError_spec (d := hbmHome (line.toNat * 128)) (line := bits (line.toNat * 128) 38 7) (kind := kind)
    (sect := sec) (port := 0) (s := { s with chip := { c with found := [] } }) (Nat.mod_lt _ (by decide))
  refine ⟨?_, hone, hmore⟩
  have h := hentry hlen
  rw [entryLine] at h
  refine h.trans ?_
  dsimp only
  rw [hct]
  rfl

end Sys2Proof.Machine
end

section
/-! O42: what the slices' operations report, and the CXL lines that a device is to return poisoned (R38, R40, R41). -/

namespace Sys2Proof.Machine

/-! ### Write-backs report nothing -/

/-- From `c` to `d` no error has been reported, and of the CXL lines at most `l` has become or ceased to be poisoned at its device. -/
structure Unreported (l : Nat) (c d : Chip) : Prop where
  found : d.found = c.found
  bad : ∀ k, k ≠ l → (k ∈ d.links.cxlBad ↔ k ∈ c.links.cxlBad)

section
variable {l n : Nat} {c : Chip}

theorem Unreported.refl (c : Chip) : Unreported l c c := ⟨rfl, fun _ _ => .rfl⟩

theorem Unreported.trans {a b c : Chip} (h : Unreported l a b) (k : Unreported l b c) : Unreported l a c :=
  ⟨k.found.trans h.found, fun j hj => (k.bad j hj).trans (h.bad j hj)⟩

theorem Unreported.of_eq {c d : Chip} (hf : d.found = c.found) (hl : d.links = c.links) : Unreported l c d :=
  ⟨hf, fun _ _ => by rw [hl]⟩

theorem unreported_flushPoison (p : LineCopy) : Unreported l c (c.flushPoison p l) := by
  unfold Chip.flushPoison
  split
  · refine ⟨rfl, fun k hk => ?_⟩
    have hend : k ∉ (if p.poison then [l] else []) := by
      split
      · simpa using hk
      · exact List.not_mem_nil
    simp [hk, hend]
  · exact .refl c

theorem unreported_flushSector (p : LineCopy) (s : Nat) : Unreported l c (c.flushSector p l s) := by
  unfold Chip.flushSector
  dsimp only
  split
  · exact .of_eq rfl rfl
  · rw [(placeAll_setDram ..).1]
    exact .of_eq rfl rfl

theorem unreported_flushSectors (p : LineCopy) : Unreported l c (c.flushSectors p l) := by
  have hs : ∀ (d : Chip) (s : Nat) (q : Prop) [Decidable q], Unreported l d (if q then d.flushSector p l s else d) :=
    fun d s q _ => by
      split
      · exact unreported_flushSector p s
      · exact .refl d
  exact ((unreported_flushPoison p).trans (hs _ 0 _)).trans (hs _ 1 _)

theorem unreported_modCopy (f : LineCopy → LineCopy) : Unreported l c (c.modCopy n l f) := by
  unfold Chip.modCopy
  split
  · exact .of_eq rfl rfl
  · exact .refl c

theorem unreported_flushCopy : Unreported l c (c.flushCopy n l) := by
  cases h : c.copyAt n l with
  | none => rw [Chip.flushCopy_none h]; exact .refl c
  | some p => rw [Chip.flushCopy_eq h]; exact (unreported_flushSectors p).trans (unreported_modCopy _)

theorem unreported_giveUp : Unreported l c (c.giveUp n l) := unreported_flushCopy.trans (.of_eq rfl rfl)

theorem unreported_flushSpires (ds : List Nat) : Unreported l c (c.flushSpires l ds) := by
  induction ds generalizing c with
  | nil => exact .refl c
  | cons d r ih => exact unreported_giveUp.trans ih

theorem unreported_sendHome {h : Nat} : Unreported l c (c.sendHome l h n) := by
  unfold Chip.sendHome
  split
  · exact .refl c
  dsimp only
  split
  · exact .of_eq rfl rfl
  split
  · exact .of_eq rfl rfl
  split
  · exact .of_eq rfl rfl
  · exact unreported_giveUp

theorem unreported_evict : Unreported l c (c.evict n l) := by
  unfold Chip.evict
  split
  · exact .refl c
  split
  · exact unreported_giveUp
  · exact unreported_giveUp
  · exact unreported_sendHome

/-- A way taken for a line that a spire does not hold costs another line its way, or none. -/
theorem takeWay_evicts {ways : List Nat} (hn : c.copyAt n l = none) :
    (c.takeWay n l ways).2 = c ∨ ∃ k, l ≠ k ∧ (c.takeWay n l ways).2 = c.evict n k := by
  unfold Chip.takeWay
  split
  · exact .inl rfl
  split
  · exact .inl rfl
  split
  next e he =>
    refine .inr ⟨e.1 / 4, fun hl => ?_, rfl⟩
    obtain ⟨hm, hs⟩ := List.mem_filter.1 (List.mem_of_mem_filter (leastBy_mem he))
    have hmod := (Bool.and_eq_true _ _ ▸ hs).1
    simp only [decide_eq_true_eq] at hmod
    have hkey : copyKey n l = e.1 := by
      unfold copyKey
      omega
    have hheld := mget_isSome_of_mem hm
    rw [← hkey, ← Chip.copyAt, hn] at hheld
    cases hheld
  · exact .inl rfl

/-- A new copy of a line that a spire does not hold reports nothing, and leaves the line's own device as it was. -/
theorem newCopy_reports {m : CopyMode} {ways : List Nat} (hn : c.copyAt n l = none) : (c.newCopy n l m ways).found = c.found
    ∧ (l ∈ (c.newCopy n l m ways).links.cxlBad ↔ l ∈ c.links.cxlBad) := by
  show (c.takeWay n l ways).2.found = c.found ∧ (l ∈ (c.takeWay n l ways).2.links.cxlBad ↔ l ∈ c.links.cxlBad)
  obtain h | ⟨k, hk, h⟩ := takeWay_evicts (ways := ways) hn
  · rw [h]
    exact ⟨rfl, .rfl⟩
  · rw [h]
    exact ⟨unreported_evict.found, unreported_evict.bad l hk⟩

/-! ### A CXL line read (R38, R40) -/

/-- A CXL port's addresses (R25). -/
theorem place_cxl_iff {pa p : Nat} : place pa = .cxl p ↔ 0x010000000000 ≤ pa ∧ pa < 0x090000000000
    ∧ (pa - 0x010000000000) % 0x020000000000 < Nat.min (Config.cxlCapacity p) 0x018000000000
    ∧ p = (pa - 0x010000000000) / 0x020000000000 := by
  constructor
  · intro h
    unfold place at h
    split at h
    · cases h
    split at h
    · cases h
    split at h
    next hlow h2 hhigh =>
      split at h
      next hcap =>
        injection h with hp
        subst hp
        exact ⟨Nat.le_of_not_lt h2, hhigh, hcap, rfl⟩
      · cases h
    split at h
    · cases h
    split at h
    · split at h
      · cases h
      · split at h <;> cases h
    split at h
    · cases h
    split at h
    · split at h <;> cases h
    · cases h
  · rintro ⟨hlow, hhigh, hcap, rfl⟩
    unfold place
    rw [if_neg (Nat.not_lt.2 (Nat.le_trans (by decide) hlow)), if_neg (Nat.not_lt.2 hlow), if_pos hhigh, if_pos hcap]

/-- There are four CXL ports. -/
theorem place_cxl_port {pa p : Nat} (h : place pa = .cxl p) : p < 4 := by
  obtain ⟨-, hhigh, -, rfl⟩ := place_cxl_iff.1 h
  omega

/-- The line of a CXL address lies in the same port's window. -/
theorem place_cxl_line {pa p : Nat} (h : place pa = .cxl p) : place (pa / 128 * 128) = .cxl p := by
  obtain ⟨hlow, hhigh, hcap, hp⟩ := place_cxl_iff.1 h
  have hoff : pa / 128 * 128 - 0x010000000000 = (pa - 0x010000000000) / 128 * 128 := by omega
  have hquot : (pa - 0x010000000000) / 128 * 128 / 0x020000000000 = (pa - 0x010000000000) / 0x020000000000 := by omega
  have hrem : (pa - 0x010000000000) / 128 * 128 % 0x020000000000 ≤ (pa - 0x010000000000) % 0x020000000000 := by omega
  have hline : 0x010000000000 ≤ pa / 128 * 128 ∧ pa / 128 * 128 < 0x090000000000 := by omega
  refine place_cxl_iff.2 ⟨hline.1, hline.2, ?_, ?_⟩
  · rw [hoff]
    exact Nat.lt_of_le_of_lt hrem hcap
  · rw [hoff, hquot]
    exact hp

/-- A line behind a CXL port, which its device does not return as poisoned. -/
structure GoodCxl (c : Chip) (l p : Nat) : Prop where
  place : place (l * 128) = .cxl p
  good : l ∉ c.links.cxlBad

theorem GoodCxl.read {p : Nat} (h : GoodCxl c l p) (s : Nat) (q : LineCopy) : c.readForFill n l s q = c := by
  have hne : Machine.place (l * 128) ≠ .hbm := by
    rw [h.place]
    exact Place.noConfusion
  have hr : c.readSector l s false = c := if_pos (.inl hne)
  have hd : c.deviceBad l = false := by
    simp [Chip.deviceBad, h.good]
  unfold Chip.readForFill
  rw [hr]
  dsimp only
  rw [hd]
  rfl

/-- A fill of a good CXL line that a spire holds reports nothing, and the spire holds the line still. -/
structure Filled (n l : Nat) (c d : Chip) : Prop where
  found : d.found = c.found
  links : d.links = c.links
  held : (c.copyAt n l).isSome = true → (d.copyAt n l).isSome = true

theorem Filled.refl (c : Chip) : Filled n l c c := ⟨rfl, rfl, id⟩

theorem Filled.trans {a b c : Chip} (h : Filled n l a b) (k : Filled n l b c) : Filled n l a c :=
  ⟨k.found.trans h.found, k.links.trans h.links, fun hs => k.held (h.held hs)⟩

theorem filled_modCopy (f : LineCopy → LineCopy) : Filled n l c (c.modCopy n l f) := by
  cases h : c.copyAt n l with
  | none =>
    rw [Chip.modCopy, h]
    exact .refl c
  | some p =>
    refine ⟨?_, ?_, fun _ => by rw [Chip.copyAt_modCopy h]; rfl⟩
    · rw [Chip.modCopy, h]
    · rw [Chip.modCopy, h]

theorem filled_takeSector (s : Nat) (p : LineCopy) : Filled n l c (c.takeSector n l s p) := by
  unfold Chip.takeSector
  dsimp only
  split
  · exact Filled.trans (b := c.refill l s) ⟨rfl, rfl, id⟩ (filled_modCopy _)
  · exact filled_modCopy _

theorem GoodCxl.filled_fillSector {p : Nat} (h : GoodCxl c l p) (home s : Nat) : Filled n l c (c.fillSector n l home s) := by
  have hd : ∀ q, Filled n l c (c.fillDram n l s q) := fun q => by
    rw [Chip.fillDram, h.read]
    exact filled_takeSector s q
  unfold Chip.fillSector
  split
  · exact .refl c
  split
  · exact .refl c
  split
  · split
    · exact filled_modCopy _
    · exact hd _
  · exact hd _

theorem GoodCxl.filled_fillSectors {p : Nat} (h : GoodCxl c l p) (home : Nat) : Filled n l c (c.fillSectors n l home 3) := by
  have h0 := h.filled_fillSector (n := n) home 0
  exact h0.trans (GoodCxl.filled_fillSector (p := p) ⟨h.place, by rw [h0.links]; exact h.good⟩ home 1)

/-- A spire's slice that reads a good CXL line holds it then, and nothing is reported. -/
theorem GoodCxl.cxlFill_spec {p : Nat} (h : GoodCxl c l p) (n : Nat) :
    (c.cxlFill n l).found = c.found ∧ ((c.cxlFill n l).copyAt n l).isSome = true := by
  unfold Chip.cxlFill
  dsimp only
  split
  next hs =>
    have hfill := h.filled_fillSectors (n := n) n
    exact ⟨hfill.found, hfill.held hs⟩
  next hs =>
    obtain ⟨hfound, hbad⟩ := newCopy_reports (m := .home) (ways := c.classWays 0) (Option.not_isSome_iff_eq_none.1 hs)
    have hfill := GoodCxl.filled_fillSectors (p := p) (n := n) (c := c.newCopy n l .home (c.classWays 0))
      ⟨h.place, fun hb => h.good (hbad.1 hb)⟩ n
    obtain ⟨q, hq, -⟩ := c.copyAt_newCopy n l .home (c.classWays 0)
    exact ⟨hfill.found.trans hfound, hfill.held (by rw [hq]; rfl)⟩

theorem moves_cxlFill {T : Nat → Prop} (hT : T l) : Moves T c (c.cxlFill n l) :=
  (moves_held c _ n l .home _).trans (moves_fillSectors _ n l n 3 hT)

end

end Sys2Proof.Machine
end

section
/-! O42: memory errors are recorded (R32, R40, R41, R42, R44). -/

namespace Sys2Proof.Machine

/-! ### What each finding of the scrubber does (R32, R42) -/

/-- A line whose word has its poison bit set is poisoned. -/
theorem poisoned_of_bit {c : Chip} {l : Nat} (hp : place (l * 128) = .hbm) (h : (c.compassOf l).getLsbD 6 = true) : c.poisoned l = true := by
  rw [Chip.poisoned_hbm hp, h, Bool.true_or]

section
variable {s : State} {line : BitVec 48} {found : BitVec 3} {sect : BitVec 1} (run : s.keep.power.halted = false)
  (hf : s.chip.found = []) (hp : place (line.toNat * 128) = .hbm) (hl : s.chip.latentOf line.toNat = Latent.none)
include run hf hp hl

theorem patrolScrub_sound (h0 : found.toNat = 0) : exec (.patrolScrub line found sect) s = .next s := by
  have hup : s.chip.upset line.toNat found.toNat sect.toNat = s.chip := if_pos (.inr h0)
  have hidle : s.chip.scrubLine line.toNat = s.chip := by
    unfold Chip.scrubLine
    dsimp only
    rw [readSector_sound hl, readSector_sound hl, hl]
    rfl
  rw [exec_patrolScrub_hbm run hp found sect (by rw [hup, hidle]), settleErrors_none hf]

omit run hf in
/-- The scrubber reads the sector in which up to three symbols have just gone wrong. -/
theorem scrubLine_upset {n : Nat} (h1 : 1 ≤ n) (h3 : n ≤ 3) (hn : found.toNat = n) :
    (s.chip.upset line.toNat found.toNat sect.toNat).scrubLine line.toNat
      = (s.chip.setLatent line.toNat (Latent.none.setSector sect.toNat (BitVec.ofNat 2 n))).readSector line.toNat sect.toNat true := by
  have hne : BitVec.ofNat 2 n ≠ 0 := by
    intro h
    have hmod : n % 4 = 0 := (BitVec.toNat_ofNat n 2).symm.trans (congrArg BitVec.toNat h)
    omega
  rw [hn, upset_sector hp hl h1 h3]
  exact scrubLine_sector hp sect.isLt hne (Chip.latentOf_setLatent_self ..)

theorem patrolScrub_corrects (h1 : found.toNat = 1) : ∃ t, exec (.patrolScrub line found sect) s = .next t ∧ t.keep = s.keep
    ∧ t.chip.mem = s.chip.mem ∧ t.chip.latentOf line.toNat = Latent.none ∧ t.chip.compass = s.chip.compass
    ∧ t.chip.outbox = s.chip.outbox := by
  have hread := (readSector_upset hp (by decide) (Chip.latentOf_setLatent_self s.chip line.toNat (Latent.none.setSector sect.toNat 1))).trans
    ((if_neg (by decide)).trans (if_neg (by decide)))
  have hexec := exec_patrolScrub_hbm run hp found sect
    ((scrubLine_upset hp hl (n := 1) (by decide) (by decide) h1).trans hread)
  exact ⟨_, hexec.trans (congrArg Host.Outcome.next (settleErrors_none hf)), rfl, rfl, Chip.latentOf_setLatent_self .., rfl, rfl⟩

/-- What the record of an uncorrectable error says of it. -/
def Recorded (s t : State) (line : BitVec 48) (d n : Nat) : Prop :=
  t.chip.mem = s.chip.mem
    ∧ (Claims.faqOf t d).entries = (Claims.faqOf s d).entries ++ [(line.setWidth 32, BitVec.ofNat 8 n, BitVec.ofNat 64 s.chip.time)]

variable {d : Nat} (hd : d = line.toNat * 128 / 2 ^ 37 % 4) (hlen : (Claims.faqOf s d).entries.length < 256)
include hd hlen

theorem patrolScrub_two (h2 : found.toNat = 2) : ∃ t, exec (.patrolScrub line found sect) s = .next t
    ∧ Recorded s t line d (1 + 16 * sect.toNat)
    ∧ t.chip.poisoned line.toNat = s.chip.poisoned line.toNat ∧ t.chip.outbox = s.chip.outbox := by
  have hread := (readSector_upset hp (by decide) (Chip.latentOf_setLatent_self s.chip line.toNat (Latent.none.setSector sect.toNat 2))).trans
    (if_pos rfl)
  obtain ⟨t, hexec, hentry, hchip, -⟩ := scrub_reports (kind := 1) (sec := sect.toNat) run hf hp hd
    ((scrubLine_upset hp hl (by decide) (by decide) h2).trans hread) rfl rfl hlen
  have hchip := hchip rfl
  refine ⟨t, hexec, ⟨by rw [hchip]; rfl, hentry⟩, ?_, by rw [hchip]; rfl⟩
  rw [Chip.poisoned_hbm hp, Chip.poisoned_hbm hp, hchip]
  rfl

omit hl in
/-- An error that poisons its line is entered, and the pilot posts its event. -/
theorem patrolScrub_poisons {kind sec : Nat} {c : Chip} (hkind : kind ≠ 1)
    (hc : (s.chip.upset line.toNat found.toNat sect.toNat).scrubLine line.toNat
      = c.report ⟨hbmHome (line.toNat * 128), bits (line.toNat * 128) 38 7, kind, sec, 0⟩)
    (hm : Moves (fun _ => True) s.chip c) (hmem : c.mem = s.chip.mem) (hcf : c.found = s.chip.found)
    (hbit : (c.compassOf line.toNat).getLsbD 6 = true) : ∃ t, exec (.patrolScrub line found sect) s = .next t
    ∧ Recorded s t line d (kind + 16 * sec)
    ∧ t.chip.poisoned line.toNat = true ∧ t.chip.outbox = s.chip.outbox ++ [⟨0x10, d, BitVec.ofNat 64 d, 0, none⟩] := by
  obtain ⟨t, hexec, hentry, -, hchip⟩ := scrub_reports run hf hp hd hc hcf (by rw [hm.frame]) hlen
  have hchip := hchip hkind
  refine ⟨t, hexec, ⟨by rw [hchip]; exact hmem, hentry⟩, poisoned_of_bit hp (by rw [hchip]; exact hbit), ?_⟩
  rw [hchip, ← hm.outbox]
  rfl

theorem patrolScrub_three (h3 : found.toNat = 3) : ∃ t, exec (.patrolScrub line found sect) s = .next t
    ∧ Recorded s t line d (4 + 16 * sect.toNat)
    ∧ t.chip.poisoned line.toNat = true ∧ t.chip.outbox = s.chip.outbox ++ [⟨0x10, d, BitVec.ofNat 64 d, 0, none⟩] := by
  have hread := (readSector_upset hp (by decide) (Chip.latentOf_setLatent_self s.chip line.toNat (Latent.none.setSector sect.toNat 3))).trans
    ((if_neg (by decide)).trans (if_pos rfl))
  refine patrolScrub_poisons (kind := 4) (sec := sect.toNat) run hf hp hd hlen (by decide)
    ((scrubLine_upset hp hl (by decide) (by decide) h3).trans hread)
    (((moves_setLatent ..).trans (moves_setLatent ..)).trans (moves_setCompass ..)) rfl rfl ?_
  refine (congrArg (fun w => w.getLsbD 6) (Chip.compassOf_setCompass_self ..)).trans ?_
  exact (BitVec.getLsbD_or ..).trans (Bool.or_true _)

theorem patrolScrub_word (h4 : 4 ≤ found.toNat) : ∃ t, exec (.patrolScrub line found sect) s = .next t
    ∧ Recorded s t line d (3 + 16 * 0)
    ∧ t.chip.poisoned line.toNat = true ∧ t.chip.outbox = s.chip.outbox ++ [⟨0x10, d, BitVec.ofNat 64 d, 0, none⟩] := by
  have hscrub := scrubLine_word (Chip.latentOf_setLatent_self s.chip line.toNat ⟨0, 0, 3⟩)
  refine patrolScrub_poisons (kind := 3) (sec := 0) run hf hp hd hlen (by decide) (by rw [upset_word hp hl _ h4]; exact hscrub)
    (((moves_setLatent ..).trans (moves_setLatent ..)).trans (moves_poisonRow ..)) ?_ ?_ ?_
  · exact mem_flushSpires ..
  · exact (unreported_flushSpires _).found
  · exact congrArg (fun w => w.getLsbD 6) (poisonRow_spec ..).1

end

/-! ### A CXL request without completion (R40) -/

theorem exec_cxlTimeout {s : State} (run : s.keep.power.halted = false) (pa : BitVec 48) :
    exec (.cxlTimeout pa) s = .next (cxlPoison pa.toNat s) := congrArg Host.Outcome.next (if_neg (by simp [run]))

/-- The chip after the slice that has asked for a line without answer has made it poisoned. -/
def Chip.timedOut (c : Chip) (d l : Nat) : Chip :=
  (({ c with free := c.free + 1 } : Chip).cxlFill d l).modCopy d l (fun q => { q with poison := true })

/-- What the slice `d` reports of an address without answer behind a CXL port. -/
def timeoutEntry (d pa p : Nat) : MemErr := ⟨d, bits pa 40 9, 5, 0, p⟩

/-- The spire whose slice has made the request. -/
def timeoutSpire (c : Chip) : Nat := (Config.freeWord c.free).toNat % 4

theorem cxlPoison_eq {s : State} {pa p d : Nat} (hp : place pa = .cxl p) (hgood : pa / 128 ∉ s.chip.links.cxlBad)
    (hd : d = timeoutSpire s.chip) :
    cxlPoison pa s = settleErrors { s with chip := (s.chip.timedOut d (pa / 128)).report (timeoutEntry d pa p) } := by
  subst hd
  have hport : cxlPort pa = some p := by rw [cxlPort, hp]
  unfold cxlPoison
  rw [hport]
  dsimp only
  rw [if_neg (by simpa [lineOf] using hgood)]
  rfl

section
variable {c : Chip} {l : Nat}

/-- A line that a slice holds poisoned in CXL memory is poisoned (R40). -/
theorem poisoned_of_copy {d p : Nat} {q : LineCopy} (hp : place (l * 128) = .cxl p) (h : c.copyAt d l = some q) (hq : q.poison = true) :
    c.poisoned l = true := by
  have hany : c.copies.any (fun e => e.1 / 4 = l && e.2.poison) = true :=
    List.any_eq_true.2 ⟨_, copyAt_mem h, by simp [hq]⟩
  rw [Chip.poisoned, hp]
  dsimp only
  rw [hany, Bool.or_true]
  rfl

theorem GoodCxl.timedOut_spec {p : Nat} (h : GoodCxl c l p) (d : Nat) : (c.timedOut d l).found = c.found
    ∧ (c.timedOut d l).poisoned l = true := by
  obtain ⟨hfound, hheld⟩ := GoodCxl.cxlFill_spec (c := { c with free := c.free + 1 }) ⟨h.place, h.good⟩ d
  obtain ⟨q, hq⟩ := Option.isSome_iff_exists.1 hheld
  exact ⟨(filled_modCopy _).found.trans hfound, poisoned_of_copy h.place (Chip.copyAt_modCopy hq fun q => { q with poison := true }) rfl⟩

theorem moves_timedOut (d : Nat) : Moves (fun L => L = l) { c with free := c.free + 1 } (c.timedOut d l) :=
  (moves_cxlFill (T := fun L => L = l) rfl).trans (moves_modCopy_data _ _ _ (fun q => { q with poison := true }) fun _ => rfl)

end

/-- The place of a CXL line in the entries of the queues (R44). -/
theorem entryLine_cxl (pa : BitVec 48) : BitVec.ofNat 32 (bits pa.toNat 40 9) = (pa >>> 9).setWidth 32 := by
  refine BitVec.eq_of_toNat_eq ?_
  rw [BitVec.toNat_ofNat, BitVec.toNat_setWidth, BitVec.toNat_ushiftRight, bits, Nat.shiftRight_eq_div_pow]
  omega

theorem cxlTimeout_recorded {s : State} (run : s.keep.power.halted = false) (hf : s.chip.found = []) {pa : BitVec 48} {p : Nat}
    (hp : place pa.toNat = .cxl p) (hgood : pa.toNat / 128 ∉ s.chip.links.cxlBad) (hwf : Memory.wf s.chip.mem)
    (hclean : s.chip.Clean (pa.toNat / 128)) : ∃ t d, exec (.cxlTimeout pa) s = .next t ∧ d < 4
      ∧ t.chip.poisoned (pa.toNat / 128) = true ∧ Claims.SameBytes s t
      ∧ ((Claims.faqOf s d).entries.length < 256 → (Claims.faqOf t d).entries = (Claims.faqOf s d).entries ++
        [((pa >>> 9).setWidth 32, BitVec.ofNat 8 (5 + 32 * p), BitVec.ofNat 64 s.chip.time)])
      ∧ t.chip.outbox = s.chip.outbox ++ [⟨0x10, d, BitVec.ofNat 64 d, 0, none⟩] := by
  obtain ⟨d, hd⟩ : ∃ d, d = timeoutSpire s.chip := ⟨_, rfl⟩
  have hd4 : d < 4 := hd ▸ Nat.mod_lt _ (by decide)
  obtain ⟨hfound, hpoison⟩ := GoodCxl.timedOut_spec ⟨place_cxl_line hp, hgood⟩ d
  have hm := moves_timedOut (c := s.chip) (l := pa.toNat / 128) d
  have htime : (s.chip.timedOut d (pa.toNat / 128)).time = s.chip.time := by rw [hm.frame]
  have hexec := (exec_cxlTimeout run pa).trans (congrArg Host.Outcome.next (cxlPoison_eq hp hgood hd))
  rw [settleErrors_one (e := timeoutEntry d pa.toNat p) (by rw [Chip.report, hfound, hf]; rfl)] at hexec
  obtain ⟨hentry, -, hchip⟩ := placeError_spec (d := d) (line := bits pa.toNat 40 9) (kind := 5) (sect := 0) (port := p)
    (s := { s with chip := { s.chip.timedOut d (pa.toNat / 128) with found := [] } }) hd4
  have hchip := hchip (by decide)
  refine ⟨_, d, hexec, hd4, ?_, fun a => ?_, fun h => (hentry h).trans ?_, ?_⟩
  · exact (congrArg (fun e : Chip => e.poisoned (pa.toNat / 128)) hchip).trans hpoison
  · refine (congrArg (fun e : Chip => memRead e.mem a) hchip).trans ?_
    exact hm.mem hwf (fun L hL => by rw [hL]; exact hclean) a
  · rw [entryLine_cxl]
    dsimp only
    rw [htime]
    rfl
  · refine (congrArg Chip.outbox hchip).trans ?_
    exact congrArg (· ++ _) hm.outbox

/-! ### A CXL port that goes down (R40) -/

theorem exec_cxlPortDown {s : State} (run : s.keep.power.halted = false) (port : BitVec 2) :
    exec (.cxlPortDown port) s = .next { s with chip := s.chip.portDown port.toNat } :=
  congrArg Host.Outcome.next (if_neg (by simp [run]))

theorem cxlDown_portDown (c : Chip) {q p : Nat} (hp : p < 4) :
    (c.portDown q).cxlDown p = (c.cxlDown p || decide (p = q)) := by
  have hbit : (BitVec.ofNat 4 (2 ^ q)).getLsbD p = decide (p = q) := by
    rw [BitVec.getLsbD_ofNat, decide_eq_true hp, Bool.true_and, Nat.testBit_two_pow]
    exact decide_eq_decide.2 eq_comm
  exact (BitVec.getLsbD_or ..).trans (congrArg _ hbit)

theorem nothingAt_cxl {c : Chip} {pa p : Nat} (h : place pa = .cxl p) : c.nothingAt pa = c.cxlDown p := by
  rw [Chip.nothingAt, h]

/-! ### The statement -/

theorem memoryErrorsAreRecorded : Claims.MemoryErrorsAreRecorded := by
  intro s
  refine ⟨fun d v => ?_, fun run hf => ⟨fun line found sect d hp hd hl => ⟨?_, ?_, fun h2 hlen kind k2 k3 k4 => ?_⟩, ?_, fun port => ?_⟩⟩
  · obtain ⟨hself, hother⟩ := popError_spec s.keep d v
    exact ⟨_, exec_faqPop d v s, rfl, hself, hother⟩
  · exact patrolScrub_sound run hf hp hl
  · exact patrolScrub_corrects run hf hp hl
  · obtain h | h | h : found.toNat = 2 ∨ found.toNat = 3 ∨ 4 ≤ found.toNat := by omega
    · obtain rfl := k2 h
      obtain ⟨t, hexec, ⟨hmem, hentry⟩, hrest⟩ := patrolScrub_two run hf hp hl hd hlen (sect := sect) h
      exact ⟨t, hexec, hmem, hentry, fun _ => hrest, fun h3 => absurd h3 (by omega)⟩
    · obtain rfl := k3 h
      obtain ⟨t, hexec, ⟨hmem, hentry⟩, hrest⟩ := patrolScrub_three run hf hp hl hd hlen (sect := sect) h
      exact ⟨t, hexec, hmem, hentry, fun h2 => absurd h2 (by omega), fun _ => hrest⟩
    · obtain rfl := k4 h
      obtain ⟨t, hexec, ⟨hmem, hentry⟩, hrest⟩ := patrolScrub_word run hf hp hl hd hlen (sect := sect) h
      exact ⟨t, hexec, hmem, hentry, fun h2 => absurd h2 (by omega), fun _ => hrest⟩
  · exact fun pa p hp hgood hwf hclean => cxlTimeout_recorded run hf hp hgood hwf hclean
  · refine ⟨_, exec_cxlPortDown run port, rfl, rfl, fun pa hp => ?_, fun pa p hp hne => ?_⟩
    · rw [nothingAt_cxl hp, cxlDown_portDown _ port.isLt, decide_eq_true rfl, Bool.or_true]
    · rw [nothingAt_cxl hp, nothingAt_cxl hp, cxlDown_portDown _ (place_cxl_port hp), decide_eq_false hne, Bool.or_false]

/-- Settles O42: the event ring follows its registers, and memory errors are recorded. -/
theorem eventsAndErrors : Obligations.EventsAndErrors := ⟨eventRingFollowsItsRegisters, memoryErrorsAreRecorded⟩

end Sys2Proof.Machine
end

section
/-! O49: reading at L2 and translating change no launch and post no event; the start checks (R81, R86, R87). -/

namespace Sys2Proof.Machine

/-! ### What an access leaves alone -/

/-- The launches, their order of waiting, and the events posted. -/
def Chip.ledger (c : Chip) : AMap Launch × Nat × List PEvent := (c.launches, c.nextOrder, c.outbox)

section
variable {c d : Chip}

theorem ledger_eq (h : d.ledger = c.ledger) : d.launches = c.launches ∧ d.nextOrder = c.nextOrder ∧ d.outbox = c.outbox := by
  injection h with hl h
  injection h with ho hb
  exact ⟨hl, ho, hb⟩

/-- The ledger of the chip that a pair holds, by the equation for the pair. -/
theorem ledger_of_eq {α : Type} {r : α × Chip} {x : α} (h : r = (x, d)) (hr : r.2.ledger = c.ledger) : d.ledger = c.ledger := by
  rw [h] at hr
  exact hr

theorem Looks.ledger {T : Nat → Prop} (h : Looks T c d) : d.ledger = c.ledger := by
  rw [h.frame]
  rfl

theorem Moves.ledger {T : Nat → Prop} (h : Moves T c d) : d.ledger = c.ledger := h.looks.ledger

end

section
variable (c : Chip)

theorem ledger_placeCached (pa : Nat) (vs : List Byte) : (c.placeAll pa vs Chip.placeCached).ledger = c.ledger := by
  rw [placeAll_cached]
  rfl

theorem ledger_modCopy (n l : Nat) (f : LineCopy → LineCopy) : (c.modCopy n l f).ledger = c.ledger := by
  unfold Chip.modCopy
  split
  · rfl
  · rfl

theorem ledger_writeCopy (d pa : Nat) (vs : List Byte) (pkg through : Bool) : (c.writeCopy d pa vs pkg through).ledger = c.ledger := by
  have hflush : ∀ b : Chip, b.ledger = c.ledger → (if through then b.flushCopy d (lineOf pa) else b).ledger = c.ledger := fun b hb => by
    split
    · exact (moves_flushCopy (T := fun _ => True) ..).ledger.trans hb
    · exact hb
  unfold Chip.writeCopy
  refine hflush _ ?_
  split
  · rw [ledger_modCopy, ledger_placeCached]
    split
    · rw [ledger_modCopy, ledger_placeCached]
    · rfl
  · exact ledger_modCopy ..

theorem ledger_writeTable (d ea e : Nat) : (c.writeTable d ea e).ledger = c.ledger := by
  unfold Chip.writeTable
  split
  · rfl
  · exact (ledger_writeCopy ..).trans (moves_lineForWrite (T := fun _ => True) _ _ _ _ _ _ trivial).ledger

theorem ledger_walk (d asid va : Nat) (k : Acc) (sup back : Bool) : (c.walk d asid va k sup back).2.ledger = c.ledger := by
  unfold Chip.walk
  split
  next h => exact ledger_of_eq h (looks_walkLeaf ..).ledger
  next t b h =>
    have hb := ledger_of_eq h (looks_walkLeaf ..).ledger
    split
    · exact hb
    · dsimp only
      split
      · exact hb
      · exact (ledger_writeTable ..).trans hb

theorem ledger_rewalk (d asid va : Nat) (k : Acc) (sup back : Bool) : (c.rewalk d asid va k sup back).2.ledger = c.ledger := by
  have hw := ledger_walk c d asid va k sup back
  unfold Chip.rewalk
  split
  next f b h => exact (ledger_of_eq (d := b) h hw : Chip.ledger { b with tlb := _ } = c.ledger)
  next h => exact ledger_of_eq h hw

theorem ledger_byEntry (t : TlbEntry) (d asid va : Nat) (k : Acc) (sup back : Bool) :
    (c.byEntry t d asid va k sup back).2.ledger = c.ledger := by
  unfold Chip.byEntry
  split
  · rfl
  split
  · exact ledger_rewalk ..
  · rfl

theorem ledger_translate (d asid va : Nat) (k : Acc) (sup back : Bool) : (c.translate d asid va k sup back).2.ledger = c.ledger := by
  unfold Chip.translate
  split
  · rfl
  split
  · exact ledger_byEntry ..
  split
  · exact ledger_walk ..
  split
  · rfl
  dsimp only
  split
  · exact ledger_byEntry ..
  · exact ledger_rewalk ..

theorem ledger_xlate (a : Agent) (va : Nat) (k : Acc) (back : Bool) : (c.xlate a va k back).2.ledger = c.ledger := by
  unfold Chip.xlate
  split
  · rfl
  split
  next h => exact ledger_of_eq h (ledger_translate ..)
  next h =>
    have hb := ledger_of_eq h (ledger_translate ..)
    split
    · exact hb
    · exact hb

end

theorem ledger_xlateAll (c : Chip) (a : Agent) (ps : List (Nat × Nat)) (k : Acc) : (c.xlateAll a ps k).2.ledger = c.ledger := by
  induction ps generalizing c with
  | nil => rfl
  | cons p r ih =>
    unfold Chip.xlateAll
    split
    next h => exact ledger_of_eq h (ledger_xlate ..)
    next h =>
      have hb := ledger_of_eq h (ledger_xlate ..)
      split
      next h => exact (ledger_of_eq h (ih _)).trans hb
      next h => exact (ledger_of_eq h (ih _)).trans hb

theorem ledger_readPieces (c : Chip) (d : Nat) (xs : List (Xlat × Nat)) (b : Bool) : (c.readPieces d xs b).2.ledger = c.ledger := by
  induction xs generalizing c with
  | nil => rfl
  | cons p r ih => exact (ih _).trans (looks_readSound ..).ledger

theorem ledger_load (c : Chip) (a : Agent) (va n : Nat) (k : Acc) (b : Bool) : (c.load a va n k b).2.ledger = c.ledger := by
  unfold Chip.load
  split
  next h => exact ledger_of_eq h (ledger_xlateAll ..)
  next h =>
    have hb := ledger_of_eq h (ledger_xlateAll ..)
    split
    next h => exact (ledger_of_eq h (ledger_readPieces ..)).trans hb
    next h => exact (ledger_of_eq h (ledger_readPieces ..)).trans hb

/-! ### The start checks (R81, R86, R87) -/

theorem ledger_codeBytes (c : Chip) (a : Agent) (va n : Nat) : (c.codeBytes a va n).2.ledger = c.ledger := by
  unfold Chip.codeBytes
  split
  next h => exact ledger_of_eq h (ledger_load ..)
  next h => exact ledger_of_eq h (ledger_load ..)

theorem ledger_codeTable (c : Chip) (a : Agent) (va n : Nat) : (c.codeTable a va n).2.ledger = c.ledger := by
  induction n generalizing c va with
  | zero => rfl
  | succ n ih =>
    unfold Chip.codeTable
    split
    next h => exact ledger_of_eq h (ledger_codeBytes ..)
    next h =>
      have hb := ledger_of_eq h (ledger_codeBytes ..)
      split
      next h => exact (ledger_of_eq h (ih _ _)).trans hb
      next h => exact (ledger_of_eq h (ih _ _)).trans hb

/-- The start checks fail with `CODE` or `KERNEL`, and only read. -/
theorem startChecks_spec (c : Chip) (l : Launch) : (c.startChecks l).2.ledger = c.ledger
    ∧ ∀ st, (c.startChecks l).1 = .inl st → st = 5 ∨ st = 6 := by
  have hcode : ∀ st : Nat, (Sum.inl 5 : Nat ⊕ Word) = .inl st → st = 5 ∨ st = 6 := fun st h => .inl (Sum.inl.inj h).symm
  have hkernel : ∀ st : Nat, (Sum.inl 6 : Nat ⊕ Word) = .inl st → st = 5 ∨ st = 6 := fun st h => .inr (Sum.inl.inj h).symm
  unfold Chip.startChecks
  dsimp only
  split
  next h => exact ⟨ledger_of_eq h (ledger_codeBytes ..), hcode⟩
  next h =>
    have hh := ledger_of_eq h (ledger_codeBytes ..)
    split
    · exact ⟨hh, hcode⟩
    split
    next h => exact ⟨(ledger_of_eq h (ledger_codeTable ..)).trans hh, hcode⟩
    next h =>
      have hs := (ledger_of_eq h (ledger_codeTable ..)).trans hh
      split
      · split
        next h => exact ⟨(ledger_of_eq h (ledger_codeTable ..)).trans hs, hcode⟩
        next h =>
          have hk := (ledger_of_eq h (ledger_codeTable ..)).trans hs
          split
          · exact ⟨hk, hkernel⟩
          · exact ⟨hk, fun _ h => nomatch h⟩
      · exact ⟨hs, hcode⟩

end Sys2Proof.Machine
end

section
/-! O49: launch and signal records are taken from the queues (R79-R83). -/

namespace Sys2Proof.Machine

/-! ### What a signal leaves alone (R394) -/

/-- After a signal no event has been posted, memory holds what it did, and no launch has come to live. -/
structure Signalled (c d : Chip) : Prop where
  outbox : d.outbox = c.outbox
  mem : d.mem = c.mem
  launch : ∀ lid, c.launch lid = none → d.launch lid = none

theorem Signalled.refl (c : Chip) : Signalled c c := ⟨rfl, rfl, fun _ h => h⟩

theorem Signalled.trans {a b c : Chip} (h : Signalled a b) (k : Signalled b c) : Signalled a c :=
  ⟨k.outbox.trans h.outbox, k.mem.trans h.mem, fun lid hl => k.launch lid (h.launch lid hl)⟩

section
variable (c : Chip)

theorem signalled_wakeAll (p : Nat → Coroutine → Bool) : Signalled c (c.wakeAll p) := ⟨rfl, rfl, fun _ h => h⟩
theorem signalled_modSpire (d : Nat) (f : Spire → Spire) : Signalled c (c.modSpire d f) := ⟨rfl, rfl, fun _ h => h⟩
theorem signalled_withClusters (x : AMap Cluster) : Signalled c { c with clusters := x } := ⟨rfl, rfl, fun _ h => h⟩

theorem signalled_passLaunchWaits (t : Word) : Signalled c (c.passLaunchWaits t) := by
  refine ⟨rfl, rfl, fun lid h => ?_⟩
  rw [Chip.launch] at h
  rw [Chip.passLaunchWaits, Chip.launch, mget_mmap, h]
  rfl

theorem signalled_passed (p : Prop) [Decidable p] (t : Word) : Signalled c (if p then c.passLaunchWaits t else c) := by
  split
  · exact signalled_passLaunchWaits c t
  · exact .refl c

theorem signalled_releaseWaiters (d i : Nat) : Signalled c (c.releaseWaiters d i) :=
  (signalled_passed c _ _).trans (signalled_wakeAll ..)

theorem signalled_closeRecord (d i : Nat) : Signalled c (c.closeRecord d i) := by
  unfold Chip.closeRecord
  dsimp only
  refine .trans ?_ (signalled_wakeAll ..)
  refine .trans ?_ (signalled_modSpire ..)
  refine .trans ?_ (signalled_withClusters ..)
  refine .trans ?_ (signalled_modSpire ..)
  refine .trans ?_ (signalled_withClusters ..)
  exact (signalled_passed c _ _).trans (signalled_wakeAll ..)

theorem signalled_applySignal (tok : Word) (dec : Int) (st es : Nat) (host : Bool) : Signalled c (c.applySignal tok dec st es host) := by
  unfold Chip.applySignal
  split
  · dsimp only
    split
    · exact (signalled_modSpire ..).trans (signalled_closeRecord ..)
    · exact (signalled_modSpire ..).trans (signalled_releaseWaiters ..)
  · exact .refl c

/-- Releasing waiters changes no beacon. -/
theorem beacon_releaseWaiters (d i e j : Nat) : (c.releaseWaiters d i).beacon e j = c.beacon e j := by
  have hs : (c.releaseWaiters d i).spires = c.spires := by
    unfold Chip.releaseWaiters
    dsimp only
    show (if _ then c.passLaunchWaits _ else c).spires = c.spires
    split
    · rfl
    · rfl
  rw [Chip.beacon, Chip.spire, hs, Chip.beacon, Chip.spire]

theorem beacon_modBeacon_self {d : Nat} (hd : d < 4) (i : Nat) (f : Beacon → Beacon) :
    (c.modBeacon d i f).beacon d i = f (c.beacon d i) := by
  rw [Chip.beacon, Chip.modBeacon, c.spire_modSpire_self _ hd, mgetD_mset_self]
  rfl

end

theorem tokDie_lt (t : Word) : tokDie t < 4 := Nat.mod_lt _ (by decide)

/-- A count lowered by a number keeps within 32 bits (R394). -/
theorem decrement_count (b : Beacon) (n : Nat) : (b.decrement n).count.toInt = Max.max (-2 ^ 31) (b.count.toInt - n) := by
  have hup : b.count.toInt < 2 ^ 31 := BitVec.toInt_lt
  have hclamp : clamp32 (b.count.toInt - n) = Max.max (-2 ^ 31) (b.count.toInt - n) := by
    unfold clamp32 clampInt
    split
    · omega
    · split <;> omega
  show (BitVec.ofInt 32 (clamp32 (b.count.toInt - n))).toInt = _
  rw [hclamp]
  exact BitVec.toInt_ofInt_eq_self (by decide) (Int.le_max_left ..) (Int.max_lt.2 ⟨by decide, by omega⟩)

/-- A signal without error lowers the count of a beacon that is no fault beacon. -/
theorem applySignal_count {c : Chip} {tok : Word} (hg : c.goodToken tok = true) (hi : tokIndex tok < 0xFE00) (n : Nat) (host : Bool) :
    ((c.applySignal tok n 0 0 host).tokBeacon tok).count.toInt = Max.max (-2 ^ 31) ((c.tokBeacon tok).count.toInt - n) := by
  have happly : c.applySignal tok n 0 0 host
      = (c.modBeacon (tokDie tok) (tokIndex tok) (fun b => (b.record 0 0).decrement n)).releaseWaiters (tokDie tok) (tokIndex tok) :=
    (if_pos hg).trans (if_neg fun h => absurd h.1 (by omega))
  rw [happly, Chip.tokBeacon, beacon_releaseWaiters, beacon_modBeacon_self _ (tokDie_lt tok)]
  exact decrement_count _ n

/-! ### The queue moves on (R79) -/

section
variable {s : State} {q : BitVec 6} {bs : List Byte} (h : Claims.RecordAt s q bs) {wanted : List Byte → Bool}
  {take : Chip → List Byte → Chip}
include h

theorem takeRecord_eq : takeRecord q.toNat wanted take s
    = if wanted bs then { s with keep := s.keep.passRecord q.toNat, chip := take s.chip bs } else s := by
  obtain ⟨hclocks, hready, hturn, rfl⟩ := h
  exact if_neg (by simp [hclocks, hready, hturn])

theorem takeRecord_taken (hw : wanted bs = true) :
    takeRecord q.toNat wanted take s = { s with keep := s.keep.passRecord q.toNat, chip := take s.chip bs } :=
  (takeRecord_eq h).trans (if_pos hw)

theorem takeRecord_left (hw : wanted bs = false) : takeRecord q.toNat wanted take s = s :=
  (takeRecord_eq h).trans (if_neg (by simp [hw]))

end

theorem passed_of_passRecord (s : State) (q : BitVec 6) (c : Chip) :
    Claims.Passed s { s with keep := s.keep.passRecord q.toNat, chip := c } q := by
  have hq : q.toNat < 64 := q.isLt
  exact ⟨by simp [Keep.passRecord, Vector.getD, hq], rfl⟩

theorem exec_launchRecord (q : BitVec 6) (s : State) : exec (.launchRecord q) s
    = .next (takeRecord q.toNat (fun bs => recField bs 0 1 ≠ 2) (fun c bs => c.takeLaunch q.toNat bs) s) := rfl

theorem exec_signalRecord (q : BitVec 6) (s : State) : exec (.signalRecord q) s
    = .next (takeRecord q.toNat (fun bs => recField bs 0 1 = 2) (fun c bs => c.takeSignal q.toNat bs) s) := rfl

/-! ### The taking checks (R81) -/

theorem recShapeOk_iff (bs : List Byte) : recShapeOk bs = true ↔ Claims.ShapeOk bs := by
  simp only [recShapeOk, Bool.and_eq_true, decide_eq_true_eq, and_assoc]
  rfl

theorem mem_recWaits {bs : List Byte} {w : Word} :
    w ∈ recWaits bs ↔ ∃ i, i < recField bs 0x0E 1 ∧ w = BitVec.ofNat 64 (recField bs (0x30 + 8 * i) 8) := by
  unfold recWaits
  rw [List.mem_map]
  exact exists_congr fun i => and_congr List.mem_range eq_comm

section
variable {c : Chip} {bs : List Byte}

/-- The three tests of a record's tokens. -/
def BadTokens (c : Chip) (bs : List Byte) : Prop :=
  4 < recField bs 14 1 ∨ (∃ i, i < recField bs 14 1 ∧ c.goodToken (BitVec.ofNat 64 (recField bs (0x30 + 8 * i) 8)) = false)
    ∨ c.goodToken (BitVec.ofNat 64 (recField bs 0x50 8)) = false

theorem badTokens_iff : BadTokens c bs
    ↔ (4 < recField bs 0x0E 1 ∨ !((recWaits bs).all c.goodToken) ∨ !c.goodToken (wordOf (recField bs 0x50 8))) := by
  have hwaits : (!((recWaits bs).all c.goodToken)) = true
      ↔ ∃ i, i < recField bs 14 1 ∧ c.goodToken (BitVec.ofNat 64 (recField bs (0x30 + 8 * i) 8)) = false := by
    rw [Bool.not_eq_true', List.all_eq_false]
    constructor
    · rintro ⟨w, hw, hbad⟩
      obtain ⟨i, hi, rfl⟩ := mem_recWaits.1 hw
      exact ⟨i, hi, by simpa using hbad⟩
    · rintro ⟨i, hi, hbad⟩
      exact ⟨_, mem_recWaits.2 ⟨i, hi, rfl⟩, by simp [hbad]⟩
  rw [hwaits, Bool.not_eq_true']
  rfl

variable (hv : ¬(recField bs 0 1 ≠ 1 ∨ recField bs 1 1 ≠ 1))
include hv

/-- The status of a record of kind and version 1, by the checks in their order. -/
theorem takingStatus_eq [Decidable (Claims.ShapeOk bs)] [Decidable (BadTokens c bs)] {p : Partition}
    (hp : p = c.part (recField bs 2 1 % 128)) : c.takingStatus bs
      = if p.en = false ∨ recField bs 3 1 = 0 ∨ p.asids.getLsbD (recField bs 3 1) = false then 2
        else if ¬Claims.ShapeOk bs then 3 else if BadTokens c bs then 4 else 0 := by
  subst hp
  refine (if_neg hv).trans ?_
  refine ite_congr ?_ (fun _ => rfl) fun _ => ite_congr ?_ (fun _ => rfl) fun _ => ite_congr ?_ (fun _ => rfl) fun _ => rfl
  · simp [or_assoc]
  · rw [← recShapeOk_iff]
    simp
  · exact (propext badTokens_iff).symm

end

/-! ### What becomes of a launch record (R80-R82) -/

/-- The vector that a record's `IRQ` field asks for. -/
theorem irqVector_ofNat {x : Nat} (hx : x < 2 ^ 16) : irqVector (BitVec.ofNat 16 x) = if 2 ^ 15 ≤ x then some (x % 2 ^ 11) else none := by
  have hbit : (BitVec.ofNat 16 x).getLsbD 15 = true ↔ 2 ^ 15 ≤ x := by
    rw [BitVec.getLsbD_ofNat, Nat.testBit_eq_decide_div_mod_eq]
    simp
    omega
  have hval : bits (BitVec.ofNat 16 x).toNat 10 0 = x % 2 ^ 11 := by
    rw [BitVec.toNat_ofNat, Nat.mod_eq_of_lt hx, bits, Nat.pow_zero, Nat.div_one]
  unfold irqVector
  rw [hval]
  exact ite_congr (propext hbit) (fun _ => rfl) fun _ => rfl

/-- A free launch id is taken at once (R82). -/
theorem freeLid_of_free {f n : Nat} {m : AMap Launch} (h0 : n ≠ 0) (h32 : n < 2 ^ 32) (hm : mget m n = none) : freeLid (f + 1) n m = n := by
  unfold freeLid
  dsimp only
  rw [Nat.mod_eq_of_lt h32, if_neg (by simp [h0, hm])]

section
variable {c : Chip} {bs : List Byte} {q : Nat}

theorem takeLaunch_mem : (c.takeLaunch q bs).mem = c.mem := by
  unfold Chip.takeLaunch
  dsimp only
  split
  · rfl
  split
  · exact (signalled_applySignal ..).mem
  · rfl

/-- A record of unknown version or kind ends with status 1 and no vector. -/
theorem takeLaunch_version (h : recField bs 0 1 ≠ 1 ∨ recField bs 1 1 ≠ 1) :
    c.takeLaunch q bs = c.post (Claims.refusal 2 1 q bs none) := if_pos (if_pos h)

/-- A record that fails a later check ends with its status. -/
theorem takeLaunch_refused {st : Nat} (h : c.takingStatus bs = st) (h1 : st ≠ 1) (h0 : st ≠ 0) :
    (c.takeLaunch q bs).outbox = c.outbox ++ [Claims.refusal 2 st q bs
      (if 2 ^ 15 ≤ recField bs 12 2 then some (recField bs 12 2 % 2 ^ 11) else none)] := by
  have hann : c.takeLaunch q bs = c.announce ⟨0, st, q, wordOf (recField bs 0x58 8), wordOf (recField bs 0x50 8),
      BitVec.ofNat 16 (recField bs 0x0C 2), 4⟩ := by
    subst h
    exact (if_neg h1).trans (if_pos h0)
  rw [hann, ← irqVector_ofNat (recField_lt bs 12 2)]
  show (c.applySignal ..).outbox ++ _ = _
  rw [(signalled_applySignal ..).outbox]
  dsimp only
  rw [Nat.zero_add]
  rfl

/-- The wait tokens of a record whose counts are above 0. -/
def pendingWaits (c : Chip) (bs : List Byte) : List Word := (recWaits bs).filter (fun t => decide (0 < (c.tokBeacon t).count.toInt))

/-- A record that passes the checks becomes a waiting launch with the next launch id. -/
theorem takeLaunch_accepted (h : c.takingStatus bs = 0) (h0 : c.nextLid ≠ 0) (h32 : c.nextLid < 2 ^ 32) (hl : c.launch c.nextLid = none) :
    c.takeLaunch q bs = { c with launches := mset c.launches c.nextLid (launchOf bs q (pendingWaits c bs)),
                                 nextLid := (c.nextLid + 1) % 2 ^ 32 } := by
  have hlid : freeLid (c.launches.length + 2) c.nextLid c.launches = c.nextLid := freeLid_of_free h0 h32 hl
  unfold Chip.takeLaunch
  dsimp only
  rw [h, hlid]
  rfl

theorem mem_pendingWaits {w : Word} : w ∈ pendingWaits c bs
    ↔ (∃ i, i < recField bs 14 1 ∧ w = BitVec.ofNat 64 (recField bs (0x30 + 8 * i) 8)) ∧ 0 < (c.tokBeacon w).count.toInt := by
  rw [pendingWaits, List.mem_filter, mem_recWaits, decide_eq_true_eq]

end

end Sys2Proof.Machine
end

section
/-! O49: records become launches, and launches start and are admitted (R80-R83, R86, R87, R160). -/

namespace Sys2Proof.Machine

/-! ### Launch records (R80-R82) -/

section
variable {s : State} {q : BitVec 6} {bs : List Byte} (h : Claims.RecordAt s q bs)
include h

theorem launchRecord_taken (hk : Claims.fld bs 0 1 ≠ 2) : exec (.signalRecord q) s = .next s
    ∧ exec (.launchRecord q) s = .next { s with keep := s.keep.passRecord q.toNat, chip := s.chip.takeLaunch q.toNat bs } :=
  ⟨(exec_signalRecord q s).trans (congrArg Host.Outcome.next (takeRecord_left h (decide_eq_false hk))),
    (exec_launchRecord q s).trans (congrArg Host.Outcome.next (takeRecord_taken h (decide_eq_true hk)))⟩

theorem signalRecord_taken (hk : Claims.fld bs 0 1 = 2) : exec (.launchRecord q) s = .next s
    ∧ exec (.signalRecord q) s = .next { s with keep := s.keep.passRecord q.toNat, chip := s.chip.takeSignal q.toNat bs } :=
  ⟨(exec_launchRecord q s).trans (congrArg Host.Outcome.next (takeRecord_left h (decide_eq_false (not_not.2 hk)))),
    (exec_signalRecord q s).trans (congrArg Host.Outcome.next (takeRecord_taken h (decide_eq_true hk)))⟩

end

/-! ### Signal records (R83) -/

section
variable {c : Chip} {q : Nat} {bs : List Byte}

theorem takeSignal_mem : (c.takeSignal q bs).mem = c.mem := by
  unfold Chip.takeSignal
  dsimp only
  split
  · rfl
  split
  · rfl
  split
  · rfl
  · exact (signalled_applySignal ..).mem

theorem takeSignal_version (hv : recField bs 1 1 ≠ 1) : c.takeSignal q bs = c.post (Claims.refusal 3 1 q bs none) := if_pos hv

variable (hv : recField bs 1 1 = 1)
include hv

theorem takeSignal_token (hg : c.goodToken (BitVec.ofNat 64 (recField bs 8 8)) = false) :
    c.takeSignal q bs = c.post (Claims.refusal 3 4 q bs none) :=
  (if_neg (not_not.2 hv)).trans (if_pos (Bool.not_eq_true' _ |>.mpr hg))

variable (hg : c.goodToken (BitVec.ofNat 64 (recField bs 8 8)) = true)
include hg

theorem takeSignal_good : c.takeSignal q bs = if recField bs 2 2 = 0 then c
    else c.applySignal (BitVec.ofNat 64 (recField bs 8 8)) (recField bs 2 2) 0 0 true :=
  (if_neg (not_not.2 hv)).trans (if_neg (by rw [wordOf, hg]; exact Bool.false_ne_true))

end

/-! ### The two kinds of record -/

theorem recordsAreTakenFromQueues : Claims.RecordsAreTakenFromQueues := by
  classical
  intro s q bs h
  refine ⟨fun hk => ?_, fun hk => ?_⟩
  · obtain ⟨hleft, htaken⟩ := launchRecord_taken h hk
    refine ⟨hleft, _, htaken, passed_of_passRecord .., takeLaunch_mem, fun hv => ?_, fun hkind hver p hp irq hirq => ?_⟩
    · have hchip := takeLaunch_version (c := s.chip) (q := q.toNat) hv
      dsimp only
      rw [hchip]
      exact ⟨rfl, rfl⟩
    · subst hirq
      have hstatus := takingStatus_eq (c := s.chip) (bs := bs) (not_or.2 ⟨not_not.2 hkind, not_not.2 hver⟩) hp
      refine ⟨fun hbad => takeLaunch_refused (hstatus.trans (if_pos hbad)) (by decide) (by decide), fun hen hne hasid => ?_⟩
      have hstatus := hstatus.trans (if_neg (by
        rintro (hdis | hzero | hother)
        · exact Bool.false_ne_true (hdis.symm.trans hen)
        · exact hne hzero
        · exact Bool.false_ne_true (hother.symm.trans hasid)))
      refine ⟨fun hshape => takeLaunch_refused (hstatus.trans (if_pos hshape)) (by decide) (by decide), fun hshape => ?_⟩
      have hstatus := hstatus.trans (if_neg (not_not.2 hshape))
      refine ⟨fun hbad => takeLaunch_refused (hstatus.trans (if_pos hbad)) (by decide) (by decide), fun hn hw hd h0 h32 hl => ?_⟩
      have hgood : ¬ BadTokens s.chip bs := by
        rintro (hlong | ⟨i, hi, hbad⟩ | hbad)
        · exact absurd hlong (Nat.not_lt.2 hn)
        · exact absurd ((hw i hi).symm.trans hbad) (by decide)
        · exact absurd (hd.symm.trans hbad) (by decide)
      have hchip := takeLaunch_accepted (q := q.toNat) (hstatus.trans (if_neg hgood)) h0 h32 hl
      dsimp only
      rw [hchip]
      exact ⟨rfl, rfl, fun l hne => mget_mset_ne _ _ hne, launchOf bs q.toNat (pendingWaits s.chip bs), mget_mset_self .., rfl, rfl, rfl,
        rfl, rfl, rfl, rfl, rfl, rfl, rfl, rfl, rfl, rfl, rfl, rfl, rfl, rfl, fun w => mem_pendingWaits⟩
  · obtain ⟨hleft, htaken⟩ := signalRecord_taken h hk
    refine ⟨hleft, _, htaken, passed_of_passRecord .., takeSignal_mem, fun tok htok => ?_⟩
    subst htok
    refine ⟨fun hv => takeSignal_version hv, fun hv hg => takeSignal_token hv hg, fun hv hg => ?_⟩
    have hchip := takeSignal_good (q := q.toNat) hv hg
    refine ⟨fun h0 => hchip.trans (if_pos h0), fun h0 hi => ?_⟩
    have happly := hchip.trans (if_neg h0)
    dsimp only
    rw [happly]
    exact ⟨(signalled_applySignal ..).outbox, applySignal_count hg hi ..⟩

/-! ### The start of a launch (R81, R86, R87) -/

section
variable {c : Chip} {lid : Nat} {l : Launch} (hl : c.launch lid = some l) (hw : l.phase = .waiting)
include hl hw

/-- A waiting launch that ends is gone, and its end event comes from the keep (R82). -/
theorem endLaunch_waiting (st : Nat) : (c.endLaunch lid st).launch lid = none
    ∧ (c.endLaunch lid st).outbox
      = c.outbox ++ [⟨2, 4, BitVec.ofNat 64 (lid + 2 ^ 32 * st + 2 ^ 40 * l.queue), l.tag, irqVector l.irq⟩] := by
  have hsource : c.endSource l = 4 := if_neg (by rw [hw]; decide)
  have hend : c.endLaunch lid st = Chip.announce { c with launches := merase c.launches lid } ⟨lid, st, l.queue, l.tag, l.done, l.irq, 4⟩ := by
    rw [Chip.endLaunch, hl, ← hsource]
  rw [hend]
  have hsig := signalled_applySignal { c with launches := merase c.launches lid } l.done 1 st 2 false
  exact ⟨hsig.launch lid (mget_merase_self ..), congrArg (· ++ _) hsig.outbox⟩

/-- What the start phase makes of a waiting launch. -/
theorem startLaunch_waiting : c.startLaunch lid = if l.waits.any (fun t => !c.goodToken t) then c.endLaunch lid 4
    else if !l.waits.isEmpty then c
    else
      match c.startChecks l with
      | (.inl st, c) => c.endLaunch lid st
      | (.inr live, c) =>
        { c.modLaunch lid (fun l => { l with phase := .started, live := live, order := c.nextOrder }) with nextOrder := c.nextOrder + 1 } := by
  unfold Chip.startLaunch
  rw [hl]
  exact if_neg (not_not.2 hw)

theorem startLaunch_stale (h : ∃ w ∈ l.waits, c.goodToken w = false) : c.startLaunch lid = c.endLaunch lid 4 := by
  obtain ⟨w, hmem, hbad⟩ := h
  exact (startLaunch_waiting hl hw).trans (if_pos (List.any_eq_true.2 ⟨w, hmem, by rw [hbad]; rfl⟩))

theorem startLaunch_waits (hne : l.waits ≠ []) (h : ∀ w ∈ l.waits, c.goodToken w = true) : c.startLaunch lid = c := by
  have hgood : ¬ (l.waits.any (fun t => !c.goodToken t)) = true := by
    rw [List.any_eq_true]
    rintro ⟨w, hmem, hbad⟩
    rw [h w hmem] at hbad
    exact Bool.false_ne_true hbad
  exact (startLaunch_waiting hl hw).trans ((if_neg hgood).trans (if_pos (by simpa using hne)))

/-- A launch without waits ends with the status of its checks, or waits for admission from now on. -/
theorem startLaunch_checked (hnil : l.waits = []) :
    (∃ st, (c.startChecks l).1 = .inl st ∧ (st = 5 ∨ st = 6) ∧ (c.startLaunch lid).launch lid = none
      ∧ (c.startLaunch lid).outbox
        = c.outbox ++ [⟨2, 4, BitVec.ofNat 64 (lid + 2 ^ 32 * st + 2 ^ 40 * l.queue), l.tag, irqVector l.irq⟩])
    ∨ ∃ live, (c.startChecks l).1 = .inr live ∧ (c.startLaunch lid).nextOrder = c.nextOrder + 1
      ∧ (c.startLaunch lid).launch lid = some { l with phase := .started, live := live, order := c.nextOrder } := by
  have hstart := startLaunch_waiting hl hw
  rw [hnil] at hstart
  obtain ⟨hledger, hstatus⟩ := startChecks_spec c l
  cases hc : c.startChecks l with
  | mk r d =>
    rw [hc] at hstart hledger hstatus
    obtain ⟨hlaunches, horder, houtbox⟩ := ledger_eq hledger
    have hd : d.launch lid = some l := by
      rw [Chip.launch, hlaunches]
      exact hl
    cases r with
    | inl st =>
      obtain ⟨hgone, hevent⟩ := endLaunch_waiting hd hw st
      have hstart : c.startLaunch lid = d.endLaunch lid st := hstart
      rw [hstart, ← houtbox]
      exact .inl ⟨st, rfl, hstatus st rfl, hgone, hevent⟩
    | inr live =>
      have hmod : d.modLaunch lid (fun l => { l with phase := .started, live := live, order := d.nextOrder })
          = { d with launches := mset d.launches lid { l with phase := .started, live := live, order := d.nextOrder } } := by
        rw [Chip.launch] at hd
        rw [Chip.modLaunch, hd]
      refine .inr ⟨live, rfl, ?_, ?_⟩
      · rw [hstart, ← horder]
        rfl
      · rw [hstart, ← horder]
        dsimp only
        rw [hmod]
        exact mget_mset_self ..

end

theorem exec_launchStart {s : State} (run : s.keep.power.halted = false) (lid : BitVec 32) :
    exec (.launchStart lid) s = .next { s with chip := s.chip.startLaunch lid.toNat } :=
  congrArg Host.Outcome.next (if_neg (by simp [run]))

/-! ### Admission (R160) -/

section
variable {α : Type} {f : α → Nat}

theorem leastBy_none {m : List α} (h : leastBy f m = none) : m = [] := by
  cases m with
  | nil => rfl
  | cons b r =>
    unfold leastBy at h
    split at h
    · cases h
    · split at h <;> cases h

theorem leastBy_le {m : List α} {b : α} (h : leastBy f m = some b) : ∀ e ∈ m, f b ≤ f e := by
  induction m generalizing b with
  | nil => cases h
  | cons a r ih =>
    intro e he
    unfold leastBy at h
    split at h
    next hn =>
      cases h
      rw [leastBy_none hn, List.mem_singleton] at he
      rw [he]
    next y hy =>
      have hy' := ih hy
      split at h
      next hlt =>
        cases h
        obtain rfl | he := List.mem_cons.1 he
        · exact Nat.le_of_lt hlt
        · exact hy' e he
      next hge =>
        cases h
        obtain rfl | he := List.mem_cons.1 he
        · exact Nat.le_refl _
        · exact Nat.le_trans (Nat.le_of_not_lt hge) (hy' e he)

/-- The entry whose measure is below every other's is the least. -/
theorem leastBy_eq {m : List α} {a : α} (ha : a ∈ m) (h : ∀ b ∈ m, b ≠ a → f a < f b) : leastBy f m = some a := by
  cases hb : leastBy f m with
  | none =>
    rw [leastBy_none hb] at ha
    cases ha
  | some b =>
    by_contra hne
    have hba : b ≠ a := fun e => hne (congrArg some e)
    exact absurd (h b (leastBy_mem hb) hba) (Nat.not_lt.2 (leastBy_le hb a ha))

end

/-- The least number that satisfies a test is found. -/
theorem leastFrom_eq {p : Nat → Bool} {k : Nat} (hp : p k = true) {fuel i : Nat} (hi : i ≤ k) (hk : k < i + fuel)
    (h : ∀ j, i ≤ j → j < k → p j = false) : leastFrom fuel i p = some k := by
  induction fuel generalizing i with
  | zero => omega
  | succ f ih =>
    unfold leastFrom
    obtain rfl | hlt := Nat.eq_or_lt_of_le hi
    · exact if_pos hp
    · rw [if_neg (by simp [h i (Nat.le_refl i) hlt])]
      exact ih hlt (by omega) fun j hj => h j (by omega)

theorem exec_launchAdmit {s : State} (run : s.keep.power.halted = false) (p : BitVec 7) :
    exec (.launchAdmit p) s = .next { s with chip := s.chip.admitNext p.toNat } :=
  congrArg Host.Outcome.next (if_neg (by simp [run]))

/-- A launch as it is admitted to a slot. -/
def Launch.inSlot (l : Launch) (slot : Nat) : Launch :=
  { l with phase := .admitted, slot := slot, placed := 0, sent := [], recv := [], last := none }

/-- Of the launches of a running partition that wait for admission the first takes the lowest free slot. -/
theorem admitNext_eq {c : Chip} {p lid slot : Nat} {l : Launch} (hrun : (c.part p).state = 1) (hmem : (lid, l) ∈ c.launches)
    (hl : c.launch lid = some l) (hpart : l.part = p) (hphase : l.phase = .started)
    (hfirst : ∀ e ∈ c.launches, e.2.part = p → e.2.phase = .started → e ≠ (lid, l) → l.order < e.2.order) (hslot : slot < 64)
    (hfree : ∀ e ∈ c.launches, e.2.part = p → e.2.phase = .admitted → e.2.slot ≠ slot)
    (hlow : ∀ i, i < slot → ∃ e ∈ c.launches, e.2.part = p ∧ e.2.phase = .admitted ∧ e.2.slot = i) :
    c.admitNext p = { c with launches := mset c.launches lid (l.inSlot slot) } := by
  have hmember : ∀ {ph : LaunchPhase} {e : Nat × Launch}, e ∈ c.launches.filter (fun e => e.2.part = p && e.2.phase = ph)
      ↔ e ∈ c.launches ∧ e.2.part = p ∧ e.2.phase = ph := fun {ph e} => by
    rw [List.mem_filter, Bool.and_eq_true, decide_eq_true_eq, decide_eq_true_eq]
  have hstarted : c.firstStarted p = some lid := by
    rw [Chip.firstStarted, leastBy_eq (a := (lid, l)) (hmember.2 ⟨hmem, hpart, hphase⟩) ?_]
    · rfl
    · intro e he hne
      obtain ⟨hin, hep, hes⟩ := hmember.1 he
      exact hfirst e hin hep hes hne
  have hleast : leastBelow 64 (fun i => (c.admitted p).all (fun e => e.2.slot ≠ i)) = some slot := by
    refine leastFrom_eq ?_ (Nat.zero_le _) (by omega) fun i _ hi => ?_
    · rw [List.all_eq_true]
      intro e he
      obtain ⟨hin, hep, hea⟩ := hmember.1 he
      exact decide_eq_true (hfree e hin hep hea)
    · obtain ⟨e, hin, hep, hea, hes⟩ := hlow i hi
      exact List.all_eq_false.2 ⟨e, hmember.2 ⟨hin, hep, hea⟩, by simp [hes]⟩
  rw [Chip.launch] at hl
  unfold Chip.admitNext
  rw [if_neg (not_not.2 hrun), hstarted, hleast]
  dsimp only
  rw [Chip.modLaunch, hl]
  rfl

/-! ### The statement -/

theorem launchesStartAndAreAdmitted : Claims.LaunchesStartAndAreAdmitted := by
  intro s run
  refine ⟨fun lid l hl hw => ⟨fun hstale => ?_, fun hne hgood => ?_, fun hnil => ?_⟩, ?_⟩
  · refine ⟨_, exec_launchStart run lid, ?_⟩
    dsimp only
    rw [startLaunch_stale hl hw hstale]
    exact endLaunch_waiting hl hw 4
  · rw [exec_launchStart run, startLaunch_waits hl hw hne hgood]
  · exact ⟨_, exec_launchStart run lid, startLaunch_checked hl hw hnil⟩
  · intro p lid slot l hrun hmem hl hpart hphase hfirst hslot hfree hlow
    have hadmit := admitNext_eq hrun hmem hl hpart hphase hfirst hslot hfree hlow
    refine ⟨_, l.inSlot slot, exec_launchAdmit run p, ?_⟩
    dsimp only
    rw [hadmit]
    exact ⟨mget_mset_self .., rfl, rfl, rfl, rfl, rfl, rfl, rfl, fun k hk => mget_mset_ne _ _ hk, rfl⟩

/-- Settles O49: records are taken from the queues, and launches start and are admitted. -/
theorem recordsAndAdmission : Obligations.RecordsAndAdmission := ⟨recordsAreTakenFromQueues, launchesStartAndAreAdmitted⟩

end Sys2Proof.Machine
end

section
/-! O38: an entry read for a spire number that the package does not have (R111, R182, R186). -/

namespace Sys2Proof.Machine

/-- A walk faults with `MEM` at an entry whose line is poisoned once the read has brought it in. -/
theorem walkEntry_poisoned {c : Chip} {spire ta i : Nat} (hok : c.tableOk (ta + 8 * i) = true)
    (hp : (c.readL2 spire (identity spire (ta + 8 * i)) 8 false).2.poisoned (lineOf (ta + 8 * i)) = true) :
    (c.walkEntry spire ta i).1 = .inl 10 := by
  have hnone : (c.readSound spire (identity spire (ta + 8 * i)) 8 false).1 = none := by
    simp only [Chip.readSound, identity_pa, hp, if_true]
  unfold Chip.walkEntry
  simp only [hok, Bool.not_true, Bool.false_eq_true, if_false]
  split
  · rfl
  · next heq => rw [heq] at hnone; cases hnone

/-- A line of HBM4E with a malformed compass word is poisoned (R182, R187). -/
theorem poisoned_of_malformed {c : Chip} {line : Nat} (hplace : place (line * 128) = .hbm)
    (hword : cMalformed (c.compassOf line) (hbmHome (line * 128)) = true) : c.poisoned line = true := by
  rw [Chip.poisoned_hbm hplace, hword, Bool.or_true]

/-- `SHARERS` has a bit for each of the spires 0 to 3; the bit of a number 4 falls into `OWNER`, and line 0 is left shared by no
spire. -/
theorem readL2_four_malformed :
    cMalformed ((Chip.reset.readL2 4 (identity 4 0) 8 false).2.compassOf 0) 0 = true := by
  have hword : (Chip.reset.readL2 4 (identity 4 0) 8 false).2.compassOf 0 = cWith 0 1 0 (2 ^ 4) := by decide
  rw [hword]
  decide

theorem walkEntry_four : (Chip.reset.walkEntry 4 0 0).1 = .inl 10 :=
  walkEntry_poisoned (by decide) (poisoned_of_malformed (by decide) readL2_four_malformed)

/-- The bytes at address 0 of a package after reset are whole and in use. -/
theorem sound_reset : Claims.Sound Chip.reset 0 8 := by
  unfold Claims.Sound
  decide

theorem clean_reset (line : Nat) : Chip.reset.Clean line := ⟨by simp [Chip.reset], by simp [Chip.reset]⟩

/-- The claim asks for `NP` (1) at an entry that reads 0, for every number of a spire; for 4 the walk answers `MEM` (10). -/
theorem not_walkFollowsThreeLevels : ¬ Claims.WalkFollowsThreeLevels := by
  rintro ⟨hentry, -, -⟩
  obtain ⟨hinvalid, -, -⟩ := hentry Chip.reset 4 0 0 (by decide) sound_reset (.inl (clean_reset _))
  have hnp : (Chip.reset.walkEntry 4 0 0).1 = .inl 1 := hinvalid (by decide)
  rw [walkEntry_four] at hnp
  cases hnp

/-- Refutes O38: `WalkFollowsThreeLevels` does not bound its spire, and a package after reset, asked to walk for spire 4 of its
spires 0 to 3, finds the entry at address 0 poisoned where the claim says that it is invalid. -/
theorem not_translationAndClassRegisters : ¬ Obligations.TranslationAndClassRegisters := by
  unfold Obligations.TranslationAndClassRegisters
  rintro ⟨hwalk, -, -, -⟩
  exact not_walkFollowsThreeLevels hwalk

end Sys2Proof.Machine
end

section
/-! O47: what the device's own accesses through the home slices may change (R139, R222). -/

namespace Sys2Proof.Machine

/-! ### Reads -/

/-- Bytes read through their home slices only move lines. -/
theorem moves_homeGet (c : Chip) (ps : List (Nat × Nat)) (ws : List Nat) : Moves (fun _ => True) c (c.homeGet ps ws).2 := by
  induction ps generalizing c with
  | nil => exact .refl _ c
  | cons p r ih => exact ((moves_soundWord ..).trans (moves_homeRead _ _ _ _ trivial)).trans (ih _)

theorem moves_readSlot (c : Chip) (key : Nat) : Moves (fun _ => True) c (c.readSlot key).2 :=
  (moves_homeGet ..).trans (moves_homeGet ..)

/-- A record that is read back only moves lines, whether it can be trusted or not. -/
theorem moves_fetchRecord {c d : Chip} {key : Nat} {co : Coroutine} {r : Nat ⊕ Coroutine} (h : c.fetchRecord key co = (r, d)) :
    Moves (fun _ => True) c d := by
  have hd : (c.fetchRecord key co).2 = d := congrArg Prod.snd h
  rw [← hd]
  unfold Chip.fetchRecord
  split
  · exact .refl _ c
  · exact moves_readSlot c key

/-! ### Writes -/

/-- `d` is `c` but for what slices, DRAM and the compass hold. -/
def LineFrame (c d : Chip) : Prop :=
  d = { c with mem := d.mem, dramOld := d.dramOld, compass := d.compass, combiner := d.combiner, latent := d.latent,
               found := d.found, copies := d.copies, uses := d.uses, links := { c.links with cxlBad := d.links.cxlBad } }

section
variable {c d : Chip}

theorem LineFrame.refl (c : Chip) : LineFrame c c := rfl

theorem LineFrame.trans {b : Chip} (h : LineFrame b c) (k : LineFrame c d) : LineFrame b d := by
  unfold LineFrame at *
  rw [k, h]

theorem LineFrame.cos (h : LineFrame c d) : d.cos = c.cos := by rw [h]
theorem LineFrame.cores (h : LineFrame c d) : d.cores = c.cores := by rw [h]
theorem LineFrame.msgs (h : LineFrame c d) : d.msgs = c.msgs := by rw [h]
theorem LineFrame.launches (h : LineFrame c d) : d.launches = c.launches := by rw [h]

theorem lineFrame_modCopy (n l : Nat) (f : LineCopy → LineCopy) : LineFrame c (c.modCopy n l f) := by
  unfold Chip.modCopy
  split
  · rfl
  · rfl

theorem lineFrame_placeCached (pa : Nat) (vs : List Byte) : LineFrame c (c.placeAll pa vs Chip.placeCached) := by
  rw [placeAll_cached]
  rfl

end

/-- A write of a copy changes only what slices and DRAM hold. -/
theorem lineFrame_writeCopy (c : Chip) (d pa : Nat) (vs : List Byte) (pkg through : Bool) :
    LineFrame c (c.writeCopy d pa vs pkg through) := by
  have hflush : ∀ b : Chip, LineFrame c b → LineFrame c (if through then b.flushCopy d (lineOf pa) else b) := fun b hb => by
    split
    · exact hb.trans (moves_flushCopy (T := fun _ => True) ..).frame
    · exact hb
  unfold Chip.writeCopy
  refine hflush _ ?_
  split
  · refine .trans ?_ ((lineFrame_placeCached ..).trans (lineFrame_modCopy ..))
    split
    · exact (lineFrame_placeCached ..).trans (lineFrame_modCopy ..)
    · exact .refl c
  · exact lineFrame_modCopy ..

theorem lineFrame_homePut (c : Chip) (ps : List (Nat × Nat)) (vs : List Byte) (ws : List Nat) : LineFrame c (c.homePut ps vs ws) := by
  induction ps generalizing c vs with
  | nil => exact .refl c
  | cons p r ih =>
    have hm := (moves_soundWord (T := fun _ => True) c (lineOf p.1) (hbmHome p.1)).trans
      (moves_homeWrite _ (lineOf p.1) (hbmHome p.1) ws (sectorsOf p.1 p.2 &&& ~~~(sectorsWhole p.1 p.2)) trivial)
    exact (LineFrame.trans hm.frame (lineFrame_writeCopy ..)).trans (ih _ _)

/-- Pieces that do not cross a line, written through their home slices, leave every other line alone. -/
theorem homePut_apart {ps : List (Nat × Nat)} (hps : ∀ p ∈ ps, p.1 % 128 + p.2 ≤ 128) (c : Chip) (vs : List Byte) (ws : List Nat)
    (hwf : Memory.wf c.mem) {a : Nat} (ha : ∀ p ∈ ps, a / 128 ≠ lineOf p.1) :
    memRead (c.homePut ps vs ws).mem a = memRead c.mem a := by
  induction ps generalizing c vs with
  | nil => rfl
  | cons p r ih =>
    obtain ⟨hp, hr⟩ := List.forall_mem_cons.1 hps
    obtain ⟨hap, har⟩ := List.forall_mem_cons.1 ha
    have hm := (moves_soundWord (T := fun L => L = lineOf p.1) c (lineOf p.1) (hbmHome p.1)).trans
      (moves_homeWrite _ (lineOf p.1) (hbmHome p.1) ws (sectorsOf p.1 p.2 &&& ~~~(sectorsWhole p.1 p.2)) rfl)
    have hlen : p.1 % 128 + (vs.take p.2).length ≤ 128 := by
      have := List.length_take_le p.2 vs
      omega
    have hw := writeCopy_apart (((c.soundWord (lineOf p.1) (hbmHome p.1)).homeWrite (lineOf p.1) (hbmHome p.1) ws
      (sectorsOf p.1 p.2 &&& ~~~(sectorsWhole p.1 p.2)))) (hbmHome p.1) p.1 (vs.take p.2) true false hlen
    calc memRead (c.homePut (p :: r) vs ws).mem a
        = _ := ih hr _ _ (hw.1 (hm.wf hwf)) har
      _ = _ := hw.2 (hm.wf hwf) a hap
      _ = memRead c.mem a := hm.apart hwf a hap

/-- The pieces of a range lie each in one line, one line after another. -/
theorem mem_linePieces {fuel va n : Nat} {p : Nat × Nat} (h : p ∈ linePieces fuel va n) :
    p.1 % 128 + p.2 ≤ 128 ∧ va / 128 ≤ lineOf p.1 ∧ lineOf p.1 < va / 128 + fuel := by
  induction fuel generalizing va n with
  | zero => cases h
  | succ f ih =>
    unfold linePieces at h
    split at h
    · cases h
    split at h
    next hone =>
      rw [List.mem_singleton.1 h]
      unfold lineOf
      omega
    next =>
      obtain rfl | h := List.mem_cons.1 h
      · unfold lineOf
        dsimp only
        omega
      · have := ih h
        omega

end Sys2Proof.Machine
end

section
/-! O47: the context cache: what evictions change, and what a coroutine that gets a record there leaves alone (R222). -/

namespace Sys2Proof.Machine

/-! ### Blocks of the pool (R232) -/

section
variable (c : Chip)

/-- `d` is `c` but for the pools of its cores. -/
def PoolFrame (c d : Chip) : Prop :=
  d = { c with cores := d.cores } ∧ ∀ n, ∃ pool, d.core n = { c.core n with pool := pool }

theorem PoolFrame.refl : PoolFrame c c := ⟨rfl, fun _ => ⟨_, rfl⟩⟩

theorem poolFrame_modCore (k : Nat) {f : Core → Core} {pool : List (Nat × Nat)} (h : f (c.core k) = { c.core k with pool := pool }) :
    PoolFrame c (c.modCore k f) := by
  refine ⟨rfl, fun n => ?_⟩
  by_cases hn : n = k
  · subst hn
    exact ⟨pool, by rw [Chip.core_modCore, h]⟩
  · exact ⟨_, c.core_modCore_ne f hn⟩

theorem settled_pool (k : Core) (slot : Nat) (co : Coroutine) (used : List Nat) :
    k.settled slot co used = { k with pool := (k.settled slot co used).pool } := by
  unfold Core.settled
  dsimp only
  split
  · rfl
  · rfl

theorem poolFrame_settlePool (key : Nat) (used : List Nat) : PoolFrame c (c.settlePool key used) := by
  unfold Chip.settlePool
  split
  · exact poolFrame_modCore c _ (settled_pool ..)
  · exact .refl c

theorem poolFrame_freeBlocks (key : Nat) : PoolFrame c (c.freeBlocks key) := by
  unfold Chip.freeBlocks
  split
  · exact poolFrame_modCore c _ rfl
  · exact .refl c

end

section
variable {c d : Chip} (h : PoolFrame c d)
include h

theorem PoolFrame.cos : d.cos = c.cos := by rw [h.1]
theorem PoolFrame.co (key : Nat) : d.co key = c.co key := by rw [h.1]; rfl
theorem PoolFrame.mem : d.mem = c.mem := by rw [h.1]
theorem PoolFrame.msgs : d.msgs = c.msgs := by rw [h.1]
theorem PoolFrame.launches : d.launches = c.launches := by rw [h.1]

theorem PoolFrame.running (n : Nat) : (d.core n).running = (c.core n).running := by
  obtain ⟨pool, e⟩ := h.2 n
  rw [e]

end

/-! ### Evictions (R222) -/

/-- Only records have been evicted, and not that of `new`. -/
structure Evicts (new : Nat) (c d : Chip) : Prop where
  self : d.co new = c.co new
  others : ∀ k m, c.co k = some m → ∃ m', d.co k = some m' ∧ { m' with evicted := m.evicted, recWord := m.recWord } = m
  running : ∀ n, (d.core n).running = (c.core n).running
  msgs : d.msgs = c.msgs
  launches : d.launches = c.launches

section
variable {new : Nat} {c d : Chip}

theorem Evicts.refl (new : Nat) (c : Chip) : Evicts new c c := ⟨rfl, fun _ m h => ⟨m, h, rfl⟩, fun _ => rfl, rfl, rfl⟩

theorem Evicts.trans {b : Chip} (h : Evicts new b c) (k : Evicts new c d) : Evicts new b d := by
  refine ⟨k.self.trans h.self, fun j m hm => ?_, fun n => (k.running n).trans (h.running n), k.msgs.trans h.msgs,
    k.launches.trans h.launches⟩
  obtain ⟨m', h', e'⟩ := h.others j m hm
  obtain ⟨m'', h'', e''⟩ := k.others j m' h'
  exact ⟨m'', h'', by rw [← e', ← e'']⟩

theorem PoolFrame.evicts (h : PoolFrame c d) : Evicts new c d :=
  ⟨h.co new, fun k m hm => ⟨m, (h.co k).trans hm, rfl⟩, h.running, h.msgs, h.launches⟩

theorem LineFrame.evicts (h : LineFrame c d) : Evicts new c d :=
  ⟨by rw [h]; rfl, fun k m hm => ⟨m, by rw [h]; exact hm, rfl⟩, fun n => by rw [h]; rfl, h.msgs, h.launches⟩

/-- A record written to its slot stays that of its coroutine, but that it lies there now. -/
theorem evicts_spillRecord {key : Nat} (hk : key ≠ new) : Evicts new c (c.spillRecord key) := by
  unfold Chip.spillRecord
  split
  · exact .refl new c
  next co hco =>
    refine .trans ?_ (lineFrame_homePut ..).evicts
    refine ⟨mget_mset_ne _ _ hk.symm, fun k m hm => ?_, fun _ => rfl, rfl, rfl⟩
    by_cases e : k = key
    · subst e
      obtain rfl : co = m := Option.some.inj (hco.symm.trans hm)
      exact ⟨_, mget_mset_self .., rfl⟩
    · exact ⟨m, (mget_mset_ne _ _ e).trans hm, rfl⟩

theorem mostBy_mem {α : Type} {f : α → Nat} {m : List α} {e : α} (h : mostBy f m = some e) : e ∈ m := by
  induction m generalizing e with
  | nil => cases h
  | cons a r ih =>
    unfold mostBy at h
    split at h
    next => cases h; exact List.mem_cons_self ..
    next b hb =>
      split at h
      · cases h; exact List.mem_cons_of_mem _ (ih hb)
      · cases h; exact List.mem_cons_self ..

/-- The record that is evicted is not the new one. -/
theorem victim_ne {core k : Nat} (h : c.victim core new = some k) : k ≠ new := by
  have hne : ∀ e ∈ c.cos.filter (fun e => e.1 / 256 = core && e.1 ≠ new && e.2.cached), e.1 ≠ new := fun e he => by
    simp only [List.mem_filter, Bool.and_eq_true, decide_eq_true_eq] at he
    exact he.2.1.2
  unfold Chip.victim at h
  dsimp only at h
  split at h
  next e he =>
    cases h
    exact hne e (List.mem_of_mem_filter (leastBy_mem he))
  next =>
    obtain ⟨e, he, rfl⟩ := Option.map_eq_some_iff.1 h
    exact hne e (mostBy_mem he)

end

theorem evicts_makeRoom (new fuel : Nat) (c : Chip) (core : Nat) : Evicts new c (Chip.makeRoom fuel c core new) := by
  induction fuel generalizing c with
  | zero => exact .refl new c
  | succ f ih =>
    unfold Chip.makeRoom
    split
    · exact .refl new c
    split
    next k hk => exact ((poolFrame_freeBlocks c k).evicts.trans (evicts_spillRecord (victim_ne hk))).trans (ih _)
    next => exact .refl new c

/-- Where all records fit none is evicted. -/
theorem makeRoom_fits {c : Chip} {core : Nat} (h : c.cacheUse core ≤ 1536) (fuel new : Nat) : Chip.makeRoom fuel c core new = c := by
  cases fuel with
  | zero => rfl
  | succ f => exact if_pos h

/-! ### Use of the cache -/

/-- The units of a core's records as a sum over the entries of its coroutines. -/
def unitsOn (core : Nat) (m : AMap Coroutine) : Nat :=
  ((m.filter (fun e => e.1 / 256 = core && e.2.cached)).map (fun e => e.2.units)).sum

theorem cacheUse_eq (c : Chip) (core : Nat) : c.cacheUse core = unitsOn core c.cos := by
  rw [unitsOn, List.sum_eq_foldl, List.foldl_map]
  rfl

theorem unitsOn_cons (core : Nat) (e : Nat × Coroutine) (m : AMap Coroutine) :
    unitsOn core (e :: m) = (if e.1 / 256 = core && e.2.cached then e.2.units else 0) + unitsOn core m := by
  unfold unitsOn
  rw [List.filter_cons]
  split
  · rfl
  · exact (Nat.zero_add _).symm

/-- A coroutine put at a key adds no more than its own record. -/
theorem unitsOn_mset (core : Nat) (m : AMap Coroutine) (key : Nat) (co : Coroutine) :
    unitsOn core (mset m key co) ≤ unitsOn core m + co.units := by
  have hown : ∀ r : AMap Coroutine, unitsOn core ((key, co) :: r) ≤ unitsOn core r + co.units := fun r => by
    rw [unitsOn_cons]
    split
    · dsimp only; omega
    · omega
  induction m with
  | nil => exact hown []
  | cons e r ih =>
    obtain ⟨j, u⟩ := e
    unfold mset
    split
    · have := hown r
      rw [unitsOn_cons core (j, u) r]
      omega
    split
    · exact hown _
    · rw [unitsOn_cons, unitsOn_cons]
      omega

/-! ### A record for a coroutine that does not run (R214, R222) -/

/-- A coroutine as its record enters the context cache. -/
def Coroutine.recorded (co : Coroutine) (n : Nat) : Coroutine := { co with evicted := false, left := n }

/-- `d` is `c`, in which coroutine `co` has been put at `key` of `b`, once it has a record in its core's cache. -/
structure RecordKept (b c d : Chip) (key : Nat) (co : Coroutine) : Prop where
  self : ∃ n, d.co key = some (co.recorded n)
  others : ∀ k m, k ≠ key → b.co k = some m → ∃ m', d.co k = some m' ∧ { m' with evicted := m.evicted, recWord := m.recWord } = m
  fits : b.cacheUse (key / 256) + co.units ≤ 1536 → d.mem = c.mem ∧ ∀ k, k ≠ key → d.co k = b.co k
  running : ∀ n, (d.core n).running = (c.core n).running
  msgs : d.msgs = c.msgs
  launches : d.launches = c.launches

/-- The coroutine of a record that enters the cache is recorded before room is made. -/
theorem keepRecord_enters {c : Chip} {m : AMap Coroutine} {key : Nat} {co : Coroutine} (h : c.cos = mset m key co) :
    ∃ (n : Nat) (f : Chip), c.keepRecord key = Chip.makeRoom 256 (f.settlePool key []) (key / 256) key
      ∧ f.cos = mset m key (co.recorded n) ∧ f.mem = c.mem ∧ f.msgs = c.msgs ∧ f.launches = c.launches
      ∧ ∀ k, (f.core k).running = (c.core k).running := by
  obtain ⟨n, hn⟩ : ∃ n, n = (c.core (key / 256)).stamp := ⟨_, rfl⟩
  have hput : c.modCo key (fun co => co.recorded n) = { c with cos := mset m key (co.recorded n) } := by
    rw [Chip.modCo, h, mget_mset_self]
    exact congrArg (fun x => ({ c with cos := x } : Chip)) (mset_mset ..)
  refine ⟨n, Chip.modCore { c with cos := mset m key (co.recorded n) } (key / 256) (fun k => { k with stamp := n + 1 }), ?_, rfl, rfl,
    rfl, rfl, fun k => ?_⟩
  · rw [← hput, hn]
    rfl
  · by_cases hk : k = key / 256
    · rw [hk, Chip.core_modCore]
      rfl
    · exact congrArg Core.running (Chip.core_modCore_ne _ _ hk)

theorem recordKept_keepRecord {b c : Chip} {key : Nat} {co : Coroutine} (h : c.cos = mset b.cos key co) :
    RecordKept b c (c.keepRecord key) key co := by
  obtain ⟨n, f, hkeep, hcos, hmem, hmsgs, hlaunches, hrunning⟩ := keepRecord_enters h
  have hpool := poolFrame_settlePool f key []
  have hroom : Evicts key f (c.keepRecord key) := by
    rw [hkeep]
    exact hpool.evicts.trans (evicts_makeRoom ..)
  have hother : ∀ k, k ≠ key → f.co k = b.co k := fun k hk => by
    rw [Chip.co, hcos, mget_mset_ne _ _ hk, Chip.co]
  refine ⟨⟨n, ?_⟩, fun k m hk hm => hroom.others k m ((hother k hk).trans hm), fun hfit => ?_,
    fun k => (hroom.running k).trans (hrunning k), hroom.msgs.trans hmsgs, hroom.launches.trans hlaunches⟩
  · rw [hroom.self, Chip.co, hcos, mget_mset_self]
  · have huse : (f.settlePool key []).cacheUse (key / 256) ≤ 1536 := by
      rw [cacheUse_eq, hpool.cos, hcos]
      rw [cacheUse_eq] at hfit
      exact (unitsOn_mset ..).trans hfit
    rw [hkeep, makeRoom_fits huse]
    exact ⟨hpool.mem.trans hmem, fun k hk => (hpool.co k).trans (hother k hk)⟩

end Sys2Proof.Machine
end

section
/-! O47: a core dispatches the first of its ready coroutines, or ends it, and preempts the one that it runs (R165, R166, R276). -/

namespace Sys2Proof.Machine

/-- While the clocks run, an event of the chip is its function of the chip. -/
theorem onChip_running {s : State} (run : s.keep.power.halted = false) (f : Chip → Chip) :
    onChip f s = .next { s with chip := f s.chip } :=
  congrArg Host.Outcome.next (if_neg (by simp [run]))

/-- An event that leaves the chip as it is changes nothing. -/
theorem onChip_idle {s : State} {f : Chip → Chip} (h : f s.chip = s.chip) : onChip f s = .next s := by
  unfold onChip
  rw [h]
  exact congrArg Host.Outcome.next (ite_self s)

/-! ### The first ready coroutine (R165) -/

theorem before_iff (now : Nat) (a b : Nat × Coroutine) : before now a b = true ↔ Claims.ChosenBefore now a b := by
  unfold before Claims.ChosenBefore
  rw [eq_comm (a := b.2.levelAt now)]
  simp only [Bool.or_eq_true, Bool.and_eq_true, decide_eq_true_eq]

theorem chosenBefore_asymm {now : Nat} {a b : Nat × Coroutine} (h : Claims.ChosenBefore now a b) : ¬ Claims.ChosenBefore now b a := by
  unfold Claims.ChosenBefore at *
  omega

/-- One step of the search for the first: the one found so far, or an entry that is before it. -/
def firstOf (now : Nat) (m : Option (Nat × Coroutine)) (e : Nat × Coroutine) : Option (Nat × Coroutine) :=
  match m with
  | none => some e
  | some b => if before now e b then some e else some b

theorem bestReady_eq (c : Chip) (core : Nat) :
    c.bestReady core = ((c.readyOn core).foldl (firstOf c.time) none).map (fun e => e.1) := rfl

theorem firstOf_cases {now : Nat} {m : Option (Nat × Coroutine)} {e x : Nat × Coroutine} (h : firstOf now m e = some x) :
    x = e ∨ m = some x := by
  unfold firstOf at h
  split at h
  · exact .inl (Option.some.inj h).symm
  split at h
  · exact .inl (Option.some.inj h).symm
  · exact .inr h

/-- An entry before every other that is looked at is kept, once it has been met. -/
theorem firstOf_keeps {now : Nat} {a e : Nat × Coroutine} {m : Option (Nat × Coroutine)} (he : e ≠ a → Claims.ChosenBefore now a e)
    (hm : ∀ x, m = some x → x ≠ a → Claims.ChosenBefore now a x) (ha : e = a ∨ m = some a) : firstOf now m e = some a := by
  rcases ha with rfl | rfl
  · cases m with
    | none => rfl
    | some b =>
      by_cases hb : b = e
      · rw [hb]
        exact ite_self _
      · exact if_pos ((before_iff ..).2 (hm b rfl hb))
  · by_cases hea : e = a
    · rw [hea]
      exact ite_self _
    · exact if_neg fun hbefore => chosenBefore_asymm (he hea) ((before_iff ..).1 hbefore)

/-- The search finds the entry that is before every other. -/
theorem foldl_firstOf {now : Nat} {a : Nat × Coroutine} {l : List (Nat × Coroutine)} {m : Option (Nat × Coroutine)}
    (ha : a ∈ l ∨ m = some a) (hl : ∀ e ∈ l, e ≠ a → Claims.ChosenBefore now a e)
    (hm : ∀ e, m = some e → e ≠ a → Claims.ChosenBefore now a e) : l.foldl (firstOf now) m = some a := by
  induction l generalizing m with
  | nil => exact ha.resolve_left List.not_mem_nil
  | cons e r ih =>
    obtain ⟨he, hr⟩ := List.forall_mem_cons.1 hl
    refine ih ?_ hr fun x hx => ?_
    · rcases ha with ha | ha
      · rcases List.mem_cons.1 ha with rfl | ha
        · exact .inr (firstOf_keeps he hm (.inl rfl))
        · exact .inl ha
      · exact .inr (firstOf_keeps he hm (.inr ha))
    · rcases firstOf_cases hx with rfl | hx
      · exact he
      · exact hm x hx

section
variable {c : Chip} {n : Nat}

theorem mem_readyOn {e : Nat × Coroutine} : e ∈ c.readyOn n ↔ e ∈ c.cos ∧ e.1 / 256 = n ∧ e.2.state = .ready := by
  simp [Chip.readyOn]

theorem readyOn_none (h : ∀ e ∈ c.cos, e.1 / 256 = n → e.2.state ≠ .ready) : c.readyOn n = [] := by
  refine List.eq_nil_iff_forall_not_mem.2 fun e he => ?_
  obtain ⟨hin, hn, hs⟩ := mem_readyOn.1 he
  exact h e hin hn hs

theorem bestReady_first {key : Nat} {co : Coroutine} (hin : (key, co) ∈ c.cos) (hn : key / 256 = n) (hs : co.state = .ready)
    (hfirst : ∀ e ∈ c.cos, e.1 / 256 = n → e.2.state = .ready → e ≠ (key, co) → Claims.ChosenBefore c.time (key, co) e) :
    c.bestReady n = some key := by
  rw [bestReady_eq, foldl_firstOf (a := (key, co)) (.inl (mem_readyOn.2 ⟨hin, hn, hs⟩)) ?_ (fun e he => by cases he)]
  · rfl
  · intro e he
    obtain ⟨hein, hen, hes⟩ := mem_readyOn.1 he
    exact hfirst e hein hen hes

/-! ### Dispatch (R165, R271) -/

theorem dispatch_none (h : ∀ e ∈ c.cos, e.1 / 256 = n → e.2.state ≠ .ready) : c.dispatch n = c := by
  unfold Chip.dispatch
  rw [bestReady_eq, readyOn_none h]
  exact ite_self c

theorem dispatch_best {key : Nat} (hidle : (c.core n).running = none) (hruns : c.clusterRuns (n / 4) = true)
    (h : c.bestReady n = some key) : c.dispatch n = c.dispatchCo n (key % 256) := by
  unfold Chip.dispatch
  rw [hidle, hruns, h]
  rfl

end

theorem coKey_parts {key n : Nat} (h : key / 256 = n) : coKey n (key % 256) = key := by
  unfold coKey
  omega

/-- A coroutine as a core begins to run it. -/
def Coroutine.running (co : Coroutine) : Coroutine :=
  { co with state := .running, wait := .none, rtime := 0, fresh := false, evicted := false, again := false }

/-- The chip once the core of a coroutine that is new there, or resumes an acquire, has given up its L1 lines (R194). -/
def Chip.freshened (c : Chip) (core : Nat) (co : Coroutine) : Chip := if co.fresh then c.acquireL1 core else c

/-- The L1 data lines of a core are all that changes. -/
theorem freshened_frame (c : Chip) (core : Nat) (co : Coroutine) : c.freshened core co = { c with cores := (c.freshened core co).cores }
    ∧ ∀ n, ∃ l, (c.freshened core co).core n = { c.core n with l1d := l } := by
  unfold Chip.freshened
  split
  · refine ⟨rfl, fun n => ?_⟩
    unfold Chip.acquireL1
    by_cases h : n = core
    · rw [h, Chip.core_modCore]
      exact ⟨_, rfl⟩
    · exact ⟨_, c.core_modCore_ne _ h⟩
  · exact ⟨rfl, fun _ => ⟨_, rfl⟩⟩

section
variable {c d : Chip} {core slot : Nat} {co r : Coroutine}

theorem withRecord_trusted {key : Nat} (hco : c.co key = some co) (hf : c.fetchRecord key co = (.inr r, d))
    (f : Chip → Coroutine → Chip) : c.withRecord key f = f d r := by
  unfold Chip.withRecord
  simp only [hco, hf]

theorem withRecord_untrusted {key cause : Nat} (hco : c.co key = some co) (hf : c.fetchRecord key co = (.inl cause, d))
    (f : Chip → Coroutine → Chip) : c.withRecord key f = d.killConcerned key cause (wordOf (d.spillSlot key)) := by
  unfold Chip.withRecord
  simp only [hco, hf]

/-- A supervisor coroutine in its handler keeps its pending stores and block. -/
theorem dispatchCo_handler (hco : c.co (coKey core slot) = some co) (hf : c.fetchRecord (coKey core slot) co = (.inr r, d))
    (h : (r.hact && !r.again) = true) :
    c.dispatchCo core slot = (((d.freshened core r).setCo (coKey core slot) r.running).modCore core
      (fun k => { k with running := some slot, dispatched := (d.freshened core r).time })).settlePool (coKey core slot) [] :=
  (withRecord_trusted hco hf _).trans (congrArg (fun b : Chip => b.settlePool (coKey core slot) []) (if_pos h))

/-- Any other coroutine has its pending stores and block issued again. -/
theorem dispatchCo_replays (hco : c.co (coKey core slot) = some co) (hf : c.fetchRecord (coKey core slot) co = (.inr r, d))
    (h : ¬(r.hact && !r.again) = true) :
    c.dispatchCo core slot = (((d.freshened core r).setCo (coKey core slot) { r.running.replayed with trapped := false }).modCore core
      (fun k => { (k.replay r) with running := some slot, dispatched := (d.freshened core r).time })).settlePool (coKey core slot) [] :=
  (withRecord_trusted hco hf _).trans (congrArg (fun b : Chip => b.settlePool (coKey core slot) []) (if_neg h))

end

@[simp] theorem blockAgain_length (co : Coroutine) : co.blockAgain.length = co.block.length := by
  unfold Coroutine.blockAgain
  split
  next h => rw [h]
  next h => rw [h]; rfl

/-- Where a coroutine has been put on a core, it runs there. -/
structure RunsOn (c d e : Chip) (core slot : Nat) (x : Coroutine) (sb : List Store) (vq : List VEntry) : Prop where
  self : e.co (coKey core slot) = some x
  others : ∀ k, k ≠ coKey core slot → e.co k = c.co k
  mem : e.mem = d.mem
  running : (e.core core).running = some slot
  dispatched : (e.core core).dispatched = c.time
  sb : (e.core core).sb = sb
  vq : (e.core core).vq = vq

/-- A coroutine whose record has been read back is put on a core, which takes some stores and vector entries. -/
theorem runsOn_dispatched {c d : Chip} (h : Moves (fun _ => True) c d) (core slot : Nat) (r x : Coroutine) {f : Core → Core}
    {ss : List Store} {vs : List VEntry}
    (hf : ∀ k, f k = { k with sb := k.sb ++ ss, vq := k.vq ++ vs, running := some slot, dispatched := (d.freshened core r).time }) :
    RunsOn c d ((((d.freshened core r).setCo (coKey core slot) x).modCore core f).settlePool (coKey core slot) []) core slot x
      ((c.core core).sb ++ ss) ((c.core core).vq ++ vs) := by
  obtain ⟨hfresh, hl1⟩ := freshened_frame d core r
  have hpool := poolFrame_settlePool (((d.freshened core r).setCo (coKey core slot) x).modCore core f) (coKey core slot) []
  have hcos : ∀ k, (d.freshened core r).co k = c.co k := fun k => by rw [Chip.co, hfresh, Chip.co, h.cos]
  have hcore : d.core core = c.core core := by rw [Chip.core, h.cores, Chip.core]
  have htime : (d.freshened core r).time = c.time := by rw [hfresh, h.frame]
  obtain ⟨pool, hp⟩ := hpool.2 core
  obtain ⟨l, hl⟩ := hl1 core
  have hin : (((d.freshened core r).setCo (coKey core slot) x).modCore core f).core core = f { c.core core with l1d := l } := by
    rw [Chip.core_modCore, ← hcore, ← hl]
    rfl
  rw [hin, hf, htime] at hp
  refine ⟨?_, fun k hk => ?_, ?_, ?_, ?_, ?_, ?_⟩
  · rw [hpool.co]
    exact Chip.co_setCo ..
  · rw [hpool.co]
    exact (Chip.co_setCo_ne _ _ hk).trans (hcos k)
  · rw [hpool.mem]
    show (d.freshened core r).mem = d.mem
    rw [hfresh]
  · rw [hp]
  · rw [hp]
  · rw [hp]
  · rw [hp]

/-! ### Ending a coroutine (R276, R408) -/

/-- Every coroutine is still there, and one that had exited has. -/
structure StaysExited (c d : Chip) : Prop where
  keeps : ∀ k co, c.co k = some co → ∃ co', d.co k = some co' ∧ (co.state = .exited → co'.state = .exited)

/-- The coroutine at a key has exited. -/
def Chip.exitedAt (c : Chip) (key : Nat) : Prop := ∃ co, c.co key = some co ∧ co.state = .exited

section
variable {c d : Chip}

theorem StaysExited.refl (c : Chip) : StaysExited c c := ⟨fun _ co h => ⟨co, h, id⟩⟩

theorem StaysExited.trans {b : Chip} (h : StaysExited b c) (k : StaysExited c d) : StaysExited b d := by
  refine ⟨fun j m hm => ?_⟩
  obtain ⟨m', h', e'⟩ := h.keeps j m hm
  obtain ⟨m'', h'', e''⟩ := k.keeps j m' h'
  exact ⟨m'', h'', e'' ∘ e'⟩

theorem StaysExited.of_cos (h : d.cos = c.cos) : StaysExited c d := ⟨fun k co hk => ⟨co, by rw [Chip.co, h]; exact hk, id⟩⟩

theorem StaysExited.exitedAt {key : Nat} (h : StaysExited c d) (hc : c.exitedAt key) : d.exitedAt key := by
  obtain ⟨co, hco, hs⟩ := hc
  obtain ⟨co', hco', hs'⟩ := h.keeps key co hco
  exact ⟨co', hco', hs' hs⟩

theorem staysExited_ite {p : Prop} [Decidable p] {a b : Chip} (ha : StaysExited c a) (hb : StaysExited c b) :
    StaysExited c (if p then a else b) := by
  split
  · exact ha
  · exact hb

theorem staysExited_foldl {α : Type} {f : Chip → α → Chip} (h : ∀ c a, StaysExited c (f c a)) (l : List α) (c : Chip) :
    StaysExited c (l.foldl f c) :=
  foldl_keeps (P := StaysExited c) (fun d a hd => hd.trans (h d a)) l (.refl c)

variable (c)

/-- An exited coroutine waits for nothing, so that nothing wakes it. -/
theorem staysExited_wakeAll (p : Nat → Coroutine → Bool) : StaysExited c (c.wakeAll p) := by
  refine ⟨fun k co hk => ?_⟩
  refine ⟨_, by rw [Chip.co, Chip.wakeAll, mget_mmap, ← Chip.co, hk]; rfl, fun hs => ?_⟩
  simp [Coroutine.isWaiting, hs]

theorem staysExited_modSpire (d : Nat) (f : Spire → Spire) : StaysExited c (c.modSpire d f) := .of_cos rfl
theorem staysExited_withClusters (x : AMap Cluster) : StaysExited c { c with clusters := x } := .of_cos rfl

theorem staysExited_passed (p : Prop) [Decidable p] (t : Word) : StaysExited c (if p then c.passLaunchWaits t else c) :=
  staysExited_ite (.of_cos rfl) (.refl c)

theorem staysExited_releaseWaiters (d i : Nat) : StaysExited c (c.releaseWaiters d i) :=
  (staysExited_passed c _ _).trans (staysExited_wakeAll ..)

theorem staysExited_closeRecord (d i : Nat) : StaysExited c (c.closeRecord d i) := by
  unfold Chip.closeRecord
  dsimp only
  refine .trans ?_ (staysExited_wakeAll ..)
  refine .trans ?_ (staysExited_modSpire ..)
  refine .trans ?_ (staysExited_withClusters ..)
  refine .trans ?_ (staysExited_modSpire ..)
  refine .trans ?_ (staysExited_withClusters ..)
  exact (staysExited_passed c _ _).trans (staysExited_wakeAll ..)

theorem staysExited_applySignal (tok : Word) (dec : Int) (st es : Nat) (host : Bool) : StaysExited c (c.applySignal tok dec st es host) := by
  unfold Chip.applySignal
  refine staysExited_ite (staysExited_ite ?_ ?_) (.refl c)
  · exact (staysExited_modSpire ..).trans (staysExited_closeRecord ..)
  · exact (staysExited_modSpire ..).trans (staysExited_releaseWaiters ..)

theorem staysExited_signalOpened (key : Nat) (dec : Int) : StaysExited c (c.signalOpened key dec) := by
  unfold Chip.signalOpened
  split
  · exact staysExited_applySignal ..
  · exact .refl c

theorem staysExited_blame (lid st : Nat) : StaysExited c (c.blame lid st) := by
  unfold Chip.blame Chip.modLaunch
  split
  · exact .of_cos rfl
  · exact .refl c

theorem staysExited_dropRequests (key : Nat) : StaysExited c (c.dropRequests key) := by
  unfold Chip.dropRequests
  exact staysExited_ite (.refl c) (.of_cos rfl)

theorem staysExited_stopRunning (key : Nat) : StaysExited c (c.stopRunning key) := by
  unfold Chip.stopRunning
  refine staysExited_ite (.trans ?_ (staysExited_dropRequests ..)) (.refl c)
  exact .of_cos rfl

theorem staysExited_sweepSlots (cl : Nat) : StaysExited c (c.sweepSlots cl) := by
  unfold Chip.sweepSlots
  refine staysExited_foldl (fun b s => staysExited_ite ?_ (.refl b)) _ c
  have hwake := staysExited_wakeAll (b.modCluster cl (fun k => k.modSlot s (fun t => { t with held := false, orphan := false, ended := false })))
    (fun k co => k / 1024 = cl && co.wait = .slot s)
  exact ⟨hwake.keeps⟩

theorem staysExited_endSlots (key lid : Nat) : StaysExited c (c.endSlots key lid) := by
  unfold Chip.endSlots
  refine .trans ?_ (staysExited_sweepSlots ..)
  exact .of_cos rfl

theorem staysExited_barrier (g : Nat) : StaysExited c (c.barrier g) := by
  unfold Chip.barrier
  exact staysExited_ite (staysExited_wakeAll ..) (.refl c)

theorem staysExited_enterFault (p d : Nat) (e : FqEntry) : StaysExited c (c.enterFault p d e) := by
  unfold Chip.enterFault
  exact staysExited_ite (.of_cos rfl) (.of_cos rfl)

variable {c}

/-- A coroutine as it leaves the scheduler. -/
def Coroutine.exited (co : Coroutine) : Coroutine :=
  { co with state := .exited, wait := .none, pend := [], block := [], resv := [], trapped := false, due := none, evicted := false }

/-- A coroutine that leaves the scheduler is put back as exited, and stays so. -/
theorem staysExited_exitCo {key : Nat} {co : Coroutine} (h : c.co key = some co) :
    StaysExited (c.setCo key co.exited) (c.exitCo key) := by
  have hblocks := StaysExited.of_cos (poolFrame_freeBlocks (c.setCo key co.exited) key).cos
  unfold Chip.exitCo
  simp only [h]
  refine .trans ?_ ((staysExited_stopRunning _ key).trans ((staysExited_endSlots _ key co.lid).trans (staysExited_barrier _ co.gang)))
  exact staysExited_ite hblocks (hblocks.trans (.of_cos rfl))

theorem staysExited_endCo_put {key : Nat} {co : Coroutine} (h : c.co key = some co) (st : Nat) :
    StaysExited (c.setCo key co.exited) (c.endCo key st) := by
  unfold Chip.endCo
  simp only [h]
  exact (staysExited_exitCo h).trans ((staysExited_signalOpened ..).trans (staysExited_blame ..))

theorem exitedAt_endCo {key : Nat} {co : Coroutine} (h : c.co key = some co) (st : Nat) : (c.endCo key st).exitedAt key :=
  (staysExited_endCo_put h st).exitedAt ⟨co.exited, Chip.co_setCo .., rfl⟩

theorem staysExited_endCo (c : Chip) (key st : Nat) : StaysExited c (c.endCo key st) := by
  cases h : c.co key with
  | none =>
    unfold Chip.endCo
    simp only [h]
    exact .refl c
  | some co =>
    refine StaysExited.trans ⟨fun k m hm => ?_⟩ (staysExited_endCo_put h st)
    by_cases hk : k = key
    · exact ⟨co.exited, by rw [hk, Chip.co_setCo], fun _ => rfl⟩
    · exact ⟨m, (Chip.co_setCo_ne c _ hk).trans hm, id⟩

theorem exitedAt_foldl_endCo {key st : Nat} {l : List Nat} (hl : key ∈ l) {c : Chip} {co : Coroutine} (h : c.co key = some co) :
    (l.foldl (fun c k => c.endCo k st) c).exitedAt key := by
  induction l generalizing c co with
  | nil => cases hl
  | cons k r ih =>
    rcases List.mem_cons.1 hl with rfl | hl
    · exact (staysExited_foldl (fun c k => staysExited_endCo c k st) r _).exitedAt (exitedAt_endCo h _)
    · obtain ⟨co', h', -⟩ := (staysExited_endCo c k st).keeps key co h
      exact ih hl h'

/-- A record that cannot be trusted ends its coroutine. -/
theorem exitedAt_killConcerned {key : Nat} {co : Coroutine} (h : c.co key = some co) (hs : co.state ≠ .exited) (cause : Nat) (fa : Word) :
    (c.killConcerned key cause fa).exitedAt key := by
  have hgang : (c.endGang co.gang).exitedAt key := by
    refine exitedAt_foldl_endCo (List.mem_map.2 ⟨(key, co), List.mem_filter.2 ⟨mem_of_mget h, ?_⟩, rfl⟩) h
    simp [hs]
  unfold Chip.killConcerned
  simp only [h]
  split
  · exact (StaysExited.of_cos rfl).exitedAt (exitedAt_endCo h _)
  split
  · exact (StaysExited.trans (.of_cos rfl) (staysExited_enterFault ..)).exitedAt hgang
  · exact hgang

end

end Sys2Proof.Machine
end

section
/-! O47: what dispatch and pre-emption make of a core and its coroutines (R165, R166, R271). -/

namespace Sys2Proof.Machine

/-! ### A dispatched coroutine (R165, R271) -/

/-- What a coroutine whose record is `r` has become on its core, which takes the stores `ss` and the vector entries `vs`: its
pending ones and its block, unless it is a supervisor coroutine in its handler. -/
structure Starts (r y : Coroutine) (ss : List Store) (vs : List VEntry) : Prop where
  run : y.state = .running ∧ y.wait = .none ∧ y.rtime = 0
  kept : y.x = r.x ∧ y.v = r.v ∧ y.pc = r.pc
  here : y.fresh = false ∧ y.evicted = false
  replays : r.hact = false ∨ r.again = true → y.pend = [] ∧ y.block = [] ∧ ss = r.pend ∧ vs.length = r.block.length
  handles : r.hact = true → r.again = false → y.pend = r.pend ∧ y.block = r.block ∧ ss = []

theorem dispatchCo_starts {c d : Chip} {core slot : Nat} {co r : Coroutine} (hco : c.co (coKey core slot) = some co)
    (hf : c.fetchRecord (coKey core slot) co = (.inr r, d)) :
    ∃ y ss vs, RunsOn c d (c.dispatchCo core slot) core slot y ((c.core core).sb ++ ss) ((c.core core).vq ++ vs) ∧ Starts r y ss vs := by
  have hmoves := moves_fetchRecord hf
  by_cases h : (r.hact && !r.again) = true
  · rw [dispatchCo_handler hco hf h]
    refine ⟨_, [], [], runsOn_dispatched hmoves core slot r _ (fun k => by simp), ⟨rfl, rfl, rfl⟩, ⟨rfl, rfl, rfl⟩, ⟨rfl, rfl⟩, ?_, ?_⟩
    · intro hr
      rcases hr with hr | hr
      · simp [hr] at h
      · simp [hr] at h
    · exact fun _ _ => ⟨rfl, rfl, rfl⟩
  · rw [dispatchCo_replays hco hf h]
    refine ⟨_, r.pend, r.blockAgain, runsOn_dispatched hmoves core slot r _ (fun _ => rfl), ⟨rfl, rfl, rfl⟩, ⟨rfl, rfl, rfl⟩, ⟨rfl, rfl⟩,
      fun _ => ⟨rfl, rfl, rfl, blockAgain_length r⟩, fun ha hg => ?_⟩
    simp [ha, hg] at h

/-! ### Pre-emption (R166) -/

section
variable {c : Chip} {key n : Nat} {co : Coroutine}

theorem givesWay_iff (hn : key / 256 = n) : c.givesWay key co = true
    ↔ (co.quantum ≠ 0 ∧ (c.core n).dispatched + co.quantum.toNat ≤ c.time
        ∧ ∃ e ∈ c.cos, e.1 / 256 = n ∧ e.2.state = .ready ∧ (if co.sup then 4 else co.level.toNat) ≤ e.2.levelAt c.time)
      ∨ (co.sup = false ∧ ∃ e ∈ c.cos, e.1 / 256 = n ∧ e.2.state = .ready ∧ e.2.sup = true) := by
  have hany : ∀ p : Nat × Coroutine → Bool, (c.readyOn n).any p = true
      ↔ ∃ e ∈ c.cos, e.1 / 256 = n ∧ e.2.state = .ready ∧ p e = true := by
    intro p
    simp only [List.any_eq_true, mem_readyOn, and_assoc]
  have hpassed : co.quantum ≠ 0 →
      (co.quantum.toNat ≤ c.time - (c.core n).dispatched ↔ (c.core n).dispatched + co.quantum.toNat ≤ c.time) := by
    intro hq
    have : co.quantum.toNat ≠ 0 := fun h => hq (BitVec.eq_of_toNat_eq h)
    omega
  unfold Chip.givesWay
  simp only [hn, Bool.or_eq_true, Bool.and_eq_true, hany, decide_eq_true_eq, Bool.not_eq_true', and_assoc]
  refine or_congr_left (and_congr_right fun hq => ?_)
  rw [hpassed hq]

theorem quantumExpiry_stays (hrun : c.runningKey n = some key) (hco : c.co key = some co) (h : c.givesWay key co = false) :
    c.quantumExpiry n = c := by
  unfold Chip.quantumExpiry
  simp only [hrun, hco, h]
  rfl

theorem quantumExpiry_yields (hrun : c.runningKey n = some key) (hco : c.co key = some co) (hruns : c.clusterRuns (n / 4) = true)
    (hdue : co.due = none) (hdrained : c.undrained key = false) (h : c.givesWay key co = true) :
    c.quantumExpiry n = c.suspend key co.dlive .ready .none := by
  unfold Chip.quantumExpiry
  simp only [hrun, hco, h, hruns, hdue, hdrained]
  rfl

theorem runningKey_slot (hrun : c.runningKey n = some key) (hn : key / 256 = n) : (c.core (key / 256)).running = some (key % 256) := by
  obtain ⟨slot, hs, hk⟩ := Option.map_eq_some_iff.1 hrun
  have : slot = key % 256 := by
    unfold coKey at hk
    omega
  rw [hn, hs, this]

theorem xr_keepLive (live : Word) (r : BitVec 5) : (co.keepLive live).xr r = if live.getLsbD r.toNat then co.xr r else 0 := by
  unfold Coroutine.xr Coroutine.keepLive
  by_cases hr : r = 0
  · rw [if_pos hr, if_pos hr, ite_self]
  · have hnat : r.toNat ≠ 0 := fun h => hr (BitVec.eq_of_toNat_eq h)
    rw [if_neg hr, if_neg hr, Vector.getElem_ofFn]
    exact if_congr (and_iff_right hnat) rfl rfl

theorem vr_keepLive (live : Word) (r : BitVec 5) :
    (co.keepLive live).vr r = if live.getLsbD (32 + r.toNat) then co.vr r else VReg.zero := by
  simp [Coroutine.vr, Coroutine.keepLive]

theorem dropRequests_frame (c : Chip) (key : Nat) : (c.dropRequests key).cos = c.cos ∧ (c.dropRequests key).mem = c.mem
    ∧ (c.dropRequests key).cores = c.cores := by
  unfold Chip.dropRequests
  split
  · exact ⟨rfl, rfl, rfl⟩
  · exact ⟨rfl, rfl, rfl⟩

theorem stopRunning_here (hrun : (c.core (key / 256)).running = some (key % 256)) :
    (c.stopRunning key).cos = c.cos ∧ (c.stopRunning key).mem = c.mem ∧ ((c.stopRunning key).core (key / 256)).running = none := by
  have hstop : c.stopRunning key = (c.modCore (key / 256) (fun k => { k with running := none })).dropRequests key := if_pos hrun
  obtain ⟨hcos, hmem, hcores⟩ := dropRequests_frame (c.modCore (key / 256) (fun k => { k with running := none })) key
  rw [hstop]
  refine ⟨hcos, hmem, ?_⟩
  rw [Chip.core, hcores, ← Chip.core, Chip.core_modCore]

/-- A coroutine as it leaves the running state under a live mask. -/
def Coroutine.suspended (co : Coroutine) (live : Word) (st : CoState) (w : Wait) (now : Nat) : Coroutine :=
  { co.keepLive live with state := st, wait := w, rtime := now }

/-- A coroutine whose record enters the cache reads as its live mask keeps it. -/
theorem suspended_recorded (co : Coroutine) (live : Word) (st : CoState) (w : Wait) (now n : Nat) :
    (∀ r : BitVec 5, ((co.suspended live st w now).recorded n).xr r = if live.getLsbD r.toNat then co.xr r else 0)
      ∧ (∀ r : BitVec 5, ((co.suspended live st w now).recorded n).vr r = if live.getLsbD (32 + r.toNat) then co.vr r else VReg.zero)
      ∧ ((co.suspended live st w now).recorded n).pc = co.pc := by
  refine ⟨fun r => ?_, fun r => ?_, by simp only [Coroutine.recorded, Coroutine.suspended, Coroutine.keepLive]⟩
  · rw [← xr_keepLive]
    simp only [Coroutine.xr, Coroutine.recorded, Coroutine.suspended]
  · rw [← vr_keepLive]
    simp only [Coroutine.vr, Coroutine.recorded, Coroutine.suspended]

/-- The coroutine of a core that is suspended leaves the core free, and its record goes into the context cache. -/
theorem suspend_running (hco : c.co key = some co) (hrun : (c.core (key / 256)).running = some (key % 256)) (live : Word) (st : CoState)
    (w : Wait) : ∃ b : Chip, b.mem = c.mem ∧ (b.core (key / 256)).running = none
      ∧ RecordKept c b (c.suspend key live st w) key (co.suspended live st w c.time) := by
  have hput : c.modCo key (fun co => co.suspended live st w c.time) = c.setCo key (co.suspended live st w c.time) := by
    rw [Chip.modCo, ← Chip.co, hco]
    rfl
  obtain ⟨hcos, hmem, hidle⟩ := stopRunning_here (c := c.setCo key (co.suspended live st w c.time)) hrun
  refine ⟨_, hmem, hidle, ?_⟩
  have hsuspend : c.suspend key live st w = ((c.setCo key (co.suspended live st w c.time)).stopRunning key).keepRecord key := by
    rw [← hput]
    rfl
  rw [hsuspend]
  exact recordKept_keepRecord hcos

end

theorem units_recorded (co : Coroutine) (n : Nat) : (co.recorded n).units = co.units := rfl

theorem RecordKept.othersStand {s t : State} {c : Chip} {key : Nat} {co : Coroutine} (h : RecordKept s.chip c t.chip key co)
    (hmem : c.mem = s.chip.mem) (n : Nat) : Claims.OthersStand s t key (co.recorded n).units := by
  rw [units_recorded]
  exact ⟨h.others, fun hfit => (h.fits hfit).imp_left (·.trans hmem)⟩

/-! ### The statement -/

theorem exec_dispatch (core : BitVec 9) (s : State) : exec (.dispatch core) s = onChip (fun c => c.dispatch core.toNat) s := rfl

theorem exec_quantumExpiry (core : BitVec 9) (s : State) :
    exec (.quantumExpiry core) s = onChip (fun c => c.quantumExpiry core.toNat) s := rfl

theorem coresDispatchAndPreempt : Claims.CoresDispatchAndPreempt := by
  intro s core n run hcore hruns
  subst hcore
  refine ⟨fun hidle => ⟨fun hnone => (exec_dispatch core s).trans (onChip_idle (dispatch_none hnone)), ?_⟩, ?_⟩
  · intro key co hin hco hkey hready hfirst
    have hchosen := dispatch_best hidle hruns (bestReady_first hin hkey hready hfirst)
    obtain ⟨slot, hslot⟩ : ∃ slot, slot = key % 256 := ⟨_, rfl⟩
    rw [← hslot] at hchosen
    obtain rfl : key = coKey core.toNat slot := by rw [hslot, coKey_parts hkey]
    refine ⟨fun hcached => by simp [Chip.fetchRecord, hcached], fun cause c hf => ?_, fun r c hf => ?_⟩
    · have hread : c.co (coKey core.toNat slot) = some co := by rw [Chip.co, (moves_fetchRecord hf).cos, ← Chip.co, hco]
      obtain ⟨co', hco', hexited⟩ := exitedAt_killConcerned hread (by simp [hready]) cause (wordOf (c.spillSlot (coKey core.toNat slot)))
      refine ⟨_, co', (exec_dispatch core s).trans (onChip_running run _), ?_, hexited⟩
      dsimp only
      rw [hchosen, Chip.dispatchCo, withRecord_untrusted hco hf, hco']
    · obtain ⟨y, ss, vs, hon, hy⟩ := dispatchCo_starts hco hf
      obtain ⟨hstate, hwait, hrtime⟩ := hy.run
      obtain ⟨hx, hv, hpc⟩ := hy.kept
      obtain ⟨hfresh, hcached⟩ := hy.here
      refine ⟨_, y, (exec_dispatch core s).trans (onChip_running run _), ?_⟩
      dsimp only
      rw [hchosen, ← hslot]
      refine ⟨hon.self, hstate, hwait, hrtime, hx, hv, hpc, hfresh, hcached, hon.running, hon.dispatched, fun hr => ?_, fun ha hg => ?_,
        hon.others, hon.mem⟩
      · obtain ⟨hpend, hblock, hss, hvs⟩ := hy.replays hr
        exact ⟨hpend, hblock, by rw [hon.sb, hss], by rw [hon.vq, List.length_append, hvs]⟩
      · obtain ⟨hpend, hblock, hss⟩ := hy.handles ha hg
        exact ⟨hpend, hblock, by rw [hon.sb, hss, List.append_nil]⟩
  · intro key co hrun hco hkey hdue hdrained
    refine ⟨fun hgives => ?_, fun hnone => (exec_quantumExpiry core s).trans (onChip_idle (quantumExpiry_stays hrun hco ?_))⟩
    · have hyields := quantumExpiry_yields hrun hco hruns hdue hdrained ((givesWay_iff hkey).2 hgives)
      obtain ⟨b, hmem, hidle, hkept⟩ := suspend_running hco (runningKey_slot hrun hkey) co.dlive .ready .none
      obtain ⟨left, hself⟩ := hkept.self
      rw [← hyields] at hkept hself
      rw [hkey] at hidle
      obtain ⟨hx, hv, hpc⟩ := suspended_recorded co co.dlive .ready .none s.chip.time left
      exact ⟨_, _, (exec_quantumExpiry core s).trans (onChip_running run _), hself, rfl, rfl, hx, hv, hpc,
        (hkept.running _).trans hidle, hkept.othersStand hmem left⟩
    · rw [Bool.eq_false_iff]
      intro hgives
      rcases (givesWay_iff hkey).1 hgives with ⟨-, -, e, hin, hon, hs, -⟩ | ⟨-, e, hin, hon, hs, -⟩
      · exact hnone e hin hon hs
      · exact hnone e hin hon hs

end Sys2Proof.Machine
end

section
/-! O47: messages place their coroutines, a hop that finds no identifier waits aside, and an exited coroutine's identifier becomes
free (R169-R172, R176, R213, R405). -/

namespace Sys2Proof.Machine

/-! ### The order in which places are tried (R169, R170) -/

theorem mem_insertBy {f : Nat → Nat} {x k : Nat} {l : List Nat} : k ∈ insertBy f x l ↔ k = x ∨ k ∈ l := by
  induction l with
  | nil => exact List.mem_cons
  | cons y r ih =>
    unfold insertBy
    split
    · exact List.mem_cons
    · rw [List.mem_cons, ih, List.mem_cons, or_left_comm]

theorem mem_sortBy {f : Nat → Nat} {k : Nat} {l : List Nat} : k ∈ sortBy f l ↔ k ∈ l := by
  have hfold : ∀ m : List Nat, k ∈ l.foldl (fun m x => insertBy f x m) m ↔ k ∈ l ∨ k ∈ m := by
    induction l with
    | nil => simp
    | cons x r ih =>
      intro m
      rw [List.foldl_cons, ih, mem_insertBy, List.mem_cons, or_left_comm, or_assoc]
  exact (hfold []).trans (or_iff_left List.not_mem_nil)

section
variable {c : Chip}

theorem mem_coreOrder {cl k : Nat} : k ∈ c.coreOrder cl ↔ ∃ i, i < 4 ∧ k = 4 * cl + i := by
  rw [Chip.coreOrder, mem_sortBy, List.mem_map]
  simp only [List.mem_range, eq_comm]

theorem mem_nearest {p d line cl : Nat} : cl ∈ c.nearest p d line ↔ (c.part p).clus.getLsbD cl = true ∧ cl / 32 = d := by
  rw [Chip.nearest, mem_sortBy, Chip.partClusters, List.mem_filter, List.mem_map]
  constructor
  · rintro ⟨⟨i, hi, rfl⟩, hcl⟩
    rw [List.mem_range] at hi
    exact ⟨hcl, by omega⟩
  · rintro ⟨hcl, hd⟩
    exact ⟨⟨cl % 32, List.mem_range.2 (by omega), by omega⟩, hcl⟩

/-- The cores that a hop tries are those of its partition's clusters on its home spire. -/
theorem mem_hopCores {p d line core : Nat} : core ∈ (c.nearest p d line).flatMap c.coreOrder
    ↔ ∃ cl k, (c.part p).clus.getLsbD cl = true ∧ cl / 32 = d ∧ k < 4 ∧ core = 4 * cl + k := by
  rw [List.mem_flatMap]
  simp only [mem_nearest, mem_coreOrder, and_assoc]
  exact exists_congr fun cl => ⟨fun ⟨hcl, hd, k, hk⟩ => ⟨k, hcl, hd, hk⟩, fun ⟨k, hcl, hd, hk⟩ => ⟨hcl, hd, k, hk⟩⟩

theorem reserveOn_some {cores : List Nat} {t : Nat × Nat} (h : c.reserveOn cores = some t) : t.1 ∈ cores ∧ c.freeSlot t.1 = some t.2 := by
  obtain ⟨core, hin, ht⟩ := List.exists_of_findSome?_eq_some h
  obtain ⟨slot, hslot, rfl⟩ := Option.map_eq_some_iff.1 ht
  exact ⟨hin, hslot⟩

theorem reserveOn_none {cores : List Nat} : c.reserveOn cores = none ↔ ∀ core ∈ cores, c.freeSlot core = none := by
  simp [Chip.reserveOn]

/-! ### Arrival (R155, R176) -/

theorem arrived_iff {i : Nat} {f : Flying} : c.arrived i f = true ↔ ¬ Claims.Overtakes c i f := by
  unfold Chip.arrived Claims.Overtakes
  cases f.waiting with
  | true => simp
  | false => simp [and_assoc]

theorem deliverable_running {f : Flying} {p : Nat} (hd : f.dropped = false) (hp : f.part = some p) (hs : (c.part p).state = 1) :
    c.deliverable f = true := by
  simp [Chip.deliverable, hd, hp, hs]

end

/-! ### Placing (R169, R170, R405) -/

theorem countRecv_frame (c : Chip) (core lid : Nat) : c.countRecv core lid = { c with launches := (c.countRecv core lid).launches } := by
  unfold Chip.countRecv Chip.modLaunch
  split
  · rfl
  · rfl

theorem launch_countRecv {c : Chip} {lid : Nat} {l : Launch} (h : c.launch lid = some l) (core : Nat) :
    (c.countRecv core lid).launch lid = some { l with recv := mset l.recv core (mgetD l.recv core 0 + 1) } := by
  rw [Chip.launch] at h
  rw [Chip.countRecv, Chip.modLaunch, h]
  exact mget_mset_self ..

/-- A coroutine as it is placed: ready now. -/
def Coroutine.placed (co : Coroutine) (now : Nat) : Coroutine := { co with state := .ready, rtime := now }

/-- The gangs once one of their members has been placed on a cluster. -/
def Chip.gangsAt (c : Chip) (cl gang : Nat) : AMap Gang :=
  match mget c.gangs gang with
  | some g => mset c.gangs gang { g with cluster := cl }
  | none => c.gangs

/-- The chip with a coroutine put at an identifier, before its record is made. -/
def Chip.putPlaced (c : Chip) (core slot : Nat) (co : Coroutine) : Chip :=
  Chip.setCo { c with gangs := c.gangsAt (core / 4) co.gang } (coKey core slot) (co.placed c.time)

theorem placeCo_eq (c : Chip) (core slot : Nat) (co : Coroutine) :
    c.placeCo core slot co = ((c.putPlaced core slot co).keepRecord (coKey core slot)).countRecv core co.lid := rfl

/-- A placed coroutine is ready now, counted at its core, and its message is gone. -/
theorem placed_of_placeCo {s t : State} {i core slot : Nat} {co : Coroutine} (h : t.chip = (s.chip.dropMsg i).placeCo core slot co) :
    Claims.Placed s t i core slot co := by
  rw [placeCo_eq] at h
  have hkept : RecordKept s.chip _ _ (coKey core slot) (co.placed s.chip.time) :=
    recordKept_keepRecord (c := (s.chip.dropMsg i).putPlaced core slot co) rfl
  have hframe := countRecv_frame (((s.chip.dropMsg i).putPlaced core slot co).keepRecord (coKey core slot)) core co.lid
  have hmsgs : t.chip.msgs = dropAt s.chip.msgs i := by
    rw [h, hframe]
    exact hkept.msgs
  have hmem : t.chip.mem = (((s.chip.dropMsg i).putPlaced core slot co).keepRecord (coKey core slot)).mem := by
    rw [h, hframe]
  have hco : ∀ k, t.chip.co k = (((s.chip.dropMsg i).putPlaced core slot co).keepRecord (coKey core slot)).co k := fun k => by
    rw [h, hframe]
    rfl
  refine ⟨?_, hmsgs, ⟨fun k m hk hm => ?_, fun hfit => ?_⟩, fun l hl => ?_⟩
  · obtain ⟨n, hself⟩ := hkept.self
    exact ⟨n, (hco _).trans hself⟩
  · rw [hco]
    exact hkept.others k m hk hm
  · obtain ⟨hfmem, hfcos⟩ := hkept.fits hfit
    exact ⟨hmem.trans hfmem, fun k hk => (hco k).trans (hfcos k hk)⟩
  · have hlaunch : (((s.chip.dropMsg i).putPlaced core slot co).keepRecord (coKey core slot)).launch co.lid = some l :=
      (congrArg (mget · co.lid) hkept.launches).trans hl
    exact ⟨_, (congrArg (Chip.launch · co.lid) h).trans (launch_countRecv hlaunch core), mgetD_mset_self .., rfl⟩

section
variable {c : Chip} {i p : Nat} {f : Flying} (hi : c.msgs[i]? = some f) (hd : f.dropped = false) (ho : ¬ Claims.Overtakes c i f)
  (hp : f.part = some p) (hs : (c.part p).state = 1)
include hi hd ho hp hs

theorem spawnPlace_places {core slot : Nat} {co : Coroutine} (hm : f.msg = .spawn core slot co) :
    c.spawnPlace i = (c.dropMsg i).placeCo core slot co := by
  unfold Chip.spawnPlace
  simp only [hi, hm, deliverable_running hd hp hs, arrived_iff.2 ho]
  rfl

theorem migratePlace_places {core slot : Nat} {co : Coroutine} (hm : f.msg = .migrate core slot co) :
    c.migratePlace i = (c.dropMsg i).placeCo core slot co := by
  unfold Chip.migratePlace
  simp only [hi, hm, deliverable_running hd hp hs, arrived_iff.2 ho]
  rfl

variable {d line : Nat} {co : Coroutine} (hm : f.msg = .hop d line co) (hfresh : f.waiting = false)
  (hfirst : ∀ g ∈ c.msgs, g.waiting = true → g.part ≠ f.part)
include hm hfresh hfirst

/-- A hop behind no waiting one takes the first place that it finds. -/
theorem hopPlace_tries : (c.reserveOn ((c.nearest p d line).flatMap c.coreOrder) = none → c.hopPlace i = c.waitAside i f d)
    ∧ ∀ t, c.reserveOn ((c.nearest p d line).flatMap c.coreOrder) = some t → c.hopPlace i = (c.dropMsg i).placeCo t.1 t.2 co := by
  have hnone : hopWaiting c.msgs (some p) d = false := by
    refine List.any_eq_false.2 fun g hg => ?_
    have hother := hfirst g hg
    rw [hp] at hother
    cases hw : g.waiting with
    | false => simp
    | true => simp [hother hw]
  unfold Chip.hopPlace
  simp only [hi, hm, hp, deliverable_running hd hp hs, arrived_iff.2 ho, hfresh, hnone, Bool.not_true, Bool.or_self, Bool.false_eq_true,
    if_false]
  exact ⟨fun h => by rw [h], fun t h => by rw [h]⟩

theorem hopPlace_places (hfree : ∃ cl k slot, (c.part p).clus.getLsbD cl = true ∧ cl / 32 = d ∧ k < 4
      ∧ c.freeSlot (4 * cl + k) = some slot) :
    ∃ cl k slot, (c.part p).clus.getLsbD cl = true ∧ cl / 32 = d ∧ k < 4 ∧ c.freeSlot (4 * cl + k) = some slot
      ∧ c.hopPlace i = (c.dropMsg i).placeCo (4 * cl + k) slot co := by
  obtain ⟨-, hplace⟩ := hopPlace_tries hi hd ho hp hs hm hfresh hfirst
  cases ht : c.reserveOn ((c.nearest p d line).flatMap c.coreOrder) with
  | none =>
    obtain ⟨cl, k, slot, hcl, hspire, hk, hslot⟩ := hfree
    rw [reserveOn_none.1 ht _ (mem_hopCores.2 ⟨cl, k, hcl, hspire, hk, rfl⟩)] at hslot
    cases hslot
  | some t =>
    obtain ⟨core, slot⟩ := t
    obtain ⟨hin, hslot⟩ := reserveOn_some ht
    obtain ⟨cl, k, hcl, hspire, hk, rfl⟩ := mem_hopCores.1 hin
    exact ⟨cl, k, slot, hcl, hspire, hk, hslot, hplace (4 * cl + k, slot) ht⟩

theorem hopPlace_waits (hfull : ∀ cl k, (c.part p).clus.getLsbD cl = true → cl / 32 = d → k < 4 → c.freeSlot (4 * cl + k) = none) :
    c.hopPlace i = c.waitAside i f d := by
  obtain ⟨hwait, -⟩ := hopPlace_tries hi hd ho hp hs hm hfresh hfirst
  refine hwait (reserveOn_none.2 fun core hcore => ?_)
  obtain ⟨cl, k, hcl, hspire, hk, rfl⟩ := mem_hopCores.1 hcore
  exact hfull cl k hcl hspire hk

end

/-! ### Waiting aside (R171, R176, R222) -/

theorem lineFrame_writeAside (c : Chip) (d : Nat) (m : Msg) :
    LineFrame { c with free := c.free + 1 + m.room } (c.writeAside d m) := lineFrame_homePut ..

/-- A context written aside lies in the last 64 MiB of its spire's spill region. -/
theorem writeAside_outside {c : Chip} {d m : Nat} (msg : Msg) (hspill : (c.spire d).spill % 128 = 0) (hwf : Memory.wf c.mem)
    (hm : m < (c.spire d).spill + 0x20000000 ∨ (c.spire d).spill + 0x24000000 ≤ m) :
    memRead (c.writeAside d msg).mem m = memRead c.mem m := by
  refine (homePut_apart (fun p hp => (mem_linePieces hp).1) { c with free := c.free + 1 + msg.room } _ _ hwf fun p hp => ?_ :)
  obtain ⟨-, hlow, hhigh⟩ := mem_linePieces hp
  omega

/-- A hop that has not waited yet goes to the end of the messages, and its context aside. -/
theorem waitAside_waits {c : Chip} {i d : Nat} {f : Flying} (h : f.waiting = false) :
    c.waitAside i f d = Chip.writeAside { c with msgs := dropAt c.msgs i ++ [{ f with waiting := true }] } d f.msg :=
  if_neg (by simp [h])

/-! ### Freeing an identifier (R213) -/

theorem sweepGang_frame (c : Chip) (g : Nat) : (c.sweepGang g).cos = c.cos ∧ (c.sweepGang g).mem = c.mem := by
  unfold Chip.sweepGang
  split
  · exact ⟨rfl, rfl⟩
  · exact ⟨rfl, rfl⟩

theorem freeCo_frees {c : Chip} {key : Nat} {co : Coroutine} (hco : c.co key = some co) (hs : co.state = .exited)
    (hd : c.undrained key = false) (hr : c.requested key = false) :
    (c.freeCo key).cos = merase c.cos key ∧ (c.freeCo key).mem = c.mem := by
  have hfree : c.freeCo key = (Chip.sweepGang { c with cos := merase c.cos key } co.gang).sweepGang (c.windowGang co.gang) := by
    unfold Chip.freeCo
    simp only [hco, hs, Chip.mayFree, hd, hr]
    rfl
  obtain ⟨hcos, hmem⟩ := sweepGang_frame (Chip.sweepGang { c with cos := merase c.cos key } co.gang) (c.windowGang co.gang)
  obtain ⟨hcos', hmem'⟩ := sweepGang_frame { c with cos := merase c.cos key } co.gang
  rw [hfree, hcos, hcos', hmem, hmem']
  exact ⟨rfl, rfl⟩

theorem freeCo_stays {c : Chip} {key : Nat} {co : Coroutine} (hco : c.co key = some co)
    (h : co.state ≠ .exited ∨ c.undrained key = true ∨ c.requested key = true) : c.freeCo key = c := by
  have hb : (decide (co.state = .exited) && c.mayFree key) = false := by
    rcases h with h | h | h
    · simp [h]
    · simp [Chip.mayFree, h]
    · simp [Chip.mayFree, h]
  unfold Chip.freeCo
  simp only [hco, hb]
  rfl

/-! ### The statement -/

theorem exec_spawnPlace (i : BitVec 16) (s : State) : exec (.spawnPlace i) s = onChip (fun c => c.spawnPlace i.toNat) s := rfl

theorem exec_migratePlace (i : BitVec 16) (s : State) : exec (.migratePlace i) s = onChip (fun c => c.migratePlace i.toNat) s := rfl

theorem exec_travelHopPlace (i : BitVec 16) (s : State) : exec (.travelHopPlace i) s = onChip (fun c => c.hopPlace i.toNat) s := rfl

theorem exec_coroutineFree (core : BitVec 9) (slot : BitVec 8) (s : State) :
    exec (.coroutineFree core slot) s = onChip (fun c => c.freeCo (coKey core.toNat slot.toNat)) s := rfl

theorem messagesPlaceCoroutines : Claims.MessagesPlaceCoroutines := by
  intro s run
  refine ⟨fun i f hi hd ho p hp hs => ⟨fun core slot co hm => ?_, fun core slot co hm => ?_, fun d line co hm _ hfresh hfirst =>
    ⟨fun hfree => ?_, fun hfull => ?_⟩⟩, fun core slot key co hkey hco => ?_⟩
  · exact ⟨_, (exec_spawnPlace i s).trans (onChip_running run _), placed_of_placeCo (spawnPlace_places hi hd ho hp hs hm)⟩
  · exact ⟨_, (exec_migratePlace i s).trans (onChip_running run _), placed_of_placeCo (migratePlace_places hi hd ho hp hs hm)⟩
  · obtain ⟨cl, k, slot, hcl, hspire, hk, hslot, hplace⟩ := hopPlace_places hi hd ho hp hs hm hfresh hfirst hfree
    exact ⟨_, cl, k, slot, (exec_travelHopPlace i s).trans (onChip_running run _), hcl, hspire, hk, hslot, placed_of_placeCo hplace⟩
  · have hframe := lineFrame_writeAside { s.chip with msgs := dropAt s.chip.msgs i.toNat ++ [{ f with waiting := true }] } d f.msg
    refine ⟨_, (exec_travelHopPlace i s).trans (onChip_running run _), ?_⟩
    dsimp only
    rw [hopPlace_waits hi hd ho hp hs hm hfresh hfirst hfull, waitAside_waits hfresh]
    exact ⟨hframe.msgs, hframe.cos, fun hspill hwf m hm => writeAside_outside f.msg hspill hwf hm⟩
  · subst hkey
    refine ⟨fun hs hd hr => ?_, fun h => (exec_coroutineFree core slot s).trans (onChip_idle (freeCo_stays hco h))⟩
    obtain ⟨hcos, hmem⟩ := freeCo_frees hco hs hd hr
    refine ⟨_, (exec_coroutineFree core slot s).trans (onChip_running run _), ?_, fun k hk => ?_, hmem⟩
    · exact (congrArg (mget · _) hcos).trans (mget_merase_self ..)
    · exact (congrArg (mget · k) hcos).trans (mget_merase_ne _ hk)

/-- Settles O47: a core dispatches the first of its ready coroutines and preempts by level and quantum; messages place coroutines. -/
theorem coresAndMessages : Obligations.CoresAndMessages := ⟨coresDispatchAndPreempt, messagesPlaceCoroutines⟩

end Sys2Proof.Machine
end

section
/-! O48: a faulted store's coroutine keeps the pending stores that it had, ahead of those it gathers (R199, R264). -/

namespace Sys2Proof.Machine

/-! ### A fault record opened, a trap taken (R116, R234) -/

section
variable (c : Chip)

theorem openRecord_frame (d asid va kind : Nat) (o : Option Nat) :
    (c.openRecord d asid va kind o).2.cos = c.cos ∧ (c.openRecord d asid va kind o).2.cores = c.cores := by
  unfold Chip.openRecord
  split
  · exact ⟨rfl, rfl⟩
  · dsimp only
    split
    · exact ⟨rfl, rfl⟩
    · exact ⟨rfl, rfl⟩

theorem stopRunning_cos (key : Nat) : (c.stopRunning key).cos = c.cos := by
  unfold Chip.stopRunning
  split
  · exact (dropRequests_frame ..).1
  · rfl

theorem postFault_cos (key : Nat) (co : Coroutine) (flags : Nat) : (c.postFault key co flags).cos = c.cos := by
  unfold Chip.postFault Chip.enterFault
  dsimp only
  split
  · rfl
  split
  · split
    · rfl
    · rfl
  · rfl

end

section
variable {c : Chip} {key : Nat} {co : Coroutine}

theorem spillRecord_pend (h : c.co key = some co) : ∃ x, (c.spillRecord key).co key = some x ∧ x.pend = co.pend := by
  unfold Chip.spillRecord
  simp only [h]
  exact ⟨_, (congrArg (mget · key) (lineFrame_homePut ..).cos).trans (mget_mset_self ..), rfl⟩

theorem becomeFaulted_pend (x : Coroutine) (flags : Nat) :
    ∃ x', (c.becomeFaulted key x flags).co key = some x' ∧ x'.pend = x.pend := by
  obtain ⟨y, hy, hpend⟩ : ∃ y, y = (if x.state = .parked then { x with prior := .faulted, wait := .none, trapped := true }
      else { x with state := .faulted, wait := .none, trapped := true }) ∧ y.pend = x.pend := ⟨_, rfl, by split <;> rfl⟩
  have hput : (((c.setCo key y).stopRunning key).settlePool key []).co key = some y := by
    rw [(poolFrame_settlePool ..).co, Chip.co, stopRunning_cos]
    exact Chip.co_setCo ..
  obtain ⟨x', hx', hspilled⟩ := spillRecord_pend hput
  refine ⟨x', ?_, hspilled.trans hpend⟩
  unfold Chip.becomeFaulted
  rw [← hy, Chip.co, postFault_cos]
  exact hx'

/-- A user coroutine that takes a trap keeps its pending stores. -/
theorem takeTrap_pend (hco : c.co key = some co) (huser : co.sup = false) (t : Trap) (flags : Nat) :
    ∃ x, (c.takeTrap key t flags).co key = some x ∧ x.pend = co.pend := by
  have hhandler : c.handles key co = false := by simp [Chip.handles, huser]
  have htake : c.takeTrap key t flags = c.becomeFaulted key ((co.withTrap t).keepLive co.dlive) flags := by
    simp [Chip.takeTrap, hco, hhandler]
  have hkept : ((co.withTrap t).keepLive co.dlive).pend = co.pend := by simp only [Coroutine.keepLive, Coroutine.withTrap]
  rw [htake, ← hkept]
  exact becomeFaulted_pend ..

theorem take_drained (h : c.undrained key = false) (d : Due) : c.take key d = c.deliver key d := by
  simp [Chip.take, h]

theorem undrained_of_cores {d : Chip} (h : d.cores = c.cores) : d.undrained key = c.undrained key := by
  simp [Chip.undrained, Chip.storesPending, Chip.vectorPending, Chip.core, h]

/-- A fault of a kind that the supervisor serves: its record is opened if it can be, and the trap is taken (R116). -/
theorem memTrap_pend {k : Nat} (hk : k ∉ [5, 6, 7, 9, 10, 11]) (hco : c.co key = some co) (huser : co.sup = false)
    (hdrained : c.undrained key = false) (t : Trap) : ∃ x, (c.memTrap key (.kind k) t).co key = some x ∧ x.pend = co.pend := by
  have hseven : k ≠ 7 := by rintro rfl; simp at hk
  have hhost : hostKind k = false := by
    simp only [List.mem_cons, List.not_mem_nil, or_false, not_or] at hk
    simp [hostKind, hk]
  have hopen := openRecord_frame c (spireOf (key / 256)) t.asid t.faddr.toNat k (some key)
  obtain ⟨r, hr⟩ : ∃ r, r = c.openRecord (spireOf (key / 256)) t.asid t.faddr.toNat k (some key) := ⟨_, rfl⟩
  rw [← hr] at hopen
  have htrap : c.memTrap key (.kind k) t
      = r.2.take key (.trap { t with kind := k, tok := r.1 } (if r.1 = 0 then 0 else 2)) := by
    simp [Chip.memTrap, hco, huser, hseven, hhost, hr]
  rw [htrap, take_drained ((undrained_of_cores hopen.2).trans hdrained)]
  exact takeTrap_pend ((congrArg (mget · key) hopen.1).trans hco) huser _ _

end

/-! ### Translation on behalf of a store (R105, R111) -/

section
variable (c : Chip)

theorem xlate_frame (a : Agent) (va : Nat) (k : Acc) (back : Bool) :
    (c.xlate a va k back).2.cos = c.cos ∧ (c.xlate a va k back).2.cores = c.cores := by
  have h := translate_does c a.spire a.asid va k a.sup back
  unfold Chip.xlate
  split
  · exact ⟨rfl, rfl⟩
  · split
    next e => rw [e] at h; exact ⟨h.cos, h.cores⟩
    next e =>
      rw [e] at h
      split
      · exact ⟨h.cos, h.cores⟩
      · exact ⟨h.cos, h.cores⟩

theorem xlateAll_frame (a : Agent) (ps : List (Nat × Nat)) (k : Acc) :
    (c.xlateAll a ps k).2.cos = c.cos ∧ (c.xlateAll a ps k).2.cores = c.cores := by
  induction ps generalizing c with
  | nil => exact ⟨rfl, rfl⟩
  | cons p r ih =>
    have hp := xlate_frame c a (p.1 % 2 ^ 64) k false
    unfold Chip.xlateAll
    split
    next e => rw [e] at hp; exact hp
    next x d e =>
      rw [e] at hp
      have hr := ih d
      split
      next e' => rw [e'] at hr; exact ⟨hr.1.trans hp.1, hr.2.trans hp.2⟩
      next e' => rw [e'] at hr; exact ⟨hr.1.trans hp.1, hr.2.trans hp.2⟩

/-- A store that is not performed changes no coroutine and no core. -/
theorem performStore_fails {core : Nat} {co : Coroutine} {st : Store} {f : MemFault} {d : Chip}
    (h : c.performStore core co st = (some f, d)) : d.cos = c.cos ∧ d.cores = c.cores := by
  have hx := xlateAll_frame c { co.agent (coKey core st.slot) with asid := st.asid, sup := st.sup }
    (linePieces 8 st.va (leBytes st.size st.data).length) .store
  unfold Chip.performStore Chip.store at h
  split at h
  next hs =>
    split at hs
    next e =>
      rw [e] at hx
      cases hs
      cases h
      exact hx
    next => cases hs
  next => cases h

end

/-! ### A buffered store that faults (R199) -/

section
variable {c : Chip} {key : Nat} {co : Coroutine}

theorem gatherStores_eq (h : c.co key = some co) :
    c.gatherStores key = (c.setCo key { co with pend := co.pend ++ c.storesOf key }).modCore (key / 256)
      (fun k => { k with sb := k.sb.filter (fun s => s.slot ≠ key % 256) }) := by
  have hput : c.modCo key (fun co => { co with pend := co.pend ++ c.storesOf key })
      = c.setCo key { co with pend := co.pend ++ c.storesOf key } := by
    rw [Chip.modCo, ← Chip.co, h]
    rfl
  rw [Chip.gatherStores, hput]

theorem gatherStores_co (h : c.co key = some co) :
    (c.gatherStores key).co key = some { co with pend := co.pend ++ c.storesOf key } := by
  rw [gatherStores_eq h]
  exact Chip.co_setCo ..

theorem gatherStores_drained (h : c.co key = some co) (hvq : c.vectorPending key = false) :
    (c.gatherStores key).undrained key = false := by
  have hstores : (c.gatherStores key).storesPending key = false := by
    simp [gatherStores_eq h, Chip.storesPending]
  have hentries : (c.gatherStores key).vectorPending key = c.vectorPending key := by
    rw [gatherStores_eq h, Chip.vectorPending, Chip.core_modCore]
    rfl
  rw [Chip.undrained, hstores, hentries, hvq]
  rfl

/-- What a coroutine's pending-store list holds when its oldest store faults stays there, ahead of the stores it gathers. -/
theorem faultStore_pend {core idx k : Nat} {st : Store} {d : Chip} (hst : (c.core core).sb[idx]? = some st)
    (hkey : key = core * 256 + st.slot) (hslot : st.slot < 256) (hold : ∀ e ∈ (c.core core).sb.take idx, e.slot ≠ st.slot)
    (hco : c.co key = some co) (hrun : co.state = .running) (huser : co.sup = false) (hdue : co.due = none)
    (hvq : ∀ e ∈ (c.core core).vq, e.slot ≠ st.slot) (hfault : c.performStore core co st = (some (.kind k), d))
    (hk : k ∉ [5, 6, 7, 9, 10, 11]) :
    ∃ x, (c.faultStore core idx).co key = some x ∧ x.pend = co.pend ++ d.storesOf key := by
  obtain ⟨hcos, hcores⟩ := performStore_fails c hfault
  have hcore : key / 256 = core := by omega
  have hmod : key % 256 = st.slot := by omega
  have hdco : d.co key = some co := (congrArg (mget · _) hcos).trans hco
  have hdvq : d.vectorPending key = false := by
    rw [Chip.vectorPending, Chip.core, hcores, ← Chip.core, hcore, hmod]
    simpa using hvq
  have holdest : ((c.core core).sb.take idx).any (fun t => t.slot = st.slot) = false := by
    simpa only [List.any_eq_false, decide_eq_true_eq] using hold
  have heq : c.faultStore core idx = (d.gatherStores key).memTrap key (.kind k)
      ⟨causeSpf, co.pc, wordOf st.va, 0, 3, false, 0, 0, 0, 0, 0, st.asid⟩ := by
    unfold Chip.faultStore
    simp only [hst, holdest, coKey, ← hkey, hco, hfault, hrun, hdue]
    rfl
  rw [heq]
  exact memTrap_pend hk (gatherStores_co hdco) huser (gatherStores_drained hdco hdvq) _

end

/-! ### The statement -/

/-- A user store of a doubleword at 0x201000 in ASID 1, which has no table. -/
def strayStore : Store := ⟨0, 0x201000, 0, 8, false, 0, 1, false⟩

/-- A user coroutine that runs with a store in its pending-store list, which a dispatch with `HACT` set leaves there (R271, R272). -/
def handlingUser : Coroutine := { Coroutine.blank with state := .running, hact := true, pend := [strayStore] }

/-- It runs in a served partition, and its core has buffered the same store once more. -/
def strayChip : Chip :=
  { Chip.reset with
    cos := [(0, handlingUser)]
    cores := [(0, { Core.reset with running := some 0, sb := [strayStore] })]
    parts := [(0, { Partition.reset with en := true, state := 1, clus := 1, sventry := 0x300000 })] }

/-- Nothing maps the store: ASID 1 has no root. -/
theorem strayStore_faults : strayChip.performStore 0 handlingUser strayStore = (some (.kind 8), strayChip) := by decide

theorem exec_storeFault (core : BitVec 9) (idx : BitVec 5) (s : State) :
    exec (.storeFault core idx) s = onChip (fun c => c.faultStore core.toNat idx.toNat) s := rfl

/-- The claim gives the gathered stores alone as the pending-store list, which here held a store before. -/
theorem not_storeFaultsAndFaultQueuePosts : ¬ Claims.StoreFaultsAndFaultQueuePosts := by
  intro h
  obtain ⟨hstore, -⟩ := h { State.reset with chip := strayChip } rfl
  obtain ⟨t, x, ht, hx, -, -, -, -, hclaim, -⟩ := hstore 0 0 0 0 0 8 strayStore handlingUser strayChip rfl rfl rfl (by decide)
    (by decide) rfl rfl rfl rfl (by decide) strayStore_faults (by decide) rfl rfl
  obtain ⟨y, hy, hpend⟩ : ∃ y, (strayChip.faultStore (0 : BitVec 9).toNat (0 : BitVec 5).toNat).co 0 = some y
      ∧ y.pend = handlingUser.pend ++ strayChip.storesOf 0 :=
    faultStore_pend rfl rfl (by decide) (by decide) rfl rfl rfl rfl (by decide) strayStore_faults (by decide)
  obtain rfl := Host.Outcome.next.inj (((exec_storeFault 0 0 _).trans (onChip_running rfl _)).symm.trans ht)
  dsimp only at hx
  obtain rfl : y = x := Option.some.inj (hy.symm.trans hx)
  have hnil : handlingUser.pend = [] := List.append_left_eq_self.1 (hpend.symm.trans hclaim)
  cases hnil

/-- Refutes O48: the stores of a faulting store's coroutine go behind those that its pending-store list already holds, which
`StoreFaultsAndFaultQueuePosts` does not ask to be empty: a running user coroutine with one store pending and one buffered is left
with two. -/
theorem not_faultedStoresAndQueuedAtomics : ¬ Obligations.FaultedStoresAndQueuedAtomics := by
  unfold Obligations.FaultedStoresAndQueuedAtomics
  rintro ⟨hfaults, -⟩
  exact not_storeFaultsAndFaultQueuePosts hfaults

end Sys2Proof.Machine
end

section
/-! O15: what the spill of a record changes of memory (R222, R267), and what a trap leaves (R234, R260, R272, R273). -/

namespace Sys2Proof.Machine

/-! ### A write of one line leaves the other lines clean -/

section
variable {c : Chip} {L : Nat}

/-- Bytes placed at L2 make DRAM stale at their own addresses only. -/
theorem placeAll_cached_stale (pa : Nat) (vs : List Byte) {e : Nat × Byte} (he : e ∈ (c.placeAll pa vs Chip.placeCached).dramOld) :
    e ∈ c.dramOld ∨ pa ≤ e.1 ∧ e.1 < pa + vs.length := by
  induction vs generalizing c pa with
  | nil => exact .inl he
  | cons v r ih =>
    rw [List.length_cons]
    rcases ih (pa + 1) he with h | h
    · have h : e ∈ (if c.dramByte pa = v then merase c.dramOld pa else mset c.dramOld pa (c.dramByte pa)) := h
      split at h
      · exact .inl (List.mem_of_mem_filter h)
      · rcases of_mem_mset h with rfl | h
        · exact .inr (by dsimp only; omega)
        · exact .inl h
    · exact .inr (by omega)

theorem Chip.Clean.placeCached {pa : Nat} {vs : List Byte} (h : c.Clean L) (hl : ∀ a, pa ≤ a → a < pa + vs.length → a / 128 ≠ L) :
    (c.placeAll pa vs Chip.placeCached).Clean L :=
  h.fewer (by rw [placeAll_cached]; exact fun _ => id) fun e he hL =>
    (placeAll_cached_stale pa vs he).resolve_right fun ⟨hlow, hhigh⟩ => hl _ hlow hhigh hL

theorem Chip.Clean.modCopy {l : Nat} (h : c.Clean L) (hl : l ≠ L) (n : Nat) (f : LineCopy → LineCopy) : (c.modCopy n l f).Clean L := by
  unfold Chip.modCopy
  split
  · exact h.put n l _ (fun e => absurd e hl) rfl fun _ he _ => he
  · exact h

theorem Chip.Clean.writeCopy {pa : Nat} {vs : List Byte} (h : c.Clean L) (hl : lineOf pa ≠ L) (hlen : pa % 128 + vs.length ≤ 128)
    (d : Nat) (pkg through : Bool) : (c.writeCopy d pa vs pkg through).Clean L := by
  have hflush : ∀ b : Chip, b.Clean L → (if through then b.flushCopy d (lineOf pa) else b).Clean L := fun b hb => by
    split
    · exact ((moves_flushCopy (T := fun _ => True) ..).clean L hb).1
    · exact hb
  have hplace : ∀ b : Chip, b.Clean L → (b.placeAll pa vs Chip.placeCached).Clean L := fun b hb =>
    hb.placeCached fun a _ _ => by unfold lineOf at hl; omega
  unfold Chip.writeCopy
  refine hflush _ ?_
  split
  · refine (hplace _ ?_).modCopy hl _ _
    split
    next bytes _ =>
      refine (h.placeCached fun a _ ha => ?_).modCopy hl _ _
      have := List.length_take_le 128 bytes
      unfold lineOf at *
      omega
    next => exact h
  · exact h.modCopy hl _ _

end

/-! ### Pieces of a range, written through their home slices -/

/-- A piece lies within its range and is not empty. -/
theorem linePieces_within {fuel va n : Nat} {p : Nat × Nat} (h : p ∈ linePieces fuel va n) :
    va ≤ p.1 ∧ p.1 + p.2 ≤ va + n ∧ 0 < p.2 := by
  induction fuel generalizing va n with
  | zero => cases h
  | succ f ih =>
    unfold linePieces at h
    split at h
    · cases h
    split at h
    · rw [List.mem_singleton.1 h]
      dsimp only
      omega
    · obtain rfl | h := List.mem_cons.1 h
      · dsimp only
        omega
      · have := ih h
        omega

theorem linePieces_pairwise (fuel va n : Nat) : (linePieces fuel va n).Pairwise fun p q => lineOf p.1 ≠ lineOf q.1 := by
  induction fuel generalizing va n with
  | zero => exact .nil
  | succ f ih =>
    unfold linePieces
    split
    · exact .nil
    split
    · exact List.pairwise_singleton ..
    · refine List.pairwise_cons.2 ⟨fun q hq => ?_, ih ..⟩
      obtain ⟨-, hline, -⟩ := mem_linePieces hq
      unfold lineOf at *
      dsimp only
      omega

/-- Pieces of different lines leave every byte of a clean line alone that is not in one of them. -/
theorem homePut_outside {ps : List (Nat × Nat)} (hps : ∀ p ∈ ps, p.1 % 128 + p.2 ≤ 128)
    (hlines : ps.Pairwise fun p q => lineOf p.1 ≠ lineOf q.1) (c : Chip) (vs : List Byte) (ws : List Nat) (hwf : Memory.wf c.mem)
    {a : Nat} (hclean : c.Clean (lineOf a)) (ha : ∀ p ∈ ps, a < p.1 ∨ p.1 + p.2 ≤ a) :
    memRead (c.homePut ps vs ws).mem a = memRead c.mem a := by
  induction ps generalizing c vs with
  | nil => rfl
  | cons p r ih =>
    obtain ⟨hp, hr⟩ := List.forall_mem_cons.1 hps
    obtain ⟨hap, har⟩ := List.forall_mem_cons.1 ha
    obtain ⟨hfirst, hrest⟩ := List.pairwise_cons.1 hlines
    have hm := (moves_soundWord (T := fun _ => True) c (lineOf p.1) (hbmHome p.1)).trans
      (moves_homeWrite _ (lineOf p.1) (hbmHome p.1) ws (sectorsOf p.1 p.2 &&& ~~~(sectorsWhole p.1 p.2)) trivial)
    obtain ⟨b, hb⟩ : ∃ b, b = (c.soundWord (lineOf p.1) (hbmHome p.1)).homeWrite (lineOf p.1) (hbmHome p.1) ws
      (sectorsOf p.1 p.2 &&& ~~~(sectorsWhole p.1 p.2)) := ⟨_, rfl⟩
    rw [← hb] at hm
    obtain ⟨hbclean, hbread⟩ := hm.clean _ hclean
    have htake := List.length_take_le p.2 vs
    have hlen : p.1 % 128 + (vs.take p.2).length ≤ 128 := by omega
    obtain ⟨hwrite, hapart⟩ := writeCopy_apart b (hbmHome p.1) p.1 (vs.take p.2) true false hlen
    have hput : c.homePut (p :: r) vs ws = (b.writeCopy (hbmHome p.1) p.1 (vs.take p.2) true false).homePut r (vs.drop p.2) ws := by
      rw [hb]
      rfl
    rw [hput]
    by_cases hl : lineOf p.1 = lineOf a
    · calc _ = memRead (b.writeCopy (hbmHome p.1) p.1 (vs.take p.2) true false).mem a :=
            homePut_apart hr _ _ ws (hwrite (hm.wf hwf)) fun q hq => (hl.symm.trans_ne (hfirst q hq) :)
        _ = memRead (memWriteBytes b.mem p.1 (vs.take p.2)) a := by rw [writeCopy_clean _ _ _ _ _ (hl ▸ hbclean)]
        _ = memRead b.mem a := memRead_memWriteBytes_outside _ (hm.wf hwf) (by omega)
        _ = memRead c.mem a := hbread hwf a rfl
    · calc _ = memRead (b.writeCopy (hbmHome p.1) p.1 (vs.take p.2) true false).mem a :=
            ih hr hrest _ _ (hwrite (hm.wf hwf)) (hbclean.writeCopy hl hlen ..) har
        _ = memRead b.mem a := hapart (hm.wf hwf) a (Ne.symm hl)
        _ = memRead c.mem a := hbread hwf a rfl

/-! ### The spill of a record (R222, R267) -/

/-- A coroutine whose record lies in its spill slot, `w` being what the record holds where the spec gives no contents. -/
def Coroutine.spilled (co : Coroutine) (w : Word) : Coroutine := { co with recWord := w, evicted := true }

/-- The chip whose coroutine is about to be written to its slot. -/
def Chip.spilling (c : Chip) (key : Nat) (co : Coroutine) : Chip :=
  { c with free := c.free + 1, cos := mset c.cos key (co.spilled (Config.freeWord c.free)) }

/-- A byte outside the first `n` of a spill slot, of a line that is clean or that holds none of them. -/
def Chip.OffSlot (c : Chip) (key n a : Nat) : Prop :=
  (a < c.spillSlot key ∨ c.spillSlot key + n ≤ a)
    ∧ (c.Clean (lineOf a) ∨ lineOf a < lineOf (c.spillSlot key) ∨ lineOf (c.spillSlot key + n - 1) < lineOf a)

section
variable {c : Chip} {key : Nat}

theorem homePut_offSlot (hwf : Memory.wf c.mem) {n a : Nat} (ha : c.OffSlot key n a) (vs : List Byte) (ws : List Nat) :
    memRead (c.homePut (c.slotPieces key n) vs ws).mem a = memRead c.mem a := by
  obtain ⟨hout, hclean | hline⟩ := ha
  · refine homePut_outside (fun p hp => (mem_linePieces hp).1) (linePieces_pairwise ..) c vs ws hwf hclean fun p hp => ?_
    obtain ⟨hlow, hhigh, -⟩ := linePieces_within hp
    omega
  · refine homePut_apart (fun p hp => (mem_linePieces hp).1) c vs ws hwf fun p hp => ?_
    obtain ⟨hlow, hhigh, hpos⟩ := linePieces_within hp
    unfold lineOf at *
    omega

variable {co : Coroutine} (h : c.co key = some co)
include h

theorem spillRecord_eq : c.spillRecord key
    = (c.spilling key co).homePut (c.slotPieces key (c.recordSection key (co.spilled (Config.freeWord c.free))).length)
      (c.recordSection key (co.spilled (Config.freeWord c.free))) spillWays := by
  unfold Chip.spillRecord
  rw [h]
  rfl

theorem spillRecord_lineFrame : LineFrame (c.spilling key co) (c.spillRecord key) := by
  rw [spillRecord_eq h]
  exact lineFrame_homePut ..

theorem spillRecord_offSlot (hwf : Memory.wf c.mem) {a : Nat}
    (ha : c.OffSlot key (c.recordSection key (co.spilled (Config.freeWord c.free))).length a) :
    memRead (c.spillRecord key).mem a = memRead c.mem a := by
  rw [spillRecord_eq h]
  exact homePut_offSlot (c := c.spilling key co) hwf ha ..

end

/-! ### A coroutine becomes faulted (R234, R267) -/

/-- A coroutine as it becomes faulted where it ran. -/
def Coroutine.faulted (co : Coroutine) : Coroutine := { co with state := .faulted, wait := .none, trapped := true }

/-- A chip in which a coroutine has been put that no longer runs. -/
def Chip.setIdle (c : Chip) (key : Nat) (co : Coroutine) : Chip := ((c.setCo key co).stopRunning key).settlePool key []

theorem becomeFaulted_eq {co : Coroutine} (h : co.state ≠ .parked) (c : Chip) (key flags : Nat) :
    c.becomeFaulted key co flags = ((c.setIdle key co.faulted).spillRecord key).postFault key co.faulted flags := by
  unfold Chip.becomeFaulted
  rw [if_neg h]
  rfl

theorem stopRunning_frame (c : Chip) (key : Nat) :
    c.stopRunning key = { c with cores := (c.stopRunning key).cores, resq := (c.stopRunning key).resq } := by
  unfold Chip.stopRunning Chip.dropRequests
  split
  · split
    · rfl
    · rfl
  · rfl

section
variable (c : Chip) (key : Nat) (co : Coroutine)

theorem setIdle_frame : c.setIdle key co
    = { c with cos := mset c.cos key co, cores := (c.setIdle key co).cores, resq := (c.setIdle key co).resq } := by
  have hpool := (poolFrame_settlePool ((c.setCo key co).stopRunning key) key []).1
  have hstop := stopRunning_frame (c.setCo key co) key
  unfold Chip.setIdle
  rw [hpool, hstop]
  rfl

theorem setIdle_idle (hrun : (c.core (key / 256)).running = some (key % 256)) :
    ((c.setIdle key co).core (key / 256)).running = none := by
  obtain ⟨-, -, hidle⟩ := stopRunning_here (c := c.setCo key co) hrun
  exact ((poolFrame_settlePool ..).running _).trans hidle

theorem setIdle_co : (c.setIdle key co).co key = some co := by
  rw [setIdle_frame]
  exact mget_mset_self ..

/-- `d` is `c` once the coroutine has left its core and its record is in its spill slot. -/
structure SpilledFrom (d : Chip) : Prop where
  self : ∃ w, d.co key = some (co.spilled w) ∧ (Memory.wf c.mem → ∀ a,
    c.OffSlot key (c.recordSection key (co.spilled w)).length a → memRead d.mem a = memRead c.mem a)
  others : ∀ k, k ≠ key → d.co k = c.co k
  idle : (c.core (key / 256)).running = some (key % 256) → (d.core (key / 256)).running = none
  parts : d.parts = c.parts
  outbox : d.outbox = c.outbox

theorem spilledFrom_setIdle : SpilledFrom c key co ((c.setIdle key co).spillRecord key) := by
  have hframe := setIdle_frame c key co
  have hco := setIdle_co c key co
  have hidle := setIdle_idle c key co
  obtain ⟨b, hb⟩ : ∃ b, b = c.setIdle key co := ⟨_, rfl⟩
  rw [← hb] at hframe hco hidle ⊢
  have hspill := spillRecord_lineFrame hco
  have hmem : b.mem = c.mem := by rw [hframe]
  have hcos : b.cos = mset c.cos key co := by rw [hframe]
  have hoff : ∀ n a, c.OffSlot key n a → b.OffSlot key n a := fun n a h => by rw [hframe]; exact h
  have hsection : b.recordSection key = c.recordSection key := by rw [hframe]; rfl
  refine ⟨⟨Config.freeWord b.free, ?_, fun hwf a ha => ?_⟩, fun k hk => ?_, fun hrun => ?_, ?_, ?_⟩
  · exact (congrArg (mget · key) hspill.cos).trans (mget_mset_self ..)
  · rw [← hsection] at ha
    rw [spillRecord_offSlot hco (hmem ▸ hwf) (hoff _ _ ha), hmem]
  · calc _ = mget (mset b.cos key _) k := congrArg (mget · k) hspill.cos
      _ = mget (mset c.cos key co) k := by rw [mget_mset_ne _ _ hk, hcos]
      _ = c.co k := mget_mset_ne _ _ hk
  · rw [Chip.core, hspill.cores]
    exact hidle hrun
  · rw [hspill, hframe]
    rfl
  · rw [hspill, hframe]
    rfl

end

/-! ### A trap is taken (R234, R260, R272, R273) -/

/-- A coroutine as a trap leaves it faulted, with the registers that `DLIVE` names. -/
def Coroutine.faultedBy (co : Coroutine) (t : Trap) : Coroutine := ((co.withTrap t).keepLive co.dlive).faulted

section
variable (co : Coroutine) (t : Trap) (w : Word)

/-- The trap CSRs of a faulted coroutine aside, it stays itself. -/
theorem faultedBy_same : (co.faultedBy t).sup = co.sup ∧ (co.faultedBy t).lid = co.lid ∧ ((co.faultedBy t).spilled w).pc = co.pc := by
  simp only [Coroutine.spilled, Coroutine.faultedBy, Coroutine.faulted, Coroutine.keepLive, Coroutine.withTrap, and_self]

theorem records_faultedBy : Claims.Records ((co.faultedBy t).spilled w) t (!co.pend.isEmpty) := ⟨rfl, rfl, rfl, rfl, rfl⟩

theorem xr_faultedBy (r : BitVec 5) : ((co.faultedBy t).spilled w).xr r = if co.dlive.getLsbD r.toNat then co.xr r else 0 :=
  xr_keepLive (co := co.withTrap t) co.dlive r

theorem vr_faultedBy (r : BitVec 5) :
    ((co.faultedBy t).spilled w).vr r = if co.dlive.getLsbD (32 + r.toNat) then co.vr r else VReg.zero :=
  vr_keepLive (co := co.withTrap t) co.dlive r

end

section
variable {c : Chip} {key : Nat} {co : Coroutine}

theorem takeTrap_handled (hco : c.co key = some co) (h : c.handles key co = true) (t : Trap) (flags : Nat) :
    c.takeTrap key t flags = c.setCo key (c.atHandler key (co.withTrap t)) := by
  simp only [Chip.takeTrap, hco, h, if_true]

/-- A trap that no handler takes faults a running coroutine, and notice is given once its record is in its slot. -/
theorem takeTrap_faults (hco : c.co key = some co) (h : c.handles key co = false) (hs : co.state = .running) (t : Trap) (flags : Nat) :
    ∃ d, SpilledFrom c key (co.faultedBy t) d ∧ c.takeTrap key t flags = d.postFault key (co.faultedBy t) flags := by
  have hstate : ((co.withTrap t).keepLive co.dlive).state ≠ .parked := by
    simp [Coroutine.keepLive, Coroutine.withTrap, hs]
  refine ⟨_, spilledFrom_setIdle .., ?_⟩
  simp only [Chip.takeTrap, hco, h, Bool.false_eq_true, if_false]
  exact becomeFaulted_eq hstate ..

theorem fq_modFq (c : Chip) (p : Nat) {d : Nat} (hd : d < 4) (f : FaultQ → FaultQ) : (c.modFq p d f).fq p d = f (c.fq p d) := by
  simp [Chip.fq, Chip.modFq, Vector.getD, hd]

/-- Notice of a user coroutine's fault is an entry for the supervisor of its partition. -/
theorem postFault_user {p flags : Nat} (huser : co.sup = false) (hp : c.partOf (key / 1024) = some p)
    (hserved : (c.part p).unserved = false) :
    c.postFault key co flags = c.modFq p (spireOf (key / 256)) (fun q => { q with
      waiting := q.waiting ++ [⟨co.cause.toNat, flags, whoWord key co.lid, co.epc, co.faddr, co.finfo, co.token⟩] }) := by
  simp only [Chip.postFault, Chip.enterFault, huser, hp, hserved, Bool.false_eq_true, if_false]

/-- Notice of a supervisor coroutine's fault is the supervisor-fault event. -/
theorem postFault_supervisor (hsup : co.sup = true) (flags : Nat) :
    c.postFault key co flags = c.post ⟨0x0005, spireOf (key / 256),
      wordOf ((c.partOf (key / 1024)).getD 0 + 256 * spireOf (key / 256)), wordOf co.cause.toNat, none⟩ := if_pos hsup

end

theorem userTrapMakesFaulted : Claims.UserTrapMakesFaulted := by
  intro c key p co t flags hkey hco huser hp hserved hwf hcause hs hrun
  obtain ⟨d, hd, htrap⟩ := takeTrap_faults hco (by simp [Chip.handles, huser]) hs t flags
  obtain ⟨w, hself, hmem⟩ := hd.self
  have hpd : d.partOf (key / 1024) = some p := by rw [← hp, Chip.partOf, hd.parts]; rfl
  have hpart : d.part p = c.part p := by rw [Chip.part, hd.parts]; rfl
  obtain ⟨hsup, hlid, hpc⟩ := faultedBy_same co t w
  have hnotice := postFault_user (c := d) (co := co.faultedBy t) (flags := flags) (hsup.trans huser) hpd (hpart ▸ hserved)
  have hspire : spireOf (key / 256) < 4 := by unfold spireOf; omega
  rw [htrap, hnotice]
  refine ⟨_, hself, rfl, records_faultedBy .., xr_faultedBy co t w, vr_faultedBy co t w, hpc, hd.idle hrun, ?_, hd.others,
    fun a ha hl => hmem hwf a ⟨ha, hl⟩⟩
  rw [fq_modFq d p hspire, Chip.fq, hpart]
  have hcode : (co.faultedBy t).cause.toNat = t.cause := Nat.mod_eq_of_lt hcause
  rw [hcode, hlid]
  rfl

theorem supervisorTrapEntersHandler : Claims.SupervisorTrapEntersHandler := by
  intro c key co t flags hco hsup hs hcause
  refine ⟨fun hact hhandler => ?_, fun hnone => ?_⟩
  · refine ⟨_, takeTrap_handled hco (by simp [Chip.handles, hsup, hact, hhandler]) t flags, ⟨rfl, rfl, rfl, rfl, rfl⟩, rfl, rfl, rfl,
      rfl, hsup, rfl, rfl, rfl, rfl, rfl, rfl, rfl⟩
  · have hunhandled : c.handles key co = false := by
      rcases hnone with h | h
      · simp [Chip.handles, h]
      · simp [Chip.handles, h]
    obtain ⟨d, hd, htrap⟩ := takeTrap_faults hco hunhandled hs t flags
    obtain ⟨w, hself, -⟩ := hd.self
    have hcode : (co.faultedBy t).cause.toNat = t.cause := Nat.mod_eq_of_lt hcause
    obtain ⟨hkept, -⟩ := faultedBy_same co t w
    rw [htrap, postFault_supervisor (co := co.faultedBy t) (hkept.trans hsup)]
    exact ⟨_, _, hself, rfl, records_faultedBy .., congrArg (· ++ _) hd.outbox, rfl, congrArg wordOf hcode⟩

/-- Settles O15: a trap that no handler takes faults its coroutine, whose record goes to its spill slot and no further. -/
theorem trapsAreTaken : Obligations.TrapsAreTaken := ⟨userTrapMakesFaulted, supervisorTrapEntersHandler⟩

end Sys2Proof.Machine
end

section
/-! O25: vector instructions enter their queue or execute at once (R235, R236, R353), and trap on widths that are reserved
(R359, R362, R372, R375, R377). -/

namespace Sys2Proof.Machine

open Sys2Proof.Claims

/-! ### The words of the statement run by one scheme -/

/-- A vector word is issued by the scheme of vector instructions, and captures the values that the statement lists. -/
def RunsAsVector (co : Coroutine) (f : Instr × Word × Word) : Prop :=
  ∃ s1 s2 : Coroutine → Word, s1 co = f.2.1 ∧ s2 co = f.2.2 ∧ ∀ s, exec f.1 s = runVector f.1 s1 s2 s

theorem plain_runsAsVector (co : Coroutine) {l : List Instr}
    (h : ∀ i ∈ l, ∀ s, exec i s = runVector i (fun _ => 0) (fun _ => 0) s) :
    ∀ f ∈ l.map (fun i => (i, (0 : Word), (0 : Word))), RunsAsVector co f := by
  simp only [List.forall_mem_map]
  exact fun i hi => ⟨fun _ => 0, fun _ => 0, rfl, rfl, h i hi⟩

theorem vectorWords_run (d a b : BitVec 5) (c e n : BitVec 1) (m o : BitVec 3) (g h : BitVec 2) (co : Coroutine) :
    ∀ f ∈ vectorWords d a b c e n m o g h co, RunsAsVector co f := by
  simp only [vectorWords, List.forall_mem_append]
  refine ⟨⟨⟨plain_runsAsVector co ?_, plain_runsAsVector co ?_⟩, plain_runsAsVector co ?_⟩, ?_⟩
  case refine_4 =>
    simp only [List.forall_mem_cons, List.not_mem_nil, IsEmpty.forall_iff, implies_true, and_true]
    exact ⟨⟨fun _ => 0, (·.xr b), rfl, rfl, fun _ => rfl⟩, ⟨fun _ => 0, (·.xr b), rfl, rfl, fun _ => rfl⟩,
      ⟨fun _ => 0, (·.xr b), rfl, rfl, fun _ => rfl⟩, ⟨(·.xr a), fun _ => 0, rfl, rfl, fun _ => rfl⟩,
      ⟨(·.xr a), fun _ => 0, rfl, rfl, fun _ => rfl⟩, ⟨(·.xr a), (·.xr b), rfl, rfl, fun _ => rfl⟩,
      ⟨(·.xr a), (·.xr b), rfl, rfl, fun _ => rfl⟩, ⟨(·.xr a), fun _ => 0, rfl, rfl, fun _ => rfl⟩,
      ⟨(·.xr a), (·.xr b), rfl, rfl, fun _ => rfl⟩, ⟨(·.xr a), fun _ => 0, rfl, rfl, fun _ => rfl⟩,
      ⟨(·.xr a), fun _ => 0, rfl, rfl, fun _ => rfl⟩, ⟨(·.xr a), fun _ => 0, rfl, rfl, fun _ => rfl⟩,
      ⟨(·.xr a), (·.xr b), rfl, rfl, fun _ => rfl⟩, ⟨(·.xr a), fun _ => 0, rfl, rfl, fun _ => rfl⟩⟩
  all_goals
    simp only [List.forall_mem_cons, List.not_mem_nil, IsEmpty.forall_iff, implies_true, and_true]
    and_intros <;> exact fun _ => rfl

/-! ### What the front end does with a vector instruction -/

/-- A coroutine with `NOBK` given. -/
def Coroutine.withNobk (co : Coroutine) (x : Bool) : Coroutine := { co with nobk := x }

theorem withNobk_of_eq {co : Coroutine} {x : Bool} (h : co.nobk = x) : co.withNobk x = co := by
  rw [← h]
  rfl

/-- What the issue of a vector instruction clears of a coroutine with no format word before it. -/
theorem cleared_eq_withNobk {co : Coroutine} (h : co.pp = false) : { co with nobk := false, pp := false } = co.withNobk false := by
  rw [← h]
  rfl

theorem vectorNext_withNobk {co : Coroutine} (h : co.pp = false) : co.vectorNext.withNobk false = issued co := by
  rw [issued, ← h]
  rfl

section
variable {s : State} {key : Nat} {co : Coroutine} (h : Issues s key co)
include h

/-- What follows the issue of a vector instruction, where no `STEP` does: `NOBK` is cleared. -/
theorem vectorIssued_clears (c : Chip) {done : Bool} (hstep : (done && co.estepEl) = false) :
    c.vectorIssued key co done = if co.nobk then c.modCo key (fun m => { m with nobk := false, pp := false }) else c := by
  simp [Chip.vectorIssued, hstep, h.plain]

theorem vectorIssued_setCo (c : Chip) {co' : Coroutine} (hpp : co'.pp = false) (hnb : co'.nobk = co.nobk) :
    (c.setCo key co').vectorIssued key co false = c.setCo key (co'.withNobk false) := by
  rw [vectorIssued_clears h _ rfl]
  split
  next => rw [Chip.modCo_setCo, cleared_eq_withNobk hpp]
  next hn => rw [withNobk_of_eq (hnb.trans (Bool.eq_false_iff.2 hn))]

/-- An entry enters a queue that has room. -/
theorem enqueue_room {co' : Coroutine} (hpp : co'.pp = false) (hnb : co'.nobk = co.nobk) (e : VEntry)
    (hroom : (s.chip.core (key / 256)).vq.length < 32) :
    (enqueue s.chip key co co' e).state s key co false = queued s key (co'.withNobk false) e := by
  rw [enqueue, if_neg (Nat.not_le.2 hroom), vectorIssued_setCo h _ hpp hnb]
  rfl

omit h in
/-- While the queue is full the front end waits. -/
theorem enqueue_full {co' : Coroutine} (e : VEntry) (hfull : 32 ≤ (s.chip.core (key / 256)).vq.length) :
    (enqueue s.chip key co co' e).state s key co false = s := by
  rw [enqueue, if_pos hfull]
  rfl

theorem enqueue_next_room (e : VEntry) (hroom : (s.chip.core (key / 256)).vq.length < 32) :
    (enqueue s.chip key co co.vectorNext e).state s key co false = queued s key (issued co) e := by
  rw [enqueue_room (co' := co.vectorNext) h h.plain rfl e hroom, vectorNext_withNobk h.plain]

end

/-! ### The scalar path (R236) -/

theorem Core.settled_congr (k : Core) (slot : Nat) {co co' : Coroutine} (hv : co'.v = co.v) (used : List Nat) :
    k.settled slot co' used = k.settled slot co used := by
  simp only [Core.settled, Coroutine.isGeneral, hv]

/-- The pool of blocks follows the registers alone, so that other fields may change before or after. -/
theorem settlePool_setCo_modCo (c : Chip) (key : Nat) (co : Coroutine) (f : Coroutine → Coroutine) (hv : (f co).v = co.v)
    (used : List Nat) :
    ((c.setCo key co).settlePool key used).modCo key f = (c.setCo key (f co)).settlePool key used := by
  have hp (d : Coroutine) : (c.setCo key d).settlePool key used
      = (c.modCore (key / 256) (fun k => k.settled (key % 256) d used)).setCo key d := by
    simp only [Chip.settlePool, Chip.co_setCo]
    rfl
  rw [hp, hp, Chip.modCo_setCo]
  simp only [Core.settled_congr _ _ hv]

/-- No element result depends on `NOBK`. -/
theorem vecSpec_op_withNobk {i : Instr} {sp : VecSpec} (hi : vecSpec i = some sp) (e : VEntry) (co : Coroutine) (x : Bool) :
    sp.op e (co.withNobk x) = sp.op e co := by
  unfold vecSpec at hi
  split at hi <;> cases hi <;> rfl

theorem vecSpec_run_withNobk {i : Instr} {sp : VecSpec} (hi : vecSpec i = some sp) (e : VEntry) (co : Coroutine) (x : Bool) :
    sp.run e (co.withNobk x) = (sp.run e co).withNobk x := by
  have hr : sp.results e (co.withNobk x) = sp.results e co := by
    unfold VecSpec.results
    rw [vecSpec_op_withNobk hi]
    rfl
  unfold VecSpec.run
  rw [hr]
  rfl

theorem vecSpec_of_scalarPathSpec {e : VEntry} {co : Coroutine} {sp : VecSpec} (hs : scalarPathSpec e co = some sp) :
    vecSpec e.op = some sp := by
  unfold scalarPathSpec at hs
  split at hs
  next q hq =>
    split at hs
    · cases hs
    · rw [← hs, hq]
  next => cases hs

theorem pureOp_of_vecSpec {e : VEntry} {sp : VecSpec} (h : vecSpec e.op = some sp) (co : Coroutine) :
    pureOp e co = some (sp.run e co) := by
  rw [pureOp, h]

/-! ### The two ways of issue (R235, R236) -/

section
variable {s : State} {key : Nat} {co : Coroutine} (h : Issues s key co) {i : Instr} {s1 s2 : Coroutine → Word}

theorem vectorBody_eq_enqueue {c : Chip}
    (hoff : c.pathFree key i = false ∨ scalarPathSpec (entryOf i key co (s1 co) (s2 co)) co = none) :
    vectorBody i s1 s2 c key co = enqueue c key co co.vectorNext (entryOf i key co (s1 co) (s2 co)) := by
  have hcond : ¬ (c.pathFree key i && (scalarPathSpec (entryOf i key co (s1 co) (s2 co)) co).isSome) = true := by
    rcases hoff with hoff | hoff <;> simp [hoff]
  exact if_neg hcond

theorem vectorBody_eq_run {c : Chip} {sp : VecSpec} (hfree : c.pathFree key i = true)
    (hsp : scalarPathSpec (entryOf i key co (s1 co) (s2 co)) co = some sp) :
    vectorBody i s1 s2 c key co = .gone (((c.setCo key (sp.run (entryOf i key co (s1 co) (s2 co)) co.vectorNext)).settlePool key
      ((vectorRegs i).map BitVec.toNat)).vectorIssued key co true) := by
  have hcond : (c.pathFree key i && (scalarPathSpec (entryOf i key co (s1 co) (s2 co)) co).isSome) = true := by simp [hfree, hsp]
  have hop := pureOp_of_vecSpec (vecSpec_of_scalarPathSpec hsp) co.vectorNext
  refine (if_pos hcond).trans ?_
  show Issue.gone (((c.setCo key ((pureOp (entryOf i key co (s1 co) (s2 co)) co.vectorNext).getD co.vectorNext)).settlePool key
    _).vectorIssued key co true) = _
  rw [hop]
  rfl

include h

/-- On the scalar path a vector instruction is done at once, and the blocks of its registers follow (R232, R236). -/
theorem vectorBody_path {sp : VecSpec} (hel : co.estepEl = false) (hfree : s.chip.pathFree key i = true)
    (hsp : scalarPathSpec (entryOf i key co (s1 co) (s2 co)) co = some sp) :
    (vectorBody i s1 s2 s.chip key co).state s key co false
      = { s with chip := (s.chip.setCo key ((sp.run (entryOf i key co (s1 co) (s2 co)) (issued co)).withNobk
          false)).settlePool key ((vectorRegs i).map BitVec.toNat) } := by
  have hrun := vecSpec_run_withNobk (vecSpec_of_scalarPathSpec hsp) (entryOf i key co (s1 co) (s2 co)) co.vectorNext
  rw [vectorBody_eq_run hfree hsp, vectorIssued_clears h _ (by simp [hel]), ← vectorNext_withNobk h.plain, hrun]
  split
  next =>
    rw [settlePool_setCo_modCo _ _ _ _ rfl, cleared_eq_withNobk (co := sp.run _ co.vectorNext) h.plain]
    rfl
  next hn =>
    have hsame : (sp.run (entryOf i key co (s1 co) (s2 co)) co.vectorNext).withNobk false
        = sp.run (entryOf i key co (s1 co) (s2 co)) co.vectorNext := withNobk_of_eq (Bool.eq_false_iff.2 hn)
    rw [hsame, hsame]
    rfl

end

/-! ### The statement -/

/-- A word issued by the scheme goes one of the two ways. -/
theorem runsAsVector_issues {s : State} {key : Nat} {co : Coroutine} (h : Issues s key co) (hel : co.estepEl = false)
    {f : Instr × Word × Word} (hf : RunsAsVector co f) (hpre : vectorPre f.1 co = none) :
    ((s.chip.pathFree key f.1 = false ∨ scalarPathSpec (entryOf f.1 key co f.2.1 f.2.2) co = none) →
      ((s.chip.core (key / 256)).vq.length < 32 → exec f.1 s = .next (queued s key (issued co) (entryOf f.1 key co f.2.1 f.2.2)))
      ∧ (32 ≤ (s.chip.core (key / 256)).vq.length → exec f.1 s = .next s))
    ∧ ∀ sp, s.chip.pathFree key f.1 = true → scalarPathSpec (entryOf f.1 key co f.2.1 f.2.2) co = some sp →
      exec f.1 s = .next { s with chip := (s.chip.setCo key { sp.run (entryOf f.1 key co f.2.1 f.2.2) (issued co) with
        nobk := false }).settlePool key ((vectorRegs f.1).map BitVec.toNat) } := by
  obtain ⟨i, u, v⟩ := f
  obtain ⟨s1, s2, rfl, rfl, hexec⟩ := hf
  rw [hexec, runVector, runChecked_issues h hpre]
  refine ⟨fun hoff => ?_, fun sp hfree hsp => congrArg _ (vectorBody_path h hel hfree hsp)⟩
  rw [vectorBody_eq_enqueue hoff]
  exact ⟨fun hroom => congrArg _ (enqueue_next_room h _ hroom), fun hfull => congrArg _ (enqueue_full _ hfull)⟩

/-- `VTOPKI` sets `TOPKN.CAP` to the low eight bits of its operand, or to 128 where they give none of 1 to 128 (R371). -/
theorem writeTopkn_issued {co : Coroutine} (hpp : co.pp = false) (v : Word) :
    (writeTopkn co v).vectorNext.withNobk false = { issued co with
      topkn := BitVec.ofNat 32 (if v.toNat % 256 = 0 ∨ 128 < v.toNat % 256 then 128 else v.toNat % 256) } := by
  have hcap : (writeTopkn co v).topkn
      = BitVec.ofNat 32 (if v.toNat % 256 = 0 ∨ 128 < v.toNat % 256 then 128 else v.toNat % 256) := by
    have hb : bits v.toNat 7 0 = v.toNat % 256 := by simp [bits]
    rw [writeTopkn, hb]
    split <;> rfl
  rw [issued, ← hpp, ← hcap]
  rfl

theorem vectorInstructionsIssue : Claims.VectorInstructionsIssue := by
  intro s key co h hel d a b c e n m o g l
  refine ⟨fun f hf hpre => runsAsVector_issues h hel (vectorWords_run d a b c e n m o g l co f hf) hpre, fun hroom => ⟨?_, ?_⟩⟩
  · show execVtopki a s = _
    rw [execVtopki, runWord_issues h, enqueue_room (co' := (writeTopkn co (co.xr a)).vectorNext) h h.plain rfl _ hroom,
      writeTopkn_issued h.plain]
    rfl
  · intro ds hds hw
    have hmove (i : Instr) : (kvMoveBody i a b s.chip key co).state s key co false
        = queued s key (issued co) (entryOf i key co (co.xr a) (co.xr b)) := by
      unfold kvMoveBody
      simp only [hds, hw, ne_eq, not_true_eq_false, if_false]
      exact enqueue_next_room h _ hroom
    simp only [List.forall_mem_cons, List.not_mem_nil, IsEmpty.forall_iff, implies_true, and_true]
    exact ⟨(runWord_issues h _ _).trans (congrArg _ (hmove _)), (runWord_issues h _ _).trans (congrArg _ (hmove _))⟩

/-! ### Reserved widths -/

/-- A vector instruction that fails a width check traps `RSV` before it has any effect (R359, R377). -/
theorem vectorPre_traps {s : State} {key : Nat} {co : Coroutine} (h : Issues s key co) (hdr : s.chip.undrained key = false)
    {i : Instr} (hi : ∃ s1 s2, exec i s = runVector i s1 s2 s) (hpre : vectorPre i co = some causeRsv) :
    exec i s = .next (s.trapped key co 0x02 (wordAt i)) := by
  obtain ⟨s1, s2, hi⟩ := hi
  rw [hi]
  simp only [runVector, runChecked, h.clocks, h.running, h.holds, hpre, Bool.false_eq_true, if_false]
  rw [trapWord, trapB_drained _ _ _ hdr]
  rfl

theorem vectorPre_of_widthRefused {i : Instr} {co : Coroutine} (h : widthRefused i (sewBits co.vtype) = true) :
    vectorPre i co = some causeRsv := if_pos h

theorem vectorPre_of_float {i : Instr} {co : Coroutine} (hi : isVectorFloat i = true)
    (h : sewBits co.vtype = 8 ∨ 5 ≤ co.frm.toNat) : vectorPre i co = some causeRsv := by
  unfold vectorPre
  split
  · rfl
  · exact if_pos (by simpa [hi] using h)

theorem vectorWidthsTrapReserved : Claims.VectorWidthsTrapReserved := by
  intro s key co h hdr d a b c e n m o g l
  have htrap {i : Instr} := vectorPre_traps h hdr (i := i)
  simp only [List.forall_mem_cons, List.not_mem_nil, IsEmpty.forall_iff, implies_true, and_true]
  refine ⟨fun hw => ?_, fun hw => ?_, fun hw => ?_, fun hw => ?_, fun hw => ?_⟩
  · and_intros <;> exact htrap ⟨_, _, rfl⟩ (vectorPre_of_float rfl hw)
  · have hrefused : (sewBits co.vtype ≠ 16 && sewBits co.vtype ≠ 32) = true := by rcases hw with hw | hw <;> simp [hw]
    exact ⟨htrap ⟨_, _, rfl⟩ (vectorPre_of_widthRefused hrefused), htrap ⟨_, _, rfl⟩ (vectorPre_of_widthRefused hrefused)⟩
  · and_intros <;> exact htrap ⟨_, _, rfl⟩ (vectorPre_of_widthRefused (by simp [widthRefused, hw]))
  · and_intros <;> exact htrap ⟨_, _, rfl⟩ (vectorPre_of_widthRefused (by simp [widthRefused, hw]))
  · and_intros <;> exact htrap ⟨_, _, rfl⟩ (vectorPre_of_widthRefused (decide_eq_true hw))

/-- Settles O25: every vector word is issued by one scheme, whose width checks come first. -/
theorem vectorIssue : Obligations.VectorIssue := ⟨vectorInstructionsIssue, vectorWidthsTrapReserved⟩

end Sys2Proof.Machine
end

section
/-! O36: matrix commands issue when their checks pass, and otherwise trap or suspend (R239, R243, R244, R417). -/

namespace Sys2Proof.Machine

open Sys2Proof.Claims

/-! ### What tags and counts leave alone -/

/-- `d` is `c` but for tiles, slots and coroutines. -/
def TagFrame (c d : Chip) : Prop :=
  d = { c with clusters := d.clusters, cos := d.cos }
    ∧ ∀ n, ∃ ts ss, d.cluster n = { c.cluster n with tiles := ts, slots := ss }

theorem TagFrame.refl (c : Chip) : TagFrame c c := ⟨rfl, fun _ => ⟨_, _, rfl⟩⟩

section
variable {b c d : Chip}

theorem TagFrame.trans (h : TagFrame b c) (k : TagFrame c d) : TagFrame b d := by
  obtain ⟨hc, hk⟩ := h
  obtain ⟨hd, kk⟩ := k
  refine ⟨by rw [hd, hc], fun n => ?_⟩
  obtain ⟨_, _, e1⟩ := hk n
  obtain ⟨ts, ss, e2⟩ := kk n
  exact ⟨ts, ss, by rw [e2, e1]⟩

section
variable (h : TagFrame c d)
include h

theorem TagFrame.mem : d.mem = c.mem := by rw [h.1]
theorem TagFrame.cores : d.cores = c.cores := by rw [h.1]
theorem TagFrame.core (n : Nat) : d.core n = c.core n := by rw [Chip.core, h.cores, Chip.core]
theorem TagFrame.msgs : d.msgs = c.msgs := by rw [h.1]

theorem TagFrame.board (n : Nat) : (d.cluster n).board = (c.cluster n).board := by
  obtain ⟨_, _, e⟩ := h.2 n
  rw [e]

end

theorem tagFrame_modCluster (c : Chip) (cl : Nat) {f : Cluster → Cluster}
    (hf : ∃ ts ss, f (c.cluster cl) = { c.cluster cl with tiles := ts, slots := ss }) : TagFrame c (c.modCluster cl f) := by
  refine ⟨rfl, fun n => ?_⟩
  by_cases hn : n = cl
  · rw [hn, Chip.cluster_modCluster]
    exact hf
  · rw [Chip.cluster_modCluster_ne c f hn]
    exact ⟨_, _, rfl⟩

theorem tagFrame_wakeAll (c : Chip) (p : Nat → Coroutine → Bool) : TagFrame c (c.wakeAll p) := ⟨rfl, fun _ => ⟨_, _, rfl⟩⟩

theorem tagFrame_modTile (c : Chip) (cl p : Nat) (f : Tile → Tile) : TagFrame c (c.modTile cl p f) := by
  refine (tagFrame_modCluster c cl (f := fun k => k.modTile p f) ⟨_, _, rfl⟩).trans ?_
  unfold Chip.modTile Chip.wakeTile
  split
  · exact tagFrame_wakeAll ..
  · exact .refl _

theorem tagFrame_tagIssued (c : Chip) (cl key lid : Nat) (e : MEntry) : TagFrame c (c.tagIssued cl key lid e) := by
  unfold Chip.tagIssued
  split
  · exact .refl c
  · refine (tagFrame_modCluster c cl (f := fun k => k.modSlot e.slotNum (fun t => t.afterIssue e.op key lid e.fmt))
      ⟨_, _, rfl⟩).trans ?_
    dsimp only
    split
    · exact .refl _
    · exact tagFrame_wakeAll ..

theorem tagFrame_raiseFills (c : Chip) (cl : Nat) (e : MEntry) : TagFrame c (c.raiseFills cl e) := by
  unfold Chip.raiseFills
  split
  · exact (tagFrame_modTile ..).trans (tagFrame_modTile ..)
  · exact tagFrame_modTile ..
  · exact .refl c

end

/-! ### The scoreboard (R243) -/

theorem recordAll_frame (c : Chip) (cl : Nat) (l : List (Nat × Bool)) :
    (c.recordAll cl l).2 = { c with nextSeq := (c.recordAll cl l).2.nextSeq, clusters := (c.recordAll cl l).2.clusters } := by
  induction l generalizing c with
  | nil => rfl
  | cons p r ih =>
    show (Chip.recordAll (c.record cl p.1 p.2).2 cl r).2 = { c with
      nextSeq := (Chip.recordAll (c.record cl p.1 p.2).2 cl r).2.nextSeq
      clusters := (Chip.recordAll (c.record cl p.1 p.2).2 cl r).2.clusters }
    rw [ih]
    rfl

/-- The accesses of a command are recorded behind the older ones, in order. -/
theorem recorded_recordAll (c : Chip) (cl : Nat) (l : List (Nat × Bool)) :
    recorded ((c.recordAll cl l).2.cluster cl) = recorded (c.cluster cl) ++ l := by
  induction l generalizing c with
  | nil => exact (List.append_nil _).symm
  | cons p r ih =>
    show recorded ((Chip.recordAll (c.record cl p.1 p.2).2 cl r).2.cluster cl) = _
    have hone : recorded ((c.record cl p.1 p.2).2.cluster cl) = recorded (c.cluster cl) ++ [p] := by
      simp [Chip.record, recorded, Chip.cluster]
    rw [ih, hone, List.append_assoc]
    rfl

/-! ### The checks at issue (R417) -/

/-- The entry that the front end makes of a matrix command, with the slot as it finds it (R244, R418, R419). -/
def Chip.issuedEntry (c : Chip) (key : Nat) (co : Coroutine) (i : Instr) (u : Word) (pfx : Option IWord) : MEntry :=
  let sl := (c.cluster (key / 1024)).slot (co.abase + (matrixSlot i).getD 0)
  matrixEntry i key co u (wordOf sl.statWord) (match i with | .macq _ _ => bits u.toNat 4 0 | _ => sl.fmt) pfx

section
variable {c : Chip} {key : Nat} {co : Coroutine} {i : Instr} {u : Word} {pfx : Option IWord} {go : Chip → MEntry → Issue}

theorem matrixChecks_tileOut (h : ∃ t ∈ namedTiles i co.mshape, co.tcount ≤ t) :
    matrixChecks i false u pfx go c key co = trapB c key co causeTwin 0 :=
  if_pos (List.any_eq_true.2 (h.imp fun _ ⟨hm, hle⟩ => ⟨hm, decide_eq_true hle⟩))

theorem tiles_in_window (h : ∀ t ∈ namedTiles i co.mshape, t < co.tcount) :
    ¬ (namedTiles i co.mshape).any (fun t => decide (co.tcount ≤ t)) = true := by
  simpa using h

theorem slot_in_window (h : ∀ n, matrixSlot i = some n → n < co.acount) :
    ¬ (matrixSlot i).any (fun t => decide (co.acount ≤ t)) = true := by
  cases hn : matrixSlot i with
  | none => simp
  | some n => simpa using h n hn

/-- The first tile named that is not ready, if any, is what the command waits for (R227). -/
theorem unreadyTile_some {cl p tb : Nat} {ts : List Nat} (h : c.unreadyTile cl (ts.map (fun t => tb + t)) = some p) :
    ∃ t ∈ ts, p = tb + t ∧ ((c.cluster cl).tile (tb + t)).state ≠ 3 := by
  obtain ⟨t, ht, rfl⟩ := List.mem_map.1 (List.mem_of_find?_eq_some h)
  exact ⟨t, ht, rfl, by simpa using List.find?_some h⟩

theorem unreadyTile_none {cl tb : Nat} {ts : List Nat} :
    c.unreadyTile cl (ts.map (fun t => tb + t)) = none ↔ ∀ t ∈ ts, ((c.cluster cl).tile (tb + t)).state = 3 := by
  simp [Chip.unreadyTile]

variable (tilesIn : ∀ t ∈ namedTiles i co.mshape, t < co.tcount)
include tilesIn

theorem matrixChecks_slotOut (h : ∃ n, matrixSlot i = some n ∧ co.acount ≤ n) :
    matrixChecks i false u pfx go c key co = trapB c key co causeAwin 0 := by
  obtain ⟨n, hn, hle⟩ := h
  exact (if_neg (tiles_in_window tilesIn)).trans (if_pos (by simp [hn, hle]))

variable (slotIn : ∀ n, matrixSlot i = some n → n < co.acount)
include slotIn

theorem matrixChecks_tileWait {p : Nat}
    (h : c.unreadyTile (key / 1024) ((namedTiles i co.mshape).map (fun t => co.tbase + t)) = some p) :
    matrixChecks i false u pfx go c key co = c.suspendOn key co (.tile p) := by
  refine (if_neg (tiles_in_window tilesIn)).trans ((if_neg (slot_in_window slotIn)).trans ?_)
  simp only [Bool.false_eq_true, if_false, h]

variable (tilesReady : ∀ t ∈ namedTiles i co.mshape, ((c.cluster (key / 1024)).tile (co.tbase + t)).state = 3)
include tilesReady

theorem matrixChecks_slotWait {n : Nat} (hn : matrixSlot i = some n)
    (h : slotCheck i (((c.cluster (key / 1024)).slot (co.abase + n)).tagFor key co.lid) = .wait) :
    matrixChecks i false u pfx go c key co = c.suspendOn key co (.slot (co.abase + n)) := by
  refine (if_neg (tiles_in_window tilesIn)).trans ((if_neg (slot_in_window slotIn)).trans ?_)
  simp only [Bool.false_eq_true, if_false, unreadyTile_none.2 tilesReady, hn, Option.isSome_some, if_true, Option.getD_some, h]

theorem matrixChecks_slotBad {n : Nat} (hn : matrixSlot i = some n)
    (h : slotCheck i (((c.cluster (key / 1024)).slot (co.abase + n)).tagFor key co.lid) = .bad) :
    matrixChecks i false u pfx go c key co = trapB c key co causeMgeo 0 := by
  refine (if_neg (tiles_in_window tilesIn)).trans ((if_neg (slot_in_window slotIn)).trans ?_)
  simp only [Bool.false_eq_true, if_false, unreadyTile_none.2 tilesReady, hn, Option.isSome_some, if_true, Option.getD_some, h]

theorem matrixChecks_passed
    (h : ∀ n, matrixSlot i = some n → slotCheck i (((c.cluster (key / 1024)).slot (co.abase + n)).tagFor key co.lid) = .ok)
    (hgeo : (c.issuedEntry key co i u pfx).geometryOk (c.cluster (key / 1024)) = true)
    (hlinks : c.linksOk (key / 1024) i = true) :
    matrixChecks i false u pfx go c key co = go c (c.issuedEntry key co i u pfx) := by
  have hslot : (if (matrixSlot i).isSome then slotCheck i (((c.cluster (key / 1024)).slot
      (co.abase + (matrixSlot i).getD 0)).tagFor key co.lid) else .ok) = .ok := by
    cases hn : matrixSlot i with
    | none => rfl
    | some n => exact h n hn
  refine (if_neg (tiles_in_window tilesIn)).trans ((if_neg (slot_in_window slotIn)).trans ?_)
  simp only [Bool.false_eq_true, if_false, unreadyTile_none.2 tilesReady, hslot]
  exact if_pos (by rw [Bool.and_eq_true]; exact ⟨hgeo, hlinks⟩)

end

theorem issuedEntry_eq_matrixOf (s : State) (key : Nat) (co : Coroutine) (i : Instr) (u : Word) (takes : Bool) :
    s.chip.issuedEntry key co i u (if takes && co.pp then some co.pfx else none) = matrixOf s key co i u takes := by
  have hbits : bits u.toNat 4 0 = u.toNat % 32 := by simp [bits]
  unfold Chip.issuedEntry
  simp only [hbits]
  rfl

/-- A ready command passes every check, with the entry of the statement. -/
theorem matrixChecks_ready {s : State} {key : Nat} {co : Coroutine} {i : Instr} {u : Word} {takes : Bool}
    (h : MatrixReady s key co i (matrixOf s key co i u takes)) (go : Chip → MEntry → Issue) :
    matrixChecks i false u (if takes && co.pp then some co.pfx else none) go s.chip key co
      = go s.chip (matrixOf s key co i u takes) := by
  obtain ⟨tilesIn, slotIn, tilesReady, slotOwn, geometry, links⟩ := h
  rw [← issuedEntry_eq_matrixOf] at geometry ⊢
  refine matrixChecks_passed tilesIn slotIn tilesReady (fun n hn => ?_) geometry links
  have hof : slotOf s key co i = (s.chip.cluster (key / 1024)).slot (co.abase + n) := by rw [slotOf, hn, Option.getD_some]
  rw [← hof]
  rcases slotOwn n hn with ho | ⟨⟨r, m, rfl⟩, hfree⟩ | ⟨r, m, rfl⟩
  · rw [ho]
    unfold slotCheck
    split <;> trivial
  · rw [hfree]
    rfl
  · rfl

/-! ### The commands of the statement run by one scheme -/

/-- The checks of the decoder for a format word pass: only a taker stands behind one, and `MDRAIN` and `MFILL` refuse some of its codes
(R296, R425). -/
def PrefixAllows (co : Coroutine) (a : BitVec 5) (sl : BitVec 4) (f : Instr × Word × Bool) : Prop :=
  co.pp = true → f.2.2 = true
    ∧ (f.1 = .mdrain a sl → pfxA (some co.pfx) = 0 ∧ pfxB (some co.pfx) = 0)
    ∧ (f.1 = .mfill a sl → pfxB (some co.pfx) = 0 ∧ pfxD (some co.pfx) = 0)

theorem exec_matrixTable {s : State} {key : Nat} {co : Coroutine} (h : IssuesTaker s key co) {a b : BitVec 5} {sl : BitVec 4} :
    ∀ f ∈ matrixTable a b sl co, PrefixAllows co a sl f → (f.1 = .mswap a → swapOf (key / 1024) ≠ key / 1024) →
      exec f.1 s = .next ((matrixBody f.1 (fun _ => f.2.1) s.chip key co).state s key co f.2.2) := by
  have hissues {f : Instr × Word × Bool} (hp : PrefixAllows co a sl f) (ht : f.2.2 = false) : Issues s key co :=
    ⟨h.clocks, h.running, h.holds, Bool.eq_false_iff.2 fun hpp => by simpa [ht] using (hp hpp).1⟩
  simp only [matrixTable, List.forall_mem_cons, List.not_mem_nil, IsEmpty.forall_iff, implies_true, and_true]
  refine ⟨?_, ?_, ?_, fun hp _ => ?_, fun hp _ => ?_, fun hp hoff => ?_, ?_, ?_, ?_, ?_, ?_⟩
  case refine_4 =>
    have hpre : convertPre true co = none := if_neg fun hc => by
      simp only [Bool.and_eq_true] at hc
      obtain ⟨hA, hB⟩ := (hp hc.1).2.1 rfl
      simp [hA, hB] at hc
    exact runChecked_taker h hpre _ _
  case refine_5 =>
    have hpre : convertPre false co = none := if_neg fun hc => by
      simp only [Bool.and_eq_true] at hc
      obtain ⟨hB, hD⟩ := (hp hc.1).2.2 rfl
      simp [hB, hD] at hc
    exact runChecked_taker h hpre _ _
  case refine_6 =>
    have hbody : exec (.mswap a) s = execMswap a s := rfl
    rw [hbody, execMswap, runWord_issues (hissues hp rfl), if_neg (hoff trivial)]
  case refine_1 | refine_2 | refine_3 => exact fun _ _ => runWord_taker h _
  all_goals exact fun hp _ => runWord_issues (hissues hp rfl) _ _

/-! ### Commands that issue (R243, R244) -/

section
variable {s : State} {key : Nat} {co : Coroutine}

theorem prefixWord_of_takes {takes : Bool} (h : co.pp = true → takes = true) :
    co.prefixWord = if takes && co.pp then some co.pfx else none := by
  unfold Coroutine.prefixWord
  cases hp : co.pp with
  | false => simp
  | true => simp [h hp]

/-- What follows the retirement of a quiet coroutine's instruction: a taker's format word is used up. -/
theorem afterRetire_setCo (c : Chip) (co' : Coroutine) (hq : co.quiet) (takes : Bool) :
    (c.setCo key co').afterRetire key co takes = c.setCo key { co' with pp := if takes then false else co'.pp } := by
  obtain ⟨hn, hs⟩ := hq
  cases takes with
  | false => simp [Chip.afterRetire, hn, hs]
  | true => simp [Chip.afterRetire, hn, hs]

/-- A command issued: its entry joins its core's queue, and its accesses join the scoreboard. -/
theorem recordMatrix_pushed (e : MEntry) :
    ∃ m, { m with seqs := [] } = { e with seqs := [] }
      ∧ (((s.chip.recordMatrix key co e).2.pushMatrix (key / 256) (s.chip.recordMatrix key co e).1).core (key / 256)).mq
        = (s.chip.core (key / 256)).mq ++ [m]
      ∧ recorded (((s.chip.recordMatrix key co e).2.pushMatrix (key / 256) (s.chip.recordMatrix key co e).1).cluster (key / 1024))
        = recorded (s.chip.cluster (key / 1024)) ++ m.accesses
      ∧ ((s.chip.recordMatrix key co e).2.pushMatrix (key / 256) (s.chip.recordMatrix key co e).1).mem = s.chip.mem := by
  have hrec := recordAll_frame s.chip (key / 1024) e.accesses
  have htag : TagFrame (s.chip.recordAll (key / 1024) e.accesses).2 (s.chip.recordMatrix key co e).2 :=
    (tagFrame_tagIssued ..).trans (tagFrame_raiseFills ..)
  refine ⟨(s.chip.recordMatrix key co e).1, rfl, ?_, ?_, ?_⟩
  · have hcore : (s.chip.recordMatrix key co e).2.core (key / 256) = s.chip.core (key / 256) := by
      rw [htag.core, hrec]
      rfl
    rw [Chip.pushMatrix, Chip.core_modCore, hcore]
  · have hboard := recorded_recordAll s.chip (key / 1024) e.accesses
    rw [recorded, ← htag.board] at hboard
    exact hboard
  · calc (s.chip.recordMatrix key co e).2.mem
        = (s.chip.recordAll (key / 1024) e.accesses).2.mem := htag.mem
      _ = s.chip.mem := by rw [hrec]

end

theorem matrixCommandsIssue : Claims.MatrixCommandsIssue := by
  intro s key co h hq a b sl f hf hpp hready
  have hpfx : co.prefixWord = if f.2.2 && co.pp then some co.pfx else none := prefixWord_of_takes fun hp => (hpp hp).1
  refine ⟨fun hoff hscales => ?_, fun hswap hdiag => ?_⟩
  · have hexec := exec_matrixTable h f hf hpp (fun he => hoff.resolve_left (fun hne => hne he))
    have hgo := matrixChecks_ready hready (fun c e =>
      if 16 ≤ (c.core (key / 256)).mq.length || c.scalesWait key co then .stall
      else .retire (((c.recordMatrix key co e).2.pushMatrix (key / 256) (c.recordMatrix key co e).1).setCo key co.advance))
    have hwait : s.chip.scalesWait key co = false := by rcases hscales with hb | hv <;> simp [Chip.scalesWait, *]
    rw [← hpfx] at hgo
    have hbody : matrixBody f.1 (fun _ => f.2.1) s.chip key co = _ := hgo
    rw [hexec, hbody]
    simp only [hwait, Bool.or_false, decide_eq_true_eq]
    refine ⟨fun hroom => ?_, fun hfull => by rw [if_pos hfull]; rfl⟩
    obtain ⟨m, hm, hmq, hboard, hmem⟩ := recordMatrix_pushed (s := s) (key := key) (co := co) (matrixOf s key co f.1 f.2.1 f.2.2)
    rw [if_neg (Nat.not_le.2 hroom)]
    refine ⟨_, m, rfl, ?_⟩
    show (Chip.core (Chip.afterRetire _ key co f.2.2) _).mq = _ ∧ _ ∧ Chip.co (Chip.afterRetire _ key co f.2.2) key = _
      ∧ recorded (Chip.cluster (Chip.afterRetire _ key co f.2.2) _) = _ ∧ (Chip.afterRetire _ key co f.2.2).mem = _
    rw [afterRetire_setCo _ _ hq]
    exact ⟨hmq, hm, Chip.co_setCo .., hboard, hmem⟩
  · obtain ⟨i, u, takes⟩ := f
    obtain rfl : i = .mswap a := hswap
    obtain ⟨rfl, rfl⟩ : u = 0 ∧ takes = false := by simpa [matrixTable] using hf
    have hplain : co.pp = false := Bool.eq_false_iff.2 fun hp => by simpa using (hpp hp).1
    have hbody : exec (.mswap a) s = execMswap a s := rfl
    rw [hbody, execMswap, runWord_issues ⟨h.clocks, h.running, h.holds, hplain⟩, if_pos hdiag]
    exact congrArg (fun r : Issue => Host.Outcome.next (r.state s key co false))
      (matrixChecks_ready hready (fun c _ => .retire (c.setCo key co.advance)))

/-! ### Commands that stop (R227, R239, R246, R417) -/

section
variable {s : State} {key : Nat} {co : Coroutine} (h : Issues s key co) (hrun : Runs s key)
  (hdr : s.chip.undrained key = false)
include hdr

theorem trapB_trapped (cause : Nat) (takes : Bool) :
    (trapB s.chip key co cause 0).state s key co takes = s.trapped key co cause 0 := by
  rw [trapB_drained _ _ _ hdr]
  rfl

include h hrun

/-- A command that must wait suspends before itself, and its core is free. -/
theorem suspendOn_awaits (w : Wait) (takes : Bool) :
    ∃ co', ((s.chip.suspendOn key co w).state s key co takes).chip.co key = some co' ∧ co'.state = .awaiting ∧ co'.wait = w
      ∧ co'.pc = co.pc ∧ (((s.chip.suspendOn key co w).state s key co takes).chip.core (key / 256)).running = none := by
  obtain ⟨b, -, hidle, hkept⟩ := suspend_running h.holds hrun co.dlive .awaiting w
  obtain ⟨n, hself⟩ := hkept.self
  obtain ⟨-, -, hpc⟩ := suspended_recorded co co.dlive .awaiting w s.chip.time n
  have hgone : s.chip.suspendOn key co w = .gone (s.chip.suspend key co.dlive .awaiting w) := if_neg (by simp [hdr])
  rw [hgone]
  exact ⟨_, hself, rfl, rfl, hpc, (hkept.running _).trans hidle⟩

end

/-- Another's slot holds up every command but `MSTAT`, and a free one traps every command but `MACQ` and `MSTAT` (R417). -/
theorem slotCheck_matrixTable (a b : BitVec 5) (sl : BitVec 4) (co : Coroutine) :
    ∀ f ∈ matrixTable a b sl co, f.1 ≠ .mstat a sl →
      slotCheck f.1 .other = .wait ∧ (f.1 ≠ .macq a sl → slotCheck f.1 .free = .bad) := by
  simp only [matrixTable, List.forall_mem_cons, List.not_mem_nil, IsEmpty.forall_iff, implies_true, and_true]
  refine ⟨?_, ?_, ?_, ?_, ?_, ?_, fun _ => ⟨rfl, fun hacq => absurd rfl hacq⟩, ?_, ?_, ?_, fun hstat => absurd rfl hstat⟩
  all_goals exact fun _ => ⟨rfl, fun _ => rfl⟩

theorem matrixChecksStopCommands : Claims.MatrixChecksStopCommands := by
  intro s key co h hrun hdr a b sl f hf hoff
  have hexec := exec_matrixTable h.taker f hf (fun hp => absurd (h.plain.symm.trans hp) Bool.false_ne_true) (fun _ => hoff)
  have htrap (cause : Nat) (hc : matrixBody f.1 (fun _ => f.2.1) s.chip key co = trapB s.chip key co cause 0) :
      exec f.1 s = .next (s.trapped key co cause 0) := by rw [hexec, hc, trapB_trapped hdr]
  have hwait (w : Wait) (hc : matrixBody f.1 (fun _ => f.2.1) s.chip key co = s.chip.suspendOn key co w) :
      ∃ u co', exec f.1 s = .next u ∧ u.chip.co key = some co' ∧ co'.state = .awaiting ∧ co'.wait = w ∧ co'.pc = co.pc
        ∧ (u.chip.core (key / 256)).running = none := by
    obtain ⟨co', hself⟩ := suspendOn_awaits h hrun hdr w f.2.2
    rw [hexec, hc]
    exact ⟨_, co', rfl, hself⟩
  refine ⟨fun hout => htrap _ (matrixChecks_tileOut hout), fun tilesIn =>
    ⟨fun hout => htrap _ (matrixChecks_slotOut tilesIn hout), fun slotIn => ⟨fun hnot => ?_, fun tilesReady n hn hstat => ?_⟩⟩⟩
  · obtain ⟨p, hp⟩ : ∃ p, s.chip.unreadyTile (key / 1024) ((namedTiles f.1 co.mshape).map (fun t => co.tbase + t)) = some p := by
      refine Option.ne_none_iff_exists'.1 fun hnone => ?_
      obtain ⟨t, ht, hne⟩ := hnot
      exact hne (unreadyTile_none.1 hnone t ht)
    obtain ⟨t, ht, rfl, hne⟩ := unreadyTile_some hp
    obtain ⟨u, co', hu, hself, hstate, hw, hpc, hidle⟩ := hwait _ (matrixChecks_tileWait tilesIn slotIn hp)
    exact ⟨u, co', t, hu, hself, hstate, hw, ht, hne, hpc, hidle⟩
  · have hof : slotOf s key co f.1 = (s.chip.cluster (key / 1024)).slot (co.abase + n) := by rw [slotOf, hn, Option.getD_some]
    rw [hof]
    obtain ⟨hwaits, htraps⟩ := slotCheck_matrixTable a b sl co f hf hstat
    exact ⟨fun hother => hwait _ (matrixChecks_slotWait tilesIn slotIn tilesReady hn (by rw [hother, hwaits])),
      fun hfree hacq => htrap _ (matrixChecks_slotBad tilesIn slotIn tilesReady hn (by rw [hfree, htraps hacq]))⟩

/-- Settles O36: the front end's checks come in order, and a command that passes them is queued with its accesses recorded. -/
theorem matrixIssue : Obligations.MatrixIssue := ⟨matrixCommandsIssue, matrixChecksStopCommands⟩

end Sys2Proof.Machine
end

section
/-! O51: the dome serves the matrix queues in turn, and tiles are configured in queue order (R244, R414, R429). -/

namespace Sys2Proof.Machine

open Sys2Proof.Claims

/-! ### Slots swept (R246) -/

/-- `d` is `c` but for slots, coroutines and bytes. -/
def SweepFrame (c d : Chip) : Prop :=
  d.cores = c.cores ∧ d.msgs = c.msgs ∧ ∀ n, ∃ ss, d.cluster n = { c.cluster n with slots := ss }

theorem SweepFrame.refl (c : Chip) : SweepFrame c c := ⟨rfl, rfl, fun _ => ⟨_, rfl⟩⟩

section
variable {b c d : Chip}

theorem SweepFrame.trans (h : SweepFrame b c) (k : SweepFrame c d) : SweepFrame b d := by
  obtain ⟨hc, hm, hs⟩ := h
  obtain ⟨kc, km, ks⟩ := k
  refine ⟨kc.trans hc, km.trans hm, fun n => ?_⟩
  obtain ⟨_, e1⟩ := hs n
  obtain ⟨ss, e2⟩ := ks n
  exact ⟨ss, by rw [e2, e1]⟩

theorem sweepFrame_modSlot (c : Chip) (cl s : Nat) (f : Slot → Slot) :
    SweepFrame c (c.modCluster cl (fun k => k.modSlot s f)) := by
  refine ⟨rfl, rfl, fun n => ?_⟩
  by_cases hn : n = cl
  · rw [hn, Chip.cluster_modCluster]
    exact ⟨_, rfl⟩
  · rw [Chip.cluster_modCluster_ne c _ hn]
    exact ⟨_, rfl⟩

theorem sweepFrame_sweepSlots (c : Chip) (cl : Nat) : SweepFrame c (c.sweepSlots cl) := by
  unfold Chip.sweepSlots
  generalize List.range 16 = l
  induction l generalizing c with
  | nil => exact .refl c
  | cons s r ih =>
    rw [List.foldl_cons]
    refine .trans ?_ (ih _)
    dsimp only
    split
    · exact sweepFrame_modSlot c cl s _
    · exact .refl c

end

/-- Where no holder has ended, a sweep frees nothing. -/
theorem sweepSlots_quiet {c : Chip} {cl : Nat} (h : ∀ n, ((c.cluster cl).slot n).held = false ∨ ((c.cluster cl).slot n).ended = false) :
    c.sweepSlots cl = c :=
  List.foldl_fixed' (fun s => if_neg (by rcases h s with h | h <;> simp [h])) _

/-! ### Commands that end a copy (R254, R256) -/

theorem cluster_performed (c : Chip) (cl : Nat) (seqs : List Nat) : (c.performed cl seqs).cluster cl
    = { c.cluster cl with board := (c.cluster cl).board.filter (fun a => !seqs.contains a.seq) } := by
  unfold Chip.performed
  split
  next h =>
    obtain rfl := List.isEmpty_iff.1 h
    simp
  next => exact Chip.cluster_modCluster ..

/-- The performance of accesses touches only scoreboards. -/
theorem performed_eq (c : Chip) (cl : Nat) (seqs : List Nat) : c.performed cl seqs = { c with clusters := (c.performed cl seqs).clusters } := by
  unfold Chip.performed
  split <;> rfl

theorem cluster_performed_ne (c : Chip) {cl n : Nat} (seqs : List Nat) (h : n ≠ cl) : (c.performed cl seqs).cluster n = c.cluster n := by
  unfold Chip.performed
  split
  · rfl
  · exact Chip.cluster_modCluster_ne c _ h

/-- The end of a copy changes only copy queues and messages. -/
theorem endCopy_eq (c : Chip) (cl id st : Nat) :
    c.endCopy cl id st = { c with clusters := (c.endCopy cl id st).clusters, msgs := (c.endCopy cl id st).msgs } := by
  unfold Chip.endCopy Chip.finish Chip.complete
  split
  · rfl
  · split <;> rfl

theorem cluster_complete (c : Chip) (src : Source) (tok : Word) (st es n : Nat) : (c.complete src tok st es).cluster n = c.cluster n := by
  unfold Chip.complete
  split <;> rfl

theorem cluster_endCopy (c : Chip) (cl id st : Nat) :
    (c.endCopy cl id st).cluster cl = { c.cluster cl with copyQ := (c.cluster cl).copyQ.filter (fun r => r.cmd.id ≠ id) } := by
  unfold Chip.endCopy
  split
  next h =>
    have hall : (c.cluster cl).copyQ.filter (fun r => r.cmd.id ≠ id) = (c.cluster cl).copyQ :=
      List.filter_eq_self.2 fun q hq => by simpa using List.find?_eq_none.1 h q hq
    rw [hall]
  next q h =>
    rw [Chip.finish, cluster_complete, Chip.cluster_modCluster]

theorem copy_gone_endCopy (c : Chip) (cl id st : Nat) : ∀ q ∈ ((c.endCopy cl id st).cluster cl).copyQ, q.cmd.id ≠ id := by
  rw [cluster_endCopy]
  exact fun q hq => by simpa using (List.mem_filter.1 hq).2

theorem msgs_endCopy {c : Chip} {cl id : Nat} {q : CopyCmd} (st : Nat) (h : (c.cluster cl).copyQ.find? (fun q => q.cmd.id = id) = some q) :
    (c.endCopy cl id st).msgs = c.msgs ++ (if q.cmd.tok = 0 then [] else
      [⟨none, false, false, .signal q.cmd.tok 1 (worse q.cmd.status st) 3 none, .engine 1 q.cmd.cluster, 0, false⟩]) := by
  unfold Chip.endCopy
  rw [h]
  dsimp only [Chip.finish, Chip.complete]
  split
  · simp
  · rfl

/-! ### Tiles changed (R241) -/

theorem cluster_modTile (c : Chip) (cl p n : Nat) (f : Tile → Tile) :
    (c.modTile cl p f).cluster n = (c.modCluster cl (fun k => k.modTile p f)).cluster n := by
  unfold Chip.modTile Chip.wakeTile
  split <;> rfl

theorem tile_modTile_self (c : Chip) (cl p : Nat) (f : Tile → Tile) :
    ((c.modTile cl p f).cluster cl).tile p = f ((c.cluster cl).tile p) := by
  rw [cluster_modTile, Chip.cluster_modCluster]
  exact mgetD_mset_self ..

theorem tile_modTile_ne (c : Chip) (cl : Nat) {p n : Nat} (f : Tile → Tile) (h : n ≠ p) :
    ((c.modTile cl p f).cluster cl).tile n = (c.cluster cl).tile n := by
  rw [cluster_modTile, Chip.cluster_modCluster]
  exact mgetD_mset_ne _ _ _ h

theorem slots_modTile (c : Chip) (cl p : Nat) (f : Tile → Tile) :
    ((c.modTile cl p f).cluster cl).slots = (c.cluster cl).slots := by
  rw [cluster_modTile, Chip.cluster_modCluster]
  rfl

/-! ### The next command of the dome (R244) -/

theorem domeReady_head {c : Chip} {core : Nat} {e : MEntry} {r : List MEntry} (h : (c.core core).mq = e :: r) :
    c.domeReady core = true ↔ e.ready = true ∧ isTcfg e.op = false ∧ (isMswap e.op = true ∨ (c.cluster (core / 4)).clear e.seqs = true)
      ∧ ∀ id, e.copy = some id → (c.cluster (core / 4)).copyMoved id = true := by
  unfold Chip.domeReady
  rw [h]
  cases hcopy : e.copy <;> simp [hcopy, and_assoc]

theorem domeNext_eq {c : Chip} {cl i : Nat} (hi : i < 4) (hready : c.domeReady (4 * cl + ((c.cluster cl).lastCore + 1 + i) % 4) = true)
    (hfirst : ∀ j, j < i → c.domeReady (4 * cl + ((c.cluster cl).lastCore + 1 + j) % 4) = false) :
    c.domeNext cl = some (4 * cl + ((c.cluster cl).lastCore + 1 + i) % 4) := by
  have hfind : (List.range 4).find? (c.domeReady ∘ fun i => 4 * cl + ((c.cluster cl).lastCore + 1 + i) % 4) = some i :=
    List.find?_range_eq_some.2 ⟨hready, List.mem_range.2 hi, fun j hj => by simp [hfirst j hj]⟩
  rw [Chip.domeNext, List.find?_map, hfind]
  rfl

theorem domeNext_none {c : Chip} {cl : Nat} (h : ∀ k, k / 4 = cl → c.domeReady k = false) : c.domeNext cl = none := by
  refine List.find?_eq_none.2 fun k hk => ?_
  obtain ⟨i, -, rfl⟩ := List.mem_map.1 hk
  rw [h _ (by omega)]
  decide

theorem domeStart_next {c : Chip} {cl core : Nat} {e : MEntry} {r : List MEntry} (hidle : (c.cluster cl).dome = none)
    (hrun : c.clusterRuns cl = true) (hnext : c.domeNext cl = some core) (hq : (c.core core).mq = e :: r) :
    c.domeStart cl = c.startMatrix core e := by
  unfold Chip.domeStart
  rw [if_neg (by simp [hidle, hrun]), hnext]
  dsimp only
  rw [hq]

theorem nextInDome_domeNext {s : State} {cl core : Nat} {e : MEntry} {r : List MEntry} (h : NextInDome s cl core e r)
    (hcl : core / 4 = cl) : s.chip.domeNext cl = some core := by
  obtain ⟨-, -, ⟨i, hi, hcore, hfirst⟩, hq, hrd, htc, hclear, hcopy⟩ := h
  have hready : s.chip.domeReady core = true := (domeReady_head hq).2 ⟨hrd, htc, by rw [hcl]; exact hclear.symm, by rw [hcl]; exact hcopy⟩
  rw [hcore] at hready
  rw [domeNext_eq hi hready hfirst, ← hcore]

/-- The dome, idle, starts the command at the head of the core whose turn it is. -/
theorem exec_domeCommandStart {s : State} {cl : BitVec 7} {core : Nat} {e : MEntry} {r : List MEntry}
    (h : NextInDome s cl.toNat core e r) (hcl : core / 4 = cl.toNat) :
    exec (.domeCommandStart cl) s = .next { s with chip := s.chip.startMatrix core e } := by
  have hbody : exec (.domeCommandStart cl) s = onChip (fun c => c.domeStart cl.toNat) s := rfl
  rw [hbody, onChip_running h.run.1, domeStart_next h.idle h.run.2 (nextInDome_domeNext h hcl) h.head]

/-! ### Starting a command (R244, R429) -/

/-- A core's matrix queue without its head, the turn given to the next core, and the slot reclaimed. -/
theorem cluster_taken (c : Chip) (core cl : Nat) (e : MEntry) (h : core / 4 = cl) :
    ∃ ss, ((c.popMatrix core).reclaim cl e).cluster cl = { c.cluster cl with lastCore := core % 4, slots := ss } := by
  have hpop : (c.popMatrix core).cluster cl = { c.cluster cl with lastCore := core % 4 } := by
    rw [← h]
    exact Chip.cluster_modCluster ..
  unfold Chip.reclaim
  split
  · exact ⟨_, hpop⟩
  · split
    · exact ⟨_, hpop⟩
    · rw [Chip.cluster_modCluster, hpop]
      exact ⟨_, rfl⟩

theorem taken_eq (c : Chip) (core cl : Nat) (e : MEntry) : (c.popMatrix core).reclaim cl e
    = { c.popMatrix core with clusters := ((c.popMatrix core).reclaim cl e).clusters } := by
  unfold Chip.reclaim
  split
  · rfl
  · split <;> rfl

theorem core_taken (c : Chip) (core cl : Nat) (e : MEntry) :
    (((c.popMatrix core).reclaim cl e).core core).mq = (c.core core).mq.drop 1 := by
  rw [taken_eq]
  show ((c.modCore core (fun k => { k with mq := k.mq.drop 1 })).core core).mq = _
  rw [Chip.core_modCore]

/-- The geometry of a command rests on tiles alone. -/
theorem geometryOk_tiles (e : MEntry) (k : Cluster) (n : Nat) (ss : AMap Slot) :
    e.geometryOk { k with lastCore := n, slots := ss } = e.geometryOk k := rfl

section
variable {s : State} {cl : BitVec 7} {core : Nat} {e : MEntry} {r : List MEntry}

/-- The command is not a follow-on, or its geometry and its tiles still hold. -/
def FollowOnHolds (e : MEntry) (k : Cluster) : Prop :=
  ∀ id, e.copy = some id → e.geometryOk k = true ∧ ∀ n ∈ namedTiles e.op e.mshape, (k.tile (e.tbase + n)).configured = true

theorem startMatrix_dome {c : Chip} {core : Nat} {e : MEntry} (hsw : isMswap e.op = false)
    (hok : FollowOnHolds e (c.cluster (core / 4))) : c.startMatrix core e
      = ((c.popMatrix core).reclaim (core / 4) e).modCluster (core / 4) (fun k => { k with dome := some e }) := by
  unfold Chip.startMatrix
  rw [if_neg (by simp [hsw])]
  cases hcopy : e.copy with
  | none => rfl
  | some id =>
    obtain ⟨hgeo, htiles⟩ := hok id hcopy
    obtain ⟨ss, hk⟩ := cluster_taken c core _ e rfl
    refine if_pos ?_
    rw [hk, geometryOk_tiles, hgeo, Bool.true_and, List.all_eq_true]
    exact htiles

theorem startMatrix_fails {c : Chip} {core id : Nat} {e : MEntry} (hsw : isMswap e.op = false) (hcopy : e.copy = some id)
    (hbad : e.geometryOk (c.cluster (core / 4)) = false
      ∨ ∃ n ∈ namedTiles e.op e.mshape, ((c.cluster (core / 4)).tile (e.tbase + n)).configured = false) : c.startMatrix core e
      = ((((c.popMatrix core).reclaim (core / 4) e).performed (core / 4) e.seqs).endCopy (core / 4) id 5).sweepSlots (core / 4) := by
  unfold Chip.startMatrix
  rw [if_neg (by simp [hsw]), hcopy]
  obtain ⟨ss, hk⟩ := cluster_taken c core _ e rfl
  refine if_neg ?_
  rw [hk, geometryOk_tiles, Bool.and_eq_true, List.all_eq_true]
  rintro ⟨hgeo, htiles⟩
  rcases hbad with hb | ⟨n, hn, hb⟩
  · exact absurd hgeo (by simp [hb])
  · exact absurd (htiles n hn) (by rw [Bool.not_eq_true]; exact hb)

end

/-! ### Tiles configured (R414) -/

/-- A core's matrix queue without its head, whose accesses are performed. -/
def Chip.dequeued (c : Chip) (core : Nat) (e : MEntry) : Chip :=
  (c.modCore core (fun k => { k with mq := k.mq.drop 1 })).performed (core / 4) e.seqs

/-- A tile with the configuration that a word gives. -/
def configuredBy (w : Word) (t : Tile) : Tile :=
  { t with fmt := bits w.toNat 4 0, rows := bits w.toNat 16 8, cols := bits w.toNat 32 20, configured := true }

theorem core_dequeued (c : Chip) (core : Nat) (e : MEntry) :
    ((c.dequeued core e).core core).mq = (c.core core).mq.drop 1 := by
  rw [Chip.dequeued, performed_eq]
  show ((c.modCore core (fun k => { k with mq := k.mq.drop 1 })).core core).mq = _
  rw [Chip.core_modCore]

theorem cluster_dequeued (c : Chip) (core : Nat) (e : MEntry) : (c.dequeued core e).cluster (core / 4)
    = { c.cluster (core / 4) with board := (c.cluster (core / 4)).board.filter (fun a => !e.seqs.contains a.seq) } :=
  cluster_performed ..

theorem exec_tileConfigure (core : BitVec 9) (s : State) :
    exec (.tileConfigure core) s = onChip (fun c => c.tileConfigure core.toNat) s := rfl

theorem matrixQueuesFeedTheDome : Claims.MatrixQueuesFeedTheDome := by
  intro s cl core
  refine ⟨fun e r h hcl => ?_, fun h => ?_, fun e r a b p hrun hq => ⟨fun hop _ hp => ?_, fun htc => ?_⟩⟩
  · have hexec := exec_domeCommandStart h hcl
    obtain ⟨ss, hk⟩ := cluster_taken s.chip core.toNat cl.toNat e hcl
    have hmq : (((s.chip.popMatrix core.toNat).reclaim cl.toNat e).core core.toNat).mq = r := by
      rw [core_taken, h.head, List.drop_one, List.tail_cons]
    have hmem : ((s.chip.popMatrix core.toNat).reclaim cl.toNat e).mem = s.chip.mem := by
      rw [taken_eq]
      rfl
    have hmsgs : ((s.chip.popMatrix core.toNat).reclaim cl.toNat e).msgs = s.chip.msgs := by
      rw [taken_eq]
      rfl
    refine ⟨fun hsw hok => ⟨_, hexec, ?_⟩, fun hsw => ⟨_, hexec, ?_⟩, fun id q hcopy hsw hfind hbad => ⟨_, hexec, ?_⟩, fun hcopy => ?_⟩
    · rw [startMatrix_dome hsw (by rw [hcl]; exact hok), hcl]
      refine ⟨?_, hmq, ?_, hmem, ?_⟩
      all_goals rw [Chip.cluster_modCluster, hk]
    · have hstart : s.chip.startMatrix core.toNat e = ((s.chip.popMatrix core.toNat).reclaim cl.toNat e).modCluster cl.toNat
          (fun k => { k with moves := k.moves ++ [e] }) := by
        unfold Chip.startMatrix
        rw [if_pos hsw, hcl]
      rw [hstart]
      refine ⟨?_, ?_, hmq, hmem⟩
      · rw [Chip.cluster_modCluster, hk]
        exact h.idle
      · rw [Chip.cluster_modCluster, hk]
    · rw [startMatrix_fails hsw hcopy (by rw [hcl]; exact hbad), hcl]
      obtain ⟨hcores, hms, hcls⟩ := sweepFrame_sweepSlots
        ((((s.chip.popMatrix core.toNat).reclaim cl.toNat e).performed cl.toNat e.seqs).endCopy cl.toNat id 5) cl.toNat
      obtain ⟨ss', hk'⟩ := hcls cl.toNat
      have hfind' : ((((s.chip.popMatrix core.toNat).reclaim cl.toNat e).performed cl.toNat e.seqs).cluster cl.toNat).copyQ.find?
          (fun q => q.cmd.id = id) = some q := by
        rw [cluster_performed, hk]
        exact hfind
      refine ⟨?_, ?_, ?_, fun htok => ?_⟩
      · rw [hk', cluster_endCopy, cluster_performed, hk]
        exact h.idle
      · rw [Chip.core, hcores, endCopy_eq, performed_eq]
        exact hmq
      · rw [hk']
        exact copy_gone_endCopy _ cl.toNat id 5
      · rw [hms, msgs_endCopy 5 hfind', if_neg htok]
        exact List.mem_append_right _ (List.mem_singleton_self _)
    · have hfollow : exec (.followOnStart core) s = onChip (fun c => c.followOnStart core.toNat) s := rfl
      have hchip : s.chip.followOnStart core.toNat = s.chip.startMatrix core.toNat e := by
        unfold Chip.followOnStart
        rw [h.head]
        refine (if_pos ?_).trans ?_
        · rw [hcl, nextInDome_domeNext h hcl]
          simp [Option.isSome_iff_ne_none, hcopy]
        · rw [hcl]
          exact domeStart_next h.idle h.run.2 (nextInDome_domeNext h hcl) h.head
      rw [hexec, hfollow, onChip_running h.run.1, hchip]
  · have hbody : exec (.domeCommandStart cl) s = onChip (fun c => c.domeStart cl.toNat) s := rfl
    refine hbody.trans (onChip_idle ?_)
    unfold Chip.domeStart
    rcases h with hbusy | hnone
    · exact if_pos (by simp [Option.isSome_iff_ne_none, hbusy])
    · rw [domeNext_none hnone]
      exact ite_self _
  · rw [exec_tileConfigure]
    refine ⟨fun hclear hst hquiet => ?_, fun hwait => onChip_idle ?_⟩
    · have hdone : s.chip.tileConfigure core.toNat
          = ((s.chip.dequeued core.toNat e).modTile (core.toNat / 4) e.s1.toNat (configuredBy e.s2)).sweepSlots (core.toNat / 4) := by
        unfold Chip.tileConfigure
        rw [hq]
        refine if_pos ?_
        rw [← hp, hop, hclear, hrun.2]
        simpa [isTcfg] using hst
      have hslots (n : Nat) : (((s.chip.dequeued core.toNat e).modTile (core.toNat / 4) e.s1.toNat (configuredBy e.s2)).cluster
          (core.toNat / 4)).slot n = (s.chip.cluster (core.toNat / 4)).slot n := by
        rw [Cluster.slot, slots_modTile, cluster_dequeued]
        rfl
      have htile (n : Nat) : ((s.chip.dequeued core.toNat e).cluster (core.toNat / 4)).tile n
          = (s.chip.cluster (core.toNat / 4)).tile n := by
        rw [cluster_dequeued]
        rfl
      rw [sweepSlots_quiet (fun n => by rw [hslots]; exact hquiet n)] at hdone
      refine ⟨_, onChip_running hrun.1 _, ?_⟩
      rw [hdone]
      refine ⟨?_, ?_, fun n hn => ?_, ?_⟩
      · rw [(tagFrame_modTile ..).core, core_dequeued, hq]
        rfl
      · rw [tile_modTile_self, htile, ← hp, configuredBy]
        simp only [bits, pow_zero, Nat.div_one, Nat.reduceAdd, Nat.reduceSub, Nat.reducePow]
      · rw [tile_modTile_ne _ _ _ hn, htile]
      · rw [(tagFrame_modTile ..).mem, Chip.dequeued, performed_eq]
        rfl
    · unfold Chip.tileConfigure
      rw [hq]
      refine if_neg ?_
      rw [← hp]
      rcases hwait with h | h | h <;> simp [h]
  · rw [exec_tileConfigure]
    refine onChip_idle ?_
    unfold Chip.tileConfigure
    rw [hq]
    exact if_neg (by simp [htc])

end Sys2Proof.Machine
end

section
/-! O51: codes fit their formats (R306, R312, R316, R321), and what reading back elements written one after another gives (R240). -/

namespace Sys2Proof.Machine

open Sys2Proof.Claims

/-! ### Codes fit their formats -/

/-- The bits of a float format's element. -/
def FFmt.width (f : FFmt) : Nat := 1 + f.eb + f.mb + f.drop

section
variable {f : FFmt}

theorem packFloat_lt {neg : Bool} {code : Nat} (h : code < 2 ^ (f.eb + f.mb)) : packFloat f neg code < 2 ^ f.width := by
  have hneg : b2n neg ≤ 1 := by cases neg <;> decide
  have hsum : b2n neg * 2 ^ (f.eb + f.mb) + code < 2 ^ (1 + f.eb + f.mb) := by
    have := Nat.mul_le_mul_right (2 ^ (f.eb + f.mb)) hneg
    rw [Nat.add_assoc, pow_add 2 1]
    omega
  rw [packFloat, FFmt.width, pow_add 2 (1 + f.eb + f.mb)]
  exact Nat.mul_lt_mul_of_pos_right hsum (Nat.two_pow_pos _)

theorem infCode_add_lt {r : Nat} (hr : r < 2 ^ f.mb) : infCode f + r < 2 ^ (f.eb + f.mb) := by
  have hle : 2 ^ f.mb ≤ 2 ^ f.eb * 2 ^ f.mb := Nat.le_mul_of_pos_left _ (Nat.two_pow_pos _)
  rw [infCode, Nat.sub_mul, pow_add]
  omega

theorem infCode_lt : infCode f < 2 ^ (f.eb + f.mb) := infCode_add_lt (Nat.two_pow_pos _)

theorem maxCode_lt : maxCode f < 2 ^ (f.eb + f.mb) := by
  have hinf : infCode f < 2 ^ (f.eb + f.mb) := infCode_lt
  have hpos := Nat.two_pow_pos (f.eb + f.mb)
  unfold maxCode
  unfold infCode at hinf
  split <;> omega

theorem overflowCode_lt (rm : Nat) (neg : Bool) : overflowCode f rm neg < 2 ^ (f.eb + f.mb) := by
  unfold overflowCode
  split
  · exact maxCode_lt
  · split
    · exact maxCode_lt
    · exact infCode_lt

theorem pack_checked_lt (rm : Nat) (neg : Bool) (code : Nat) (a b : Flags) :
    (if maxCode f < code then (packFloat f neg (overflowCode f rm neg), a) else (packFloat f neg code, b)).1 < 2 ^ f.width := by
  split
  · exact packFloat_lt (overflowCode_lt rm neg)
  next h => exact packFloat_lt ((Nat.not_lt.1 h).trans_lt maxCode_lt)

theorem roundTo_lt (x : Exact) (rm : Nat) : (roundTo x f rm).1 < 2 ^ f.width := by
  unfold roundTo
  split
  · exact packFloat_lt (Nat.two_pow_pos _)
  · exact pack_checked_lt rm x.neg _ _ _

variable (hmb : 0 < f.mb)
include hmb

theorem canonicalNaN_lt : canonicalNaN f < 2 ^ f.width :=
  packFloat_lt (infCode_add_lt (Nat.pow_lt_pow_right (by decide) (by omega)))

theorem roundNum_lt (v : FNum) (rm : Nat) : (roundNum v f rm).1 < 2 ^ f.width := by
  cases v with
  | nan _ _ => exact canonicalNaN_lt hmb
  | inf _ => exact packFloat_lt infCode_lt
  | fin x => exact roundTo_lt x rm

theorem toFloatFmt_lt (v : FNum) (rm : Nat) : (toFloatFmt v f rm).1 < 2 ^ f.width := by
  cases v with
  | fin x => exact roundTo_lt x rm
  | nan neg sig =>
    unfold toFloatFmt
    dsimp only
    split
    · exact canonicalNaN_lt hmb
    · exact packFloat_lt (Nat.sub_lt (Nat.two_pow_pos _) Nat.one_pos)
    · exact Nat.two_pow_pos _
  | inf neg =>
    unfold toFloatFmt
    dsimp only
    split
    · exact packFloat_lt infCode_lt
    · exact packFloat_lt maxCode_lt

end

theorem floatFmt_width {code : Nat} {f : FFmt} (h : floatFmt code = some f) : f.width = fmtWidth code ∧ 0 < f.mb := by
  have hcode : code < 10 := by
    unfold floatFmt at h
    split at h
    case h_10 => cases h
    all_goals decide
  have hall : ∀ k < 10, ∀ g ∈ floatFmt k, g.width = fmtWidth k ∧ 0 < g.mb := by decide
  exact hall code hcode f h

theorem intFmt_width {code w : Nat} {sg : Bool} (h : intFmt code = some (w, sg)) : w = fmtWidth code := by
  have hcode : code < 22 := by
    unfold intFmt at h
    split at h
    case h_9 => cases h
    all_goals decide
  have hall : ∀ k < 22, ∀ g ∈ intFmt k, g.1 = fmtWidth k := by decide
  exact hall code hcode _ h

theorem plain_width {code : Nat} (hf : floatFmt code = none) (hi : intFmt code = none) : fmtWidth code < 8 := by
  by_cases hcode : code < 22
  · have hall : ∀ k < 22, floatFmt k = none → intFmt k = none → fmtWidth k < 8 := by decide
    exact hall code hcode hf hi
  · unfold fmtWidth
    split
    all_goals omega

/-- A converted element fits its format, where the format is one of whole bytes. -/
theorem convertElem_lt (v : FNum) {code : Nat} (h : 8 ≤ fmtWidth code) : (convertElem v code 0).1 < 2 ^ fmtWidth code := by
  unfold convertElem
  split
  next f hf =>
    obtain ⟨hw, hmb⟩ := floatFmt_width hf
    rw [← hw]
    exact toFloatFmt_lt hmb v 0
  next hf =>
    split
    next w sg hi =>
      obtain rfl := intFmt_width hi
      have hpos : (0 : Int) < ((2 ^ fmtWidth code : Nat) : Int) := by exact_mod_cast Nat.two_pow_pos _
      exact (Int.toNat_lt (Int.emod_nonneg _ hpos.ne')).2 (Int.emod_lt_of_pos _ hpos)
    next hi => exact absurd (plain_width hf hi) (Nat.not_lt.2 h)

/-- A format of an accumulator slot: F32, F16 or I32 (R418). -/
def SlotFormat (fmt : Nat) : Prop := fmt = 1 ∨ fmt = 3 ∨ fmt = 21

theorem SlotFormat.bytes {fmt : Nat} (h : SlotFormat fmt) : 256 ^ slotElemBytes fmt = 2 ^ fmtWidth fmt ∧ 8 ≤ fmtWidth fmt := by
  rcases h with rfl | rfl | rfl <;> decide

theorem addGroup_lt {fmt : Nat} (h : SlotFormat fmt) (acc : Nat) (ps : List FNum) : (addGroup fmt acc ps).1 < 256 ^ slotElemBytes fmt := by
  unfold addGroup
  rcases h with rfl | rfl | rfl
  · exact roundNum_lt (f := fmtF32) (by decide) _ 0
  · exact roundNum_lt (f := fmtF16) (by decide) _ 0
  · have hpos : (0 : Int) < 4294967296 := by decide
    exact (Int.toNat_lt (Int.emod_nonneg _ hpos.ne')).2 (Int.emod_lt_of_pos _ hpos)

theorem addGroups_lt {fmt : Nat} (h : SlotFormat fmt) (fuel g : Nat) {acc : Nat} (ps : List FNum) (ha : acc < 256 ^ slotElemBytes fmt) :
    (addGroups fuel fmt g acc ps).1 < 256 ^ slotElemBytes fmt := by
  induction fuel generalizing acc ps with
  | zero => exact ha
  | succ n ih =>
    unfold addGroups
    split
    · exact ha
    · exact ih _ (addGroup_lt h ..)

theorem dotInto_lt {fmt : Nat} (h : SlotFormat fmt) (g : Nat) {acc : Nat} (row col : List FNum) (ha : acc < 256 ^ slotElemBytes fmt) :
    (dotInto fmt g acc row col).1 < 256 ^ slotElemBytes fmt := addGroups_lt h _ _ _ ha

/-! ### Numbers written one after another -/

theorem memReadNat_lt (m : Memory) (a n : Nat) : memReadNat m a n < 256 ^ n := by
  have h := leNat_lt (memReadBytes m a n)
  rwa [memReadBytes_length] at h

theorem memReadNat_congr {m m' : Memory} {a n : Nat} (h : ∀ x, a ≤ x → x < a + n → memRead m' x = memRead m x) :
    memReadNat m' a n = memReadNat m a n :=
  congrArg leNat (List.map_congr_left fun i hi => h (a + i) (Nat.le_add_right _ _) (by have := List.mem_range.1 hi; omega))

theorem memRead_memWriteNat_off {m : Memory} {a n v x : Nat} (h : Memory.wf m) (hx : x < a ∨ a + n ≤ x) :
    memRead (memWriteNat m a n v) x = memRead m x :=
  memRead_memWriteBytes_outside _ h (by rwa [leBytes_length])

section
variable {α : Type} (addr : α → Nat) (n : Nat) (val : α → Memory → Nat)

/-- Memory with a number of `n` bytes written at each of several places in turn. -/
def writeEach (l : List α) (m : Memory) : Memory := l.foldl (fun m x => memWriteNat m (addr x) n (val x m)) m

/-- An address is outside the places. -/
def OffPlaces (l : List α) (a : Nat) : Prop := ∀ x ∈ l, a < addr x ∨ addr x + n ≤ a

/-- What is written at a place depends only on what stood there and on bytes outside all the places. -/
def ReadsOwn (l : List α) : Prop :=
  ∀ x ∈ l, ∀ m m' : Memory, (∀ a, (addr x ≤ a ∧ a < addr x + n) ∨ OffPlaces addr n l a → memRead m' a = memRead m a) → val x m' = val x m

/-- No two of the places overlap. -/
def PlacesApart (l : List α) : Prop := l.Pairwise (fun x y => addr x + n ≤ addr y ∨ addr y + n ≤ addr x)

variable {addr n val} {l : List α} {m : Memory}

theorem memRead_writeEach_off {a : Nat} (hm : Memory.wf m) (ha : OffPlaces addr n l a) :
    memRead (writeEach addr n val l m) a = memRead m a := by
  induction l generalizing m with
  | nil => rfl
  | cons x r ih =>
    obtain ⟨hx, hr⟩ := List.forall_mem_cons.1 ha
    exact (ih (memWriteNat_wf _ _ _ hm) hr).trans (memRead_memWriteNat_off hm hx)

theorem memReadNat_writeEach (hm : Memory.wf m) (hapart : PlacesApart addr n l) (hown : ReadsOwn addr n val l) :
    ∀ x ∈ l, memReadNat (writeEach addr n val l m) (addr x) n = val x m % 256 ^ n := by
  induction l generalizing m with
  | nil => exact fun _ hx => absurd hx List.not_mem_nil
  | cons y r ih =>
    obtain ⟨hy, hr⟩ := List.pairwise_cons.1 hapart
    have hwf := memWriteNat_wf (addr y) n (val y m) hm
    have hown' : ReadsOwn addr n val r := fun x hx m m' h => hown x (List.mem_cons_of_mem y hx) m m' fun a ha =>
      h a (ha.imp_right fun hoff z hz => hoff z (List.mem_cons_of_mem y hz))
    refine List.forall_mem_cons.2 ⟨?_, fun x hx => ?_⟩
    · have hoff : memReadNat (writeEach addr n val r (memWriteNat m (addr y) n (val y m))) (addr y) n
          = memReadNat (memWriteNat m (addr y) n (val y m)) (addr y) n :=
        memReadNat_congr fun a h1 h2 => memRead_writeEach_off hwf fun z hz => by
          have := hy z hz
          omega
      exact hoff.trans (memReadNat_memWriteNat _ _ _ _ hm)
    · have hval : val x (memWriteNat m (addr y) n (val y m)) = val x m :=
        hown x (List.mem_cons_of_mem y hx) _ _ fun a ha => memRead_memWriteNat_off hm (by
          have := hy x hx
          rcases ha with ha | ha
          · omega
          · exact ha y List.mem_cons_self)
      exact (ih hwf hr hown' x hx).trans (by rw [hval])

/-- A run of writes that also gathers flags writes what the writes alone do. -/
theorem mem_foldl_run {step : SlotRun → α → SlotRun} (hstep : ∀ s x, (step s x).1 = memWriteNat s.1 (addr x) n (val x s.1))
    (s : SlotRun) : (l.foldl step s).1 = writeEach addr n val l s.1 :=
  (List.foldl_hom Prod.fst (g₁ := step) (g₂ := fun m x => memWriteNat m (addr x) n (val x m)) fun s x => (hstep s x).symm).symm

end

end Sys2Proof.Machine
end

section
/-! O51: what the dome's commands leave in slots, tiles and registers (R418-R420, R425). -/

namespace Sys2Proof.Machine

open Sys2Proof.Claims

/-! ### Where elements lie (R240) -/

theorem mem_area {rows cols : Nat} {p : Nat × Nat} : p ∈ area rows cols ↔ p.1 < rows ∧ p.2 < cols := by
  simp only [area, List.mem_flatMap, List.mem_map, List.mem_range]
  constructor
  · rintro ⟨r, hr, c, hc, rfl⟩
    exact ⟨hr, hc⟩
  · exact fun ⟨hr, hc⟩ => ⟨p.1, hr, p.2, hc, rfl⟩

theorem nodup_area (rows cols : Nat) : (area rows cols).Nodup :=
  List.Nodup.product (l₁ := List.range rows) (l₂ := List.range cols) List.nodup_range List.nodup_range

/-- Where an element of a slot lies. -/
def slotAddr (base fmt : Nat) (p : Nat × Nat) : Nat := base + (128 * p.1 + p.2) * slotElemBytes fmt

theorem slotElemBytes_cases (fmt : Nat) : slotElemBytes fmt = 2 ∨ slotElemBytes fmt = 4 := by
  unfold slotElemBytes
  split <;> simp

section
variable {base fmt : Nat}

theorem slotAddr_apart {p q : Nat × Nat} (hp : p.2 < 128) (hq : q.2 < 128) (h : p ≠ q) :
    slotAddr base fmt p + slotElemBytes fmt ≤ slotAddr base fmt q ∨ slotAddr base fmt q + slotElemBytes fmt ≤ slotAddr base fmt p := by
  have hne : p.1 ≠ q.1 ∨ p.2 ≠ q.2 := by
    by_contra hc
    exact h (Prod.ext (by omega) (by omega))
  unfold slotAddr
  rcases slotElemBytes_cases fmt with hb | hb
  all_goals rw [hb]; omega

theorem slotAddr_within {p : Nat × Nat} (hr : p.1 < 128) (hc : p.2 < 128) :
    base ≤ slotAddr base fmt p ∧ slotAddr base fmt p + slotElemBytes fmt ≤ base + 0x10000 := by
  unfold slotAddr
  rcases slotElemBytes_cases fmt with hb | hb
  all_goals rw [hb]; omega

theorem slotElem_congr {m m' : Memory} {r c : Nat}
    (h : ∀ a, slotAddr base fmt (r, c) ≤ a → a < slotAddr base fmt (r, c) + slotElemBytes fmt → memRead m' a = memRead m a) :
    slotElem m' base fmt r c = slotElem m base fmt r c :=
  memReadNat_congr h

theorem slotElem_lt (m : Memory) (r c : Nat) : slotElem m base fmt r c < 256 ^ slotElemBytes fmt := memReadNat_lt ..

variable {rows cols : Nat} {val : Nat × Nat → Memory → Nat} {m : Memory} (hc : cols ≤ 128)
include hc

theorem slots_apart : PlacesApart (slotAddr base fmt) (slotElemBytes fmt) (area rows cols) :=
  (nodup_area rows cols).imp_of_mem fun hp hq hne =>
    slotAddr_apart ((mem_area.1 hp).2.trans_le hc) ((mem_area.1 hq).2.trans_le hc) hne

/-- Every element of an area of a slot takes its value, and the rest of the slot stays. -/
theorem slotElem_writeEach (hm : Memory.wf m) (hown : ReadsOwn (slotAddr base fmt) (slotElemBytes fmt) val (area rows cols))
    (hval : ∀ p, val p m < 256 ^ slotElemBytes fmt) {r c : Nat} (hc' : c < 128) :
    slotElem (writeEach (slotAddr base fmt) (slotElemBytes fmt) val (area rows cols) m) base fmt r c
      = if r < rows ∧ c < cols then val (r, c) m else slotElem m base fmt r c := by
  split
  next hin =>
    exact (memReadNat_writeEach hm (slots_apart hc) hown (r, c) (mem_area.2 hin)).trans (Nat.mod_eq_of_lt (hval _))
  next hout =>
    refine slotElem_congr fun a h1 h2 => memRead_writeEach_off hm fun p hp => ?_
    have hne : (r, c) ≠ p := fun he => hout (by rw [← he] at hp; exact mem_area.1 hp)
    have := slotAddr_apart (base := base) (fmt := fmt) hc' ((mem_area.1 hp).2.trans_le hc) hne
    omega

theorem memRead_slotWrites_off (hr : rows ≤ 128) (hm : Memory.wf m) {a : Nat} (ha : a < base ∨ base + 0x10000 ≤ a) :
    memRead (writeEach (slotAddr base fmt) (slotElemBytes fmt) val (area rows cols) m) a = memRead m a :=
  memRead_writeEach_off hm fun p hp => by
    have hp' := mem_area.1 hp
    have := slotAddr_within (base := base) (fmt := fmt) (hp'.1.trans_le hr) (hp'.2.trans_le hc)
    omega

end

/-! ### Elements of a tile (R240) -/

theorem fmtWidth_le (code : Nat) : fmtWidth code ≤ 32 := by
  unfold fmtWidth
  split
  all_goals omega

/-- An element of a tile's row lies within the row. -/
theorem elem_within_row {w c cols : Nat} (hc : c < cols) : c * w / 8 + elemSpan w c ≤ rowStride cols w := by
  have hle : c * w + w ≤ cols * w := by
    rw [← Nat.succ_mul]
    exact Nat.mul_le_mul_right w hc
  unfold elemSpan rowStride cdiv
  omega

/-- An element of a tile lies within the tile's rows. -/
theorem elem_within_tile {w r c rows cols : Nat} (hr : r < rows) (hc : c < cols) :
    r * rowStride cols w + c * w / 8 + elemSpan w c ≤ rows * rowStride cols w := by
  have hrow := elem_within_row (w := w) hc
  have hle : r * rowStride cols w + rowStride cols w ≤ rows * rowStride cols w := by
    rw [← Nat.succ_mul]
    exact Nat.mul_le_mul_right _ hr
  omega

theorem small_tile_size {rows cols w : Nat} (hr : rows ≤ 128) (hc : cols ≤ 128) (hw : w ≤ 32) : rows * rowStride cols w ≤ 0x10000 := by
  have hbits : cols * w ≤ 128 * 32 := Nat.mul_le_mul hc hw
  have hrow : rowStride cols w ≤ 512 := by
    unfold rowStride cdiv
    omega
  calc rows * rowStride cols w ≤ 128 * 512 := Nat.mul_le_mul hr hrow
    _ = 0x10000 := rfl

theorem tileElem_congr {m m' : Memory} {base rs w r c : Nat}
    (h : ∀ a, base + r * rs + c * w / 8 ≤ a → a < base + r * rs + c * w / 8 + elemSpan w c → memRead m' a = memRead m a) :
    tileElem m' base rs w r c = tileElem m base rs w r c := by
  unfold tileElem
  rw [memReadNat_congr h]

section
variable {b : Nat} (m : Memory) (base rs r c : Nat)

theorem elemSpan_bytes (hb : 0 < b) : elemSpan (8 * b) c = b := by
  have : c * (8 * b) % 8 = 0 := by rw [Nat.mul_left_comm, Nat.mul_mod_right]
  unfold elemSpan cdiv
  rw [this]
  omega

theorem colBytes : c * (8 * b) / 8 = c * b := by
  rw [Nat.mul_left_comm, Nat.mul_div_cancel_left _ (by decide)]

theorem pow_bytes : 2 ^ (8 * b) = 256 ^ b := by
  rw [pow_mul]
  norm_num

/-- An element of whole bytes is the number in its bytes. -/
theorem tileElem_bytes (hb : 0 < b) : tileElem m base rs (8 * b) r c = memReadNat m (base + r * rs + c * b) b := by
  have hsub : c * (8 * b) % 8 = 0 := by rw [Nat.mul_left_comm, Nat.mul_mod_right]
  rw [tileElem, elemSpan_bytes c hb, colBytes, hsub, pow_zero, Nat.div_one, pow_bytes, Nat.mod_eq_of_lt (memReadNat_lt ..)]

theorem setTileElem_bytes (hb : 0 < b) {v : Nat} (hv : v < 256 ^ b) :
    setTileElem m base rs (8 * b) r c v = memWriteNat m (base + r * rs + c * b) b v := by
  have hsub : c * (8 * b) % 8 = 0 := by rw [Nat.mul_left_comm, Nat.mul_mod_right]
  have hlast : 8 * b - 1 + 1 = 8 * b := by omega
  have hfield : setBits (memReadNat m (base + r * rs + c * b) b) (8 * b - 1) 0 v = v := by
    rw [setBits, hlast, pow_zero, Nat.mod_one, Nat.sub_zero, pow_bytes, Nat.mod_eq_of_lt hv,
      Nat.div_eq_of_lt (memReadNat_lt ..)]
    omega
  rw [setTileElem, elemSpan_bytes c hb, colBytes, hsub, Nat.zero_add, hfield]

end

/-- Where an element of `b` bytes of a tile lies. -/
def tileAddr (base cols b : Nat) (p : Nat × Nat) : Nat := base + p.1 * rowStride cols (8 * b) + p.2 * b

/-- Elements of a tile whose elements are whole bytes do not overlap. -/
theorem tiles_apart {base b rows cols : Nat} : PlacesApart (tileAddr base cols b) b (area rows cols) := by
  refine (nodup_area rows cols).imp_of_mem fun {p q} hp hq hne => ?_
  unfold tileAddr
  have hrow (c : Nat) (hc : c < cols) : c * b + b ≤ rowStride cols (8 * b) := by
    by_cases hb : 0 < b
    · have := elem_within_row (w := 8 * b) hc
      rwa [elemSpan_bytes c hb, colBytes] at this
    · simp [Nat.eq_zero_of_not_pos hb]
  have hp2 := hrow p.2 (mem_area.1 hp).2
  have hq2 := hrow q.2 (mem_area.1 hq).2
  have hstep (i j n : Nat) (h : i < j) : i * n + n ≤ j * n := by
    rw [← Nat.succ_mul]
    exact Nat.mul_le_mul_right n h
  rcases Nat.lt_trichotomy p.1 q.1 with h | h | h
  · have := hstep p.1 q.1 (rowStride cols (8 * b)) h
    omega
  · rw [h]
    have hcol : p.2 ≠ q.2 := fun he => hne (Prod.ext h he)
    rcases Nat.lt_or_gt_of_ne hcol with h2 | h2
    · have := hstep p.2 q.2 b h2
      omega
    · have := hstep q.2 p.2 b h2
      omega
  · have := hstep q.1 p.1 (rowStride cols (8 * b)) h
    omega

/-! ### Bytes of a range cleared or left undefined (R418, R419) -/

theorem memRead_filter (m : Memory) (p : Nat → Bool) (a : Nat) :
    memRead (m.filter (fun c => p c.1)) a = if p a then memRead m a else 0 := by
  induction m with
  | nil => simp [memRead]
  | cons x r ih =>
    obtain ⟨b, v⟩ := x
    by_cases hb : b = a
    · subst hb
      by_cases hp : p b = true
      · simp [hp, memRead]
      · simpa [hp] using ih
    · by_cases hp : p b = true
      · simp [hp, memRead, hb, ih]
      · simpa [hp, memRead, hb] using ih

theorem memRead_memClear (m : Memory) (a n x : Nat) :
    memRead (memClear m a n) x = if x < a ∨ a + n ≤ x then memRead m x else 0 := by
  have h := memRead_filter m (fun y => y < a || a + n ≤ y) x
  simpa [memClear] using h

theorem memRead_append_left {m l : Memory} {a : Nat} (h : ∀ c ∈ l, c.1 ≠ a) : memRead (m ++ l) a = memRead m a := by
  induction m with
  | nil => exact memRead_unlisted h
  | cons x r ih =>
    rw [List.cons_append, memRead, memRead, ih]

theorem memRead_append_right {m l : Memory} {a : Nat} (h : ∀ c ∈ m, c.1 ≠ a) : memRead (m ++ l) a = memRead l a := by
  induction m with
  | nil => rfl
  | cons x r ih =>
    obtain ⟨hx, hr⟩ := List.forall_mem_cons.1 h
    rw [List.cons_append, memRead, if_neg hx, ih hr]

theorem memRead_scrambleSlot {c : Chip} {cl s n x : Nat} (hx : x < slotBase cl s ∨ slotBase cl s + n ≤ x) :
    memRead (c.scrambleSlot cl s n).mem x = memRead c.mem x := by
  have hmem : (c.scrambleSlot cl s n).mem = c.mem.filter (fun p => p.1 < slotBase cl s)
      ++ ((List.range n).map (fun i => (slotBase cl s + i, (Config.freeWord (c.free + i)).setWidth 8))).filter (fun p => p.2 ≠ 0)
      ++ c.mem.filter (fun p => slotBase cl s + n ≤ p.1) := rfl
  have hmid : ∀ p ∈ ((List.range n).map (fun i => (slotBase cl s + i, (Config.freeWord (c.free + i)).setWidth 8))).filter
      (fun p => p.2 ≠ 0), p.1 ≠ x := by
    intro p hp
    obtain ⟨i, hi, rfl⟩ := List.mem_map.1 (List.mem_filter.1 hp).1
    have := List.mem_range.1 hi
    show slotBase cl s + i ≠ x
    omega
  have hlow := memRead_filter c.mem (fun y => y < slotBase cl s) x
  have hhigh := memRead_filter c.mem (fun y => slotBase cl s + n ≤ y) x
  rw [hmem]
  rcases hx with hx | hx
  · rw [memRead_append_left, memRead_append_left hmid, hlow, if_pos (by simpa using hx)]
    intro p hp
    have := (List.mem_filter.1 hp).2
    simp only [decide_eq_true_eq] at this
    omega
  · rw [memRead_append_right, hhigh, if_pos (by simpa using hx)]
    intro p hp
    rcases List.mem_append.1 hp with hp | hp
    · have := (List.mem_filter.1 hp).2
      simp only [decide_eq_true_eq] at this
      omega
    · exact hmid p hp

end Sys2Proof.Machine
end

section
/-! O51: the dome's results (R315, R418-R420, R425). -/

namespace Sys2Proof.Machine

open Sys2Proof.Claims

/-! ### The end of a command of the dome -/

theorem mem_performed (c : Chip) (cl : Nat) (seqs : List Nat) : (c.performed cl seqs).mem = c.mem := by rw [performed_eq]
theorem cos_performed (c : Chip) (cl : Nat) (seqs : List Nat) : (c.performed cl seqs).cos = c.cos := by rw [performed_eq]
theorem mem_endCopy (c : Chip) (cl id st : Nat) : (c.endCopy cl id st).mem = c.mem := by rw [endCopy_eq]
theorem cos_endCopy (c : Chip) (cl id st : Nat) : (c.endCopy cl id st).cos = c.cos := by rw [endCopy_eq]

/-- The dome is idle, and the accesses of its command are performed; an `MMROT` enters its move phase. -/
def Chip.idleDome (c : Chip) (cl : Nat) (e : MEntry) : Chip :=
  let c := c.modCluster cl (fun k => { k with dome := none })
  if isMmrot e.op then (c.performed cl ((e.seqs.drop 2).take 1)).modCluster cl (fun k => { k with moves := k.moves ++ [e] })
  else c.performed cl e.seqs

/-- What follows a command's effect: the dome is idle, and a copy that the command followed completes. -/
def Chip.leaveDome (c : Chip) (cl : Nat) (e : MEntry) : Chip :=
  match e.copy with
  | some id => (c.idleDome cl e).endCopy cl id 0
  | none => c.idleDome cl e

section
variable (c : Chip) (cl : Nat) (e : MEntry)

theorem mem_idleDome : (c.idleDome cl e).mem = c.mem := by
  unfold Chip.idleDome
  dsimp only
  split
  · exact mem_performed ..
  · exact mem_performed ..

theorem cos_idleDome : (c.idleDome cl e).cos = c.cos := by
  unfold Chip.idleDome
  dsimp only
  split
  · exact cos_performed ..
  · exact cos_performed ..

theorem mem_leaveDome : (c.leaveDome cl e).mem = c.mem := by
  unfold Chip.leaveDome
  split
  · rw [mem_endCopy, mem_idleDome]
  · exact mem_idleDome c cl e

theorem cos_leaveDome : (c.leaveDome cl e).cos = c.cos := by
  unfold Chip.leaveDome
  split
  · rw [cos_endCopy, cos_idleDome]
  · exact cos_idleDome c cl e

theorem cluster_idleDome_mmrot (h : isMmrot e.op = true) : (c.idleDome cl e).cluster cl = { c.cluster cl with
    dome := none
    board := (c.cluster cl).board.filter (fun a => !((e.seqs.drop 2).take 1).contains a.seq)
    moves := (c.cluster cl).moves ++ [e] } := by
  unfold Chip.idleDome
  dsimp only
  rw [if_pos h, Chip.cluster_modCluster, cluster_performed, Chip.cluster_modCluster]

theorem cluster_idleDome_other (h : isMmrot e.op = false) : (c.idleDome cl e).cluster cl = { c.cluster cl with
    dome := none
    board := (c.cluster cl).board.filter (fun a => !e.seqs.contains a.seq) } := by
  unfold Chip.idleDome
  dsimp only
  rw [if_neg (by simp [h]), cluster_performed, Chip.cluster_modCluster]

/-- The end of a copy changes of the cluster the copy queue alone. -/
theorem cluster_leaveDome : ∃ q, (c.leaveDome cl e).cluster cl = { (c.idleDome cl e).cluster cl with copyQ := q }
    ∧ ∀ id, e.copy = some id → ∀ p ∈ q, p.cmd.id ≠ id := by
  unfold Chip.leaveDome
  split
  next id hc =>
    refine ⟨_, cluster_endCopy .., fun id' hid => ?_⟩
    obtain rfl : id = id' := Option.some.inj (hc.symm.trans hid)
    exact fun p hp => by simpa using (List.mem_filter.1 hp).2
  next hc => exact ⟨_, rfl, fun id hid => by rw [hc] at hid; cases hid⟩

theorem slots_leaveDome : ((c.leaveDome cl e).cluster cl).slots = (c.cluster cl).slots := by
  obtain ⟨q, hq, -⟩ := cluster_leaveDome c cl e
  rw [hq]
  cases h : isMmrot e.op with
  | true => rw [cluster_idleDome_mmrot _ _ _ h]
  | false => rw [cluster_idleDome_other _ _ _ h]

end

theorem domeComplete_eq {c : Chip} {cl : Nat} {e : MEntry} (h : (c.cluster cl).dome = some e) :
    c.domeComplete cl = ((c.performMatrix cl e).leaveDome cl e).sweepSlots cl := by
  unfold Chip.domeComplete
  rw [h]
  rfl

/-- A cluster whose slots differ from another's in their flags alone. -/
def FlagsOnly (k k' : Cluster) : Prop :=
  ∃ ss, k' = { k with slots := ss } ∧ ∀ n, (k'.slot n).held = (k.slot n).held ∧ (k'.slot n).ended = (k.slot n).ended

theorem FlagsOnly.refl (k : Cluster) : FlagsOnly k k := ⟨_, rfl, fun _ => ⟨rfl, rfl⟩⟩

theorem flagsOnly_modSlot (k : Cluster) (s : Nat) (g : Flags → Flags) : FlagsOnly k (k.modSlot s (fun t => { t with flags := g t.flags })) := by
  refine ⟨_, rfl, fun n => ?_⟩
  unfold Cluster.slot Cluster.modSlot
  by_cases hn : n = s
  · subst hn
    rw [mgetD_mset_self]
    exact ⟨rfl, rfl⟩
  · rw [mgetD_mset_ne _ _ _ hn]
    exact ⟨rfl, rfl⟩

theorem cluster_lateX (c : Chip) (e : MEntry) (a : BitVec 5) (v : Word) (n : Nat) : (c.lateX e a v).cluster n = c.cluster n := by
  unfold Chip.lateX Chip.modCo
  split <;> rfl

theorem mem_lateX (c : Chip) (e : MEntry) (a : BitVec 5) (v : Word) : (c.lateX e a v).mem = c.mem := by
  unfold Chip.lateX Chip.modCo
  split <;> rfl

theorem co_lateX {c : Chip} {e : MEntry} {co : Coroutine} (a : BitVec 5) (v : Word) (h : c.co (coKey e.core e.slot) = some co)
    (hlid : co.lid = e.lid) (hlive : co.state ≠ .exited) : (c.lateX e a v).co (coKey e.core e.slot) = some (co.setX a v) := by
  unfold Chip.lateX Chip.modCo
  rw [Chip.co] at h
  rw [h]
  dsimp only
  rw [if_pos ⟨hlid, hlive⟩]
  exact mget_mset_self ..

section
variable {c : Chip} {cl s : Nat} {f : SlotRun → SlotRun}

theorem mem_slotRun : (c.slotRun cl s f).mem = (f (c.mem, 0)).1 := by
  unfold Chip.slotRun Chip.slotFlags
  dsimp only
  split <;> rfl

theorem flagsOnly_slotRun : FlagsOnly (c.cluster cl) ((c.slotRun cl s f).cluster cl) := by
  unfold Chip.slotRun Chip.slotFlags
  dsimp only
  split
  · exact .refl _
  · rw [Chip.cluster_modCluster]
    exact flagsOnly_modSlot (c.cluster cl) s (fun g => g ||| (f (c.mem, 0)).2)

/-- The flags of a slot are sticky (R315). -/
theorem sticky_slotRun : (((c.slotRun cl s f).cluster cl).slot s).flags ||| ((c.cluster cl).slot s).flags
    = (((c.slotRun cl s f).cluster cl).slot s).flags := by
  unfold Chip.slotRun Chip.slotFlags
  dsimp only
  split
  · exact BitVec.or_self
  · rw [Chip.cluster_modCluster, Cluster.slot, Cluster.modSlot, mgetD_mset_self]
    show ((c.cluster cl).slot s).flags ||| (f (c.mem, 0)).2 ||| ((c.cluster cl).slot s).flags
      = ((c.cluster cl).slot s).flags ||| (f (c.mem, 0)).2
    rw [BitVec.or_comm (x := ((c.cluster cl).slot s).flags), BitVec.or_assoc, BitVec.or_self]

end

/-- A command's effect changes of its cluster only the flags of slots. -/
theorem flagsOnly_performMatrix (c : Chip) (cl : Nat) (e : MEntry) : FlagsOnly (c.cluster cl) ((c.performMatrix cl e).cluster cl) := by
  unfold Chip.performMatrix
  dsimp only
  split
  case h_7 =>
    rw [cluster_lateX, Chip.cluster_modCluster]
    exact flagsOnly_modSlot (c.cluster cl) e.slotNum (fun _ => 0)
  case h_10 =>
    rw [cluster_lateX]
    exact .refl _
  case h_8 | h_9 | h_11 => exact .refl _
  all_goals exact flagsOnly_slotRun

/-- Where no holder of a slot has ended, the dome's command leaves what its effect and its end leave. -/
theorem domeComplete_quiet {s : State} {cl : Nat} {e : MEntry} (h : InDome s cl e) :
    s.chip.domeComplete cl = (s.chip.performMatrix cl e).leaveDome cl e := by
  rw [domeComplete_eq h.here, sweepSlots_quiet fun n => ?_]
  obtain ⟨ss, -, hss⟩ := flagsOnly_performMatrix s.chip cl e
  rw [Cluster.slot, slots_leaveDome]
  show (((s.chip.performMatrix cl e).cluster cl).slot n).held = false ∨ (((s.chip.performMatrix cl e).cluster cl).slot n).ended = false
  rw [(hss n).1, (hss n).2]
  exact h.quiet n

/-! ### What each command writes -/

/-- Products added into a slot, element by element. -/
theorem productInto_eq (base fmt g rows cols : Nat) (a b : Nat → List FNum) (s : SlotRun) :
    productInto base fmt g ((List.range rows).map (fun r => (r, a r))) ((List.range cols).map (fun c => (c, b c))) s
      = (area rows cols).foldl (fun s p => updateElem base fmt p.1 p.2 (fun acc => dotInto fmt g acc (a p.1) (b p.2)) s) s := by
  simp only [productInto, area, List.foldl_map, List.foldl_flatMap]

/-- The codes that a product leaves in its area. -/
def productCode (base fmt g : Nat) (a b : Nat → List FNum) (p : Nat × Nat) (m : Memory) : Nat :=
  (dotInto fmt g (slotElem m base fmt p.1 p.2) (a p.1) (b p.2)).1

/-- What a drained tile takes (R425). -/
def drainCode (base fmt f : Nat) (p : Nat × Nat) (m : Memory) : Nat := (convertElem (slotValue fmt (slotElem m base fmt p.1 p.2)) f 0).1

/-- What a filled slot takes (R425). -/
def fillCode (base rs w f fmt : Nat) (p : Nat × Nat) (m : Memory) : Nat :=
  (convertElem (readElem f (tileElem m base rs w p.1 p.2)).1 fmt 0).1

section
variable {c : Chip} {cl : Nat} {e : MEntry} {n : Nat} {k : Cluster}

theorem mem_performMatrix_mma {a b : BitVec 5} {sl : BitVec 4} {ta tb : Tile} {fa fb : Nat} (hop : e.op = .mma a b sl) (hn : n = e.slotNum)
    (hk : k = c.cluster cl) (hta : ta = k.tile (e.tbase + a.toNat)) (htb : tb = k.tile (e.tbase + b.toNat))
    (hfa : fa = orCode (pfxA e.pfx) ta.fmt) (hfb : fb = orCode (pfxB e.pfx) tb.fmt) :
    (c.performMatrix cl e).mem = writeEach (slotAddr (slotBase cl n) e.fmt) (slotElemBytes e.fmt)
      (productCode (slotBase cl n) e.fmt (groupLength fa fb)
        (fun r => (operandValues fa e.vtype e.k (scaleA e.pfx) (rowCodes c.mem (tileBase cl (e.tbase + a.toNat)) ta r)).1)
        (fun r => (operandValues fb e.vtype e.k (scaleB e.pfx) (colCodes c.mem (tileBase cl (e.tbase + b.toNat)) tb r)).1))
      (area ta.rows tb.cols) c.mem := by
  have hrun : c.performMatrix cl e = c.slotRun cl n (e.product k cl n (e.tbase + a.toNat) (e.tbase + b.toNat) 0 ta.rows) := by
    unfold Chip.performMatrix
    rw [hop, hta, hk, hn]
  rw [hrun, mem_slotRun]
  unfold MEntry.product
  simp only [List.map_map, Function.comp_def, Nat.zero_add, ← hta, ← htb, ← hfa, ← hfb]
  rw [productInto_eq]
  exact mem_foldl_run (fun _ _ => rfl) _

theorem mem_performMatrix_mfill {d : BitVec 5} {sl : BitVec 4} {p : Tile} {f : Nat} (hop : e.op = .mfill d sl) (hn : n = e.slotNum)
    (hk : k = c.cluster cl) (hp : p = k.tile (e.tbase + d.toNat)) (hf : f = orCode (pfxA e.pfx) p.fmt) :
    (c.performMatrix cl e).mem = writeEach (slotAddr (slotBase cl n) e.fmt) (slotElemBytes e.fmt)
      (fillCode (tileBase cl (e.tbase + d.toNat)) p.stride (fmtWidth p.fmt) f e.fmt) (area p.rows p.cols) c.mem := by
  have hrun : c.performMatrix cl e = c.slotRun cl n (e.fillSlot k cl n (e.tbase + d.toNat)) := by
    unfold Chip.performMatrix
    rw [hop, hk, hn]
  rw [hrun, mem_slotRun]
  unfold MEntry.fillSlot
  simp only [← hp, ← hf]
  exact mem_foldl_run (fun _ _ => rfl) _

theorem mem_performMatrix_mdrain {d : BitVec 5} {sl : BitVec 4} {p : Tile} {f b : Nat} (hop : e.op = .mdrain d sl) (hn : n = e.slotNum)
    (hk : k = c.cluster cl) (hp : p = k.tile (e.tbase + d.toNat)) (hf : f = orCode (pfxD e.pfx) p.fmt) (hb : 0 < b)
    (hw : fmtWidth p.fmt = 8 * b) (hfw : fmtWidth f = 8 * b) :
    (c.performMatrix cl e).mem = writeEach (tileAddr (tileBase cl (e.tbase + d.toNat)) p.cols b) b (drainCode (slotBase cl n) e.fmt f)
      (area p.rows p.cols) c.mem := by
  have hrun : c.performMatrix cl e = c.slotRun cl n (e.drain k cl n (e.tbase + d.toNat)) := by
    unfold Chip.performMatrix
    rw [hop, hk, hn]
  rw [hrun, mem_slotRun]
  unfold MEntry.drain
  simp only [← hp, ← hf]
  refine mem_foldl_run (fun s q => ?_) _
  rw [Tile.stride, hw]
  refine setTileElem_bytes s.1 _ _ q.1 q.2 hb ?_
  rw [← pow_bytes, ← hfw]
  exact convertElem_lt _ (by omega)

end

/-! ### What the places of a command's writes hold -/

theorem productCode_own (base fmt g : Nat) (a b : Nat → List FNum) (l : List (Nat × Nat)) :
    ReadsOwn (slotAddr base fmt) (slotElemBytes fmt) (productCode base fmt g a b) l := by
  intro p _ m m' h
  have hcode : slotElem m' base fmt p.1 p.2 = slotElem m base fmt p.1 p.2 := slotElem_congr fun x h1 h2 => h x (.inl ⟨h1, h2⟩)
  rw [productCode, hcode, productCode]

/-- Tiles lie below every slot of their cluster. -/
theorem tile_below_slot {cl t n : Nat} (h : t < 32) : tileBase cl t + 0x10000 ≤ slotBase cl n := by
  unfold tileBase slotBase
  omega

theorem fillCode_own {cl t n f fmt : Nat} {p : Tile} (ht : t < 32) (hr : p.rows ≤ 128) (hc : p.cols ≤ 128) :
    ReadsOwn (slotAddr (slotBase cl n) fmt) (slotElemBytes fmt) (fillCode (tileBase cl t) p.stride (fmtWidth p.fmt) f fmt)
      (area p.rows p.cols) := by
  intro q hq m m' h
  obtain ⟨hq1, hq2⟩ := mem_area.1 hq
  have hsize := small_tile_size hr hc (fmtWidth_le p.fmt)
  have hin := elem_within_tile (w := fmtWidth p.fmt) hq1 hq2
  have hbelow := tile_below_slot (cl := cl) (n := n) ht
  have hcode : tileElem m' (tileBase cl t) p.stride (fmtWidth p.fmt) q.1 q.2
      = tileElem m (tileBase cl t) p.stride (fmtWidth p.fmt) q.1 q.2 := by
    refine tileElem_congr fun x h1 h2 => h x (.inr fun y _ => ?_)
    have hy : slotBase cl n ≤ slotAddr (slotBase cl n) fmt y := Nat.le_add_right _ _
    unfold Tile.stride at h1 h2
    omega
  rw [fillCode, hcode, fillCode]

theorem drainCode_own {cl t n f fmt b : Nat} {p : Tile} (ht : t < 32) (hb : 0 < b) (hsize : p.rows * rowStride p.cols (8 * b) ≤ 0x10000) :
    ReadsOwn (tileAddr (tileBase cl t) p.cols b) b (drainCode (slotBase cl n) fmt f) (area p.rows p.cols) := by
  intro q _ m m' h
  have hbelow := tile_below_slot (cl := cl) (n := n) ht
  have hcode : slotElem m' (slotBase cl n) fmt q.1 q.2 = slotElem m (slotBase cl n) fmt q.1 q.2 := by
    refine slotElem_congr fun x h1 _ => h x (.inr fun y hy => ?_)
    obtain ⟨hy1, hy2⟩ := mem_area.1 hy
    have hin := elem_within_tile (w := 8 * b) hy1 hy2
    rw [elemSpan_bytes _ hb, colBytes] at hin
    have hx : slotBase cl n ≤ x := (Nat.le_add_right _ _).trans h1
    unfold tileAddr
    omega
  rw [drainCode, hcode, drainCode]

section
variable {c : Chip} {cl : Nat} {e : MEntry} {n : Nat} {k : Cluster}

/-- What `MMA` leaves: each element of the area takes its dot product, and the rest stays (R420). -/
theorem mma_leaves {a b : BitVec 5} {sl : BitVec 4} {ta tb : Tile} {fa fb : Nat} (hop : e.op = .mma a b sl) (hn : n = e.slotNum)
    (hk : k = c.cluster cl) (hta : ta = k.tile (e.tbase + a.toNat)) (htb : tb = k.tile (e.tbase + b.toNat))
    (hfa : fa = orCode (pfxA e.pfx) ta.fmt) (hfb : fb = orCode (pfxB e.pfx) tb.fmt) (hm : Memory.wf c.mem) (hfmt : SlotFormat e.fmt)
    (hrows : ta.rows ≤ 128) (hcols : tb.cols ≤ 128) :
    (∀ i j, j < 128 → slotElem (c.performMatrix cl e).mem (slotBase cl n) e.fmt i j = if i < ta.rows ∧ j < tb.cols then
        (dotInto e.fmt (groupLength fa fb) (slotElem c.mem (slotBase cl n) e.fmt i j)
          (operandValues fa e.vtype e.k (scaleA e.pfx) (rowCodes c.mem (tileBase cl (e.tbase + a.toNat)) ta i)).1
          (operandValues fb e.vtype e.k (scaleB e.pfx) (colCodes c.mem (tileBase cl (e.tbase + b.toNat)) tb j)).1).1
        else slotElem c.mem (slotBase cl n) e.fmt i j)
      ∧ ∀ x, x < slotBase cl n ∨ slotBase cl n + 0x10000 ≤ x → memRead (c.performMatrix cl e).mem x = memRead c.mem x := by
  rw [mem_performMatrix_mma hop hn hk hta htb hfa hfb]
  exact ⟨fun i j hj => slotElem_writeEach hcols hm (productCode_own _ _ _ _ _ _) (fun p => dotInto_lt hfmt _ _ _ (slotElem_lt ..)) hj,
    fun x hx => memRead_slotWrites_off hcols hrows hm hx⟩

theorem mma_sticky {a b : BitVec 5} {sl : BitVec 4} (hop : e.op = .mma a b sl) (hn : n = e.slotNum) :
    (((c.performMatrix cl e).cluster cl).slot n).flags ||| ((c.cluster cl).slot n).flags
      = (((c.performMatrix cl e).cluster cl).slot n).flags := by
  have hrun : c.performMatrix cl e = c.slotRun cl n (e.product (c.cluster cl) cl n (e.tbase + a.toNat) (e.tbase + b.toNat) 0
      ((c.cluster cl).tile (e.tbase + a.toNat)).rows) := by
    unfold Chip.performMatrix
    rw [hop, hn]
  rw [hrun]
  exact sticky_slotRun

/-- What `MDRAIN` leaves in a tile of whole bytes (R425). -/
theorem mdrain_leaves {d : BitVec 5} {sl : BitVec 4} {p : Tile} {f : Nat} (hop : e.op = .mdrain d sl) (hn : n = e.slotNum)
    (hk : k = c.cluster cl) (hp : p = k.tile (e.tbase + d.toNat)) (hf : f = orCode (pfxD e.pfx) p.fmt) (hm : Memory.wf c.mem)
    (ht : e.tbase + d.toNat < 32) (hw : ∃ b, 0 < b ∧ fmtWidth p.fmt = 8 * b) (hfw : fmtWidth f = fmtWidth p.fmt)
    (hsize : p.rows * rowStride p.cols (fmtWidth p.fmt) ≤ 0x10000) :
    (∀ i j, i < p.rows → j < p.cols →
        tileElem (c.performMatrix cl e).mem (tileBase cl (e.tbase + d.toNat)) (rowStride p.cols (fmtWidth p.fmt)) (fmtWidth p.fmt) i j
          = (convertElem (slotValue e.fmt (slotElem c.mem (slotBase cl n) e.fmt i j)) f 0).1)
      ∧ ∀ x, x < tileBase cl (e.tbase + d.toNat) ∨ tileBase cl (e.tbase + d.toNat) + 0x10000 ≤ x →
        memRead (c.performMatrix cl e).mem x = memRead c.mem x := by
  obtain ⟨b, hb, hw8⟩ := hw
  rw [hw8] at hsize hfw ⊢
  rw [mem_performMatrix_mdrain hop hn hk hp hf hb hw8 hfw]
  refine ⟨fun i j hi hj => ?_, fun x hx => memRead_writeEach_off hm fun q hq => ?_⟩
  · have hlt : drainCode (slotBase cl n) e.fmt f (i, j) c.mem < 256 ^ b := by
      rw [← pow_bytes, ← hfw]
      exact convertElem_lt _ (by omega)
    rw [tileElem_bytes _ _ _ _ _ hb]
    exact (memReadNat_writeEach hm tiles_apart (drainCode_own ht hb hsize) (i, j) (mem_area.2 ⟨hi, hj⟩)).trans (Nat.mod_eq_of_lt hlt)
  · obtain ⟨hq1, hq2⟩ := mem_area.1 hq
    have hin := elem_within_tile (w := 8 * b) hq1 hq2
    rw [elemSpan_bytes _ hb, colBytes] at hin
    unfold tileAddr
    omega

/-- What `MFILL` leaves: each element of the area takes its tile's, and the rest stays (R425). -/
theorem mfill_leaves {d : BitVec 5} {sl : BitVec 4} {p : Tile} {f : Nat} (hop : e.op = .mfill d sl) (hn : n = e.slotNum)
    (hk : k = c.cluster cl) (hp : p = k.tile (e.tbase + d.toNat)) (hf : f = orCode (pfxA e.pfx) p.fmt) (hm : Memory.wf c.mem)
    (ht : e.tbase + d.toNat < 32) (hfmt : SlotFormat e.fmt) (hrows : p.rows ≤ 128) (hcols : p.cols ≤ 128) :
    (∀ i j, j < 128 → slotElem (c.performMatrix cl e).mem (slotBase cl n) e.fmt i j = if i < p.rows ∧ j < p.cols then
        (convertElem (readElem f (tileElem c.mem (tileBase cl (e.tbase + d.toNat)) (rowStride p.cols (fmtWidth p.fmt))
          (fmtWidth p.fmt) i j)).1 e.fmt 0).1
        else slotElem c.mem (slotBase cl n) e.fmt i j)
      ∧ ∀ x, x < slotBase cl n ∨ slotBase cl n + 0x10000 ≤ x → memRead (c.performMatrix cl e).mem x = memRead c.mem x := by
  rw [mem_performMatrix_mfill hop hn hk hp hf]
  refine ⟨fun i j hj => slotElem_writeEach hcols hm (fillCode_own ht hrows hcols) (fun q => ?_) hj,
    fun x hx => memRead_slotWrites_off hcols hrows hm hx⟩
  obtain ⟨hbytes, h8⟩ := hfmt.bytes
  rw [hbytes]
  exact convertElem_lt _ h8

theorem performMatrix_macq {a : BitVec 5} {sl : BitVec 4} (hop : e.op = .macq a sl) (hn : n = e.slotNum) : c.performMatrix cl e
    = Chip.lateX ({ c with mem := memClear c.mem (slotBase cl n) 0x10000 }.modCluster cl (fun k =>
        k.modSlot n (fun t => { t with flags := 0 }))) e a (wordOf n) := by
  unfold Chip.performMatrix
  rw [hop, hn]

theorem performMatrix_mzero {sl : BitVec 4} (hop : e.op = .mzero sl) (hn : n = e.slotNum) :
    c.performMatrix cl e = { c with mem := memClear c.mem (slotBase cl n) 0x10000 } := by
  unfold Chip.performMatrix
  rw [hop, hn]

theorem performMatrix_mstat {a : BitVec 5} {sl : BitVec 4} (hop : e.op = .mstat a sl) (hn : n = e.slotNum) : c.performMatrix cl e
    = c.lateX e a (wordOf (((c.cluster cl).slot n).flags.toNat + ((c.cluster cl).slot n).stateNow e.s2.toNat)) := by
  unfold Chip.performMatrix
  rw [hop, hn]

theorem performMatrix_mrel {sl : BitVec 4} (hop : e.op = .mrel sl) (hn : n = e.slotNum) :
    c.performMatrix cl e = c.scrambleSlot cl n (if e.fmt = 3 then 0x8000 else 0x10000) := by
  unfold Chip.performMatrix
  rw [hop, hn]

theorem performMatrix_mreclaim {sl : BitVec 4} (hop : e.op = .mreclaim sl) : c.performMatrix cl e = c := by
  unfold Chip.performMatrix
  rw [hop]

theorem memRead_cleared_slot (m : Memory) : (∀ i, i < 0x10000 → memRead (memClear m (slotBase cl n) 0x10000) (slotBase cl n + i) = 0)
    ∧ ∀ a, a < slotBase cl n ∨ slotBase cl n + 0x10000 ≤ a → memRead (memClear m (slotBase cl n) 0x10000) a = memRead m a := by
  refine ⟨fun i hi => ?_, fun a ha => ?_⟩
  · rw [memRead_memClear, if_neg (by omega)]
  · rw [memRead_memClear, if_pos ha]

/-- The state that `MSTAT` reports (R419). -/
theorem stateNow_eq (t : Slot) (w : Nat) : t.stateNow w
    = if w / 64 % 4 = 0 ∨ t.held = false then w else w / 256 * 256 + (if t.orphan then 128 else 64) := by
  unfold Slot.stateNow
  by_cases hw : w / 64 % 4 = 0
  · simp [hw]
  · cases t.held <;> cases t.orphan <;> simp [hw]

end

theorem domeIdle_leaveDome {s : State} {cl : Nat} {e : MEntry} {d : Chip} (hd : FlagsOnly (s.chip.cluster cl) (d.cluster cl)) :
    DomeIdle s { s with chip := d.leaveDome cl e } cl e := by
  obtain ⟨ss, hk, -⟩ := hd
  obtain ⟨q, hq, hcopy⟩ := cluster_leaveDome d cl e
  unfold DomeIdle
  dsimp only
  rw [hq]
  refine ⟨?_, fun hrot => ?_, hcopy⟩
  · cases h : isMmrot e.op with
    | true => rw [cluster_idleDome_mmrot _ _ _ h]
    | false => rw [cluster_idleDome_other _ _ _ h]
  · rw [cluster_idleDome_other _ _ _ hrot, hk]

theorem domeCommandResults : Claims.DomeCommandResults := by
  intro s cl n e hdome hn k hk
  have hbody : exec (.domeCommandComplete cl) s = onChip (fun c => c.domeComplete cl.toNat) s := rfl
  have hflags := flagsOnly_performMatrix s.chip cl.toNat e
  refine ⟨_, hbody.trans (onChip_running hdome.clocks _), ?_⟩
  dsimp only
  rw [domeComplete_quiet hdome]
  have hmem : ((s.chip.performMatrix cl.toNat e).leaveDome cl.toNat e).mem = (s.chip.performMatrix cl.toNat e).mem := mem_leaveDome ..
  have hslot (i : Nat) : (((s.chip.performMatrix cl.toNat e).leaveDome cl.toNat e).cluster cl.toNat).slot i
      = ((s.chip.performMatrix cl.toNat e).cluster cl.toNat).slot i := by
    rw [Cluster.slot, slots_leaveDome, Cluster.slot]
  have hco (key : Nat) : ((s.chip.performMatrix cl.toNat e).leaveDome cl.toNat e).co key = (s.chip.performMatrix cl.toNat e).co key := by
    rw [Chip.co, cos_leaveDome, Chip.co]
  refine ⟨domeIdle_leaveDome hflags, fun a b sl hop hfmt ta tb fa fb hta htb hfa hfb hrows hcols => ?_,
    fun d sl p f hop hp hf ht hw hfw hsize => ?_, fun d sl p f hop hp hf ht hfmt hrows hcols => ?_,
    fun a sl co hop hc hlid hlive => ?_, fun sl hop => ?_, fun a sl co hop hc hlid hlive => ?_, fun sl hop => ?_, fun sl hop => ?_,
    fun hrot => ?_⟩
  · obtain ⟨hin, hout⟩ := mma_leaves hop hn hk hta htb hfa hfb hdome.wf hfmt hrows hcols
    refine ⟨fun r c _ hc => by rw [hmem]; exact hin r c hc, fun x hx => (congrArg (memRead · x) hmem).trans (hout x hx), ?_⟩
    rw [hslot, hk]
    exact mma_sticky hop hn
  · rw [hmem]
    refine mdrain_leaves hop hn hk hp hf hdome.wf ht ?_ hfw hsize
    rcases hw with h | h | h
    · exact ⟨1, by decide, h⟩
    · exact ⟨2, by decide, h⟩
    · exact ⟨4, by decide, h⟩
  · obtain ⟨hin, hout⟩ := mfill_leaves hop hn hk hp hf hdome.wf ht hfmt hrows hcols
    exact ⟨fun r c _ hc => by rw [hmem]; exact hin r c hc, fun x hx => (congrArg (memRead · x) hmem).trans (hout x hx)⟩
  · have hrun := performMatrix_macq (c := s.chip) (cl := cl.toNat) hop hn
    obtain ⟨hzero, hoff⟩ := memRead_cleared_slot (cl := cl.toNat) (n := n) s.chip.mem
    have hcleared : ((s.chip.performMatrix cl.toNat e).leaveDome cl.toNat e).mem = memClear s.chip.mem (slotBase cl.toNat n) 0x10000 := by
      rw [hmem, hrun, mem_lateX]
      rfl
    refine ⟨⟨_, ?_, rfl⟩, ?_, ?_, fun x hx => ?_⟩
    · rw [hco, hrun]
      exact co_lateX a _ hc hlid hlive
    · rw [hslot, hrun, cluster_lateX, Chip.cluster_modCluster, Cluster.slot, Cluster.modSlot, mgetD_mset_self]
    · rwa [hcleared]
    · exact (congrArg (memRead · x) hcleared).trans (hoff x hx)
  · have hrun := performMatrix_mzero (c := s.chip) (cl := cl.toNat) hop hn
    obtain ⟨hzero, hoff⟩ := memRead_cleared_slot (cl := cl.toNat) (n := n) s.chip.mem
    have hcleared : ((s.chip.performMatrix cl.toNat e).leaveDome cl.toNat e).mem = memClear s.chip.mem (slotBase cl.toNat n) 0x10000 := by
      rw [hmem, hrun]
    refine ⟨by rwa [hcleared], fun x hx => ?_, ?_⟩
    · exact (congrArg (memRead · x) hcleared).trans (hoff x hx)
    · rw [hslot, hrun, hk]
      rfl
  · have hrun := performMatrix_mstat (c := s.chip) (cl := cl.toNat) hop hn
    refine ⟨⟨_, ?_, rfl⟩, by rw [hmem, hrun, mem_lateX]⟩
    rw [hco, hrun, co_lateX a _ hc hlid hlive, stateNow_eq, ← hk]
    rfl
  · have hrun := performMatrix_mrel (c := s.chip) (cl := cl.toNat) hop hn
    have hread {x : Nat} (hx : x < slotBase cl.toNat n ∨ slotBase cl.toNat n + (if e.fmt = 3 then 0x8000 else 0x10000) ≤ x) :
        memRead ((s.chip.performMatrix cl.toNat e).leaveDome cl.toNat e).mem x = memRead s.chip.mem x := by
      rw [hmem, hrun]
      exact memRead_scrambleSlot hx
    refine ⟨fun x hx => hread ?_, fun hfmt i hi _ => hread (.inr ?_)⟩
    · split <;> omega
    · rw [if_pos hfmt]
      omega
  · rw [hmem, performMatrix_mreclaim hop]
  · obtain ⟨q, hq, -⟩ := cluster_leaveDome (s.chip.performMatrix cl.toNat e) cl.toNat e
    obtain ⟨ss, hss, -⟩ := hflags
    rw [hq, cluster_idleDome_mmrot _ _ _ hrot, hss, hk]

end Sys2Proof.Machine
end

section
/-! O51: rotation rings and swaps (R248, R249, R423, R424, R437). -/

namespace Sys2Proof.Machine

open Sys2Proof.Claims

/-! ### Rings (R248) -/

/-- The cluster that a cluster's tile moves to. -/
def ringNext (north : Bool) (k : Nat) : Nat := if north then northOf k else westOf k

theorem northOf_place (cl : Nat) : northOf cl / 32 = cl / 32 ∧ northOf cl % 8 = cl % 8 ∧ northOf cl % 32 / 8 = (cl % 32 / 8 + 3) % 4 := by
  unfold northOf groupCluster rowOf colOf
  omega

theorem westOf_place (cl : Nat) : westOf cl / 8 = cl / 8 ∧ westOf cl % 8 / 4 = cl % 8 / 4 ∧ westOf cl % 4 = (cl % 4 + 3) % 4 := by
  unfold westOf groupCluster rowOf colOf
  omega

/-- Four steps lead around a ring, through four clusters. -/
theorem ringNext_four (north : Bool) (a : Nat) : ∃ b c d, ringNext north a = b ∧ ringNext north b = c ∧ ringNext north c = d
    ∧ ringNext north d = a ∧ a ≠ b ∧ a ≠ c ∧ a ≠ d ∧ b ≠ c ∧ b ≠ d ∧ c ≠ d := by
  refine ⟨_, _, _, rfl, rfl, rfl, ?_⟩
  cases north with
  | true =>
    simp only [ringNext, if_true]
    have h1 := northOf_place a
    have h2 := northOf_place (northOf a)
    have h3 := northOf_place (northOf (northOf a))
    have h4 := northOf_place (northOf (northOf (northOf a)))
    omega
  | false =>
    simp only [ringNext, Bool.false_eq_true, if_false]
    have h1 := westOf_place a
    have h2 := westOf_place (westOf a)
    have h3 := westOf_place (westOf (westOf a))
    have h4 := westOf_place (westOf (westOf (westOf a)))
    omega

theorem ringOf_eq (cl : Nat) (north : Bool) : ringOf cl north
    = [cl, ringNext north cl, ringNext north (ringNext north cl), ringNext north (ringNext north (ringNext north cl))] := by
  cases north <;> rfl

theorem ringOf_nodup (cl : Nat) (north : Bool) : (ringOf cl north).Nodup := by
  obtain ⟨b, c, d, rfl, rfl, rfl, -, h1, h2, h3, h4, h5, h6⟩ := ringNext_four north cl
  rw [ringOf_eq]
  simp [h1, h2, h3, h4, h5, h6]

/-- Each cluster of a ring is the next of one of its clusters. -/
theorem ringOf_perm (cl : Nat) (north : Bool) : ((ringOf cl north).map (ringNext north)).Perm (ringOf cl north) := by
  obtain ⟨b, c, d, rfl, rfl, rfl, h, -⟩ := ringNext_four north cl
  rw [ringOf_eq]
  simp only [List.map_cons, List.map_nil, h]
  exact List.perm_append_comm (l₁ := [_, _, _]) (l₂ := [cl])

/-! ### A tile's contents moved in (R249, R423, R424) -/

/-- Contents moved into a tile of a cluster by a command, whose accesses are performed and whose fill count falls. -/
def Chip.moveIn (c : Chip) (cl : Nat) (e : MEntry) (t f : Nat) (data : List Byte) (g : List MEntry → List MEntry) (seqs : List Nat) : Chip :=
  ((({ c with mem := memWriteBytes c.mem (tileBase cl t) data }).modCluster cl (fun k => { k with moves := g k.moves })).performed
    cl seqs).filled cl e f

section
variable (c : Chip) (cl : Nat) (e : MEntry) (t f : Nat) (data : List Byte) (g : List MEntry → List MEntry) (seqs : List Nat)

theorem mem_moveIn : (c.moveIn cl e t f data g seqs).mem = memWriteBytes c.mem (tileBase cl t) data := by
  unfold Chip.moveIn Chip.filled
  split
  · exact mem_performed ..
  · exact (tagFrame_modTile ..).mem.trans (mem_performed ..)

theorem cluster_moveIn_ne {n : Nat} (h : n ≠ cl) : (c.moveIn cl e t f data g seqs).cluster n = c.cluster n := by
  have hkeep : ((({ c with mem := memWriteBytes c.mem (tileBase cl t) data }).modCluster cl
      (fun k => { k with moves := g k.moves })).performed cl seqs).cluster n = c.cluster n := by
    rw [cluster_performed_ne _ _ h, Chip.cluster_modCluster_ne _ _ h]
    rfl
  unfold Chip.moveIn Chip.filled
  split
  · exact hkeep
  · rw [cluster_modTile, Chip.cluster_modCluster_ne _ _ h, hkeep]

theorem cluster_moveIn (h : e.forgotten.contains f = false) : (c.moveIn cl e t f data g seqs).cluster cl
    = ({ c.cluster cl with moves := g (c.cluster cl).moves, board := (c.cluster cl).board.filter (fun a => !seqs.contains a.seq) } : Cluster).modTile
        f Tile.lessFill := by
  unfold Chip.moveIn Chip.filled
  rw [if_neg (by rw [h]; decide), cluster_modTile, Chip.cluster_modCluster, cluster_performed, Chip.cluster_modCluster]
  rfl

theorem fill_moveIn (h : e.forgotten.contains f = false) :
    (((c.moveIn cl e t f data g seqs).cluster cl).tile f).fill = ((c.cluster cl).tile f).fill - 1 := by
  rw [cluster_moveIn _ _ _ _ _ _ _ _ h, Cluster.tile, Cluster.modTile, mgetD_mset_self]
  rfl

theorem slots_moveIn (h : e.forgotten.contains f = false) :
    ((c.moveIn cl e t f data g seqs).cluster cl).slots = (c.cluster cl).slots := by
  rw [cluster_moveIn _ _ _ _ _ _ _ _ h]
  rfl

theorem moves_moveIn (h : e.forgotten.contains f = false) :
    ((c.moveIn cl e t f data g seqs).cluster cl).moves = g (c.cluster cl).moves := by
  rw [cluster_moveIn _ _ _ _ _ _ _ _ h]
  rfl

end

/-- Where no holder has ended on any of the clusters, sweeping them frees nothing. -/
theorem sweepAll_quiet {c : Chip} {cls : List Nat}
    (h : ∀ k ∈ cls, ∀ n, ((c.cluster k).slot n).held = false ∨ ((c.cluster k).slot n).ended = false) : c.sweepAll cls = c := by
  unfold Chip.sweepAll
  induction cls with
  | nil => rfl
  | cons k r ih =>
    obtain ⟨hk, hr⟩ := List.forall_mem_cons.1 h
    rw [List.foldl_cons, sweepSlots_quiet hk, ih hr]

theorem getElem_memReadBytes (m : Memory) (a n i : Nat) (h : i < (memReadBytes m a n).length) :
    (memReadBytes m a n)[i] = memRead m (a + i) := by
  simp [memReadBytes]

/-- Tiles of different clusters do not overlap. -/
theorem tileBase_apart {k n : Nat} (t : Nat) (h : k ≠ n) :
    tileBase k t + 0x10000 ≤ tileBase n t ∨ tileBase n t + 0x10000 ≤ tileBase k t := by
  unfold tileBase
  omega

/-! ### The landings of a ring (R249, R437) -/

/-- What the moves of a ring are made from: where each lands, its tile, and the contents. -/
abbrev Landing := Nat × Nat × List Byte

/-- The landings made one after another. -/
def Chip.landAll (c : Chip) (north : Bool) (l : List Landing) : Chip := l.foldl (fun c p => c.land p.1 north p.2.1 p.2.2) c

/-- A landing at a cluster whose own move is of the same tile, which has not been given out anew. -/
structure LandsAt (c : Chip) (north : Bool) (t : Nat) (p : Landing) : Prop where
  tile : p.2.1 = t
  size : p.2.2.length = 0x10000
  own : ∃ e, (c.cluster p.1).rotating north = some e ∧ e.movedTile north = t ∧ e.forgotten.contains t = false

/-- The move phase of a cluster once an `MMROT`'s move of a direction has landed (R423). -/
def movesLanded (north : Bool) (id : List Nat) (ms : List MEntry) : List MEntry :=
  (ms.map (fun m => if m.seqs = id then (if north then { m with northDone := true } else { m with westDone := true }) else m)).filter
    (fun m => !(isMmrot m.op && m.westDone && m.northDone))

theorem land_moves {c : Chip} {north : Bool} {t : Nat} {p : Landing} (h : LandsAt c north t p) :
    ∃ e g seqs, c.land p.1 north p.2.1 p.2.2 = c.moveIn p.1 e t t p.2.2 g seqs ∧ e.forgotten.contains t = false := by
  obtain ⟨rfl, -, e, he, ht, hf⟩ := h
  refine ⟨e, movesLanded north e.seqs, e.moveSeqs north, ?_, hf⟩
  unfold Chip.land
  rw [he]
  dsimp only
  rw [ht]
  rfl

section
variable {c : Chip} {north : Bool} {t : Nat} {l : List Landing}

/-- The landings of different clusters, made one after another. -/
theorem landAll_spec (hm : Memory.wf c.mem) (hnd : (l.map Prod.fst).Nodup) (h : ∀ p ∈ l, LandsAt c north t p) :
    (∀ n, n ∉ l.map Prod.fst → (c.landAll north l).cluster n = c.cluster n)
      ∧ (∀ p ∈ l, (((c.landAll north l).cluster p.1).tile t).fill = ((c.cluster p.1).tile t).fill - 1
        ∧ ((c.landAll north l).cluster p.1).slots = (c.cluster p.1).slots
        ∧ ∀ i (hi : i < p.2.2.length), memRead (c.landAll north l).mem (tileBase p.1 t + i) = p.2.2[i])
      ∧ ∀ a, (∀ p ∈ l, a < tileBase p.1 t ∨ tileBase p.1 t + 0x10000 ≤ a) → memRead (c.landAll north l).mem a = memRead c.mem a := by
  induction l generalizing c with
  | nil => exact ⟨fun _ _ => rfl, fun p hp => absurd hp List.not_mem_nil, fun _ _ => rfl⟩
  | cons p r ih =>
    obtain ⟨hp, hr⟩ := List.forall_mem_cons.1 h
    obtain ⟨hnotin, hnd'⟩ := List.nodup_cons.1 (by simpa using hnd : (p.1 :: r.map Prod.fst).Nodup)
    obtain ⟨e, g, seqs, hland, hforg⟩ := land_moves hp
    have hne {q : Landing} (hq : q ∈ r) : q.1 ≠ p.1 := fun he => hnotin (he ▸ List.mem_map_of_mem hq)
    have hmem : (c.land p.1 north p.2.1 p.2.2).mem = memWriteBytes c.mem (tileBase p.1 t) p.2.2 := by rw [hland, mem_moveIn]
    have hkeep {n : Nat} (hn : n ≠ p.1) : (c.land p.1 north p.2.1 p.2.2).cluster n = c.cluster n := by rw [hland, cluster_moveIn_ne _ _ _ _ _ _ _ _ hn]
    have hwf : Memory.wf (c.land p.1 north p.2.1 p.2.2).mem := by
      rw [hmem]
      exact memWriteBytes_wf _ _ hm
    have hr' : ∀ q ∈ r, LandsAt (c.land p.1 north p.2.1 p.2.2) north t q := fun q hq =>
      ⟨(hr q hq).tile, (hr q hq).size, by rw [hkeep (hne hq)]; exact (hr q hq).own⟩
    obtain ⟨hout, hin, hbytes⟩ := ih hwf hnd' hr'
    have hall : c.landAll north (p :: r) = (c.land p.1 north p.2.1 p.2.2).landAll north r := rfl
    rw [hall]
    refine ⟨fun n hn => ?_, List.forall_mem_cons.2 ⟨⟨?_, ?_, fun i hi => ?_⟩, fun q hq => ?_⟩, fun a ha => ?_⟩
    · obtain ⟨h1, h2⟩ := not_or.1 (mt List.mem_cons.2 (by simpa using hn : n ∉ p.1 :: r.map Prod.fst))
      rw [hout n h2, hkeep h1]
    · rw [hout _ hnotin, hland, fill_moveIn _ _ _ _ _ _ _ _ hforg]
    · rw [hout _ hnotin, hland, slots_moveIn _ _ _ _ _ _ _ _ hforg]
    · rw [hbytes, hmem, memRead_memWriteBytes_inside _ hm hi]
      intro q hq
      have hsize := hp.size
      have := tileBase_apart t (hne hq)
      omega
    · obtain ⟨h1, h2, h3⟩ := hin q hq
      rw [hkeep (hne hq)] at h1 h2
      exact ⟨h1, h2, h3⟩
    · obtain ⟨h1, h2⟩ := List.forall_mem_cons.1 ha
      rw [hbytes a h2, hmem, memRead_memWriteBytes_outside _ hm (by rw [hp.size]; exact h1)]

end

/-- What the clusters of a ring send: each its tile's contents, to the next. -/
def Chip.landings (c : Chip) (cl : Nat) (north : Bool) (t : Nat) : List Landing :=
  (ringOf cl north).map (fun k => (ringNext north k, t, memReadBytes c.mem (tileBase k t) 0x10000))

section
variable {c : Chip} {cl : Nat} {north : Bool} {t : Nat}

theorem rotating_of_moveReady {k : Cluster} (h : k.moveReady north = true) : ∃ e, k.rotating north = some e := by
  unfold Cluster.moveReady at h
  split at h
  next e he => exact ⟨e, he⟩
  next => cases h

theorem landings_dests : (c.landings cl north t).map Prod.fst = (ringOf cl north).map (ringNext north) := by
  rw [Chip.landings, List.map_map]
  rfl

theorem rotate_eq (h : ∀ k ∈ ringOf cl north, (c.cluster k).moveReady north = true
      ∧ (∀ e, (c.cluster k).rotating north = some e → e.movedTile north = t ∧ e.forgotten.contains t = false) ∧ c.clusterRuns k = true) :
    c.rotate cl north = (c.landAll north (c.landings cl north t)).sweepAll (ringOf cl north) := by
  unfold Chip.rotate
  dsimp only
  refine (if_pos (List.all_eq_true.2 fun k hk => by
    obtain ⟨h1, -, h2⟩ := h k hk
    rw [h1, h2]
    rfl)).trans ?_
  unfold Chip.landAll Chip.landings
  refine congrArg (fun l : List Landing => (l.foldl (fun c p => c.land p.1 north p.2.1 p.2.2) c).sweepAll (ringOf cl north))
    (List.map_congr_left fun k hk => ?_)
  obtain ⟨hready, htile, -⟩ := h k hk
  obtain ⟨e, he⟩ := rotating_of_moveReady hready
  rw [he]
  dsimp only
  rw [(htile e he).1]
  rfl

theorem rotate_waits (h : ∃ k ∈ ringOf cl north, (c.cluster k).moveReady north = false ∨ c.clusterRuns k = false) : c.rotate cl north = c := by
  obtain ⟨k, hk, hwait⟩ := h
  unfold Chip.rotate
  refine if_neg fun hall => ?_
  have := List.all_eq_true.1 hall k hk
  rcases hwait with hw | hw <;> simp [hw] at this

end

/-- A rotation ring moves in one step (R249, R437). -/
theorem ring_rotates {s : State} {cl t : Nat} {north : Bool} (hm : Memory.wf s.chip.mem)
    (h : ∀ k ∈ ringOf cl north, (s.chip.cluster k).moveReady north = true
      ∧ (∀ e, (s.chip.cluster k).rotating north = some e → e.movedTile north = t ∧ e.forgotten.contains t = false)
      ∧ NoEndedSlots s k ∧ s.chip.clusterRuns k = true) :
    (∀ k ∈ ringOf cl north, ∀ i, i < 0x10000 →
        memRead (s.chip.rotate cl north).mem (tileBase (ringNext north k) t + i) = memRead s.chip.mem (tileBase k t + i))
      ∧ (∀ a, (∀ k ∈ ringOf cl north, a < tileBase k t ∨ tileBase k t + 0x10000 ≤ a) →
        memRead (s.chip.rotate cl north).mem a = memRead s.chip.mem a)
      ∧ ∀ k ∈ ringOf cl north, (((s.chip.rotate cl north).cluster k).tile t).fill = ((s.chip.cluster k).tile t).fill - 1 := by
  have hdest {k : Nat} (hk : k ∈ ringOf cl north) : ringNext north k ∈ ringOf cl north :=
    (ringOf_perm cl north).mem_iff.1 (List.mem_map_of_mem hk)
  have hsource {k : Nat} (hk : k ∈ ringOf cl north) : ∃ j ∈ ringOf cl north, ringNext north j = k :=
    List.mem_map.1 ((ringOf_perm cl north).mem_iff.2 hk)
  have hlen (k : Nat) : (memReadBytes s.chip.mem (tileBase k t) 0x10000).length = 0x10000 := memReadBytes_length ..
  have hland : ∀ p ∈ s.chip.landings cl north t, LandsAt s.chip north t p := by
    intro p hp
    obtain ⟨k, hk, rfl⟩ := List.mem_map.1 hp
    obtain ⟨hready, htile, -⟩ := h _ (hdest hk)
    obtain ⟨e, he⟩ := rotating_of_moveReady hready
    exact ⟨rfl, by dsimp only; exact hlen k, e, he, htile e he⟩
  have hnd : ((s.chip.landings cl north t).map Prod.fst).Nodup := by
    rw [landings_dests]
    exact (ringOf_perm cl north).nodup_iff.2 (ringOf_nodup cl north)
  obtain ⟨-, hin, hout⟩ := landAll_spec hm hnd hland
  have hrot : s.chip.rotate cl north = s.chip.landAll north (s.chip.landings cl north t) := by
    rw [rotate_eq fun k hk => ⟨(h k hk).1, (h k hk).2.1, (h k hk).2.2.2⟩]
    refine sweepAll_quiet fun k hk n => ?_
    obtain ⟨j, hj, rfl⟩ := hsource hk
    obtain ⟨-, hslots, -⟩ := hin _ (List.mem_map_of_mem hj)
    rw [Cluster.slot, hslots]
    exact (h _ hk).2.2.1 n
  rw [hrot]
  refine ⟨fun k hk i hi => ?_, fun a ha => hout a fun p hp => ?_, fun k hk => ?_⟩
  · obtain ⟨-, -, hbytes⟩ := hin _ (List.mem_map_of_mem hk)
    rw [hbytes i (by rwa [memReadBytes_length]), getElem_memReadBytes]
  · obtain ⟨k, hk, rfl⟩ := List.mem_map.1 hp
    exact ha _ (hdest hk)
  · obtain ⟨j, hj, rfl⟩ := hsource hk
    exact (hin _ (List.mem_map_of_mem hj)).1

/-! ### Swaps (R424) -/

section
variable {c : Chip} {cl m t : Nat} {a b : MEntry} {ra rb : List MEntry}

theorem swapTile_mswap {e : MEntry} {d : BitVec 5} (h : e.op = .mswap d) : e.swapTile = e.tbase + d.toNat ∧ isMswap e.op = true := by
  unfold MEntry.swapTile
  rw [h]
  exact ⟨rfl, rfl⟩

theorem swapping_head {k : Cluster} (h : k.moves = a :: ra) (hsw : isMswap a.op = true) (hclear : k.clear a.seqs = true) :
    k.swapping a.swapTile = some a := by
  have hfind : k.moves.find? (fun e => isMswap e.op && e.swapTile = a.swapTile) = some a := by
    rw [h]
    exact List.find?_cons_of_pos (by simp [hsw])
  unfold Cluster.swapping
  rw [hfind]
  exact if_pos hclear

/-- Two mirror clusters whose first moves are swaps of one tile, and may be performed, exchange its contents. -/
theorem exchange_eq (hm : m = swapOf cl) (ha : (c.cluster cl).moves = a :: ra) (hb : (c.cluster m).moves = b :: rb)
    (hsa : isMswap a.op = true) (hsb : isMswap b.op = true) (hta : a.swapTile = t) (htb : b.swapTile = t)
    (hca : (c.cluster cl).clear a.seqs = true) (hcb : (c.cluster m).clear b.seqs = true)
    (hr : c.clusterRuns cl = true) (hrm : c.clusterRuns m = true) : c.exchange cl
      = ((c.endSwap cl a (memReadBytes c.mem (tileBase m t) 0x10000)).endSwap m b (memReadBytes c.mem (tileBase cl t) 0x10000)).sweepAll
        [cl, m] := by
  have h1 : (c.cluster cl).swapping t = some a := hta ▸ swapping_head ha hsa hca
  have h2 : (c.cluster m).swapping t = some b := htb ▸ swapping_head hb hsb hcb
  have hfind : (c.cluster cl).moves.find? (fun e => isMswap e.op
      && ((c.cluster cl).swapping e.swapTile).isSome && ((c.cluster m).swapping e.swapTile).isSome) = some a := by
    rw [ha]
    exact List.find?_cons_of_pos (by simp [hsa, hta, h1, h2])
  unfold Chip.exchange
  rw [← hm]
  dsimp only
  rw [hfind]
  dsimp only
  rw [hta, h1, h2]
  exact if_neg (by rw [hr, hrm]; decide)

theorem endSwap_eq (ht : a.swapTile = t) (data : List Byte) :
    c.endSwap cl a data = c.moveIn cl a t t data (fun ms => ms.filter (fun m => m.seqs ≠ a.seqs)) a.seqs := by
  rw [← ht]
  rfl

end

/-- Contents moved into the same tile of two clusters. -/
theorem two_moves {c d : Chip} {cl m t : Nat} {a b : MEntry} {da db : List Byte} {g g' : List MEntry → List MEntry} {seqs seqs' : List Nat}
    (hd : d = (c.moveIn cl a t t da g seqs).moveIn m b t t db g' seqs')
    (hm : Memory.wf c.mem) (hne : m ≠ cl) (ha : a.forgotten.contains t = false) (hb : b.forgotten.contains t = false)
    (hda : da.length = 0x10000) (hdb : db.length = 0x10000) :
    (∀ i (hi : i < 0x10000), memRead d.mem (tileBase cl t + i) = da[i]
        ∧ memRead d.mem (tileBase m t + i) = db[i])
      ∧ (∀ x, (x < tileBase cl t ∨ tileBase cl t + 0x10000 ≤ x) → (x < tileBase m t ∨ tileBase m t + 0x10000 ≤ x) →
        memRead d.mem x = memRead c.mem x)
      ∧ ((d.cluster cl).slots = (c.cluster cl).slots
        ∧ (d.cluster m).slots = (c.cluster m).slots)
      ∧ ((d.cluster cl).moves = g (c.cluster cl).moves
        ∧ (d.cluster m).moves = g' (c.cluster m).moves)
      ∧ ((d.cluster cl).tile t).fill = ((c.cluster cl).tile t).fill - 1
      ∧ ((d.cluster m).tile t).fill = ((c.cluster m).tile t).fill - 1 := by
  have hapart := tileBase_apart t hne
  have hwf : Memory.wf (memWriteBytes c.mem (tileBase cl t) da) := memWriteBytes_wf _ _ hm
  rw [hd, mem_moveIn, mem_moveIn, cluster_moveIn_ne _ m _ _ _ _ _ _ (Ne.symm hne), fill_moveIn _ m _ _ _ _ _ _ hb,
    slots_moveIn _ m _ _ _ _ _ _ hb, moves_moveIn _ m _ _ _ _ _ _ hb, cluster_moveIn_ne _ cl _ _ _ _ _ _ hne]
  refine ⟨fun i hi => ⟨?_, ?_⟩, fun x hx hx' => ?_, ⟨slots_moveIn _ _ _ _ _ _ _ _ ha, rfl⟩, ⟨moves_moveIn _ _ _ _ _ _ _ _ ha, rfl⟩,
    fill_moveIn _ _ _ _ _ _ _ _ ha, rfl⟩
  · rw [memRead_memWriteBytes_outside _ hwf (by omega), memRead_memWriteBytes_inside _ hm]
  · rw [memRead_memWriteBytes_inside _ hwf]
  · rw [memRead_memWriteBytes_outside _ hwf (by omega), memRead_memWriteBytes_outside _ hm (by omega)]

theorem tilesRotateAndSwap : Claims.TilesRotateAndSwap := by
  intro s cl hclocks hm
  refine ⟨fun north tl _ => ⟨fun h => ?_, fun h => ?_⟩, ?_⟩
  · have hbody : exec (.rotationLanding cl north) s = onChip (fun c => c.rotate cl.toNat north) s := rfl
    exact ⟨_, hbody.trans (onChip_running hclocks _), ring_rotates hm h⟩
  · have hbody : exec (.rotationLanding cl north) s = onChip (fun c => c.rotate cl.toNat north) s := rfl
    exact hbody.trans (onChip_idle (rotate_waits h))
  · intro m a b ra rb d f tl hswap hne _ hma hmb hda hfb hta htb hca hcb hqa hqb hra hrb hfa hfb'
    have hbody : exec (.swapExchange cl) s = onChip (fun c => c.exchange cl.toNat) s := rfl
    obtain ⟨hsa, hia⟩ := swapTile_mswap hda
    obtain ⟨hsb, hib⟩ := swapTile_mswap hfb
    have hex := exchange_eq hswap hma hmb hia hib (hsa.trans hta) (hsb.trans htb) hca hcb hra hrb
    rw [endSwap_eq (hsa.trans hta), endSwap_eq (hsb.trans htb)] at hex
    refine ⟨_, hbody.trans (onChip_running hclocks _), ?_⟩
    dsimp only
    have hlen (x : Nat) : (memReadBytes s.chip.mem x 0x10000).length = 0x10000 := memReadBytes_length ..
    obtain ⟨hin, hout, hslots, hmoves, hfill⟩ := two_moves (g := fun ms => ms.filter (fun m => m.seqs ≠ a.seqs))
      (g' := fun ms => ms.filter (fun m => m.seqs ≠ b.seqs)) (seqs := a.seqs) (seqs' := b.seqs) rfl hm hne hfa hfb'
      (hlen (tileBase m tl)) (hlen (tileBase cl.toNat tl))
    rw [hex, sweepAll_quiet fun k hk n => ?_]
    · refine ⟨fun i hi => ⟨(hin i hi).1.trans (getElem_memReadBytes ..), (hin i hi).2.trans (getElem_memReadBytes ..)⟩, hout, ?_, ?_, hfill⟩
      · rw [hmoves.1]
        exact fun hmem => by simpa using (List.mem_filter.1 hmem).2
      · rw [hmoves.2]
        exact fun hmem => by simpa using (List.mem_filter.1 hmem).2
    · rw [Cluster.slot]
      rcases List.mem_cons.1 hk with rfl | hk
      · rw [hslots.1]
        exact hqa n
      · obtain rfl := List.mem_singleton.1 hk
        rw [hslots.2]
        exact hqb n

/-- Settles O51: the matrix queues feed the dome in turn (its next command from `domeNext_eq`), the dome's commands write their
slots and tiles element by element (`memReadNat_writeEach`), and the landings of a ring and of a swap touch different tiles
(`landAll_spec`, `two_moves`). -/
theorem domeAndTiles : Obligations.DomeAndTiles :=
  ⟨matrixQueuesFeedTheDome, domeCommandResults, tilesRotateAndSwap⟩

end Sys2Proof.Machine
end

section
/-! O52: `PUBLISH` reads the leaf of its pair through its spire, and nothing answers in a hole of the address map (R25, R206). -/

namespace Sys2Proof.Machine

open Sys2Proof.Claims

/-- An address of the hole above HBM4E (R25). -/
def holeAddress : Nat := 0x008000000000

/-- A writable leaf of a shadow pair in the first two frames, with `A` and `D` set, that a slice holds as read in the hole. -/
def holeLeaf : TlbEntry := ⟨0x40EF, 3, holeAddress⟩

/-- A `PUBLISH` of page 0 of ASID 1 by a supervisor coroutine, without a token. -/
def publishPair : CopyCmd :=
  ⟨⟨0, 0, 0, 0, 0, 1, true, true, 0⟩, opPublish, 0, 0, 1, 1, 0, 0, 0, [], [], [], [], [], false, false, [], []⟩

/-- A running package with that command in cluster 0's copy queue, a line named by the page, and 1 listed in memory at the
leaf's address. -/
def publishingChip : Chip :=
  { Chip.reset with
    mem := [(holeAddress, 1)]
    copies := [(copyKey 0 1000, ⟨.home, 3, 0, false, 0, 0, some ⟨1, 0, holeLeaf⟩, none⟩)]
    clusters := [(0, { Cluster.reset with copyQ := [publishPair] })]
    parts := [(0, { Partition.reset with en := true, state := 1, clus := 1 })] }

theorem copyAt_publishPair : CopyAt { State.reset with chip := publishingChip } 0 0 publishPair :=
  ⟨⟨rfl, by decide⟩, by decide, by decide, rfl, rfl, rfl, rfl, rfl, rfl⟩

/-- The page is translated by the line's name, which leaves the chip as it is. -/
theorem xlate_publishPair : publishingChip.xlate publishPair.cmd.agent publishPair.dst .store false
    = (.inr (leafXlat holeLeaf 1 0 false), publishingChip) := by
  decide

/-- The leaf reads 0 in the hole, so that its flip is bit 50 alone. -/
theorem flip_in_hole : memReadNat (publishingChip.copyPiece 0 0 0).mem holeAddress 8 = 2 ^ 50 := by decide

theorem exec_copyPiece (cl : BitVec 7) (idx : BitVec 4) (off : BitVec 80) (s : State) :
    exec (.copyPiece cl idx off) s = onChip (fun c => c.copyPiece cl.toNat idx.toNat off.toNat) s := rfl

/-- The claim gives the byte that memory lists at the leaf's address, 1, with bit 50 inverted. -/
theorem not_copyPiecesMoveBytes : ¬ Claims.CopyPiecesMoveBytes := by
  intro h
  obtain ⟨-, -, hpublish, -⟩ := h { State.reset with chip := publishingChip } 0 0 0 publishPair publishPair.cmd.agent 0 1
    copyAt_publishPair rfl rfl rfl (by decide)
  obtain ⟨-, -, hflips⟩ := hpublish rfl rfl rfl rfl _ _ xlate_publishPair
  obtain ⟨t, ht, hleaf, -⟩ := hflips holeAddress 1 (by decide) (by decide) rfl (by decide) (by decide) (by decide)
    (by unfold Chip.Clean; decide) (by decide)
  obtain rfl := Host.Outcome.next.inj (((exec_copyPiece 0 0 0 _).trans (onChip_running rfl _)).symm.trans ht)
  exact absurd (flip_in_hole.symm.trans hleaf) (by decide)

/-- Refutes O52: `CopyPiecesMoveBytes` does not ask the leaf that `PUBLISH` flips to lie in HBM4E, where R101 has every table. Of a
leaf that a slice holds as read at 0x008000000000, in a hole, with 1 listed in memory there, the claim wants 1 with bit 50
inverted; the command reads a hole, which gives 0, and leaves bit 50 alone. -/
theorem not_copyAndKvEngines : ¬ Obligations.CopyAndKvEngines := by
  unfold Obligations.CopyAndKvEngines
  rintro ⟨hcopy, -⟩
  exact not_copyPiecesMoveBytes hcopy

end Sys2Proof.Machine
end

section
/-! O17: what follows a retired instruction (R278, R279), the words that take no format word (R296), and the ordering instructions
(R193, R195, R348, R387). -/

namespace Sys2Proof.Machine

open Sys2Proof.Claims

/-! ### After a retired instruction (R278, R279) -/

/-- With `NOBK` as the instruction found it, what follows a retired instruction that takes no format word is the coroutine with `NOBK`
clear, and its `STEP` (R278). -/
theorem afterRetire_untaken (c : Chip) (key : Nat) {co co' : Coroutine} (h : co'.nobk = co.nobk) :
    (c.setCo key co').afterRetire key co false
      = if co.estepIs then (c.setCo key (co'.withNobk false)).stepTrap key else c.setCo key (co'.withNobk false) := by
  have hclear : (if co.nobk then (c.setCo key co').modCo key (fun m => { m with nobk := false }) else c.setCo key co')
      = c.setCo key (co'.withNobk false) := by
    split
    next => exact Chip.modCo_setCo ..
    next hn => rw [withNobk_of_eq (h.trans (Bool.eq_false_iff.2 hn))]
  simp only [Chip.afterRetire, hclear, Bool.false_eq_true, if_false]

/-- A running coroutine that waits for no trap takes `STEP` at its next instruction (R278). -/
theorem stepTrap_setCo (c : Chip) (key : Nat) {co : Coroutine} (hs : co.state = .running) (hd : co.due = none) :
    (c.setCo key co).stepTrap key = (c.setCo key co).trap key (plainTrap 0x12 co.pc 0) := by
  have hgoes : ¬ (co.state ≠ .running ∨ co.due.isSome = true) := by simp [hs, hd]
  simp only [Chip.stepTrap, Chip.co_setCo, if_neg hgoes, causeStep]

/-- A trap of a coroutine that has not drained waits in it (R264). -/
theorem trap_undrained {c : Chip} {key : Nat} (co : Coroutine) (t : Trap) (h : c.undrained key = true) :
    (c.setCo key co).trap key t = c.setCo key { co with due := some (.trap t 0) } := by
  simp only [Chip.trap, Chip.take, Chip.undrained_setCo, h, if_true, Chip.modCo_setCo]

theorem whatFollowsARetiredInstruction : Claims.WhatFollowsARetiredInstruction := by
  intro s key co co' hnobk hstate hdue
  have hnext := afterRetire_untaken s.chip key hnobk
  have hstep := stepTrap_setCo s.chip key (co := co'.withNobk false) hstate hdue
  unfold State.retired State.retiredWith
  rw [hnext]
  refine ⟨fun his => ?_, fun his hdr => ?_, fun his hdr => ?_⟩
  · rw [his]
    rfl
  · rw [his, if_pos rfl, hstep, Chip.trap_drained _ (by rwa [Chip.undrained_setCo])]
    rfl
  · rw [his, if_pos rfl, hstep, trap_undrained _ _ hdr]
    rfl

/-! ### Words behind a format word (R295, R296) -/

/-- The meaning of a word that takes no format word, whose decode check passes of a coroutine: a body behind that check (R262). -/
def PassesUntaken (f : State → Host.Outcome State Fault Refusal) (co : Coroutine) : Prop :=
  ∃ (pre : Coroutine → Option Nat) (i : Instr) (body : WordBody), f = runChecked pre i false body ∧ pre co = none

theorem passesUntaken_runWord (body : WordBody) (co : Coroutine) : PassesUntaken (runWord false body) co :=
  ⟨fun _ => none, .isync, body, rfl, rfl⟩

theorem passesUntaken_runChecked {pre : Coroutine → Option Nat} {co : Coroutine} (h : pre co = none) (i : Instr)
    (body : WordBody) : PassesUntaken (runChecked pre i false body) co := ⟨pre, i, body, rfl, h⟩

theorem passesUntaken_runVector {i : Instr} {co : Coroutine} (h : vectorPre i co = none) (s1 s2 : Coroutine → Word) :
    PassesUntaken (runVector i s1 s2) co := passesUntaken_runChecked h _ _

/-- Every word but those that R296 lists is issued as one that takes no format word. -/
theorem exec_passesUntaken {i : Instr} {w : IWord} {co : Coroutine} (hw : encode i = some w) (ht : takesPrefix i = false)
    (hpass : DecodeChecksPass i co) : PassesUntaken (exec i) co := by
  obtain ⟨hvector, hcsr⟩ := hpass
  cases i with
  | csrr | csrw | csrs | csrc => exact passesUntaken_runChecked hcsr _ _
  | vadd | vsub | vmul | vmulh | vmac | vmin | vmax | vminu | vmaxu | vsadd | vssub | vabs | vand | vor | vxor | vsll | vsrl
    | vsra | vcmp | vmerge | vfadd | vfsub | vfmul | vfma | vfnma | vfmin | vfmax | vfdiv | vfsqrt | vfrsq | vfexp2 | vfsgn
    | vfcmp | vfcvt | vredsum | vredmax | vredmin | vfredsum | vfredmax | vfredmin | vslideup | vslidedn | vgather
    | vcompress | vscan | vtopk | vtopkr | vmand | vmor | vmxor | vmnot | vmpopc | vmfirst | vmvx | vmvs | vid | vshape
    | vrope | vscld | vscst | vld | vlds | vldx | vldff | vst | vsts | vstx =>
    delta exec
    exact passesUntaken_runVector hvector _ _
  | mma | mmag | mmrot | mdrain | mfill | mopa | vldt | vstt | vldtt => cases ht
  | _ =>
    cases hw <;>
    · delta exec
      exact passesUntaken_runWord _ _

/-- A word that takes no format word, behind one, traps `PFX` at the format word, which is dropped (R219, R296). -/
theorem PassesUntaken.prefixTraps {f : State → Host.Outcome State Fault Refusal} {s : State} {key : Nat} {co : Coroutine}
    (hf : PassesUntaken f co) (h : IssuesBehindPrefix s key co) (hdr : s.chip.undrained key = false) :
    f s = .next { s with
      chip := (s.chip.setCo key { co with pp := false, pc := co.pc - 4 }).takeTrap key
        (plainTrap 0x18 (co.pc - 4) (co.pfx.setWidth 64)) 0 } := by
  obtain ⟨pre, i, body, rfl, hpre⟩ := hf
  have hword : wordOf co.pfx.toNat = co.pfx.setWidth 64 := BitVec.ofNat_toNat ..
  have htrap : s.chip.prefixTrap key co = .gone ((s.chip.setCo key { co with pp := false, pc := co.pc - 4 }).takeTrap key
      (plainTrap 0x18 (co.pc - 4) (co.pfx.setWidth 64)) 0) := by
    rw [Chip.prefixTrap, Chip.trapDrained, Chip.trap_drained _ (by rwa [Chip.undrained_setCo]), hword]
    rfl
  simp only [runChecked, h.clocks, h.running, h.holds, hpre, h.behind, htrap, Bool.false_eq_true, if_false, Bool.not_false,
    Bool.and_self, if_true]
  rfl

theorem prefixAppliesToTakersOnly : Claims.PrefixAppliesToTakersOnly := by
  refine ⟨fun s key co h a b d k l w hw => ?_, fun s key co h hdr i w hw ht hpass => ?_⟩
  · show execFmt a b d k l s = _
    rw [execFmt, runWord_issues h, hw]
    rfl
  · exact (exec_passesUntaken hw ht hpass).prefixTraps h hdr

/-! ### Ordering instructions (R193, R195, R348, R387) -/

section
variable {s : State} {key : Nat} {co : Coroutine} (h : Issues s key co)
include h

/-- A fence that waits while `wait` says so, and then only goes on (R195). -/
theorem runWord_waits (wait : Chip → Nat → Bool) :
    (wait s.chip key = false →
      runWord false (fun c key co => if wait c key then .stall else .retire (c.setCo key co.advance)) s
        = .next (s.retired key co co.advance))
    ∧ (wait s.chip key = true →
      runWord false (fun c key co => if wait c key then .stall else .retire (c.setCo key co.advance)) s = .next s) := by
  rw [runWord_issues h]
  refine ⟨fun hw => ?_, fun hw => ?_⟩
  · rw [hw]
    rfl
  · rw [hw]
    rfl

/-- `ISYNC` empties the core's L1 instruction cache and fetches under `ASID.CUR` (R348). -/
theorem exec_isync : exec .isync s = .next (s.retiredWith key co false
    ((s.chip.modCore (key / 256) (fun k => { k with l1i := [] })).setCo key { co.advance with fetchAsid := co.asid })) := by
  show execIsync s = _
  rw [execIsync, runWord_issues h]
  rfl

/-- `FENCE.VV` puts its marker at the end of the queue (R387). -/
theorem exec_fenceVv_room (hroom : (s.chip.core (key / 256)).vq.length < 32) (hq : co.quiet) :
    exec .fenceVv s = .next (queued s key co.advance (fenceEntry key co)) := by
  have hnobk : co.advance.withNobk false = co.advance := withNobk_of_eq hq.1
  show execFenceVv s = _
  rw [execFenceVv, runWord_issues h, enqueue_room (co' := co.advance) h h.plain rfl _ hroom, hnobk]

/-- While the queue is full `FENCE.VV` waits (R235). -/
theorem exec_fenceVv_full (hfull : 32 ≤ (s.chip.core (key / 256)).vq.length) : exec .fenceVv s = .next s := by
  show execFenceVv s = _
  rw [execFenceVv, runWord_issues h, enqueue_full _ hfull]

/-- What a `FENCE` does by its sets: nothing to order, stores to wait for, or the accesses after it (R193, R386). -/
theorem exec_fence_eq (sc : BitVec 3) (pr pw sr sw : BitVec 1) :
    exec (.fence sc pr pw sr sw) s = .next
      (if (pr = 0 ∧ pw = 0) ∨ (sr = 0 ∧ sw = 0) then s.retired key co co.advance
        else if pw = 1 ∧ s.chip.storesPending key then s
        else s.retiredWith key co false ((if sr = 1 ∧ 2 ≤ sc.toNat then
            s.chip.modCore (key / 256) (fun k => { k with l1d := k.l1d.filter (fun l => l.ro) })
          else s.chip).setCo key co.advance)) := by
  show execFence sc pr pw sr sw s = _
  rw [execFence, runWord_issues h]
  refine congrArg _ ?_
  split
  · rfl
  · split
    · rfl
    · split <;> rfl

end

theorem orderingInstructionsComplete : Claims.OrderingInstructionsComplete := by
  intro s key co h
  obtain ⟨hsvGoes, hsvWaits⟩ := runWord_waits h Chip.storesPending
  obtain ⟨hvsGoes, hvsWaits⟩ := runWord_waits h Chip.vectorPending
  refine ⟨exec_isync h, hsvGoes, hsvWaits, hvsGoes, hvsWaits,
    fun hroom hq => ⟨fenceEntry key co, rfl, rfl, rfl, rfl, exec_fenceVv_room h hroom hq⟩, exec_fenceVv_full h,
    fun sc pr pw sr sw => ⟨fun hnone => ?_, fun hp hs hpw hst => ?_, fun hp hs hst => ?_⟩⟩
  · rw [exec_fence_eq h, if_pos hnone]
  all_goals
    have hsome : ¬ ((pr = 0 ∧ pw = 0) ∨ (sr = 0 ∧ sw = 0)) := by tauto
  · rw [exec_fence_eq h, if_neg hsome, if_pos ⟨hpw, hst⟩]
  · rw [exec_fence_eq h, if_neg hsome, if_neg (fun hw => absurd hw.2 (by simp [hst hw.1]))]

/-- Settles O17: what follows a retired instruction falls on the coroutine that it has put, every word but R296's is issued as one
that takes no format word, and the fences wait for a queue or go on. -/
theorem afterAnInstruction : Obligations.AfterAnInstruction :=
  ⟨whatFollowsARetiredInstruction, prefixAppliesToTakersOnly, orderingInstructionsComplete⟩

end Sys2Proof.Machine
end

section
/-! O55: a fetch by a core that the package does not have (R182, R186, R262, R266). -/

namespace Sys2Proof.Machine

open Sys2Proof.Claims

/-! ### A fetch that consumes poison (R262, R266) -/

/-- An address of ASID 0 at which something answers is translated to itself for a supervisor coroutine (R98). -/
theorem xlate_identity {c : Chip} {a : Agent} {va : Nat} {k : Acc} (hsup : a.supCo = true) (hasid : a.asid = 0)
    (hcheck : c.checkIdentity va k a.sup = 0) (hroute : route a (identity a.spire va) = none) :
    c.xlate a va k false = (.inr (identity a.spire va), c) := by
  have htranslate : c.translate a.spire a.asid va k a.sup false = (.inr (identity a.spire va), c) := by
    simp [Chip.translate, hasid, hcheck]
  simp only [Chip.xlate, hsup, htranslate, hroute, if_true]

/-- A supervisor coroutine with an empty L1 instruction cache fetches no word where the line is poisoned once the read has brought it
in. -/
theorem fetch_poisoned {c d : Chip} {key : Nat} {co : Coroutine} {x : Xlat} (hsup : co.sup = true)
    (hl1i : (c.core (key / 256)).l1i = []) (hx : c.xlate (co.fetchAgent key) co.pc.toNat .fetch false = (.inr x, d))
    (hp : (d.readL2 (spireOf (key / 256)) x 4 false).2.poisoned (lineOf x.pa) = true) :
    c.fetch key co = (none, (d.readL2 (spireOf (key / 256)) x 4 false).2.memTrap key .poison (fetchTrap co)) := by
  have hbreak : c.breakpoint key co = none := if_pos (by simp [hsup])
  have hmiss : c.l1iHit (key / 256) co.fetchAsid co.pc.toNat co.sup = none := by simp [Chip.l1iHit, hl1i]
  have hread : d.readSound (spireOf (key / 256)) x 4 false = (none, (d.readL2 (spireOf (key / 256)) x 4 false).2) := by
    simp only [Chip.readSound, hp, if_true]
  simp only [Chip.fetch, hbreak, hmiss, hx, hread]
  rfl

/-- A drained supervisor coroutine without a handler becomes faulted when it consumes poison (R266, R273). -/
theorem memTrap_poison_faults {c : Chip} {key : Nat} {co : Coroutine} (hco : c.co key = some co) (hsup : co.sup = true)
    (hs : co.state = .running) (hhandler : c.handler key = 0) (hdrained : c.undrained key = false) (t : Trap) :
    ∃ co', (c.memTrap key .poison t).co key = some co' ∧ co'.state = .faulted := by
  obtain ⟨-, hfaults⟩ := supervisorTrapEntersHandler c key co { t with cause := causePoison, kind := 0 } 0 hco hsup hs
    (show causePoison < 256 by decide)
  obtain ⟨co', -, hco', hstate, -⟩ := hfaults (.inr hhandler)
  have htrap : c.memTrap key .poison t = c.takeTrap key { t with cause := causePoison, kind := 0 } 0 := by
    simp only [Chip.memTrap, hco]
    exact Chip.trap_drained _ hdrained
  exact ⟨co', htrap ▸ hco', hstate⟩

/-- A core whose fetch fails is done (R262). -/
theorem issueOn_fetchFails {s : State} {k key : Nat} {co : Coroutine} {c : Chip} (hrun : s.chip.runningKey k = some key)
    (hco : s.chip.co key = some co) (hdue : co.due = none) (hstays : s.chip.givesWay key co = false)
    (hfetch : s.chip.fetch key co = (none, c)) : issueOn k s = .done { s with cur := k, chip := c } := by
  simp only [issueOn, hrun, hco, hdue, hstays, issueWord, hfetch, Option.isSome_none, Bool.false_eq_true, if_false]

/-! ### Core 512 -/

/-- A package whose cores 0 to 511 are idle and whose table of cores lists a core 512, which runs a supervisor coroutine at the
address 0, where the word of `addi x7, x7, 1` lies. -/
def extraCore : State :=
  { State.reset with
    agenda := [.issue 512]
    chip := { Chip.reset with
      mem := memWriteNat [] 0 4 0x20738001
      cos := [(131072, bootedCoroutine 0)]
      cores := [(512, { Core.reset with running := some 0 })] } }

/-- The chip at core 512's turn. -/
def extraChip : Chip := (atCore extraCore 512 []).chip

theorem fetches_extraCore : Fetches extraCore 512 [] 131072 (bootedCoroutine 0) := by
  have hready : extraChip.readyOn 512 = [] := rfl
  have hstays : extraChip.givesWay 131072 (bootedCoroutine 0) = false := by
    simp [Chip.givesWay, hready]
  exact ⟨⟨.inl rfl, rfl, rfl, rfl⟩, rfl, hstays⟩

theorem sound_extraChip : Claims.Sound extraChip 0 4 := by
  unfold Claims.Sound
  decide

theorem clean_extraChip (line : Nat) : extraChip.Clean line := ⟨fun _ h => (nomatch h), fun _ h => (nomatch h)⟩

/-- Address 0 is translated to itself (R98). -/
theorem xlate_extraChip : extraChip.xlate ((bootedCoroutine 0).fetchAgent 131072) 0 .fetch false = (.inr (identity 4 0), extraChip) :=
  xlate_identity rfl rfl (by decide) (by decide)

/-- `SHARERS` has a bit for each of the spires 0 to 3; the bit of a number 4 falls into `OWNER`, and line 0 is left shared by no
spire, which makes it poisoned. -/
theorem poisoned_by_spire_four : (extraChip.readL2 4 (identity 4 0) 4 false).2.poisoned 0 = true := by
  have hword : (extraChip.readL2 4 (identity 4 0) 4 false).2.compassOf 0 = cWith 0 1 0 (2 ^ 4) := by decide
  refine poisoned_of_malformed (by decide) ?_
  rw [hword]
  decide

/-- The fetch leaves its coroutine faulted. -/
theorem fetch_extraChip : ∃ d co', extraChip.fetch 131072 (bootedCoroutine 0) = (none, d) ∧ d.co 131072 = some co'
    ∧ co'.state = .faulted := by
  have hlooks := looks_readL2 extraChip 4 (identity 4 0) 4 false
  have hhandler : (extraChip.readL2 4 (identity 4 0) 4 false).2.handler 131072 = 0 := by
    rw [hlooks.frame]
    rfl
  obtain ⟨co', hco', hstate⟩ := memTrap_poison_faults (congrArg (mget · 131072) hlooks.cos) rfl rfl hhandler
    (undrained_of_cores hlooks.cores) (fetchTrap (bootedCoroutine 0))
  exact ⟨_, co', fetch_poisoned rfl rfl xlate_extraChip poisoned_by_spire_four, hco', hstate⟩

/-- A step that gives core 512 its turn ends with the trap of the fetch. -/
theorem step_extraCore {d : Chip} (hfetch : extraChip.fetch 131072 (bootedCoroutine 0) = (none, d)) :
    step extraCore = .next { atCore extraCore 512 [] with chip := d } := by
  have hissue := issueOn_fetchFails (s := { extraCore.settle.tick with agenda := [] }) (k := 512) rfl rfl rfl
    fetches_extraCore.stays hfetch
  have hplan : plan extraCore.settle = .done { atCore extraCore 512 [] with chip := d } := hissue
  simp only [step, hplan]

/-- Refutes O55: its clause on the bytes that a supervisor coroutine fetches bounds neither the core nor the spire. A core 512, which
would lie on a spire 4, reads line 0 as a spire that no compass word can name (R182), finds it poisoned, and its coroutine becomes
faulted, where the claim wants `addi x7, x7, 1` to be executed. -/
theorem not_stepRunsTheDecodedInstruction : ¬ Obligations.StepRunsTheDecodedInstruction := by
  unfold Obligations.StepRunsTheDecodedInstruction
  intro h
  obtain ⟨-, -, -, -, hbytes, -⟩ := h extraCore 512 []
  obtain ⟨t, hstep, hcur, hrun, hco, -, hkeep, -⟩ := hbytes 131072 (bootedCoroutine 0) (.addi 7 7 1) extraChip fetches_extraCore rfl rfl
    rfl (by decide) sound_extraChip (.inl (clean_extraChip _)) rfl (by decide) (by decide)
  have hissues : Issues t 131072 (bootedCoroutine 0) := ⟨by rw [hkeep]; rfl, by rw [hcur]; exact hrun, hco, rfl⟩
  have hadds : exec (.addi 7 7 1) t = .next (t.wrote 131072 (bootedCoroutine 0) 7 _) := runWord_writeX hissues 7 _
  obtain ⟨d, co', hfetch, hco', hfaulted⟩ := fetch_extraChip
  have hsame := Host.Outcome.next.inj (((step_extraCore hfetch).symm.trans hstep).trans hadds)
  have hd : d = t.chip.setCo 131072 ((bootedCoroutine 0).setX 7 _).advance :=
    (congrArg State.chip hsame).trans (congrArg State.chip (State.retired_quiet _ _ _ ⟨rfl, rfl⟩))
  rw [hd, Chip.co_setCo] at hco'
  obtain rfl := Option.some.inj hco'
  cases hfaulted

end Sys2Proof.Machine
end

section
/-! O57 and O58: a word stands for an instruction exactly when it is that instruction's encoding (R281-R284). -/

namespace Sys2Proof.Machine

/-! ### Slices of a number, and the fields that are put in it -/

/-- The `n` bits of a number from bit `lo` up. -/
def slice (x lo n : Nat) : Nat := x / 2 ^ lo % 2 ^ n

theorem slice_literal (x lo n : Nat) : slice (no_index (OfNat.ofNat x)) lo n = OfNat.ofNat x / 2 ^ lo % 2 ^ n := by
  rw [slice]

theorem slice_or (x y lo n : Nat) : slice (x ||| y) lo n = slice x lo n ||| slice y lo n := by
  simp only [slice, ← Nat.shiftRight_eq_div_pow, Nat.shiftRight_or_distrib, Nat.or_mod_two_pow]

section
variable {m k lo n : Nat} (v : BitVec m)

theorem slice_field_below (h : lo + n ≤ k) : slice (v.toNat <<< k) lo n = 0 := by
  obtain ⟨j, rfl⟩ := Nat.exists_eq_add_of_le h
  rw [slice, Nat.shiftLeft_eq, show v.toNat * 2 ^ (lo + n + j) = 2 ^ lo * (2 ^ n * (v.toNat * 2 ^ j)) by ring,
    Nat.mul_div_cancel_left _ (Nat.two_pow_pos lo), Nat.mul_mod_right]

theorem slice_field_above (h : k + m ≤ lo) : slice (v.toNat <<< k) lo n = 0 := by
  have hv : v.toNat <<< k < 2 ^ lo := calc
    v.toNat <<< k = v.toNat * 2 ^ k := Nat.shiftLeft_eq ..
    _ < 2 ^ m * 2 ^ k := Nat.mul_lt_mul_of_pos_right v.isLt (Nat.two_pow_pos k)
    _ = 2 ^ (k + m) := by rw [pow_add, Nat.mul_comm]
    _ ≤ 2 ^ lo := Nat.pow_le_pow_right (by decide) h
  rw [slice, Nat.div_eq_of_lt hv, Nat.zero_mod]

theorem slice_field (hk : lo ≤ k) (hn : k + m ≤ lo + n) : slice (v.toNat <<< k) lo n = v.toNat * 2 ^ (k - lo) := by
  obtain ⟨j, rfl⟩ := Nat.exists_eq_add_of_le hk
  have hv : v.toNat * 2 ^ j < 2 ^ n := calc
    v.toNat * 2 ^ j < 2 ^ m * 2 ^ j := Nat.mul_lt_mul_of_pos_right v.isLt (Nat.two_pow_pos j)
    _ = 2 ^ (j + m) := by rw [pow_add, Nat.mul_comm]
    _ ≤ 2 ^ n := Nat.pow_le_pow_right (by decide) (by omega)
  rw [slice, Nat.shiftLeft_eq, Nat.add_sub_cancel_left, pow_add, Nat.mul_left_comm,
    Nat.mul_div_cancel_left _ (Nat.two_pow_pos lo), Nat.mod_eq_of_lt hv]

/-- A field put in a free place is joined to what is there. -/
theorem put_eq_or {x : Nat} (h : slice x k m = 0) : put x v.toNat k = x ||| v.toNat <<< k := by
  obtain ⟨a, ha⟩ := Nat.dvd_of_mod_eq_zero h
  have hlow : x % 2 ^ k < 2 ^ k := Nat.mod_lt _ (Nat.two_pow_pos k)
  have hx : x = (2 ^ m * a) <<< k ||| x % 2 ^ k := by
    rw [← Nat.shiftLeft_add_eq_or_of_lt hlow, Nat.shiftLeft_eq, ← ha, Nat.div_add_mod']
  calc put x v.toNat k = (2 ^ m * a + v.toNat) <<< k + x % 2 ^ k := by
        rw [put, ← ha, Nat.shiftLeft_eq, Nat.add_mul, Nat.add_right_comm, Nat.div_add_mod']
    _ = (2 ^ m * a) <<< k ||| v.toNat <<< k ||| x % 2 ^ k := by
        rw [Nat.shiftLeft_add_eq_or_of_lt hlow, Nat.two_pow_add_eq_or_of_lt v.isLt, Nat.shiftLeft_or_distrib]
    _ = x ||| v.toNat <<< k := by rw [Nat.or_right_comm, ← hx]

end

theorem or_eq_of_lt {a c x : Nat} (h : c < a) : (a ||| x = c) = False :=
  eq_false fun he => absurd (he ▸ Nat.left_le_or) (Nat.not_le.mpr h)

/-! ### Slices of a word -/

theorem bitsAt_ofNat {x lo n : Nat} (h : lo + n ≤ 32) : bitsAt (BitVec.ofNat 32 x) lo n = slice x lo n := by
  obtain ⟨k, hk⟩ := Nat.exists_eq_add_of_le h
  rw [bitsAt, slice, BitVec.toNat_ofNat, hk, Nat.add_assoc, pow_add, Nat.mod_mul_right_div_self,
    Nat.mod_mod_of_dvd _ (Nat.pow_dvd_pow 2 (Nat.le_add_right n k))]

theorem fld_eq_ofNat (w : BitVec 32) (lo n : Nat) : fld w lo n = BitVec.ofNat n (bitsAt w lo n) := by
  apply BitVec.eq_of_toNat_eq
  simp [fld, bitsAt]

section
variable {w : BitVec 32} {x lo n : Nat} (hw : BitVec.ofNat 32 x = w) (h : lo + n ≤ 32)
include hw h

theorem bitsAt_word : bitsAt w lo n = slice x lo n := hw ▸ bitsAt_ofNat h

theorem fld_word : fld w lo n = BitVec.ofNat n (slice x lo n) := by
  rw [fld_eq_ofNat, bitsAt_word hw h]

end

/-! ### An instruction's encoding decodes to it -/

/-- Every major opcode has its table (R284). -/
theorem decodeRaw_major (w : BitVec 32) :
    (bitsAt w 25 7 = 0x01 → decodeRaw w = decodeMajor01 w) ∧ (bitsAt w 25 7 = 0x02 → decodeRaw w = decodeMajor02 w) ∧
    (bitsAt w 25 7 = 0x03 → decodeRaw w = decodeMajor03 w) ∧ (bitsAt w 25 7 = 0x04 → decodeRaw w = decodeMajor04 w) ∧
    (bitsAt w 25 7 = 0x10 → decodeRaw w = decodeMajor10 w) ∧ (bitsAt w 25 7 = 0x11 → decodeRaw w = decodeMajor11 w) ∧
    (bitsAt w 25 7 = 0x12 → decodeRaw w = decodeMajor12 w) ∧ (bitsAt w 25 7 = 0x13 → decodeRaw w = decodeMajor13 w) ∧
    (bitsAt w 25 7 = 0x14 → decodeRaw w = decodeMajor14 w) ∧ (bitsAt w 25 7 = 0x15 → decodeRaw w = decodeMajor15 w) ∧
    (bitsAt w 25 7 = 0x16 → decodeRaw w = decodeMajor16 w) ∧ (bitsAt w 25 7 = 0x17 → decodeRaw w = decodeMajor17 w) ∧
    (bitsAt w 25 7 = 0x18 → decodeRaw w = decodeMajor18 w) ∧ (bitsAt w 25 7 = 0x19 → decodeRaw w = decodeMajor19 w) ∧
    (bitsAt w 25 7 = 0x20 → decodeRaw w = decodeMajor20 w) ∧ (bitsAt w 25 7 = 0x21 → decodeRaw w = decodeMajor21 w) ∧
    (bitsAt w 25 7 = 0x22 → decodeRaw w = decodeMajor22 w) ∧ (bitsAt w 25 7 = 0x23 → decodeRaw w = decodeMajor23 w) ∧
    (bitsAt w 25 7 = 0x24 → decodeRaw w = decodeMajor24 w) ∧ (bitsAt w 25 7 = 0x25 → decodeRaw w = decodeMajor25 w) ∧
    (bitsAt w 25 7 = 0x26 → decodeRaw w = decodeMajor26 w) ∧ (bitsAt w 25 7 = 0x27 → decodeRaw w = decodeMajor27 w) ∧
    (bitsAt w 25 7 = 0x28 → decodeRaw w = decodeMajor28 w) ∧ (bitsAt w 25 7 = 0x29 → decodeRaw w = decodeMajor29 w) ∧
    (bitsAt w 25 7 = 0x2A → decodeRaw w = decodeMajor2A w) ∧ (bitsAt w 25 7 = 0x2B → decodeRaw w = decodeMajor2B w) ∧
    (bitsAt w 25 7 = 0x2C → decodeRaw w = decodeMajor2C w) ∧ (bitsAt w 25 7 = 0x2D → decodeRaw w = decodeMajor2D w) ∧
    (bitsAt w 25 7 = 0x30 → decodeRaw w = decodeMajor30 w) ∧ (bitsAt w 25 7 = 0x31 → decodeRaw w = decodeMajor31 w) ∧
    (bitsAt w 25 7 = 0x32 → decodeRaw w = decodeMajor32 w) ∧ (bitsAt w 25 7 = 0x33 → decodeRaw w = decodeMajor33 w) ∧
    (bitsAt w 25 7 = 0x34 → decodeRaw w = decodeMajor34 w) ∧ (bitsAt w 25 7 = 0x38 → decodeRaw w = decodeMajor38 w) ∧
    (bitsAt w 25 7 = 0x39 → decodeRaw w = decodeMajor39 w) ∧ (bitsAt w 25 7 = 0x3A → decodeRaw w = decodeMajor3A w) ∧
    (bitsAt w 25 7 = 0x3B → decodeRaw w = decodeMajor3B w) ∧ (bitsAt w 25 7 = 0x3C → decodeRaw w = decodeMajor3C w) ∧
    (bitsAt w 25 7 = 0x3D → decodeRaw w = decodeMajor3D w) ∧ (bitsAt w 25 7 = 0x40 → decodeRaw w = decodeMajor40 w) ∧
    (bitsAt w 25 7 = 0x41 → decodeRaw w = decodeMajor41 w) ∧ (bitsAt w 25 7 = 0x42 → decodeRaw w = decodeMajor42 w) ∧
    (bitsAt w 25 7 = 0x43 → decodeRaw w = decodeMajor43 w) ∧ (bitsAt w 25 7 = 0x44 → decodeRaw w = decodeMajor44 w) ∧
    (bitsAt w 25 7 = 0x45 → decodeRaw w = decodeMajor45 w) ∧ (bitsAt w 25 7 = 0x46 → decodeRaw w = decodeMajor46 w) ∧
    (bitsAt w 25 7 = 0x47 → decodeRaw w = decodeMajor47 w) ∧ (bitsAt w 25 7 = 0x48 → decodeRaw w = decodeMajor48 w) ∧
    (bitsAt w 25 7 = 0x49 → decodeRaw w = decodeMajor49 w) ∧ (bitsAt w 25 7 = 0x4A → decodeRaw w = decodeMajor4A w) ∧
    (bitsAt w 25 7 = 0x4B → decodeRaw w = decodeMajor4B w) ∧ (bitsAt w 25 7 = 0x50 → decodeRaw w = decodeMajor50 w) ∧
    (bitsAt w 25 7 = 0x51 → decodeRaw w = decodeMajor51 w) ∧ (bitsAt w 25 7 = 0x52 → decodeRaw w = decodeMajor52 w) ∧
    (bitsAt w 25 7 = 0x53 → decodeRaw w = decodeMajor53 w) ∧ (bitsAt w 25 7 = 0x60 → decodeRaw w = decodeMajor60 w) := by
  constructorm* _ ∧ _
  all_goals
    intro h
    unfold decodeRaw
    rw [h]
    rfl

/-- The scalar words, which are the first 118 rows of the opcode table: the word's fields are made disjoint parts of it, its major
opcode gives its table, and every test and field of the table is a slice of those parts. -/
theorem decodeRaw_of_encode_scalar {i : Instr} {w : BitVec 32} (h : encode i = some w) (hi : i.ctorIdx < 118) :
    decodeRaw w = some i := by
  cases i <;> simp only [Instr.ctorIdx, Nat.reduceLT] at hi
  all_goals injection h
  all_goals rename_i hw
  case ecall | ebreak | tret | isync | fenceSv | fenceVs | fenceVv | exit =>
    subst hw
    rfl
  all_goals
    simp only [put_eq_or, slice_or, slice_field_below, slice_literal, Nat.or_zero, eq_self, Nat.le_refl, Nat.reduceAdd,
      Nat.reduceLeDiff, Nat.reducePow, Nat.reduceDiv, Nat.reduceMod] at hw
    have hm := bitsAt_word hw (lo := 25) (n := 7) (by decide)
    simp only [slice_or, slice_field_above, slice_literal, Nat.or_zero, Nat.le_refl, Nat.reduceAdd, Nat.reduceLeDiff,
      Nat.reducePow, Nat.reduceDiv, Nat.reduceMod] at hm
    simp only [decodeRaw_major, hm]
    simp only [bitsAt_word hw, fld_word hw, slice_or, slice_field_below, slice_field_above, slice_field, slice_literal,
      Nat.or_zero, Nat.zero_or, Nat.or_assoc, or_eq_of_lt, Nat.le_refl, Nat.pow_zero, Nat.mul_one, Nat.reduceAdd,
      Nat.reduceSub, Nat.reduceLeDiff, Nat.reduceLT, Nat.reducePow, Nat.reduceDiv, Nat.reduceMod, Nat.reduceEqDiff,
      BitVec.ofNat_toNat, BitVec.setWidth_eq, ↓reduceIte, true_and, and_true, false_and,
      decodeMajor01, decodeMajor02, decodeMajor03, decodeMajor04, decodeMajor10, decodeMajor11, decodeMajor12, decodeMajor13,
      decodeMajor14, decodeMajor15, decodeMajor16, decodeMajor17, decodeMajor18, decodeMajor19, decodeMajor20, decodeMajor21,
      decodeMajor22, decodeMajor23, decodeMajor24, decodeMajor25, decodeMajor26, decodeMajor27, decodeMajor28, decodeMajor29,
      decodeMajor2A, decodeMajor2B, decodeMajor2C, decodeMajor2D, decodeMajor30, decodeMajor31, decodeMajor32, decodeMajor33,
      decodeMajor34, decodeMajor38, decodeMajor39, decodeMajor3A, decodeMajor3B, decodeMajor3C, decodeMajor3D]

/-- The vector words and the engine commands, which are the other rows that have words; an event has none. -/
theorem decodeRaw_of_encode_vector_engine {i : Instr} {w : BitVec 32} (h : encode i = some w) (hi : 118 ≤ i.ctorIdx) :
    decodeRaw w = some i := by
  cases i <;> simp only [Instr.ctorIdx, Nat.reduceLeDiff] at hi
  all_goals injection h
  all_goals rename_i hw
  all_goals
    simp only [put_eq_or, slice_or, slice_field_below, slice_literal, Nat.or_zero, eq_self, Nat.le_refl, Nat.reduceAdd,
      Nat.reduceLeDiff, Nat.reducePow, Nat.reduceDiv, Nat.reduceMod] at hw
    have hm := bitsAt_word hw (lo := 25) (n := 7) (by decide)
    simp only [slice_or, slice_field_above, slice_literal, Nat.or_zero, Nat.le_refl, Nat.reduceAdd, Nat.reduceLeDiff,
      Nat.reducePow, Nat.reduceDiv, Nat.reduceMod] at hm
    simp only [decodeRaw_major, hm]
    simp only [bitsAt_word hw, fld_word hw, slice_or, slice_field_below, slice_field_above, slice_field, slice_literal,
      Nat.or_zero, Nat.zero_or, Nat.or_assoc, or_eq_of_lt, Nat.le_refl, Nat.pow_zero, Nat.mul_one, Nat.reduceAdd,
      Nat.reduceSub, Nat.reduceLeDiff, Nat.reduceLT, Nat.reducePow, Nat.reduceDiv, Nat.reduceMod, Nat.reduceEqDiff,
      BitVec.ofNat_toNat, BitVec.setWidth_eq, ↓reduceIte, and_true, false_and,
      decodeMajor40, decodeMajor41, decodeMajor42, decodeMajor43, decodeMajor44, decodeMajor45, decodeMajor46, decodeMajor47,
      decodeMajor48, decodeMajor49, decodeMajor4A, decodeMajor4B, decodeMajor50, decodeMajor51, decodeMajor52, decodeMajor53,
      decodeMajor60]

/-! ### What a word decodes to is encoded by the word -/

/-- The bits of a word from bit `lo` up. -/
def bitsFrom (w : BitVec 32) (lo : Nat) : Nat := w.toNat / 2 ^ lo

theorem bitsFrom_zero (w : BitVec 32) : bitsFrom w 0 = w.toNat := Nat.div_one _

theorem bitsFrom_end (w : BitVec 32) : bitsFrom w 32 = 0 := Nat.div_eq_of_lt w.isLt

theorem bitsFrom_eq (w : BitVec 32) (lo n : Nat) : bitsFrom w lo = bitsAt w lo n + 2 ^ n * bitsFrom w (lo + n) := by
  rw [bitsFrom, bitsAt, bitsFrom, pow_add, ← Nat.div_div_eq_div_mul, Nat.mod_add_div]

theorem bitsAt_eq_iff {w : BitVec 32} {lo n v : Nat} : bitsAt w lo n = v ↔ bitsFrom w lo = v + 2 ^ n * bitsFrom w (lo + n) := by
  rw [bitsFrom_eq w lo n, Nat.add_right_cancel_iff]

/-- A word's own field, put back in its place, closes the gap between the bits above the field and the bits from it up. -/
theorem put_fld_eq_iff {w : BitVec 32} {x k m r s : Nat} :
    put x (fld w k m).toNat k + r = s ↔ x + (bitsFrom w k * 2 ^ k + r) = s + bitsFrom w (k + m) * 2 ^ (k + m) := by
  have hfld : (fld w k m).toNat = bitsAt w k m := BitVec.toNat_ofNat ..
  have hgap : bitsFrom w k * 2 ^ k = bitsAt w k m * 2 ^ k + bitsFrom w (k + m) * 2 ^ (k + m) := by
    rw [bitsFrom_eq w k m, pow_add]
    ring
  rw [put, hfld, hgap]
  omega

theorem some_ofNat_eq {w : BitVec 32} {x : Nat} (h : x + 0 = bitsFrom w 0) : some (BitVec.ofNat 32 x) = some w := by
  rw [Nat.add_zero, bitsFrom_zero] at h
  rw [h, BitVec.ofNat_toNat, BitVec.setWidth_eq]

/-- Whatever instruction is answered, its encoding is the word. -/
def Spells (w : BitVec 32) (answer : Option Instr) : Prop := ∀ i, answer = some i → encode i = some w

theorem spells_none (w : BitVec 32) : Spells w none := fun _ h => nomatch h

theorem spells_some {w : BitVec 32} {i : Instr} (h : encode i = some w) : Spells w (some i) := by
  rintro _ ⟨rfl⟩
  exact h

theorem spells_ite {w : BitVec 32} {i : Instr} {rest : Option Instr} {c : Prop} [Decidable c] (hi : c → encode i = some w)
    (hrest : Spells w rest) : Spells w (if c then some i else rest) := by
  split
  · exact spells_some (hi ‹c›)
  · exact hrest

theorem spells_decodeRaw (w : BitVec 32) : Spells w (decodeRaw w) := by
  unfold decodeRaw
  split <;> rename_i hm
  on_goal -1 => exact spells_none w
  all_goals
    simp only [
      decodeMajor01, decodeMajor02, decodeMajor03, decodeMajor04, decodeMajor10, decodeMajor11, decodeMajor12, decodeMajor13,
      decodeMajor14, decodeMajor15, decodeMajor16, decodeMajor17, decodeMajor18, decodeMajor19, decodeMajor20, decodeMajor21,
      decodeMajor22, decodeMajor23, decodeMajor24, decodeMajor25, decodeMajor26, decodeMajor27, decodeMajor28, decodeMajor29,
      decodeMajor2A, decodeMajor2B, decodeMajor2C, decodeMajor2D, decodeMajor30, decodeMajor31, decodeMajor32, decodeMajor33,
      decodeMajor34, decodeMajor38, decodeMajor39, decodeMajor3A, decodeMajor3B, decodeMajor3C, decodeMajor3D, decodeMajor40,
      decodeMajor41, decodeMajor42, decodeMajor43, decodeMajor44, decodeMajor45, decodeMajor46, decodeMajor47, decodeMajor48,
      decodeMajor49, decodeMajor4A, decodeMajor4B, decodeMajor50, decodeMajor51, decodeMajor52, decodeMajor53, decodeMajor60]
    repeat' refine spells_ite (fun hc => ?_) ?_
  all_goals first | exact spells_none w | refine spells_some ?_ | skip
  all_goals
    refine some_ofNat_eq ?_
    simp only [put_fld_eq_iff, bitsAt_eq_iff, Nat.reduceAdd, Nat.reducePow, bitsFrom_end] at *
    simp only [*] <;> ring

/-! ### The decoder and the encoder are inverse -/

theorem decodeRaw_eq_some_iff {w : BitVec 32} {i : Instr} : decodeRaw w = some i ↔ encode i = some w := by
  refine ⟨spells_decodeRaw w i, fun h => ?_⟩
  rcases Nat.lt_or_ge i.ctorIdx 118 with hi | hi
  · exact decodeRaw_of_encode_scalar h hi
  · exact decodeRaw_of_encode_vector_engine h hi

/-- The words of all zeros and of all ones are in no table (R283). -/
theorem decodeRaw_illegal {w : BitVec 32} (h : w = 0 ∨ w = BitVec.allOnes 32) : decodeRaw w = none := by
  rcases h with rfl | rfl <;> decide

theorem decode_eq_ok_iff {w : BitVec 32} {i : Instr} : decode w = .ok i ↔ decodeRaw w = some i ∧ i.wellFormed = true := by
  unfold decode Instr.wellFormed
  by_cases hill : w = 0 ∨ w = BitVec.allOnes 32
  · simp only [if_pos hill, decodeRaw_illegal hill, reduceCtorEq, false_and]
  · rw [if_neg hill]
    cases decodeRaw w with
    | none => simp only [reduceCtorEq, false_and]
    | some j =>
      have hbad {b : Bad} (hj : j.refusal = some b) : ¬(some j = some i ∧ decide (i.refusal = none) = true) := by
        rintro ⟨⟨⟩, hwf⟩
        rw [of_decide_eq_true hwf] at hj
        cases hj
      dsimp only
      split
      next hj =>
        rw [Decoded.ok.injEq, Option.some.injEq]
        exact ⟨fun h => ⟨h, h ▸ decide_eq_true hj⟩, And.left⟩
      next hj => exact iff_of_false nofun (hbad hj)
      next hj => exact iff_of_false nofun (hbad hj)

theorem decode_eq_ok_iff_encode {w : BitVec 32} {i : Instr} :
    decode w = .ok i ↔ i.wellFormed = true ∧ encode i = some w := by
  rw [decode_eq_ok_iff, decodeRaw_eq_some_iff, and_comm]

/-- Settles O57: a word is decoded by its table, and each field is read where the encoder has put it. -/
theorem decodingInvertsEncoding : Obligations.DecodingInvertsEncoding :=
  fun _ _ hwf henc => decode_eq_ok_iff_encode.mpr ⟨hwf, henc⟩

/-- Settles O58: the bits that a table's test fixes and the fields that it reads make up the whole word. -/
theorem encodingInvertsDecoding : Obligations.EncodingInvertsDecoding :=
  fun _ _ hdec => decode_eq_ok_iff_encode.mp hdec

end Sys2Proof.Machine
end

section
/-! O56: the words that the spec works out, and the state after reset. -/

namespace Sys2Proof.Machine

theorem workedWordsDecode : Claims.WorkedWordsDecode := by
  unfold Claims.WorkedWordsDecode
  decide

theorem Memory.wf_nil : Memory.wf [] := ⟨List.Pairwise.nil, fun _ h => nomatch h⟩

/-- What all of a list of registers hold is what a register of it holds. -/
theorem getD_vectorReplicate {α : Type} {n i : Nat} (h : i < n) (a b : α) : (Vector.replicate n a).getD i b = a := by
  simp [Vector.getD, h]

theorem resetState : Claims.ResetState :=
  ⟨Memory.wf_nil, Memory.wf_nil, Memory.wf_nil, rfl, rfl, rfl, rfl, rfl, rfl, rfl, fun _ hq => getD_vectorReplicate hq _ _,
    rfl, rfl, rfl, fun _ => ⟨rfl, rfl⟩, rfl, rfl, rfl, fun _ hn => getD_vectorReplicate hn _ _⟩

/-- Settles O56: each worked word is decoded, and each register is read as reset leaves it. -/
theorem workedWordsAndReset : Obligations.WorkedWordsAndReset := ⟨workedWordsDecode, resetState⟩

end Sys2Proof.Machine
end
